-- ==== Sys2Proof/Word.lean ====
section
/-! DEFINITION. The words of the Z9: bytes, 32-bit words with a residue, predicates (01 R24, R18). -/

namespace Sys2Proof

abbrev Byte := BitVec 8
abbrev W16 := BitVec 16
abbrev W32 := BitVec 32
abbrev W64 := BitVec 64

/-- A 32-bit word as every place of the package holds it: data bits and a 4-bit residue field (R24).
The residue field 0xF marks poison. -/
structure Word where
  val : W32
  res : BitVec 4
  deriving DecidableEq, Repr

/-- The word 0x0000_0000 [0]. -/
def Word.zero : Word := ⟨0, 0⟩

/-- A predicate register: a truth value and a poison bit (R18). -/
structure Prd where
  t : Bool
  psn : Bool
  deriving DecidableEq, Repr

/-- A codebook entry: 32 data bits and two half-residues (R23). -/
structure CbEntry where
  val : W32
  h0 : BitVec 4
  h1 : BitVec 4
  deriving DecidableEq, Repr

end Sys2Proof
end

