-- ==== Sys2Proof/Forms.lean ====
section
/-! DEFINITION. The field layouts that the constructors of Instr carry: the word formats of R65, R67 and
R68, the restricted opcodes of R88, and the mailbox message of R409. Reserved and disallowed field values
are kept as they stand, because R89 gives each of them its own trap when the word executes. -/

namespace Sys2Proof

/-- A full-form word (R65) without its opcode. -/
structure FullWord where
  s : Bool
  pred : BitVec 4
  d : Byte
  a : Byte
  b : Byte
  c : Byte
  mod : W16
  deriving DecidableEq, Repr

/-- A long-immediate word (R67) without its opcode. -/
structure LongWord where
  s : Bool
  pred : BitVec 4
  d : Byte
  a : Byte
  imm : W32
  deriving DecidableEq, Repr

/-- The restricted opcodes of the paired map (R88), in code order. -/
inductive SlotOp where
  | add | sub | mul | minI32 | maxI32 | minN32 | maxN32 | and | or | xor | shl | shr | sar | popc | clz | mov
  | addImm | andImm | orImm | xorImm | shlImm | shrImm | sarImm
  | faddF32 | fsubF32 | fmulF32 | fminF32 | fmaxF32 | faddF16x2 | fmulF16x2 | faddBf16x2 | fmulBf16x2
  | cvtF32I32 | cvtI32F32
  | ldCs | stCs | ldKs | stKs | ldLp | stLp
  | srd | pand | por | pxor | pnot
  | setcEq | setcNe | setcLtI32 | setcLtN32 | setcLeI32 | setcLeN32
  deriving DecidableEq, Repr

/-- The operand fields of one slot of a paired word (R68). -/
structure Slot where
  d : Byte
  a : Byte
  b : Byte
  deriving DecidableEq, Repr

/-- A paired word (R68) seen from slot X: the marker, X's operand fields, and slot Y whole. The
constructor of Instr gives slot X's opcode. -/
structure PairWord where
  s : Bool
  x : Slot
  opY : SlotOp
  y : Slot
  deriving DecidableEq, Repr

/-- A request in the mailbox (R409): the interface it came through, its header fields, and its payload
words from word 2 on. -/
structure Msg where
  vi : Nat
  tag : Byte
  member : Byte
  payload : List W32
  deriving DecidableEq, Repr

end Sys2Proof
end

