-- ==== Sys2Proof/Syntax.lean ====
section
/-! DEFINITION. The instruction set and the steps of the package: one constructor per row of the opcode table.
The rows are of seven kinds.
- Full-form words (R65), among them `bra` and `call` in the long format (R67).
- Long-immediate words (R67, R123).
- Paired words (R68, R88): the constructor names slot X's opcode and carries the whole word.
- The unassigned words (R86, R88).
- Steps of the hardware's own agents; the arguments name the unit that takes the step.
- Task entries (R248): the step that issues (or, for links and no-ops, retires) the entry.
- Mailbox messages (R410): the step that carries out the request.
Entries, messages and the steps of windows and dies act on the subject that State names, so they carry no
argument and stand last. -/

namespace Sys2Proof

inductive Instr where
  /-- R102. Integer add, element by element, modulo 2^n, with its residue predicted from the operand residues less the carry. -/
  | add (w : FullWord)
  /-- R102. Integer subtract modulo 2^n, with its residue predicted from the operand residues plus the borrow. -/
  | sub (w : FullWord)
  /-- R103. 32-bit add with a carry-in and carry-out held in a predicate, for multiword arithmetic. -/
  | addc (w : FullWord)
  /-- R103. 32-bit subtract with a borrow-in and borrow-out held in a predicate. -/
  | subb (w : FullWord)
  /-- R109. Low part of the integer product. -/
  | mul (w : FullWord)
  /-- R109. High half of the signed or unsigned product. -/
  | mulh (w : FullWord)
  /-- R109. Full 64-bit product written to an even register pair. -/
  | mulw (w : FullWord)
  /-- R109. Low part of A times B plus C. -/
  | mad (w : FullWord)
  /-- R109. Bits 63 to 32 of A times B plus C. -/
  | madh (w : FullWord)
  /-- R110. Integer quotient rounded toward zero; a zero divisor raises DIVIDE, and the result is checked by a residue identity. -/
  | div (w : FullWord)
  /-- R110. Integer remainder with the sign of A, checked by a residue identity. -/
  | rem (w : FullWord)
  /-- R105. Negation, wrapping or saturating. -/
  | neg (w : FullWord)
  /-- R105. Absolute value, wrapping or saturating. -/
  | abs (w : FullWord)
  /-- R106. Minimum under the signedness of the type. -/
  | min (w : FullWord)
  /-- R106. Maximum under the signedness of the type. -/
  | max (w : FullWord)
  /-- R106. Clamps A between the bounds B and C. -/
  | clamp (w : FullWord)
  /-- R104. Saturating add that sets SAT when it saturates. -/
  | sadd (w : FullWord)
  /-- R104. Saturating subtract that sets SAT when it saturates. -/
  | ssub (w : FullWord)
  /-- R108. Saturating two-element dot product plus an accumulator. -/
  | dot2s (w : FullWord)
  /-- R107. Sum of absolute differences added to an accumulator. -/
  | sad (w : FullWord)
  /-- R111. Bitwise AND, predicted by the duplicate plane. -/
  | and (w : FullWord)
  /-- R111. Bitwise OR. -/
  | or (w : FullWord)
  /-- R111. Bitwise XOR. -/
  | xor (w : FullWord)
  /-- R111. Bitwise complement. -/
  | not (w : FullWord)
  /-- R112. Any three-input bitwise function, given by an 8-bit lookup table. -/
  | lop3 (w : FullWord)
  /-- R113. Logical shift left. -/
  | shl (w : FullWord)
  /-- R113. Logical shift right. -/
  | shr (w : FullWord)
  /-- R113. Arithmetic shift right. -/
  | sar (w : FullWord)
  /-- R113. Rotate left, or right under .r. -/
  | rot (w : FullWord)
  /-- R113. Funnel shift across a 64-bit pair. -/
  | shf (w : FullWord)
  /-- R118. Rounding right shift with optional narrowing and saturation. -/
  | rshr (w : FullWord)
  /-- R114. Bit-field extract. -/
  | bext (w : FullWord)
  /-- R114. Bit-field insert. -/
  | bins (w : FullWord)
  /-- R114. Builds a mask from a field descriptor. -/
  | bmsk (w : FullWord)
  /-- R115. Bit reversal. -/
  | brev (w : FullWord)
  /-- R115. Population count. -/
  | popc (w : FullWord)
  /-- R115. Count of leading zeros. -/
  | clz (w : FullWord)
  /-- R115. Count of trailing zeros. -/
  | ctz (w : FullWord)
  /-- R116. Byte permute with sign and constant modes. -/
  | perm (w : FullWord)
  /-- R114. Sign-extends the low k bits. -/
  | sext (w : FullWord)
  /-- R114. Zero-extends the low k bits. -/
  | zext (w : FullWord)
  /-- R119. Compares two operands and writes a predicate, optionally combined with another predicate. -/
  | setc (w : FullWord)
  /-- R120. Selects A or B by a predicate. -/
  | sel (w : FullWord)
  /-- R121. Move between vector and index registers; through its operand modes also a codebook expansion, a queue pop, or a load of a uniform or an immediate. -/
  | mov (w : FullWord)
  /-- R122. Writes a predicate from a word. -/
  | pset (w : FullWord)
  /-- R122. Predicate AND. -/
  | pand (w : FullWord)
  /-- R122. Predicate OR. -/
  | por (w : FullWord)
  /-- R122. Predicate XOR. -/
  | pxor (w : FullWord)
  /-- R122. Predicate NOT. -/
  | pnot (w : FullWord)
  /-- R134. Floating-point add, rounded once. -/
  | fadd (w : FullWord)
  /-- R134. Floating-point subtract. -/
  | fsub (w : FullWord)
  /-- R134. Floating-point multiply. -/
  | fmul (w : FullWord)
  /-- R134. Fused multiply-add with a single rounding. -/
  | ffma (w : FullWord)
  /-- R138. Floating-point minimum. -/
  | fmin (w : FullWord)
  /-- R138. Floating-point maximum. -/
  | fmax (w : FullWord)
  /-- R139. Floating-point compare into a predicate. -/
  | fcmp (w : FullWord)
  /-- R140. Writes a one-hot word giving the class of a float. -/
  | fclass (w : FullWord)
  /-- R141. Replaces the sign of a float and keeps every other bit. -/
  | fcopysign (w : FullWord)
  /-- R136. Multiplies a float by 2^k. -/
  | fscale (w : FullWord)
  /-- R137. Rounds a float to an integral value. -/
  | frnd (w : FullWord)
  /-- R135. Packed 16-bit dot product plus binary32 C, rounded once. -/
  | fdot2 (w : FullWord)
  /-- R142. Correctly rounded reciprocal. -/
  | frcp (w : FullWord)
  /-- R143. Reciprocal square root, correctly rounded RNE. -/
  | frsq (w : FullWord)
  /-- R142. Correctly rounded square root. -/
  | fsqrt (w : FullWord)
  /-- R142. Correctly rounded division. -/
  | fdiv (w : FullWord)
  /-- R143. 2^a, correctly rounded. -/
  | fexp2 (w : FullWord)
  /-- R143. log2 a, correctly rounded. -/
  | flog2 (w : FullWord)
  /-- R143. sin(pi a), correctly rounded. -/
  | fsin (w : FullWord)
  /-- R143. cos(pi a), correctly rounded. -/
  | fcos (w : FullWord)
  /-- R143. tanh a, correctly rounded. -/
  | ftanh (w : FullWord)
  /-- R143. Logistic sigmoid, correctly rounded. -/
  | fsigm (w : FullWord)
  /-- R146. Conversion between float and integer formats under a rounding mode and an overflow behaviour. -/
  | cvt (w : FullWord)
  /-- R147. Conversion between integer formats, saturating or wrapping. -/
  | cvti (w : FullWord)
  /-- R148. Encodes to, or decodes from, narrow codes under an FMT record held in a uniform register. -/
  | cvtx (w : FullWord)
  /-- R156. Loads words or elements from a memory space, after the access checks. -/
  | ld (w : FullWord)
  /-- R157. Stores words or elements, with their residues, to a memory space. -/
  | st (w : FullWord)
  /-- R156. Indexed load. -/
  | ldx (w : FullWord)
  /-- R158. Load followed by an acquire at a scope. -/
  | lda (w : FullWord)
  /-- R158. Release at a scope followed by a store. -/
  | stl (w : FullWord)
  /-- R162. Atomic read-modify-write that returns the old value. -/
  | atom (w : FullWord)
  /-- R162. Atomic compare-and-swap. -/
  | acas (w : FullWord)
  /-- R162. Atomic reduction without a return. -/
  | red (w : FullWord)
  /-- R181. Binds or unbinds a tile to a range of .cs or .ks. -/
  | tbind (w : FullWord)
  /-- R182. Writes the state word of a tile. -/
  | tstate (w : FullWord)
  /-- R180. Copies a ready tile to memory and moves it to draining. -/
  | tdrain (w : FullWord)
  /-- R181. Returns a tile to empty. -/
  | tfree (w : FullWord)
  /-- R174. Collective windowed copy, one cart per group. -/
  | cpy (w : FullWord)
  /-- R174. Collective converting copy with optional block scales. -/
  | cpyc (w : FullWord)
  /-- R175. Gathers one indexed row per lane. -/
  | gath (w : FullWord)
  /-- R176. Scatters or combines one row per lane at an index. -/
  | scat (w : FullWord)
  /-- R178. Collective copy from .cs or .ks to .xs or .gm with two status pairs. -/
  | cpys (w : FullWord)
  /-- R179. Prefetches a source window into L2. -/
  | cpre (w : FullWord)
  /-- R183. Orders the thread's accesses at a scope. -/
  | fence (w : FullWord)
  /-- R186. Acquires a sync object, waiting if needed. -/
  | sacq (w : FullWord)
  /-- R186. Releases a sync object and records its scope. -/
  | srel (w : FullWord)
  /-- R186. Tries to acquire a sync object without waiting. -/
  | stry (w : FullWord)
  /-- R188. Invalidates cache lines at a level. -/
  | cinv (w : FullWord)
  /-- R188. Writes back dirty L2 lines. -/
  | cwb (w : FullWord)
  /-- R188. Sets the eviction priority of lines, optionally fetching them. -/
  | chint (w : FullWord)
  /-- R189. Loads codebook entries from memory. -/
  | cbld (w : FullWord)
  /-- R189. Stores codebook entries to memory. -/
  | cbst (w : FullWord)
  /-- R190. Writes one codebook entry per lane. -/
  | cbw (w : FullWord)
  /-- R190. Makes a range of codebook entries invalid. -/
  | cbinv (w : FullWord)
  /-- R191. Waits until the group's earlier bank writes have completed. -/
  | cbfence (w : FullWord)
  /-- R195. Relative branch of the lanes whose guard is true. -/
  | bra (w : LongWord)
  /-- R196. Indirect branch, absolute or relative. -/
  | brx (w : FullWord)
  /-- R195. Relative branch that writes a link pair. -/
  | call (w : LongWord)
  /-- R196. Returns to the address in a link pair. -/
  | ret (w : FullWord)
  /-- R197. Ends lanes, and when it ends the last thread also the group, lowering barrier targets and freeing the allotment. -/
  | exit (w : FullWord)
  /-- R198. Ends the run and drops the lane to the yielded age class. -/
  | yield (w : FullWord)
  /-- R198. Ends the run and holds the lane until the selected conditions all hold. -/
  | wait (w : FullWord)
  /-- R198. No operation. -/
  | nop (w : FullWord)
  /-- R201. Group arrival at a barrier, after a release. -/
  | barArr (w : FullWord)
  /-- R204. Holds the group until its arrival record shows completion, then writes a status word. -/
  | barWait (w : FullWord)
  /-- R201. Arrival followed by a wait. -/
  | barSync (w : FullWord)
  /-- R201. Adds expected bytes to a barrier, optionally arriving. -/
  | barExp (w : FullWord)
  /-- R205. Writes a snapshot of a barrier. -/
  | barStat (w : FullWord)
  /-- R209. Shuffle of values among the members of a participation. -/
  | xshf (w : FullWord)
  /-- R210. Reduction over the members in a fixed tree. -/
  | xred (w : FullWord)
  /-- R210. Inclusive or exclusive scan over the members. -/
  | xscan (w : FullWord)
  /-- R211. All, any or ballot vote over member predicates. -/
  | xvote (w : FullWord)
  /-- R211. Mask or class leader of the members with an equal value. -/
  | xmatch (w : FullWord)
  /-- R211. Elects the lowest member whose predicate is true. -/
  | xelect (w : FullWord)
  /-- R211. Count of members below the lane, and the total, whose predicate is true. -/
  | xbpc (w : FullWord)
  /-- R214. Pushes an element onto a hardware queue, with a release. -/
  | qpush (w : FullWord)
  /-- R215. Pops the head element of a queue, with an acquire. -/
  | qpop (w : FullWord)
  /-- R215. Reads, without removing it, the element a pop would give. -/
  | qpeek (w : FullWord)
  /-- R216. Requests a larger N_req for the group. -/
  | agrow (w : FullWord)
  /-- R218. Lowers N_req and frees the words beyond the new allotment. -/
  | ashrink (w : FullWord)
  /-- R219. Raises SOFTWARE with a sub-code. -/
  | trap (w : FullWord)
  /-- R220. Returns from the trap handler, resuming each lane as its trap and mask state give. -/
  | tret (w : FullWord)
  /-- R221. Arms or disarms one injected fault for the group. -/
  | sinj (w : FullWord)
  /-- R223. Reads a special register. -/
  | srd (w : FullWord)
  /-- R223. Writes a special register. -/
  | swr (w : FullWord)
  /-- R224. Collective write of a uniform register. -/
  | gset (w : FullWord)
  /-- R231. Makes an operand-buffer reservation from a descriptor. -/
  | mres (w : FullWord)
  /-- R232. Frees a reservation once its readers have fetched. -/
  | mrel (w : FullWord)
  /-- R233. Copies a ready tile into a LOC 0 reservation. -/
  | mfill (w : FullWord)
  /-- R234. Queues one multiply-accumulate op on the carriage. -/
  | mma (w : FullWord)
  /-- R246. Queues a requantising transpose op. -/
  | mtrq (w : FullWord)
  /-- R242. Checks the marks and converts the core's half of an accumulator into a tile. -/
  | mdrain (w : FullWord)
  /-- R244. Clears an accumulator tile once its ops have retired. -/
  | mzero (w : FullWord)
  /-- R245. Reports the state or marks of an accumulator. -/
  | mqry (w : FullWord)
  /-- R123. Long-immediate move. -/
  | movi (w : LongWord)
  /-- R123. add.i32 with a 32-bit immediate. -/
  | addLong (w : LongWord)
  /-- R123. mul.i32 with a 32-bit immediate. -/
  | mulLong (w : LongWord)
  /-- R123. and.b32 with a 32-bit immediate. -/
  | andLong (w : LongWord)
  /-- R123. or.b32 with a 32-bit immediate. -/
  | orLong (w : LongWord)
  /-- R123. xor.b32 with a 32-bit immediate. -/
  | xorLong (w : LongWord)
  /-- R88. Paired slot 0x00: add.i32. -/
  | pairedAdd (w : PairWord)
  /-- R88. Paired slot 0x01: sub.i32. -/
  | pairedSub (w : PairWord)
  /-- R88. Paired slot 0x02: mul.i32, low word. -/
  | pairedMul (w : PairWord)
  /-- R88. Paired slot 0x03: min.i32. -/
  | pairedMinI32 (w : PairWord)
  /-- R88. Paired slot 0x04: max.i32. -/
  | pairedMaxI32 (w : PairWord)
  /-- R88. Paired slot 0x05: min.n32. -/
  | pairedMinN32 (w : PairWord)
  /-- R88. Paired slot 0x06: max.n32. -/
  | pairedMaxN32 (w : PairWord)
  /-- R88. Paired slot 0x07: and.b32. -/
  | pairedAnd (w : PairWord)
  /-- R88. Paired slot 0x08: or.b32. -/
  | pairedOr (w : PairWord)
  /-- R88. Paired slot 0x09: xor.b32. -/
  | pairedXor (w : PairWord)
  /-- R88. Paired slot 0x0A: shl.b32. -/
  | pairedShl (w : PairWord)
  /-- R88. Paired slot 0x0B: shr.b32. -/
  | pairedShr (w : PairWord)
  /-- R88. Paired slot 0x0C: sar.i32. -/
  | pairedSar (w : PairWord)
  /-- R88. Paired slot 0x0D: popc.b32. -/
  | pairedPopc (w : PairWord)
  /-- R88. Paired slot 0x0E: clz.b32. -/
  | pairedClz (w : PairWord)
  /-- R88. Paired slot 0x0F: mov.b32. -/
  | pairedMov (w : PairWord)
  /-- R88. Paired slot 0x10: add.i32 with an 8-bit immediate. -/
  | pairedAddImm (w : PairWord)
  /-- R88. Paired slot 0x11: and.b32 with an immediate. -/
  | pairedAndImm (w : PairWord)
  /-- R88. Paired slot 0x12: or.b32 with an immediate. -/
  | pairedOrImm (w : PairWord)
  /-- R88. Paired slot 0x13: xor.b32 with an immediate. -/
  | pairedXorImm (w : PairWord)
  /-- R88. Paired slot 0x14: shl.b32 by an immediate. -/
  | pairedShlImm (w : PairWord)
  /-- R88. Paired slot 0x15: shr.b32 by an immediate. -/
  | pairedShrImm (w : PairWord)
  /-- R88. Paired slot 0x16: sar.i32 by an immediate. -/
  | pairedSarImm (w : PairWord)
  /-- R88. Paired slot 0x20: fadd.f32 RNE. -/
  | pairedFaddF32 (w : PairWord)
  /-- R88. Paired slot 0x21: fsub.f32 RNE. -/
  | pairedFsubF32 (w : PairWord)
  /-- R88. Paired slot 0x22: fmul.f32 RNE. -/
  | pairedFmulF32 (w : PairWord)
  /-- R88. Paired slot 0x23: fmin.f32. -/
  | pairedFminF32 (w : PairWord)
  /-- R88. Paired slot 0x24: fmax.f32. -/
  | pairedFmaxF32 (w : PairWord)
  /-- R88. Paired slot 0x25: fadd.f16x2 RNE. -/
  | pairedFaddF16x2 (w : PairWord)
  /-- R88. Paired slot 0x26: fmul.f16x2 RNE. -/
  | pairedFmulF16x2 (w : PairWord)
  /-- R88. Paired slot 0x27: fadd.bf16x2 RNE. -/
  | pairedFaddBf16x2 (w : PairWord)
  /-- R88. Paired slot 0x28: fmul.bf16x2 RNE. -/
  | pairedFmulBf16x2 (w : PairWord)
  /-- R88. Paired slot 0x29: cvt from .i32 to .f32, RNE. -/
  | pairedCvtF32I32 (w : PairWord)
  /-- R88. Paired slot 0x2A: cvt from .f32 to .i32, RTZ, error-status. -/
  | pairedCvtI32F32 (w : PairWord)
  /-- R88. Paired slot 0x40: ld.cs.b32. -/
  | pairedLdCs (w : PairWord)
  /-- R88. Paired slot 0x41: st.cs.b32. -/
  | pairedStCs (w : PairWord)
  /-- R88. Paired slot 0x42: ld.ks.b32. -/
  | pairedLdKs (w : PairWord)
  /-- R88. Paired slot 0x43: st.ks.b32. -/
  | pairedStKs (w : PairWord)
  /-- R88. Paired slot 0x44: ld.lp.b32. -/
  | pairedLdLp (w : PairWord)
  /-- R88. Paired slot 0x45: st.lp.b32. -/
  | pairedStLp (w : PairWord)
  /-- R88. Paired slot 0x60: srd. -/
  | pairedSrd (w : PairWord)
  /-- R88. Paired slot 0x61: pand. -/
  | pairedPand (w : PairWord)
  /-- R88. Paired slot 0x62: por. -/
  | pairedPor (w : PairWord)
  /-- R88. Paired slot 0x63: pxor. -/
  | pairedPxor (w : PairWord)
  /-- R88. Paired slot 0x64: pnot. -/
  | pairedPnot (w : PairWord)
  /-- R88. Paired slot 0x65: setc eq. -/
  | pairedSetcEq (w : PairWord)
  /-- R88. Paired slot 0x66: setc ne. -/
  | pairedSetcNe (w : PairWord)
  /-- R88. Paired slot 0x67: setc lt.i32. -/
  | pairedSetcLtI32 (w : PairWord)
  /-- R88. Paired slot 0x68: setc lt.n32. -/
  | pairedSetcLtN32 (w : PairWord)
  /-- R88. Paired slot 0x69: setc le.i32. -/
  | pairedSetcLeI32 (w : PairWord)
  /-- R88. Paired slot 0x6A: setc le.n32. -/
  | pairedSetcLeN32 (w : PairWord)
  /-- R290. Each cycle a quarter picks the head entry of its sorted PC table and issues one coach. -/
  | coachFormation (core qtr : Nat)
  /-- R287. A thread whose wait count reaches 4,096 moves to age class 0. -/
  | agePromotion (grp lane : Nat)
  /-- R72. A load, cross-lane, queue or status result lands in its register and frees the readers stalled on it. -/
  | variableLatencyResult (grp lane : Nat)
  /-- R216. When the quarter has room, the oldest pending growth request is granted. -/
  | agrowGrant (core qtr : Nat)
  /-- R186. A waiting sacq is granted in arrival order once the object's state allows. -/
  | sacqGrant (xs : Bool) (line : Nat)
  /-- R214. A blocked push or pop proceeds once places or elements become available, or the pop faults on a closed queue. -/
  | queueWaitService (queue : Nat)
  /-- R198. The cycle count of a wait .cyc expires. -/
  | waitCyclesElapsed (grp lane : Nat)
  /-- R225. A thread ineligible at one word beyond the kernel's limit raises WATCHDOG. -/
  | watchdog (grp lane : Nat)
  /-- R307. A write-combining buffer is sent to its home 1,024 cycles after its first store. -/
  | storePathFlush (core : Nat) (xs : Bool) (line : Nat)
  /-- R311. The walker completes a table walk, giving a translation or a fault. -/
  | translationWalk (core part va : Nat)
  /-- R169. A copy completes: it writes its status, bitmap and tile state and decrements its barrier. -/
  | copyCompletion (copy : Nat)
  /-- R173. A translation or permission failure stops a copy at an element boundary, and it writes its bitmap and status. -/
  | copyStop (copy : Nat)
  /-- R178. All source reads of a cpys complete and its first status pair is written. -/
  | cpysSourceReadDone (copy : Nat)
  /-- R336. An op begins executing when its first K-step group is ready and no op executes; fetch of the next op begins. -/
  | mmaExecuteStart (carriage : Nat)
  /-- R336. An op retires 4 cycles after execution, with the recompute comparison and the sequence and marks posted. -/
  | mmaOpRetire (carriage : Nat)
  /-- R242. mdrain writes its last word and the tile becomes ready. -/
  | mdrainComplete (core tile : Nat)
  /-- R352. When the last op that uses an exit-pending workgroup's resources retires, the workgroup ends and releases them. -/
  | exitPendingRelease (wg : Nat)
  /-- R293. The global dispatcher hands a batch of workgroups to the allowed die with the largest report. -/
  | dispatchBatch (grid : Nat)
  /-- R362. A write of a stream's tail register advances TAIL or sets OVR. -/
  | sqtail (vi offset : Nat) (value : W32)
  /-- R403. Write of an interface register that has no behaviour of its own. -/
  | registerWrite (vi offset : Nat) (value : W32)
  /-- R387. A stage launches a workgroup on an idle assigned core. -/
  | pipelineStageLaunch (pipe stage : Nat)
  /-- R389. Every 16,384 cycles a pipeline may move one core between stages. -/
  | pipelineReview (pipe : Nat)
  /-- R273. A line read is checked against its residues and corrected or poisoned through row parity. -/
  | hbmLineRead (line : Nat)
  /-- R272. Read-modify-write of a line with its word comparison and parity update. -/
  | hbmLineWrite (line : Nat)
  /-- R275. The scrubber reads each line once per scrub period. -/
  | patrolScrub (ctrl : Nat)
  /-- R277. Data entering over CXL receives generated residues, or poison. -/
  | hostIngress (vi addr : Nat) (data : List (W32 × Bool))
  /-- R277. Data leaving over CXL is compared and stripped, with poison indicated. -/
  | hostEgress (vi addr count : Nat)
  /-- R402. A host access through an HDM decoder, translated for a virtual function. -/
  | cxlMemAccess (vi addr : Nat) (write : Option (W32 × Bool))
  /-- R405. A load-store pod packet is authenticated, and a path is failed after four tag failures. -/
  | podPacketReceive (port pkg : Nat) (addr : Nat) (write : Option Word) (packet : List Byte)
  /-- R406. A received frame is written to a receive ring with generated residues. -/
  | ethernetFrameReceive (port ring : Nat) (frame : List Byte)
  /-- R406. A frame signalled at the doorbell is sent, without residues. -/
  | ethernetFrameTransmit (port ring : Nat)
  /-- R400. A mesh link that fails retraining halts every partition. -/
  | meshLinkFailure (link : Nat)
  /-- R391. Once the drains end, the partition's contexts move to shadow storage and it becomes HALTED. -/
  | contextSave (part : Nat)
  /-- R420. A sensor erases all keys and stops every partition. -/
  | securityAlarm (sensors : BitVec 4)
  /-- R86. A fetched word whose full-form or paired opcode is unassigned raises ILLEGAL_OPCODE in every active lane. -/
  | unassignedOpcode (w : W64)
  /-- R69. A thread's next instruction word arrives from the instruction cache, is checked against its residues, or fails translation or permission. -/
  | instructionFetchComplete (grp lane : Nat)
  /-- R349. A matrix op finishes fetching all its operands, which releases bank writes, mrel and mfill that wait for it. -/
  | opOperandFetchComplete (carriage : Nat)
  /-- R233. The tile-to-operand-buffer copy of an mfill finishes and releases its held group. -/
  | mfillComplete (grp : Nat)
  /-- R191. A codebook bank write by cbld, cbw or cbinv completes, which releases the group's waiting cbfence. -/
  | bankWriteComplete (core bank : Nat)
  /-- R198. The home performs a red, which completes it for wait.mem. -/
  | redPerformed (grp lane : Nat)
  /-- R403. A host read of MBREP clears MBST so that it reads 0. -/
  | mbrepRead (vi : Nat)
  /-- R294. A die dispatcher places the first pending workgroup that fits on a core or quad. -/
  | placeWorkgroup
  /-- R295. A gang pending for 65,536 cycles without fitting puts its die dispatcher under a gang hold. -/
  | gangHold
  /-- R295. A gang hold that lasts a further 2^20 cycles raises a STARVE event to Ultin. -/
  | placementStarvation
  /-- R385. Bulk units on reserve cores are pre-empted until a pending latency workgroup fits. -/
  | latencyReservePreemption
  /-- R368. The window fetches and decodes one stream entry and its records, assigning a sequence number. -/
  | taskEntryFetch
  /-- R371. A decoded task's inputs are looked up and its outputs drawn from the free lists. -/
  | taskRename
  /-- R373. The window discards younger tasks, youngest age first, so that the oldest task can draw a buffer. -/
  | bufferStarvationDiscard
  /-- R259. No-op entry, retired at decode. -/
  | tkNop
  /-- R253. Launches a kernel grid. -/
  | tkRun
  /-- R254. Launches a pipeline of stages joined by queues. -/
  | tkPipe
  /-- R255. Window copy of LEN bytes. -/
  | tkCopy
  /-- R255. Window fill with a repeated pattern. -/
  | tkFill
  /-- R256. Ends the live range of a logical buffer. -/
  | tkFree
  /-- R257. Binds a region to a sync object. -/
  | tkBind
  /-- R257. Clears a region binding. -/
  | tkUnbind
  /-- R258. Release followed by a store or atomic to a word. -/
  | tkSignal
  /-- R258. Holds issue until a word meets a condition, then acquires. -/
  | tkWait
  /-- R376. The window reads a tk.wait word again at least every 1,024 cycles. -/
  | tkWaitPoll
  /-- R258. A tk.wait whose TIMEOUT expires faults with WATCHDOG. -/
  | tkWaitTimeout
  /-- R259. Continues the stream at NEXT. -/
  | tkLink
  /-- R393. Checks and restores a checkpoint image. -/
  | tkResume
  /-- R260. Reserves successor slots for the task before it. -/
  | tkSucc
  /-- R261. Holds younger tasks until older ones retire and are visible. -/
  | tkFence
  /-- R262. Writes a signed job record at retire. -/
  | tkRec
  /-- R379. A task's work ends and its completion is released. -/
  | taskCompletion
  /-- R380. A complete task whose older tasks have retired returns buffers, applies its effects and writes the completion word. -/
  | taskRetire
  /-- R382. A faulted oldest task stops the stream, discards younger tasks, restores the map and writes the fault record. -/
  | takeFault
  /-- R412. Creates a partition from free quads. -/
  | partitionCreate
  /-- R412. Destroys a partition whose streams are all idle. -/
  | partitionDestroy
  /-- R412. Removes quads from a partition after pre-empting their workgroups. -/
  | shrink
  /-- R412. Adds free quads to a partition. -/
  | grow
  /-- R390. Stops issue, placement and coaches for a partition, and drains work in flight. -/
  | halt
  /-- R390. Restores the contexts, writes the resume record and leaves HALTED. -/
  | resume
  /-- R393. Writes a checkpoint image of a halted partition. -/
  | checkpoint
  /-- R309. Sets a partition's translation root. -/
  | setroot
  /-- R316. Invalidates translations of a partition over a range or everywhere. -/
  | tlbinv
  /-- R370. Adds buffers to the tail of a free list. -/
  | addbuf
  /-- R306. Sets or withdraws a physical window of a partition. -/
  | setwin
  /-- R411. Sets a partition's chip-scratch allotment. -/
  | setxs
  /-- R394. Sets the resume-record address. -/
  | setresume
  /-- R296. Sets a die's latency reserve quads. -/
  | setreserve
  /-- R411. Assigns a virtual interface to a partition and a range of stream numbers. -/
  | bindvi
  /-- R360. Creates a stream with its context. -/
  | streamCreate
  /-- R410. Destroys an idle stream. -/
  | streamDestroy
  /-- R365. Refetches a faulted stream from the faulting task. -/
  | restart
  /-- R367. Retires the faulting task as skipped and resumes the stream. -/
  | skip
  /-- R365. Discards every task of the stream and returns it to IDLE. -/
  | abort
  /-- R365. Resets a stream's OVR flag. -/
  | clear
  /-- R413. Starts the warm reset of a compute die: shrink, then drain. -/
  | resetDie
  /-- R413. When DRAIN cycles end, the remaining workgroups are pre-empted, the link quiesced, store-path lines written back and the die reset. -/
  | dieDrainExpiry
  /-- R413. Retraining ends, and the die is re-admitted or left offline. -/
  | linkRetrainComplete
  /-- R411. Reads one scratchpad word of a core. -/
  | peek
  /-- R275. Sets a controller's scrub period. -/
  | scrub
  /-- R280. Arms a bit inversion on the next write of an HBM4 line. -/
  | inject
  /-- R418. Writes the identity and job-key certificates to a host buffer. -/
  | getcert
  /-- R417. Writes a signed attestation report and sets a new session key. -/
  | attest
  /-- R415. Loads an encrypted key into a memory key slot. -/
  | load
  /-- R415. Grants a key slot to a partition. -/
  | grant
  /-- R415. Revokes a key slot from a partition. -/
  | revoke
  /-- R415. Loads a partition's pod key. -/
  | podkey
  /-- R404. Sets a pod port's mode and joins a package to a pod. -/
  | join
  /-- R407. Registers a package's contribution to a pod barrier. -/
  | barreg
  /-- R421. Fetches and verifies a firmware image in recovery. -/
  | fwimage
  /-- R422. Power good starts the cold reset sequence up to host-link training. -/
  | coldReset
  /-- R414. Loss of power erases all volatile key material. -/
  | powerLoss
  /-- R400. A UCIe-3D compute-die link fails outside a requested reset and is handled by the warm reset of that die. -/
  | computeDieLinkFailure
  /-- R410. A mailbox message with an undefined TYPE or OP, or a bad MEMBER, is answered with BAD_MESSAGE. -/
  | badMessage
  deriving DecidableEq, Repr

end Sys2Proof
end

