-- ==== Sys2Proof/Machine/State.lean ====
section
/-! DEFINITION. The state of the package as plain data: the compute state of 01 and 12, the per-core matrix
and copy state of 06, 08 and 16, the memory system of 10 and 14, the task windows of 18, and the host,
security and die state of 20. Units that hold nothing are left out of their lists. -/

namespace Sys2Proof.Machine

open Sys2Proof

/-- A store keyed by numbers. -/
abbrev AList (α : Type) := List (Nat × α)

/-- Byte-addressed storage with residues: `data` lists the bytes that are not 0 by rising address, and
`side` the residue fields that are not 0 by rising word index (R269). -/
structure Mem where
  data : List Host.Cell
  side : List Host.Cell
  deriving DecidableEq, Repr

/-! ### Lines and keys -/

/-- A cached 64-byte line: the 16 words as held. `core` is the holder for core and instruction caches, the base die for
the L2; `prio` is the eviction priority (R188, R310). -/
structure CLine where
  core : Nat
  line : Nat
  words : List Word
  dirty : Bool
  prio : Nat
  key : Nat
  deriving DecidableEq, Repr

/-- A memory key slot that holds a key: its material as a number (R414). -/
structure KeySlot where
  key : Nat
  deriving DecidableEq, Repr

/-- Memory as it stood at a time: what its readers would have found then (R419). -/
structure MemView where
  hbm : Mem
  parity : Mem
  lineKeys : AList (Nat × Nat)
  podMem : Mem
  hostMem : Mem
  l2 : List CLine
  keySlots : AList KeySlot
  deriving DecidableEq, Repr

def MemView.empty : MemView := ⟨⟨[], []⟩, ⟨[], []⟩, [], ⟨[], []⟩, ⟨[], []⟩, [], []⟩

/-! ### Threads, groups, workgroups -/

/-- Age class of a thread (R287). -/
inductive AgeClass where
  | promoted | normal | yielded
  deriving DecidableEq, Repr

/-- A fetched instruction word, each half with its residue (R69). -/
structure Fetched where
  lo : Word
  hi : Word
  deriving DecidableEq, Repr

/-- The run a thread is in (R70 to R74): how many words of it have issued, and the run-start values of the
registers that earlier words of the run have written with fixed latency. -/
structure Run where
  len : Nat
  v : AList Word
  p : AList Prd
  x : AList Byte
  deriving DecidableEq, Repr

/-- What delivers a pending variable-latency result (R72). -/
inductive PendSrc where
  | direct
  | agrow
  | copy (id : Nat) (second : Bool)
  | mtrq (id : Nat)
  deriving DecidableEq, Repr

/-- A pending variable-latency result: the registers it holds on the scoreboard and the values to land
(for `direct`; other sources form their values when they deliver). `cycle` is the cycle in which its word issued: what one
coach left pending in a group lands together (log entry 9). -/
structure Pend where
  src : PendSrc
  v : AList Word
  p : AList Prd
  x : AList Byte
  cycle : Nat
  deriving DecidableEq, Repr

/-- What a thread waits for inside an instruction (R288). Collectives and resources are judged from the PCs
and the resources themselves and need no mark. -/
inductive Wait where
  | none
  | sacq
  | queue
  | bar (lvl num : Nat)
  | cond (mask : BitVec 4) (until_ before : Nat)
  | gset
  | mfill
  | cbfence
  deriving DecidableEq, Repr

/-- A containment event of a task (R299, R381, R384). `sup` is cause and sub-code of the trap at supervisor level that
led to it, recorded beside the user-level trap (R298). -/
structure Event where
  disp : Nat
  cause : Nat
  sub : Nat
  pc : W64
  tval : W64
  core : Nat
  lanes : BitVec 32
  sup : Option (Nat × Nat)
  deriving DecidableEq, Repr

/-- A thread (R11, R30, R287). `elg` is ELG as of the start of the cycle, `stuck` counts the cycles it has been held at one word (R225), `retry` the
level and event of a retry under way (R298), `reds` its `red`s that are not performed yet (R198). -/
structure Thread where
  live : Bool
  pc : W64
  v : List Word
  p : List Prd
  x : List Byte
  lp : List Word
  sticky : BitVec 6
  seed : W32
  clockh : W32
  tval : W64
  cls : AgeClass
  w : Nat
  elg : Bool
  ibuf : Option Fetched
  run : Run
  pend : List Pend
  wait : Wait
  stuck : Nat
  retry : Option (Nat × Event)
  reds : Nat
  deriving DecidableEq, Repr

/-- The arrival record that a group keeps for a barrier (R200). `noarr` marks a record made by a wait that
found it clear (R204), `waiting` the address of a wait that has begun on it. -/
structure BarRec where
  lvl : Nat
  num : Nat
  ap : BitVec 16
  done : Bool
  err : Bool
  noarr : Bool
  waiting : Option W64
  deriving DecidableEq, Repr

/-- A pending growth request (R216), with its place in the quarter's arrival order. -/
structure AgrowReq where
  n : Nat
  seq : Nat
  deriving DecidableEq, Repr

/-- What the policy ignore does for a trapping lane (R299): the vector destinations with the values computed, the
predicate destinations, whether the word ends its run (R70), and the queue elements taken, which go back. -/
structure Ign where
  v : List (Nat × W32)
  p : List Nat
  ends : Bool
  q : List (Nat × Word)
  deriving DecidableEq, Repr

/-- A trap handler in progress (R40, R220): the lanes that trapped, those that have reached a `tret`, the
SKIP bit each of those gave, and what the trapped instruction would have written. -/
structure TrapCtx where
  entry : BitVec 32
  atTret : BitVec 32
  skip : BitVec 32
  ign : List (Nat × Ign)
  deriving DecidableEq, Repr

/-- A group of 32 threads (R13, R285). -/
structure Group where
  wg : Nat
  idx : Nat
  core : Nat
  qtr : Nat
  slot : Nat
  placed : Nat
  nreq : Nat
  threads : List Thread
  m : List (Word × Word)
  bars : List BarRec
  inj : Option W32
  agrow : Option AgrowReq
  cause : W32
  tpc : W64
  tmask : BitVec 32
  trap : Option TrapCtx
  halted : Bool
  deriving DecidableEq, Repr

/-- A queue binding (R21, R213). -/
structure QBind where
  queue : Nat
  push : Bool
  pop : Bool
  deriving DecidableEq, Repr

inductive WgStatus where
  | resident | exitPending
  deriving DecidableEq, Repr

/-- A workgroup on a core, or saved (R22, R36, R352). `share` is the die that first received it. -/
structure Wg where
  grid : Nat
  index : Nat
  gang : Option Nat
  core : Nat
  csBase : Nat
  dwg : Nat
  share : Nat
  dies : Byte
  g : List Word
  q : AList QBind
  status : WgStatus
  deriving DecidableEq, Repr

/-- A gang (R293, R294): its quad and the base of its `.ks` region, which it holds while `placed`. -/
structure Gang where
  grid : Nat
  index : Nat
  quad : Nat
  ksBase : Nat
  placed : Bool
  deriving DecidableEq, Repr

/-- A kernel descriptor (R250); `raw` are its words as read. -/
structure KDesc where
  code : W64
  tvec : W64
  gang : Bool
  groups : Nat
  nreq : Nat
  scratch : Nat
  ksmem : Nat
  wdog : Nat
  accmask : BitVec 4
  cbmask : W16
  bcmask : W16
  cpol : BitVec 10
  raw : List Word
  deriving DecidableEq, Repr

/-- The grid of a task or of a pipeline stage (R253, R293, R387). `returned` lists the workgroups that came back
from a die, `shares` the dies that have received a batch, `arrivals` how many workgroups each received, `dwgs` the arrival
numbers of workgroups that came back unplaced (R36), `cores`
the cores it has run on, `pages` the 64 KiB pages its code was fetched from, as they stood then
(R419). -/
structure Grid where
  stream : Nat
  seq : Nat
  part : Nat
  latency : Bool
  kd : KDesc
  kdAddr : Nat
  nwg : Nat
  dies : Byte
  banned : Byte
  argv : List Word
  seed : W32
  pbm : BitVec 2
  pipe : Option (Nat × Nat)
  cor : Bool
  nextWg : Nat
  returned : List Nat
  shares : Byte
  arrivals : AList Nat
  dwgs : AList Nat
  ended : Nat
  done : List Nat
  cancelled : Bool
  counts : AList Nat
  first : Option Event
  fault : Option Event
  abortStream : Bool
  cores : List Nat
  pages : AList (Nat × Bool)
  seen : MemView
  deriving DecidableEq, Repr

/-- A hardware barrier (R200) of the owner that R199 gives its level. -/
structure Barrier where
  lvl : Nat
  owner : Nat
  num : Nat
  tgt : Nat
  pa : Nat
  pb : Int
  ph : BitVec 16
  ef : Bool
  le : Bool
  deriving DecidableEq, Repr

/-- A lane blocked at a queue: whether it pushes, and whether its turn has come (R213 to R215, R288). -/
structure QueueWait where
  grp : Nat
  lane : Nat
  push : Bool
  granted : Bool
  deriving DecidableEq, Repr

/-- A hardware queue (R213, R254, R388); `waiters` are the blocked lanes in arrival order. -/
structure Queue where
  pipe : Nat
  num : Nat
  xs : Bool
  base : Nat
  cap : Nat
  head : Nat
  count : Nat
  waiters : List QueueWait
  deriving DecidableEq, Repr

/-! ### Per-core matrix and copy state -/

inductive CopyKind where
  | cpy | cpyc | gath | scat | cpys | tdrain
  deriving DecidableEq, Repr

inductive TileSt where
  | empty | filling | ready | draining
  deriving DecidableEq, Repr

/-- A bound tile (R181, R318); `stopped` names the copy that a stop has left on it: its kind, its MOD without RS and its
barrier field. -/
structure Tile where
  core : Nat
  num : Nat
  owner : Nat
  ks : Bool
  off : Nat
  len : Nat
  err : Bool
  st : TileSt
  stopped : Option (CopyKind × W16 × Byte)
  deriving DecidableEq, Repr

/-- An operand-buffer reservation (R230). -/
structure Resv where
  core : Nat
  num : Nat
  owner : Nat
  fmt : W32
  efmt : Nat
  ks : Bool
  sl : Nat
  sf : Bool
  cbv : Bool
  cbk : Nat
  cbw : Nat
  off : Nat
  len : Nat
  spitch : Nat
  pitch : Nat
  soff : Nat
  deriving DecidableEq, Repr

inductive AccMode where
  | none | f64 | x64
  deriving DecidableEq, Repr

/-- An accumulator tile (R239, R338). Entry (r, n) is listed under 64·r + n unless it is 0 with residue 0. -/
structure Acc where
  core : Nat
  num : Nat
  mode : AccMode
  g : Int
  ents : AList (W64 × BitVec 4)
  spc : W64
  psn : W64
  cix : W64
  cbi : W64
  sat : W64
  inx : W64
  chk : W64
  kinds : AList Nat
  deriving DecidableEq, Repr

/-- An operand row as fetched: the signed significand and the exponent of each element, scales taken in, and
the marks of R239 that its elements call for. -/
structure ORow where
  els : List (Int × Int)
  spc : Bool
  psn : Bool
  cix : Bool
  cbi : Bool
  chk : Bool
  deriving DecidableEq, Repr

/-- The operands of an op once fetched: rows 0 to 63 and 64 to 127 of A, and the columns of B (R235). -/
structure OpData where
  a0 : List ORow
  a1 : List ORow
  b : List ORow
  deriving DecidableEq, Repr

/-- Position and status of a transpose (R246, R345): the next output row, its status so far with the index
that set it, the largest error as a magnitude and exponent, and the running seed. -/
structure TrqPos where
  row : Nat
  st : Nat
  idx : Nat
  errM : Nat
  errE : Int
  seed : W32
  deriving DecidableEq, Repr

/-- A queued matrix op (R240). `stamp` and `cycle` tell when it entered its queue (R349), `grid` is G of R238. -/
structure Op where
  id : Nat
  stamp : Nat
  cycle : Nat
  mtrq : Bool
  seq : BitVec 16
  core : Nat
  wg : Nat
  grp : Nat
  acc : Nat
  ra : Nat
  rb : Nat
  kw : W32
  mode : AccMode
  grid : Int
  ovw : Bool
  rm : Nat
  lanes : BitVec 32
  pos : TrqPos
  data : Option OpData
  deriving DecidableEq, Repr

/-- A carriage (R240, R335, R336): waiting ops in order, the op that fetches with the cycle in which its first
group is ready, the ops that execute or retire, oldest first, with their retire cycles, and the sequence number and retire
cycle of the op that retired last. -/
structure Carriage where
  id : Nat
  queue : List Op
  fetch : Option (Op × Nat)
  exec : List (Op × Nat)
  seq : BitVec 16
  retired : Option (BitVec 16 × Nat)
  deriving DecidableEq, Repr

/-- A write to a codebook bank that has arrived and not completed (R349): its place in the order of arrival,
the groups that issued it, and the entries in the order of writing. -/
structure BankWrite where
  stamp : Nat
  cycle : Nat
  core : Nat
  bank : Nat
  grps : List Nat
  ents : AList CbEntry
  deriving DecidableEq, Repr

/-- An mfill that has begun (R233): its group, the lanes it holds, and the switch marker of its word. -/
structure Mfill where
  grp : Nat
  core : Nat
  tile : Nat
  resv : Nat
  off : Nat
  lanes : BitVec 32
  last : Bool
  deriving DecidableEq, Repr

/-- A drain that has passed step 3 of R242 and has its words still to write. -/
structure Mdrain where
  core : Nat
  tile : Nat
  ks : Bool
  words : AList Word
  deriving DecidableEq, Repr

/-- One cart of a copy, or the one group of a gath, scat or tdrain (R174, R175); `sup` is the level at which its group
issued it, with whose privilege its pages are translated (R320). -/
structure Cart where
  grp : Nat
  idx : Nat
  desc : List Word
  lanes : BitVec 32
  rows : AList Word
  d : Nat
  e : Nat
  mreg : Option Nat
  skip : W64
  seed : W32
  sup : Bool
  deriving DecidableEq, Repr

/-- What a copy's data movement came to, held until its status is written: the fields of R169, the counted bytes
to take off the barrier, and by group the completion bits and those of the chunks or rows whose bytes have been taken off. -/
structure CopyResult where
  st : Nat
  cart : Nat
  side : Nat
  whr : Nat
  bytes : Int
  stopped : Bool
  bits : AList W64
  done : AList W64
  deriving DecidableEq, Repr

/-- A copy of a core's copy unit, forming until every group of its workgroup has arrived (R164, R174). -/
structure Copy where
  id : Nat
  kind : CopyKind
  core : Nat
  wg : Nat
  part : Nat
  sup : Bool
  forming : Bool
  carts : List Cart
  bar : Byte
  tile : Byte
  mod : W16
  srcDone : Bool
  result : Option CopyResult
  deriving DecidableEq, Repr

/-- A stopped copy that can be resumed, by what the same instruction repeats (its group, kind, MOD without RS, barrier and
field C), and the chunks or rows whose bytes it has taken off its barrier (R170, R173). -/
structure CopyStopRec where
  grp : Nat
  kind : CopyKind
  mod : W16
  bar : Byte
  tile : Byte
  taken : W64
  deriving DecidableEq, Repr

/-! ### Memory system -/

/-- The bytes that a write-combining buffer holds of one word: a whole word, or some of its bytes (R157, R307). -/
structure Patch where
  whole : Bool
  mask : BitVec 4
  w : Word
  deriving DecidableEq, Repr

/-- A write-combining buffer of a core's store path (R307); `evf` tells of a store with the hint `.evf` (R155). -/
structure WcBuf where
  core : Nat
  xs : Bool
  line : Nat
  first : Nat
  through : Bool
  uncached : Bool
  evf : Bool
  prio : Nat
  key : Nat
  words : AList Patch
  deriving DecidableEq, Repr

/-- A leaf held in a core's TLB (R315): partition, virtual page and the table entry with its level. -/
structure Tlb where
  core : Nat
  part : Nat
  base : Nat
  level : Nat
  entry : W64
  deriving DecidableEq, Repr

/-- A TYPE 1 entry held in the walk cache of a base die (R315): partition, level and the bits of the virtual address that
lead to it. -/
structure WalkEnt where
  base : Nat
  part : Nat
  level : Nat
  pre : Nat
  entry : W64
  deriving DecidableEq, Repr

/-- The scope record of a sync line (R187, R330). -/
structure SyncRec where
  xs : Bool
  line : Nat
  scope : Nat
  unit : Nat
  deriving DecidableEq, Repr

/-- A waiting sacq in arrival order, how its leaf holds the object's line, and whether its turn has come (R186, R288, R310). -/
structure SyncWait where
  xs : Bool
  line : Nat
  grp : Nat
  lane : Nat
  excl : Bool
  scope : Nat
  cl : Nat
  key : Nat
  granted : Bool
  deriving DecidableEq, Repr

/-- An armed inversion of an HBM4 line (R280). -/
structure Arming where
  ctrl : Nat
  line : Nat
  sb : Bool
  word : Nat
  bit : Nat
  deriving DecidableEq, Repr

structure Ctrl where
  corrected : W32
  period : Nat
  scrubbed : Nat
  deriving DecidableEq, Repr

/-! ### Partitions, streams, tasks -/

inductive HaltSt where
  | running | halting | halted
  deriving DecidableEq, Repr

structure Window where
  base : Nat
  len : Nat
  deriving DecidableEq, Repr

/-- A live entry of the region binding table (R257). -/
structure Binding where
  base : Nat
  len : Nat
  obj : Nat
  deriving DecidableEq, Repr

/-- A free list of one window and size class (R370): every buffer that the partition holds there, and those that
are free, head first. -/
structure FreeList where
  win : Nat
  cls : Nat
  own : List Nat
  bufs : List Nat
  deriving DecidableEq, Repr

/-- A partition (R306, R309, R412). -/
structure Part where
  id : Nat
  home : Nat
  quads : BitVec 128
  loc : Option Window
  pods : AList Window
  host : Option Window
  save : Option Window
  xs : AList Window
  root : W64
  keys : List Nat
  free : List FreeList
  binds : AList Binding
  halt : HaltSt
  stopped : Bool
  resumeRec : Option Nat
  deriving DecidableEq, Repr

inductive TaskSt where
  | decoded | renamed | issued | complete
  deriving DecidableEq, Repr

/-- A task's fault (R384). -/
structure TaskFault where
  reason : Nat
  cause : Nat
  sub : Nat
  disp : Nat
  abt : Bool
  pc : W64
  tval : W64
  core : Nat
  lanes : BitVec 32
  deriving DecidableEq, Repr

/-- An output drawn by a renamed task: the name, the buffer drawn and its class, and what it displaced (R371). -/
structure Drawn where
  lb : Nat
  buf : Option Nat
  cls : Nat
  old : Option Nat
  deriving DecidableEq, Repr

/-- A launch record (R251). -/
structure LRec where
  nwg : Nat
  dies : Byte
  args : List Word
  regions : List (Nat × Nat × Bool)
  deriving DecidableEq, Repr

/-- One stage of a pipeline record (R254), and its kernel. -/
structure PStageRec where
  kdAddr : Nat
  kd : KDesc
  minc : Nat
  maxc : Nat
  pop : W16
  push : W16
  deriving DecidableEq, Repr

structure PQueueRec where
  num : Nat
  xs : Bool
  base : Nat
  cap : Nat
  deriving DecidableEq, Repr

/-- A window entry (R369). `after` is FP past it, `fetchNo` FETCHED before it, `slot` tells a successor entry,
`tested` the cycles that a tk.wait has counted, `pollBy` the cycle by which its word is read next, `events` the containment
events of a faulted task, `restored` what a tk.resume has put back: NPSN, NCBI and NCHK of R394, then the workgroups that have still to resume. -/
structure Task where
  stream : Nat
  seq : Nat
  win : Nat
  part : Nat
  entry : List Word
  addr : Nat
  after : Nat
  fetchNo : W32
  age : Nat
  st : TaskSt
  fault : Option TaskFault
  reads : List Nat
  ins : List Nat
  outs : List Nat
  drawn : List Drawn
  kd : Option KDesc
  lr : Option LRec
  stages : List PStageRec
  queues : List PQueueRec
  grid : Option Nat
  pipe : Option Nat
  chunks : W64
  tested : Option Nat
  pollBy : Nat
  events : Option (AList Nat × Event)
  wrote : Bool
  slot : Bool
  restored : List Nat
  deriving DecidableEq, Repr

inductive StreamSt where
  | idle | run | faulted | halted | aborting
  deriving DecidableEq, Repr

inductive Deferred where
  | restart | skip | abort
  deriving DecidableEq, Repr

/-- A kernel that the next job record covers (R419): when it was first launched, its descriptor, the pages its code was
fetched from, each with a core and a privilege, and memory at that launch. -/
structure RecKernel where
  stamp : Nat
  addr : Nat
  desc : List Word
  pages : AList (Nat × Bool)
  seen : MemView
  deriving DecidableEq, Repr

/-- A stream (R360 to R365, R370). `slots` are successor entries to be fetched again ahead of FP, `hold` the task
whose successor hold stops decode with the number and address of its slots, `refetch` the ages of discarded
tasks, `word` a sequence number that the completion word takes at the end of
the cycle, `faulted` the task that took the fault with the younger ones it took along, `last` the type of the entry fetched last, `hiSeq` and `hiFp` the highest sequence number assigned
before a discard and FP at that time; the last fields are the sums of the next job record (R419), `early` the
launches of discarded tasks, each with its task's number. -/
structure Stream where
  id : Nat
  part : Nat
  cls : Bool
  win : Nat
  firmware : Bool
  ring : Nat
  rsz : Nat
  cword : Nat
  frec : Nat
  rlog : Nat
  rlogn : Nat
  fp : Nat
  fetched : W32
  tail : W32
  ovr : Bool
  st : StreamSt
  prior : StreamSt
  map : AList Nat
  nextSeq : Nat
  retired : Nat
  hiSeq : Nat
  hiFp : Nat
  recs : Nat
  last : Nat
  hold : Option (Nat × Nat × Nat)
  slots : List Nat
  word : Option Nat
  refetch : AList Nat
  faulted : List Task
  deferred : List Deferred
  recFirst : Nat
  recTasks : Nat
  recFaults : List Nat
  recFlags : Nat
  recKernels : List RecKernel
  early : List (Nat × RecKernel)
  restarted : Bool
  deriving DecidableEq, Repr

/-- A window's turns (R368, R376): the cycles of its last fetch and issue, and the streams of each class that it
served last. -/
structure WinTurn where
  fetchAt : Option Nat
  issueAt : Option Nat
  lat : Nat
  bulk : Nat
  deriving DecidableEq, Repr

structure PStage where
  grid : Nat
  minc : Nat
  maxc : Nat
  pop : W16
  push : W16
  cores : List Nat
  launched : Nat
  done : Bool
  occ : Nat
  waits : Nat
  deriving DecidableEq, Repr

/-- A running pipeline (R387 to R389). `rings` are the contents of its `.ks` queues, by queue, while no quad holds
them (R386, R413). -/
structure Pipe where
  id : Nat
  stream : Nat
  seq : Nat
  stages : List PStage
  since : Nat
  rings : AList (AList Word)
  deriving DecidableEq, Repr

/-- A workgroup pending at a die dispatcher (R294); `saved` for one that was pre-empted. -/
structure PendWg where
  grid : Nat
  wg : Nat
  latency : Bool
  order : Nat
  dwg : Nat
  saved : Bool
  deriving DecidableEq, Repr

/-- A pre-empted workgroup's context (R350, R392). `spill` tells of a context that shadow storage does not hold whole: the
words that it holds, and the physical address of the rest in the save area (R391). -/
structure Saved where
  uid : Nat
  wg : Wg
  groups : List (Nat × Group)
  cs : AList Word
  ks : AList Word
  banks : List (Nat × Nat × CbEntry)
  accs : List Acc
  resvs : List Resv
  ob : AList Word
  tiles : List Tile
  copies : List Copy
  ops : List Op
  writes : List BankWrite
  kdAddr : Nat
  spill : Option (Nat × Nat)
  deriving DecidableEq, Repr

/-! ### Dies, interfaces, security -/

/-- How far a die is in its warm reset, and with it its link (R397, R413): `shrinking` and `draining` with the link active,
`empty` once what ran there is pre-empted, `quiesced` with requests waiting at the link's endpoint, `silent` with them
answered under R401, `inReset` with the link down, `training`; `offline` after a failed retraining. -/
inductive DieSt where
  | up | shrinking | draining | empty | quiesced | silent | inReset | training | offline
  deriving DecidableEq, Repr

/-- A warm reset in progress (R413): who asked for it, the drain time and its end, the quads taken from each partition,
the workgroups resident at its start, the counts of DONE, how many messages to other members are unanswered, and the
workgroups that came back unplaced, by grid and index, which re-enter the global order at the end of step 2 (R397). -/
structure ResetCtx where
  vi : Nat
  tag : Byte
  drain : Nat
  deadline : Nat
  regrow : Bool
  removed : List (Nat × BitVec 128)
  resident : Nat
  drained : Nat
  preempted : Nat
  returned : Nat
  lines : Nat
  strays : Nat
  waits : Nat
  back : List (Nat × Nat)
  deriving DecidableEq, Repr

structure Die where
  id : Nat
  st : DieSt
  reserve : W16
  pending : List PendWg
  headSince : Option (Nat × Nat × Nat)
  hold : Option (Nat × Nat × Nat)
  starved : Bool
  reset : Option ResetCtx
  deriving DecidableEq, Repr

/-- The registers of a virtual interface (R403) and the binding of a virtual function (R411); `vec0` and `vec1` count how
often MSI-X vectors 0 and 1 have been raised. -/
structure Iface where
  vi : Nat
  part : Option Nat
  first : Nat
  count : Nat
  mbreq : AList W32
  mbrep : List W32
  busy : Bool
  done : Bool
  nqbase : W64
  nqsize : W32
  nqhead : W32
  nqtail : W32
  dropped : Nat
  vec0 : Nat
  vec1 : Nat
  deriving DecidableEq, Repr

/-- A request that a member has received (R409): its type and operation, and the message. -/
structure Request where
  type : Byte
  op : Byte
  nw : Nat
  resv : Bool
  msg : Msg
  deriving DecidableEq, Repr

/-- A partition operation that a member finishes later, with the request it answers (R366). -/
structure PendReply where
  member : Nat
  type : Byte
  op : Byte
  msg : Msg
  key : Nat
  deriving DecidableEq, Repr

/-- A transmit or receive ring of a pod port in Ethernet mode (R406). -/
structure Ring where
  num : Nat
  part : Nat
  base : Nat
  size : Nat
  next : Nat
  bell : Nat
  deriving DecidableEq, Repr

/-- A pod port (R404, R405): the packages whose paths have failed, the failed tags of a packet under way, and by package the
nonce counters of the two directions. -/
structure Port where
  id : Nat
  ethernet : Bool
  pkg : Nat
  pod : Nat
  failed : List Nat
  tries : AList Nat
  rxNonce : AList Nat
  txNonce : AList Nat
  tx : List Ring
  rx : List Ring
  deriving DecidableEq, Repr

/-- The management core of a base die (R2): the program counter, x1 to x31, by number less 1, and the bytes of its 256 KiB of
tightly coupled memory that are not 0 (widths and numbers PRESUMED from RV32IMC, log entry 66). What its firmware does is
modelled by the messages of R409. -/
structure Ultin where
  pc : W32
  x : Vector W32 31
  tcm : List (Fin (256 * 1024) × Byte)
  deriving DecidableEq, Repr

inductive Power where
  | off | recovery | running | alarmed | meshFault
  deriving DecidableEq, Repr

/-- A package's registered contribution to a pod barrier (R407), less the groups of it that have ended (R203). -/
structure PodReg where
  part : Nat
  bar : Nat
  pkg : Nat
  groups : Nat
  deriving DecidableEq, Repr

/-- A checkpoint image (R393): where it stands and the partition state it holds. -/
structure Image where
  part : Nat
  addr : Nat
  len : Nat
  coff : Nat
  digest : List Byte
  streams : List Stream
  tasks : List Task
  free : List FreeList
  binds : AList Binding
  grids : AList Grid
  bars : List Barrier
  queues : AList Queue
  pipes : AList Pipe
  gangs : AList Gang
  saved : List Saved
  rings : AList (AList Word)
  regs : List PodReg
  deriving DecidableEq, Repr

/-- The coach that a quarter has formed and that issues next (R290): its core and quarter and its threads
as (group, lane) in ascending lane column. -/
structure Coach where
  core : Nat
  qtr : Nat
  lanes : List (Nat × Nat)
  deriving DecidableEq, Repr

/-- What a step without arguments acts on: the request, the stream and task, or the die, and whether the
retraining of its link succeeded. -/
structure Subject where
  msg : Msg
  stream : Nat
  seq : Nat
  die : Nat
  ok : Bool
  deriving DecidableEq, Repr

def Subject.none : Subject := ⟨⟨0, 0, 0, []⟩, 0, 0, 0, false⟩

/-- The package. -/
structure State where
  /-- The model's own clock: cycles counted, and the cycle in which the last cold reset began, from which `%clock` counts
  (R32). Arrivals, ages and deadlines that a checkpoint image holds keep their order over a cold reset. -/
  cycle : Nat
  epoch : Nat
  /-- The model's own: counter of free values, of units and of arrivals. -/
  free : Nat
  uid : Nat
  /-- The model's own: steps that the outside world and open latencies put next. -/
  agenda : List (Subject × Instr)
  /-- The model's own: what the step at hand acts on, where the instruction carries no argument. -/
  subj : Subject
  /-- The model's own: which quarter forms a coach next. -/
  turn : Nat
  coach : Option Coach
  /-- Threads whose words have issued in this cycle. -/
  issued : List (Nat × Nat)
  power : Power
  -- compute
  groups : AList Group
  wgs : AList Wg
  gangs : AList Gang
  grids : AList Grid
  bars : List Barrier
  /-- Values that die, package and pod barriers have taken, with the cycle, newest first (R205). -/
  barLog : List (Nat × Barrier)
  queues : AList Queue
  shadow : List Saved
  -- cores
  banks : List (Nat × Nat × Nat × CbEntry)
  bankPart : List (Nat × Nat × Nat)
  accPart : List (Nat × Nat × Nat)
  bankWrites : List BankWrite
  tiles : List Tile
  resvs : List Resv
  accs : List Acc
  carriages : List Carriage
  mfills : List Mfill
  mdrains : List Mdrain
  copies : List Copy
  copyStops : List CopyStopRec
  -- memory
  hbm : Mem
  parity : Mem
  lineKeys : AList (Nat × Nat)
  podMem : Mem
  hostMem : Mem
  xs : Mem
  cs : Mem
  ks : Mem
  ob : Mem
  l2 : List CLine
  dcache : List CLine
  icache : List CLine
  wc : List WcBuf
  tlb : List Tlb
  walks : List WalkEnt
  syncRecs : List SyncRec
  syncWaits : List SyncWait
  armings : List Arming
  ctrls : List Ctrl
  -- tasks
  parts : List Part
  streams : List Stream
  tasks : List Task
  windows : List WinTurn
  pipes : AList Pipe
  images : List Image
  -- package
  dies : List Die
  ifaces : List Iface
  ultins : List Ultin
  inboxes : List (List Request)
  replies : List PendReply
  ports : List Port
  keySlots : AList KeySlot
  podKeys : AList Nat
  podBars : List PodReg
  session : Option Nat
  jobKey : Option Nat
  flash : Option (List Byte)
  alarm : BitVec 4
  pkg : Nat
  pod : Nat
  /-- The last words delivered to the host (R277), each with its poison indication. -/
  hostOut : List (W32 × Bool)
  /-- Whether the last CXL.mem access ended with an error response (R402). -/
  hostErr : Bool
  /-- The last reply to a request from the pod: whether its status is DIE_OFFLINE, and its words (R401, R405). -/
  podOut : Bool × List Word
  /-- Frames sent through Ethernet ports (R406), each with its error flag. -/
  sent : List (Nat × List Byte × Bool)
  deriving DecidableEq, Repr

/-- Why the machine stops. -/
inductive Fault where
  /-- Raised by `step` when the package has no power (R414, R422): nothing executes until a cold reset. Safe. -/
  | noPower
  deriving DecidableEq, Repr

/-- Why a step has no meaning. -/
inductive Refusal where
  /-- Raised by `exec` for an instruction that has no meaning yet. Safe. -/
  | notModelled (mnemonic : String)
  deriving DecidableEq, Repr

def Mem.empty : Mem := ⟨[], []⟩

/-- A compute die after reset: up, with quads 14 and 15 as its latency reserve (R296). -/
def Die.initial (d : Nat) : Die := ⟨d, .up, 0xC000, [], none, none, false, none⟩

def Iface.initial (i : Nat) : Iface := ⟨i, none, 0, 0, [], [], false, false, 0, 0, 0, 0, 0, 0, 0⟩

def Ultin.initial : Ultin := ⟨0, Vector.replicate 31 0, []⟩

def Port.initial (p : Nat) : Port := ⟨p, false, 0, 0, [], [], [], [], [], []⟩

/-- The package after the cold reset sequence of R422: no partition, HBM4 zeroed, scrub period 12 hours
(R275). Values that no rule gives are those of the assumption log, entries 1 to 5. -/
def State.reset : State where
  cycle := 0
  epoch := 0
  free := 0
  uid := 1
  agenda := []
  subj := .none
  turn := 0
  coach := none
  issued := []
  power := .running
  groups := []
  wgs := []
  gangs := []
  grids := []
  bars := []
  barLog := []
  queues := []
  shadow := []
  banks := []
  bankPart := []
  accPart := []
  bankWrites := []
  tiles := []
  resvs := []
  accs := []
  carriages := []
  mfills := []
  mdrains := []
  copies := []
  copyStops := []
  hbm := .empty
  parity := .empty
  lineKeys := []
  podMem := .empty
  hostMem := .empty
  xs := .empty
  cs := .empty
  ks := .empty
  ob := .empty
  l2 := []
  dcache := []
  icache := []
  wc := []
  tlb := []
  walks := []
  syncRecs := []
  syncWaits := []
  armings := []
  ctrls := List.replicate 12 ⟨0, 12, 0⟩
  parts := []
  streams := []
  tasks := []
  windows := List.replicate 4 ⟨none, none, 0, 0⟩
  pipes := []
  images := []
  dies := (List.range 8).map Die.initial
  ifaces := (List.range 64).map Iface.initial
  ultins := List.replicate 4 .initial
  inboxes := List.replicate 4 []
  replies := []
  ports := (List.range 16).map Port.initial
  keySlots := []
  podKeys := []
  podBars := []
  session := none
  jobKey := some 0
  flash := none
  alarm := 0
  pkg := 0
  pod := 0
  hostOut := []
  hostErr := false
  podOut := (false, [])
  sent := []

end Sys2Proof.Machine
end

