-- ==== Sys2Proof/Config.lean ====
section
/-! DEFINITION. The free values: what the manual leaves open or what only a part's secrets decide. None has a
body, so no proof can lean on a value of one (assumption log entry 5). -/

namespace Sys2Proof.Config

/-- Free data bits: the words a line decrypts to under a wrong key (R314), and other open words. -/
opaque freeWord : Nat → W32

/-- How many bits below the leading one the quotient of a division iteration has when its identity is
checked (R132 gives no width). -/
opaque divExtra : Nat

/-- The scale code of a block in a format whose largest finite value is 0, of which R58 takes the logarithm or the quotient: by
the scale's format and the block's largest magnitude. -/
opaque scaleOfNone (e4m3 : Bool) (m : Nat) (e : Int) : Nat

/-- Which of several violated encoding rules gives the sub-code (R89, R90 order none of them). -/
opaque subPick : Nat → Nat

/-- Which of several steps that the manual leaves unordered comes next. -/
opaque order : Nat → Nat

/-- How many cycles the copy of a barrier that a core holds trails the barrier's home, by core and level (R205). -/
opaque barTransit : Nat → Nat → Nat

/-- The words of a section of a checkpoint image: of the window state, and of the streams (R393 gives their contents, not
their layout). -/
opaque imageSection : Nat → List W32

/-- Words of a context image in sections of which the manual gives the length and not the layout (R350, R392). -/
opaque imageWord (seed i : Nat) : W32

/-- The address at which shadow storage holds a context (R391 gives none). -/
opaque shadowPlace : Nat → Nat

/-- What an image holds that no CHECKPOINT of this package has written; units are numbered from the number given. -/
opaque imageOf (uid : Nat) (body : List Byte) : Option Machine.Image

/-- Which streams count as created by firmware (R263 names them, no rule says how one is made). -/
opaque firmwareStream : Nat → Bool

/-- The key slot that the firmware assigns to a local line which the pod reaches (R314). -/
opaque podKeySlot : Nat → Nat

/-- The partition to which a load-store pod packet belongs (R405 gives the packet no form). -/
opaque podPart (packet : List Byte) : Nat

/-- Whether a packet's tag verifies under a pod key and the nonce of its direction (R405). -/
opaque podTagOk (key nonce : Nat) (packet : List Byte) : Bool

/-- Which of the load-store ports carries the requests for a line of the pod window (R404 names none). -/
opaque podRoute (line : Nat) : Nat

/-- The rings that Ultin has set up on a port in Ethernet mode (R406 gives no message for it): transmit or receive, by
number. -/
opaque ring (seed : Nat) (transmit : Bool) (num : Nat) : Option Machine.Ring

/-- The secret of a key pair of the package: the identity key's, derived from the fuses, and each job key's (R416). -/
opaque keySecret (key : Nat) : Nat

/-- The number that a key draws for its signature of a message (R416). -/
opaque signDraw (key : Nat) (message : List Byte) : Nat

/-- The identity certificate followed by the job-key certificate of a generation, as DER (R418). -/
opaque certificates : Nat → List Byte

/-- What stands for the shared coordinate where the host's public key is no point of the curve (R415, R418). -/
opaque sharedOff (x y : Nat) : Nat

/-- The firmware image in flash while none has been written there (R421). -/
opaque shippedImage : List Byte

/-- The fused security version (R417). -/
opaque securityVersion : W32

/-- Whether a firmware image verifies against the fused key hash and version (R421). -/
opaque firmwareOk : List Byte → Bool

end Sys2Proof.Config
end

