-- ==== Sys2Proof/Machine/Residue.lean ====
section
/-! DEFINITION. Residues modulo 15 (R24, R25), values carried with their predicted residue (R97), and the
prediction of a word cut from an exact source value (R98). -/

namespace Sys2Proof.Machine

open Sys2Proof

/-- The number in 0 to 14 congruent to n modulo 15. -/
def rho (n : Int) : Nat := (n % 15).toNat

/-- res(x) of R24. -/
def resOf (x : W32) : BitVec 4 := BitVec.ofNat 4 (x.toNat % 15)

/-- A word with a generated residue. -/
def gen (x : W32) : Word := ⟨x, resOf x⟩

/-- Residue code 0xF marks poison (R24). -/
def isPoison (w : Word) : Bool := w.res == 0xF

/-- The residue field is legal and agrees with the bits. -/
def agrees (w : Word) : Bool := w.res == resOf w.val

/-- An unpoisoned word whose residue field does not match its bits. -/
def mismatch (w : Word) : Bool := !isPoison w && !agrees w

/-- A residue weight 2^k modulo 15 (R98). -/
def weight (k : Nat) : Nat := 2 ^ (k % 4)

/-- The weight of a division by 2^k: 8 is the inverse of 2 modulo 15 (R98). -/
def unweight (k : Nat) : Nat := 8 ^ (k % 4)

/-- An exact integer with the residue that the narrow path forms for it (R97). -/
structure CInt where
  int : Int
  rho : Nat
  deriving DecidableEq, Repr

def CInt.const (n : Int) : CInt := ⟨n, Machine.rho n⟩
def CInt.add (a b : CInt) : CInt := ⟨a.int + b.int, (a.rho + b.rho) % 15⟩
def CInt.sub (a b : CInt) : CInt := ⟨a.int - b.int, Machine.rho ((a.rho : Int) - b.rho)⟩
def CInt.mul (a b : CInt) : CInt := ⟨a.int * b.int, a.rho * b.rho % 15⟩
def CInt.neg (a : CInt) : CInt := CInt.sub (CInt.const 0) a
def CInt.shl (a : CInt) (k : Nat) : CInt := ⟨a.int * 2 ^ k, a.rho * weight k % 15⟩

/-- A computed word with its predicted residue, before the comparison of R270. -/
structure Cut where
  bits : W32
  pred : Nat
  deriving DecidableEq, Repr

/-- A word assigned a generated residue. -/
def Cut.gen (x : W32) : Cut := ⟨x, x.toNat % 15⟩

/-- A word taken with its residue as it stands (R99, R120, R121). -/
def Cut.copy (w : Word) : Cut := ⟨w.val, w.res.toNat⟩

/-- R98: `n` bits of the source value from bit `p`, under a fill of ones where `sx` holds and the top bit
of the field is set. The terms of L, H and the fill come from the bits of the source value. -/
def CInt.cut (S : CInt) (p n : Nat) (sx : Bool) : Cut :=
  let q := S.int.fdiv (2 ^ p)
  let l := S.int.fmod (2 ^ p)
  let f := q.fmod (2 ^ n)
  let h := q.fdiv (2 ^ n)
  let g : Int := if sx && decide (0 < n) && decide (2 ^ n ≤ 2 * f) then 2 ^ (32 - n) - 1 else 0
  ⟨BitVec.ofInt 32 (f + g * 2 ^ n),
   Machine.rho (((S.rho : Int) - Machine.rho l) * unweight p - (Machine.rho h : Int) * weight n + (Machine.rho g : Int) * weight n)⟩

/-- A generated constant cut to the same shape. -/
def cutConst (v : Int) (n : Nat) (sx : Bool) : Cut :=
  Cut.gen (CInt.cut (CInt.const v) 0 n sx).bits

/-- The two words of a 64-bit result from one source value (R98). -/
def CInt.cut64 (S : CInt) : List Cut := [S.cut 0 32 false, S.cut 32 32 false]

/-- A packed word from its two 16-bit elements: the predictions add (R98). -/
def packCut (e0 e1 : Cut) : Cut :=
  ⟨(e0.bits &&& 0xFFFF) ||| (e1.bits <<< 16), (e0.pred + e1.pred) % 15⟩

/-- Comparison of R270 with sub-code 0x00, and poison of R28: the word to write, or none on a mismatch. -/
def settle (psn : Bool) (c : Cut) : Option Word :=
  if psn then some ⟨c.bits, 0xF⟩
  else if c.bits.toNat % 15 == c.pred % 15 && decide (c.pred < 15) then some ⟨c.bits, resOf c.bits⟩
  else none

end Sys2Proof.Machine
end

