-- ==== Sys2Proof/Machine/Flags.lean ====
section
/-! DEFINITION. The sticky bits (R33), traps, and what the arithmetic of one lane delivers before write-back. -/

namespace Sys2Proof.Machine

open Sys2Proof

def flagNV : BitVec 6 := 1
def flagDZ : BitVec 6 := 2
def flagOF : BitVec 6 := 4
def flagUF : BitVec 6 := 8
def flagNX : BitVec 6 := 16
def flagSAT : BitVec 6 := 32

/-- Cause codes of R41. -/
def causeIllegalOpcode : Nat := 0x01
def causeIllegalOperand : Nat := 0x02
def causeRegBound : Nat := 0x03
def causeCheck : Nat := 0x04
def causePoison : Nat := 0x05
def causeCodebook : Nat := 0x06
def causeMisaligned : Nat := 0x07
def causeXlate : Nat := 0x08
def causeProtection : Nat := 0x09
def causeScope : Nat := 0x0A
def causeQueue : Nat := 0x0B
def causeBarrier : Nat := 0x0C
def causePrivilege : Nat := 0x0D
def causeMatrix : Nat := 0x0E
def causeDivide : Nat := 0x0F
def causeSoftware : Nat := 0x10
def causeWatchdog : Nat := 0x11

/-- A trap of one lane: cause, sub-code, and the cause detail of R30 where the cause gives one. -/
structure Trap where
  cause : Nat
  sub : Nat
  tval : Option W64
  deriving DecidableEq, Repr

def trapOf (cause : Nat) (sub : Nat := 0) : Trap := ⟨cause, sub, none⟩
def trapAt (cause sub : Nat) (addr : W64) : Trap := ⟨cause, sub, some addr⟩

/-- What one lane's arithmetic delivers before the comparison of R270: result words with their
predictions, predicate truth values, index-register values, sticky bits, the seed it leaves, a failed identity or decision check,
and a trap of its own. -/
structure AluOut where
  words : List Cut := []
  preds : List (Nat × Bool) := []
  xs : List (Nat × Byte) := []
  flags : BitVec 6 := 0
  seed : Option W32 := none
  bad : Option Nat := none
  trap : Option Trap := none
  deriving DecidableEq, Repr

def AluOut.word (c : Cut) : AluOut := { words := [c] }

/-- sat of R46. -/
def sat (x lo hi : Int) : Int := if x < lo then lo else if hi < x then hi else x

end Sys2Proof.Machine
end

