-- ==== Sys2Proof/Machine/Reg.lean ====
section
/-! DEFINITION. Keyed stores, and reads and writes of threads, groups and their registers (R11 to R20, R72). -/

namespace Sys2Proof.Machine

open Sys2Proof

/-- The cycle counter: cycles since the cold reset (R32). -/
def clock (s : State) : Nat := s.cycle - s.epoch

/-- The entry of a keyed store. -/
def aget {α : Type} (l : AList α) (k : Nat) : Option α :=
  match l with
  | [] => none
  | (i, a) :: r => if i = k then some a else aget r k

/-- Sets an entry; keys stay in rising order. -/
def aset {α : Type} (l : AList α) (k : Nat) (a : α) : AList α :=
  match l with
  | [] => [(k, a)]
  | (i, b) :: r => if i = k then (k, a) :: r else if k < i then (k, a) :: (i, b) :: r else (i, b) :: aset r k a

/-- A count kept by key goes up by one. -/
def acount (l : AList Nat) (k : Nat) : AList Nat := aset l k ((aget l k).getD 0 + 1)

def adel {α : Type} (l : AList α) (k : Nat) : AList α :=
  match l with
  | [] => []
  | (i, b) :: r => if i = k then r else (i, b) :: adel r k

def amod {α : Type} (l : AList α) (k : Nat) (f : α → α) : AList α :=
  match l with
  | [] => []
  | (i, b) :: r => if i = k then (i, f b) :: r else (i, b) :: amod r k f

/-- Entry i of a list changed. -/
def lmod {α : Type} (l : List α) (i : Nat) (f : α → α) : List α :=
  match l, i with
  | [], _ => []
  | a :: r, 0 => f a :: r
  | a :: r, i + 1 => a :: lmod r i f

/-- One of several values that the manual leaves unordered: the only one, or a free choice. -/
def pick (l : List Nat) : Nat :=
  match l.eraseDups with
  | [] => 0
  | [x] => x
  | x :: r => (x :: r).getD (Config.subPick x % (r.length + 1)) x

/-! ### Groups and threads -/

def getG (s : State) (g : Nat) : Option Group := aget s.groups g

def modG (s : State) (g : Nat) (f : Group → Group) : State := { s with groups := amod s.groups g f }

def getT (s : State) (g l : Nat) : Option Thread := (getG s g).bind fun G => G.threads[l]?

def modT (s : State) (g l : Nat) (f : Thread → Thread) : State :=
  modG s g fun G => { G with threads := lmod G.threads l f }

def Run.empty : Run := ⟨0, [], [], []⟩

/-- A thread as launch leaves it (R11, R34). -/
def Thread.initial (pc : W64) (nreq : Nat) (seed : W32) : Thread :=
  { live := true, pc, v := List.replicate nreq .zero,
    p := List.replicate 7 ⟨false, false⟩ ++ [⟨true, false⟩], x := List.replicate 4 0,
    lp := List.replicate 32 .zero, sticky := 0, seed, clockh := 0, tval := 0, cls := .normal, w := 0, elg := false,
    ibuf := none, run := .empty, pend := [], wait := .none, stuck := 0, retry := none, reds := 0 }

/-- A vector register as an instruction of the run reads it (R12, R72). -/
def readV (t : Thread) (r : Nat) : Word :=
  if r = 255 then .zero else (aget t.run.v r).getD (t.v.getD r .zero)

def readP (t : Thread) (r : Nat) : Prd :=
  if r = 7 then ⟨true, false⟩ else (aget t.run.p r).getD (t.p.getD r ⟨false, false⟩)

def readX (t : Thread) (r : Nat) : Byte := (aget t.run.x r).getD (t.x.getD r 0)

/-- Keeps the first value noted for a key: the value at the run start. -/
def note {α : Type} (l : AList α) (k : Nat) (a : α) : AList α :=
  match aget l k with
  | some _ => l
  | none => aset l k a

/-- A fixed-latency write of a vector register: later words of the run still read the run-start value. -/
def writeV (t : Thread) (r : Nat) (w : Word) : Thread :=
  if r = 255 then t
  else { t with v := t.v.set r w, run := { t.run with v := note t.run.v r (t.v.getD r .zero) } }

def writeP (t : Thread) (r : Nat) (b : Prd) : Thread :=
  if r = 7 then t
  else { t with p := t.p.set r b, run := { t.run with p := note t.run.p r (t.p.getD r ⟨false, false⟩) } }

def writeX (t : Thread) (r : Nat) (b : Byte) : Thread :=
  { t with x := t.x.set r b, run := { t.run with x := note t.run.x r (t.x.getD r 0) } }

/-- A variable-latency result lands: reads of the run return it from now on (R72). -/
def landV (t : Thread) (r : Nat) (w : Word) : Thread :=
  if r = 255 then t else { t with v := t.v.set r w, run := { t.run with v := adel t.run.v r } }

def landP (t : Thread) (r : Nat) (b : Prd) : Thread :=
  if r = 7 then t else { t with p := t.p.set r b, run := { t.run with p := adel t.run.p r } }

def landX (t : Thread) (r : Nat) (b : Byte) : Thread :=
  { t with x := t.x.set r b, run := { t.run with x := adel t.run.x r } }

def landAll (t : Thread) (v : AList Word) (p : AList Prd) : Thread :=
  p.foldl (fun t x => landP t x.1 x.2) (v.foldl (fun t x => landV t x.1 x.2) t)

/-- A pending result that carries its values lands. -/
def landPending (t : Thread) (q : Pend) : Thread :=
  q.x.foldl (fun t x => landX t x.1 x.2) (landAll t q.v q.p)

/-- Pending results of a thread land, oldest first. -/
def landThose (sel : Pend → Bool) (t : Thread) : Thread :=
  (t.pend.filter sel).foldl landPending { t with pend := t.pend.filter fun p => !sel p }

/-- A thread with one more result pending. -/
def pending (src : PendSrc) (v : AList Word) (p : AList Prd) (x : AList Byte) (cycle : Nat) (t : Thread) : Thread :=
  { t with pend := t.pend ++ [⟨src, v, p, x, cycle⟩] }

/-- Writes with fixed latency, or with variable latency from the cycle of issue that `late` names. -/
def deliver (late : Option Nat) (v : AList Word) (p : AList Prd) (t : Thread) : Thread :=
  match late with
  | some c => if v.isEmpty && p.isEmpty then t else pending .direct v p [] c t
  | none => p.foldl (fun t x => writeP t x.1 x.2) (v.foldl (fun t x => writeV t x.1 x.2) t)

/-- Index registers written with fixed or variable latency (R16, R72, R121). -/
def deliverX (late : Option Nat) (x : AList Byte) (t : Thread) : Thread :=
  match late with
  | some c => if x.isEmpty then t else pending .direct [] [] x c t
  | none => x.foldl (fun t y => writeX t y.1 y.2) t

/-- Run-start: the results of the ended run are all in their registers. -/
def newRun (t : Thread) : Thread := { t with run := .empty }

/-- Whether a lane runs at supervisor level (R37, R220). -/
def isSuper (G : Group) (l : Nat) : Bool :=
  match G.trap with
  | some c => c.entry.getLsbD l
  | none => false

/-- Live lanes of a group, in ascending lane column. -/
def liveLanes (G : Group) : List Nat :=
  (List.range G.threads.length).filter fun l => (G.threads[l]?.map (·.live)).getD false

def laneMask (ls : List Nat) : BitVec 32 := ls.foldl (fun m l => m ||| (1 <<< l)) 0

def wgOf (s : State) (g : Nat) : Option Wg := (getG s g).bind fun G => aget s.wgs G.wg

def gridOf (s : State) (g : Nat) : Option Grid := (wgOf s g).bind fun W => aget s.grids W.grid

def partIx (s : State) (part : Nat) : Option Part := s.parts.find? fun p => p.id == part

def partOf (s : State) (g : Nat) : Nat := ((gridOf s g).map (·.part)).getD 0

def modWg (s : State) (w : Nat) (f : Wg → Wg) : State := { s with wgs := amod s.wgs w f }
def modGrid (s : State) (k : Nat) (f : Grid → Grid) : State := { s with grids := amod s.grids k f }

/-- Groups of a workgroup, with their keys. -/
def groupsOf (s : State) (w : Nat) : AList Group := s.groups.filter fun x => x.2.wg == w

def quadOf (core : Nat) : Nat := core / 4
def dieOf (core : Nat) : Nat := core / 64
def carriageOf (core : Nat) : Nat := core / 2
def baseOf (die : Nat) : Nat := die / 2

/-- The allotment of R13. -/
def allot (nreq : Nat) : Nat := 8 * ((nreq + 7) / 8)

/-! ### What one lane does at a word -/

def Ign.none : Ign := ⟨[], [], false, []⟩

/-- The outcome of a word in one lane: complete, complete and then wait or change age class, transfer, stay at
the word, or trap. -/
inductive LaneRes where
  | done (s : State)
  | park (s : State) (w : Wait) (c : AgeClass)
  | jump (s : State) (pc : W64)
  | hold (s : State)
  | trap (s : State) (t : Trap) (ign : Ign)
  deriving DecidableEq

end Sys2Proof.Machine
end

