-- ==== Sys2Proof/Machine/Boot.lean ====
section
/-! DEFINITION. A program put before a quarter: one group of one live thread, fetched and formed as a coach. This
stands for the load of a program from outside (assumption log entry 6). -/

namespace Sys2Proof.Machine

open Sys2Proof

/-- A kernel with every grant, 255 registers and the whole core scratchpad. -/
def bootKernel : KDesc := ⟨0x1000, 0, false, 1, 255, 262144, 0, 0, 0xF, 0xFFFF, 0xFFFF, 0x2AA, []⟩

def bootGrid : Grid :=
  { stream := 0, seq := 0, part := 0, latency := false, kd := bootKernel, kdAddr := 0, nwg := 1, dies := 0,
    banned := 0, argv := [], seed := 0, pbm := 0, pipe := none, cor := false, nextWg := 1, returned := [], shares := 1, arrivals := [(0, 1)], dwgs := [],
    ended := 0, done := [], cancelled := false, counts := [], first := none, fault := none,
    abortStream := false, cores := [], pages := [], seen := .empty }

def bootWg : Wg :=
  { grid := 0, index := 0, gang := none, core := 0, csBase := 0, dwg := 0, share := 0, dies := 1,
    g := List.replicate 32 .zero, q := [], status := .resident }

/-- The thread of lane 0 with its word fetched; the other lanes have exited. -/
def bootThreads (w : W64) : List Thread :=
  { Thread.initial 0x1000 255 0 with
    ibuf := some ⟨gen (w.setWidth 32), gen ((w >>> 32).setWidth 32)⟩ } ::
  List.replicate 31 { Thread.initial 0x1000 0 0 with live := false }

def bootGroup (w : W64) : Group :=
  { wg := 0, idx := 0, core := 0, qtr := 0, slot := 0, placed := 0, nreq := 255, threads := bootThreads w,
    m := List.replicate 8 (.zero, .zero), bars := [], inj := none, agrow := none, cause := 0, tpc := 0,
    tmask := 0, trap := none, halted := false }

def bootPart : Part :=
  { id := 0, home := 0, quads := 1, loc := none, pods := [], host := none, save := none, xs := [], root := 0,
    keys := [], free := [], binds := [], halt := .running, stopped := false, resumeRec := none }

/-- The word as the next one that core 0 issues. -/
def bootState (s : State) (w : W64) : State :=
  { s with
    groups := [(0, bootGroup w)], wgs := [(0, bootWg)], grids := [(0, bootGrid)], parts := [bootPart],
    bars := (List.range 16).map fun n => ⟨1, 0, n, 1, 1, 0, 0, false, false⟩,
    power := .running, agenda := [], coach := some ⟨0, 0, [(0, 0)]⟩ }

end Sys2Proof.Machine
end

