-- ==== Sys2Proof/Machine/IntAlu.lean ====
section
/-! DEFINITION. Integer arithmetic of one lane (04 R97 to R110, R117, R118, R147): results with predictions. -/

namespace Sys2Proof.Machine

open Sys2Proof

/-- An integer format of R42, R43. -/
structure IntTy where
  w : Nat
  sgn : Bool
  packed : Bool
  deriving DecidableEq, Repr

/-- The integer format of a code; untyped bits count as unsigned. -/
def intTy (code : Nat) : IntTy :=
  match code with
  | 0x01 => ⟨64, false, false⟩
  | 0x02 => ⟨8, true, false⟩
  | 0x03 => ⟨16, true, false⟩
  | 0x04 => ⟨32, true, false⟩
  | 0x05 => ⟨64, true, false⟩
  | 0x06 => ⟨8, false, false⟩
  | 0x07 => ⟨16, false, false⟩
  | 0x09 => ⟨64, false, false⟩
  | 0x0A => ⟨16, true, true⟩
  | 0x0B => ⟨16, false, true⟩
  | _ => ⟨32, false, false⟩

def IntTy.lo (t : IntTy) : Int := if t.sgn then -(2 ^ (t.w - 1)) else 0
def IntTy.hi (t : IntTy) : Int := if t.sgn then 2 ^ (t.w - 1) - 1 else 2 ^ t.w - 1

/-- A signed reading of an unsigned field of `n` bits with its residue (R97): the sign is worth 2^n ≡ 1. -/
def CInt.signed (u : CInt) (n : Nat) : CInt :=
  if u.int < 2 ^ (n - 1) then u else ⟨u.int - 2 ^ n, Machine.rho ((u.rho : Int) - 1)⟩

def wordC (w : Word) : CInt := ⟨w.val.toNat, w.res.toNat⟩

/-- Low `n` bits (n = 8 or 16) of a word: its residue less that of the bits above (R97). -/
def lowC (w : Word) (n : Nat) : CInt :=
  ⟨w.val.toNat % 2 ^ n, rho ((w.res.toNat : Int) - rho (w.val.toNat / 2 ^ n : Nat))⟩

/-- Packed element 1, its residue from its bits (R97). -/
def highC (w : Word) : CInt := CInt.const (w.val.toNat / 65536 : Nat)

/-- Byte element i: bytes 1 to 3 from their bits, byte 0 less those (R97). -/
def byteC (w : Word) (i : Nat) : CInt :=
  let b (k : Nat) : Nat := w.val.toNat / 2 ^ (8 * k) % 256
  if i = 0 then ⟨b 0, rho ((w.res.toNat : Int) - (rho (b 1) + rho (b 2) + rho (b 3) : Nat))⟩
  else CInt.const (b i)

def pairC (ws : List Word) : CInt :=
  let lo := ws.headD .zero
  let hi := (ws.drop 1).headD .zero
  ⟨lo.val.toNat + hi.val.toNat * 2 ^ 32, (lo.res.toNat + hi.res.toNat) % 15⟩

/-- The element values of an operand, unsigned. -/
def IntTy.elemsU (t : IntTy) (ws : List Word) : List CInt :=
  let w := ws.headD .zero
  if t.packed then [lowC w 16, highC w]
  else if t.w = 64 then [pairC ws]
  else if t.w = 32 then [wordC w]
  else [lowC w t.w]

/-- The element values of an operand under the signedness of the format. -/
def IntTy.elems (t : IntTy) (ws : List Word) : List CInt :=
  (t.elemsU ws).map fun u => if t.sgn then u.signed t.w else u

/-- Result words from element source values, `n` bits of each from bit `p` (R98). -/
def IntTy.place (t : IntTy) (p : Nat) (es : List CInt) : List Cut :=
  let e0 := es.headD (CInt.const 0)
  if t.packed then [packCut (e0.cut p 16 false) (((es.drop 1).headD (CInt.const 0)).cut p 16 false)]
  else if t.w = 64 then [e0.cut p 32 false, e0.cut (p + 32) 32 false]
  else [e0.cut p t.w t.sgn]

/-- Element-wise operation on two operands. -/
def zip2 (f : CInt → CInt → CInt) (a b : List CInt) : List CInt := List.zipWith f a b

def zip3 (f : CInt → CInt → CInt → CInt) (a b c : List CInt) : List CInt :=
  List.zipWith (fun g z => g z) (List.zipWith f a b) c

/-- Saturation of source values to the range of a format: a limit takes a generated residue (R99). -/
def satC (x : CInt) (lo hi : Int) : CInt :=
  if x.int < lo then CInt.const lo else if hi < x.int then CInt.const hi else x

def satFlag (xs : List CInt) (lo hi : Int) : BitVec 6 :=
  if xs.all (fun x => decide (lo ≤ x.int) && decide (x.int ≤ hi)) then 0 else flagSAT

/-- R102. -/
def aluAdd (t : IntTy) (a b : List Word) : AluOut := { words := t.place 0 (zip2 .add (t.elemsU a) (t.elemsU b)) }
def aluSub (t : IntTy) (a b : List Word) : AluOut := { words := t.place 0 (zip2 .sub (t.elemsU a) (t.elemsU b)) }

/-- R103: the carry predicate in and out. -/
def aluAddc (pc : Nat) (cin : Bool) (a b : List Word) : AluOut :=
  let S := ((pairC (a.take 1)).add (pairC (b.take 1))).add (CInt.const cin.toNat)
  { words := [S.cut 0 32 false], preds := [(pc, decide (2 ^ 32 ≤ S.int))] }

def aluSubb (pc : Nat) (cin : Bool) (a b : List Word) : AluOut :=
  let S := ((pairC (a.take 1)).sub (pairC (b.take 1))).sub (CInt.const cin.toNat)
  { words := [S.cut 0 32 false], preds := [(pc, decide (S.int < 0))] }

/-- The low and high words of a 64-bit product from two source values (R109). -/
def mul64 (a b c : List Word) : List Cut :=
  let al := wordC (a.headD .zero)
  let ah := wordC ((a.drop 1).headD .zero)
  let bl := wordC (b.headD .zero)
  let bh := wordC ((b.drop 1).headD .zero)
  let cl := wordC (c.headD .zero)
  let ch := wordC ((c.drop 1).headD .zero)
  let s0 := (al.mul bl).add cl
  let s1 := (((CInt.const (s0.int / 2 ^ 32)).add (al.mul bh)).add (ah.mul bl)).add ch
  [s0.cut 0 32 false, s1.cut 0 32 false]

/-- R109. -/
def aluMul (t : IntTy) (a b : List Word) : AluOut :=
  if t.w = 64 then { words := mul64 a b [] }
  else { words := t.place 0 (zip2 .mul (t.elemsU a) (t.elemsU b)) }

def aluMad (t : IntTy) (a b c : List Word) : AluOut :=
  if t.w = 64 then { words := mul64 a b c }
  else { words := t.place 0 (zip3 (fun x y z => (x.mul y).add z) (t.elemsU a) (t.elemsU b) (t.elemsU c)) }

def aluMulh (t : IntTy) (a b : List Word) : AluOut :=
  { words := t.place t.w (zip2 .mul (t.elems a) (t.elems b)) }

def aluMulw (t : IntTy) (a b : List Word) : AluOut :=
  { words := (((t.elems a).headD (.const 0)).mul ((t.elems b).headD (.const 0))).cut64 }

def aluMadh (t : IntTy) (a b c : List Word) : AluOut :=
  let e (ws : List Word) : CInt := (t.elems ws).headD (.const 0)
  { words := [(((e a).mul (e b)).add (e c)).cut 32 32 false] }

/-- Generated words of a 32-bit or 64-bit result. -/
def genWords (t : IntTy) (v : Int) : List Cut :=
  if t.w = 64 then (CInt.const v).cut64.map (fun c => Cut.gen c.bits)
  else [cutConst v t.w t.sgn]

/-- R110: quotient and remainder, the identity checked in the residue domain. -/
def aluDivRem (rem : Bool) (t : IntTy) (a b : List Word) : AluOut :=
  let x := (t.elems a).headD (.const 0)
  let y := (t.elems b).headD (.const 0)
  if y.int = 0 then { trap := some (trapOf causeDivide) }
  else if t.sgn ∧ x.int = t.lo ∧ y.int = -1 then
    { words := genWords t (if rem then 0 else x.int) }
  else
    let q := x.int.tdiv y.int
    let r := x.int.tmod y.int
    { words := genWords t (if rem then r else q),
      bad := if (rho q * y.rho + rho r) % 15 = x.rho % 15 then none else some 3 }

/-- R105. -/
def aluNeg (satm : Bool) (t : IntTy) (a : List Word) : AluOut :=
  let s := (t.elems a).map CInt.neg
  if satm then { words := t.place 0 (s.map (satC · t.lo t.hi)), flags := satFlag s t.lo t.hi }
  else { words := t.place 0 s }

def aluAbs (satm : Bool) (t : IntTy) (a : List Word) : AluOut :=
  let s := (t.elems a).map fun x => if x.int < 0 then x.neg else x
  if satm then { words := t.place 0 (s.map (satC · t.lo t.hi)), flags := satFlag s t.lo t.hi }
  else { words := t.place 0 s }

/-- One operand of three chosen for each element; whole 32-bit and 64-bit operands keep their words (R99). -/
def choose (t : IntTy) (pick : List CInt → Nat) (ops : List (List Word)) : List Cut :=
  let es := ops.map t.elems
  if t.packed then
    let at_ (i : Nat) : CInt :=
      let row := es.map (fun e => (e.drop i).headD (.const 0))
      (row.drop (pick row)).headD (.const 0)
    t.place 0 [at_ 0, at_ 1]
  else
    let row := es.map (fun e => e.headD (.const 0))
    let k := pick row
    if t.w < 32 then t.place 0 [(row.drop k).headD (.const 0)]
    else ((ops.drop k).headD []).map Cut.copy

def nth (row : List CInt) (i : Nat) : Int := ((row.drop i).headD (.const 0)).int

/-- R106. -/
def aluMin (t : IntTy) (a b : List Word) : AluOut :=
  { words := choose t (fun r => if nth r 0 ≤ nth r 1 then 0 else 1) [a, b] }
def aluMax (t : IntTy) (a b : List Word) : AluOut :=
  { words := choose t (fun r => if nth r 1 ≤ nth r 0 then 0 else 1) [a, b] }
def aluClamp (t : IntTy) (a b c : List Word) : AluOut :=
  { words := choose t (fun r => if nth r 0 < nth r 1 then 1 else if nth r 2 < nth r 0 then 2 else 0) [a, b, c] }

/-- R104. -/
def aluSadd (t : IntTy) (a b : List Word) : AluOut :=
  let s := zip2 .add (t.elems a) (t.elems b)
  { words := t.place 0 (s.map (satC · t.lo t.hi)), flags := satFlag s t.lo t.hi }
def aluSsub (t : IntTy) (a b : List Word) : AluOut :=
  let s := zip2 .sub (t.elems a) (t.elems b)
  { words := t.place 0 (s.map (satC · t.lo t.hi)), flags := satFlag s t.lo t.hi }

/-- A 32-bit operand read under a signedness. -/
def word32 (sgn : Bool) (ws : List Word) : CInt :=
  let u := wordC (ws.headD .zero)
  if sgn then u.signed 32 else u

/-- R108. -/
def aluDot2s (t : IntTy) (a b c : List Word) : AluOut :=
  let s := (zip2 .mul (t.elems a) (t.elems b)).foldl .add (word32 t.sgn c)
  let lim : IntTy := ⟨32, t.sgn, false⟩
  { words := [(satC s lim.lo lim.hi).cut 0 32 false], flags := satFlag [s] lim.lo lim.hi }

/-- R107. -/
def aluSad (bytes : Bool) (t : IntTy) (a b c : List Word) : AluOut :=
  let es (ws : List Word) : List CInt :=
    if bytes then (List.range 4).map (byteC (ws.headD .zero)) else t.elems ws
  let d := zip2 (fun x y => if x.int ≤ y.int then y.sub x else x.sub y) (es a) (es b)
  { words := [(d.foldl .add (word32 t.sgn c)).cut 0 32 false] }

/-- R118: rounding right shift with narrowing and saturation; the modifier layout is R117. -/
def aluRshr (xm : BitVec 6) (t : IntTy) (a b : List Word) : AluOut :=
  let k := min (b.headD .zero).val.toNat 31
  let x := word32 t.sgn a
  let rnd := (xm &&& 3).toNat
  let bitk : Int := if (a.headD .zero).val.getLsbD k then 1 else 0
  let inc : Int := if k = 0 then 0 else if rnd = 0 then 2 ^ (k - 1)
    else if rnd = 1 then 2 ^ (k - 1) - 1 + bitk else 0
  let s := x.add (CInt.const inc)
  let y := s.int.fdiv (2 ^ k)
  let m := match (xm >>> 4).toNat with | 1 => 16 | 2 => 8 | _ => 32
  let r : IntTy := ⟨m, t.sgn, false⟩
  if xm.getLsbD 3 && !(decide (r.lo ≤ y) && decide (y ≤ r.hi)) then
    { words := [cutConst (sat y r.lo r.hi) m t.sgn], flags := flagSAT }
  else { words := [s.cut k m t.sgn] }

/-- R147: conversion between integer formats. -/
def aluCvti (wrap : Bool) (dst src : IntTy) (a : List Word) : AluOut :=
  let v := (src.elems a).headD (.const 0)
  if wrap then { words := dst.place 0 [v] }
  else { words := dst.place 0 [satC v dst.lo dst.hi], flags := satFlag [v] dst.lo dst.hi }

end Sys2Proof.Machine
end

