-- ==== Sys2Proof/Machine/Logic.lean ====
section
/-! DEFINITION. Logic, shifts, fields, comparison and moves of one lane (04 R111 to R122). -/

namespace Sys2Proof.Machine

open Sys2Proof

def mapWords (f : Word → Word → Cut) (a b : List Word) : AluOut := { words := List.zipWith f a b }

/-- R111: K is the residue of A AND B from the duplicate plane. -/
def aluAnd (a b : List Word) : AluOut := mapWords (fun x y => Cut.gen (x.val &&& y.val)) a b
def aluOr (a b : List Word) : AluOut :=
  mapWords (fun x y => ⟨x.val ||| y.val,
    rho ((x.res.toNat : Int) + y.res.toNat - (x.val &&& y.val).toNat)⟩) a b
def aluXor (a b : List Word) : AluOut :=
  mapWords (fun x y => ⟨x.val ^^^ y.val,
    rho ((x.res.toNat : Int) + y.res.toNat - 2 * ((x.val &&& y.val).toNat : Int))⟩) a b
def aluNot (a : List Word) : AluOut := { words := a.map fun x => ⟨~~~ x.val, rho (-(x.res.toNat : Int))⟩ }

/-- R112: bit i of the result is LUT[A_i + 2·B_i + 4·C_i]. -/
def lop3Word (lut : Byte) (x y z : W32) : W32 :=
  let term (k : Nat) : W32 :=
    if lut.getLsbD k then
      (if k % 2 = 1 then x else ~~~ x) &&& (if k / 2 % 2 = 1 then y else ~~~ y) &&&
      (if k / 4 = 1 then z else ~~~ z)
    else 0
  (List.range 8).foldl (fun acc k => acc ||| term k) 0

def aluLop3 (lut : Byte) (a b c : List Word) : AluOut :=
  { words := List.zipWith (fun f z => f z)
      (List.zipWith (fun x y z => Cut.gen (lop3Word lut x.val y.val z.val)) a b) c }

/-- Shift counts of the elements (R113). -/
def counts (t : IntTy) (b : List Word) : List Nat :=
  let w := (b.headD .zero).val.toNat
  if t.packed then [min (w % 65536) 16, min (w / 65536) 16] else [min w t.w]

/-- R113. -/
def aluShl (t : IntTy) (a b : List Word) : AluOut :=
  { words := t.place 0 (List.zipWith CInt.shl (t.elemsU a) (counts t b)) }

/-- Result words of a right shift, element by element. -/
def shrWords (t : IntTy) (es : List CInt) (ks : List Nat) : List Cut :=
  let e0 := es.headD (.const 0)
  let k0 := ks.headD 0
  if t.packed then
    [packCut (e0.cut k0 16 false) (((es.drop 1).headD (.const 0)).cut ((ks.drop 1).headD 0) 16 false)]
  else if t.w = 64 then [e0.cut k0 32 false, e0.cut (k0 + 32) 32 false]
  else [e0.cut k0 32 false]

def aluShr (t : IntTy) (a b : List Word) : AluOut := { words := shrWords t (t.elemsU a) (counts t b) }
def aluSar (t : IntTy) (a b : List Word) : AluOut := { words := shrWords t (t.elems a) (counts t b) }

def aluRot (right : Bool) (a b : List Word) : AluOut :=
  let x := a.headD .zero
  let k := (b.headD .zero).val.toNat % 32
  let l := if right then 32 - k else k
  { words := [⟨x.val.rotateLeft (l % 32), rho ((x.res.toNat : Int) * weight l)⟩] }

def aluShf (right wrap : Bool) (a b c : List Word) : AluOut :=
  let n := (c.headD .zero).val.toNat
  let k := if wrap then n % 64 else min n 64
  let s := ((wordC (a.headD .zero)).shl 32).add (wordC (b.headD .zero))
  { words := [if right then s.cut k 32 false else (s.shl k).cut 32 32 false] }

/-- R114: the position and length of a field descriptor. -/
def fieldOf (f : Word) : Nat × Nat := (f.val.toNat % 32, min (f.val.toNat / 256 % 64) 32)

def aluBext (t : IntTy) (a b : List Word) : AluOut :=
  let (pos, len) := fieldOf (b.headD .zero)
  { words := [(word32 t.sgn a).cut pos len t.sgn] }

def aluBins (a b c : List Word) : AluOut :=
  let x := a.headD .zero
  let (pos, len) := fieldOf (c.headD .zero)
  let e := min (pos + len) 32
  let fa := x.val.toNat / 2 ^ pos % 2 ^ (e - pos)
  let fb := (b.headD .zero).val.toNat % 2 ^ (e - pos)
  { words := [⟨BitVec.ofInt 32 ((x.val.toNat : Int) - fa * 2 ^ pos + fb * 2 ^ pos),
      rho ((x.res.toNat : Int) + ((rho fb : Int) - rho fa) * weight pos)⟩] }

def aluBmsk (a : List Word) : AluOut :=
  let (pos, len) := fieldOf (a.headD .zero)
  let e := min (pos + len) 32
  { words := [Cut.gen (BitVec.ofNat 32 (2 ^ e - 2 ^ pos))] }

def aluExt (sx : Bool) (a b : List Word) : AluOut :=
  let k := min (b.headD .zero).val.toNat 32
  { words := [(wordC (a.headD .zero)).cut 0 k sx] }

/-- Bits of a value from the least significant, `n` of them. -/
def bitsOf (n v : Nat) : List Bool := (List.range n).map v.testBit

def ofBits (bs : List Bool) : Nat := bs.foldr (fun b acc => b.toNat + 2 * acc) 0

def valueOf (a : List Word) : Nat := (pairC a).int.toNat

/-- R115. -/
def aluBrev (t : IntTy) (a : List Word) : AluOut :=
  { words := genWords t (ofBits (bitsOf t.w (valueOf a)).reverse : Nat) }
def aluPopc (t : IntTy) (a : List Word) : AluOut :=
  .word (.gen (BitVec.ofNat 32 ((bitsOf t.w (valueOf a)).count true)))
def aluClz (t : IntTy) (a : List Word) : AluOut :=
  .word (.gen (BitVec.ofNat 32 ((bitsOf t.w (valueOf a)).reverse.takeWhile (!·)).length))
def aluCtz (t : IntTy) (a : List Word) : AluOut :=
  .word (.gen (BitVec.ofNat 32 ((bitsOf t.w (valueOf a)).takeWhile (!·)).length))

/-- One byte of perm (R116): the byte and what it adds to the prediction. -/
def permByte (a b : Word) (sel : Nat) : Nat × Nat :=
  let j := sel % 8
  let src := if j < 4 then byteC b j else byteC a (j - 4)
  match sel / 8 % 4 with
  | 0 => (src.int.toNat, src.rho)
  | 1 => (if 128 ≤ src.int then 255 else 0, 0)
  | 2 => (0, 0)
  | _ => (255, 0)

def aluPerm (a b c : List Word) : AluOut :=
  let s := (c.headD .zero).val.toNat
  let bs := (List.range 4).map fun i => permByte (a.headD .zero) (b.headD .zero) (s / 2 ^ (8 * i) % 256)
  { words := [⟨BitVec.ofNat 32 (bs.foldr (fun x acc => x.1 + 256 * acc) 0), (bs.map (·.2)).sum % 15⟩] }

/-- R119: the comparison of setc. -/
def compareInt (cond : Nat) (x y : Int) : Bool :=
  match cond with
  | 0 => x == y
  | 1 => x != y
  | 2 => decide (x < y)
  | 3 => decide (x ≤ y)
  | 4 => decide (y < x)
  | _ => decide (y ≤ x)

def aluSetc (d cond bop : Nat) (pc : Bool) (t : IntTy) (a b : List Word) : AluOut :=
  let r := compareInt cond ((t.elems a).headD (.const 0)).int ((t.elems b).headD (.const 0)).int
  { preds := [(d, if bop = 1 then r && pc else if bop = 2 then r || pc else r)] }

/-- R120, R121: an operand written as it stands. -/
def aluCopy (a : List Word) : AluOut := { words := a.map Cut.copy }
def aluSel (p : Bool) (a b : List Word) : AluOut := aluCopy (if p then a else b)

/-- R122. -/
def aluPset (d : Nat) (bit0 : Bool) (a : List Word) : AluOut :=
  let x := (a.headD .zero).val
  { preds := [(d, if bit0 then x.getLsbD 0 else x != 0)] }

end Sys2Proof.Machine
end

