-- ==== Sys2Proof/Machine/Num.lean ====
section
/-! DEFINITION. Number formats (02): decoding to exact values, rounding (R59, R60), encoding (R62, R63), with
the significand residues of R130 and the predictions of R131 and R56. -/

namespace Sys2Proof.Machine

open Sys2Proof

/-- A float or narrow integer format with the fields of an FMT record (R51). The formats of R47 are read
the same way, with IEEE special values. -/
structure Fmt where
  sgn : Bool
  ew : Nat
  mw : Nat
  bias : Int
  spm : Nat
  sub : Bool
  ovf : Nat
  cw : Bool
  deriving DecidableEq, Repr

def fmtF16 : Fmt := ⟨true, 5, 10, 15, 1, true, 0, true⟩
def fmtBF16 : Fmt := ⟨true, 8, 7, 127, 1, true, 0, true⟩
def fmtF32 : Fmt := ⟨true, 8, 23, 127, 1, true, 0, true⟩
def fmtF64 : Fmt := ⟨true, 11, 52, 1023, 1, true, 0, true⟩

/-- The float format of a code of R42, packed or scalar. -/
def floatFmt (code : Nat) : Fmt :=
  match code with
  | 0x0C | 0x10 => fmtF16
  | 0x0D | 0x11 => fmtBF16
  | 0x0F => fmtF64
  | _ => fmtF32

/-- The fields of an FMT record (R51). -/
def fmtOfRecord (r : W32) : Fmt :=
  { sgn := r.getLsbD 8, ew := r.toNat / 16 % 8, mw := r.toNat % 16,
    bias := (BitVec.ofNat 8 (r.toNat / 65536)).toInt, spm := r.toNat / 2 ^ 24 % 4,
    sub := r.getLsbD 28, ovf := r.toNat / 2 ^ 26 % 4, cw := r.getLsbD 9 }

def Fmt.width (f : Fmt) : Nat := f.sgn.toNat + f.ew + f.mw

/-- R52. -/
def validRecord (r : W32) : Bool :=
  let f := fmtOfRecord r
  r &&& 0xE000FC80 == 0 && decide (f.ovf < 2) && decide (f.spm < 3) &&
  decide (1 ≤ f.width) && decide (f.width ≤ 8) && (f.cw || decide (f.width ≤ 4)) && decide (f.mw ≤ 8) &&
  (f.ew != 0 || (!f.sub && f.spm == 0 && f.ovf == 0)) &&
  (f.spm != 1 || (decide (2 ≤ f.ew) && decide (1 ≤ f.mw))) &&
  (f.spm != 2 || (decide (1 ≤ f.ew) && decide (1 ≤ f.mw))) &&
  (f.ovf != 1 || f.spm != 0)

/-- Container width of a record (R54). -/
def Fmt.cont (f : Fmt) : Nat := if f.cw then 8 else 4

/-- An exact value: a NaN, an infinity, or (-1)^neg · M · 2^e with the residue of M. -/
inductive FVal where
  | nan (sig : Bool)
  | inf (neg : Bool)
  | fin (neg : Bool) (m : Nat) (mrho : Nat) (e : Int)
  deriving DecidableEq, Repr

/-- fmt_decode (R48, R53) of a code whose residue is `r`: the significand residue is that of R130, and that of a zero
is generated (R133). -/
def Fmt.decode (f : Fmt) (code r : Nat) : FVal :=
  let w := f.width
  let c := code % 2 ^ w
  if f.ew = 0 then
    let v : Int := if f.sgn && c.testBit (w - 1) then (c : Int) - 2 ^ w else c
    .fin (decide (v < 0)) v.natAbs (rho (if v < 0 then (weight w : Int) - r else r)) (-f.bias)
  else
    let s := f.sgn && c.testBit (w - 1)
    let e := c / 2 ^ f.mw % 2 ^ f.ew
    let m := c % 2 ^ f.mw
    let top := 2 ^ f.ew - 1
    if f.spm = 1 && e == top then (if m = 0 then .inf s else .nan (!m.testBit (f.mw - 1)))
    else if f.spm = 2 && e == top && m == 2 ^ f.mw - 1 then .nan false
    else if e = 0 && !f.sub then .fin s 0 0 0
    else
      let ex := max e 1
      let sig := if e = 0 then m else 2 ^ f.mw + m
      let sg := rho ((r : Int) - (if s then (weight (w - 1) : Int) else 0) - (weight f.mw : Int) * (ex - 1))
      if sig = 0 then .fin s 0 0 0 else .fin s sig sg ((ex : Int) - f.bias - f.mw)

/-- Code of the largest finite magnitude, without sign (R53). -/
def Fmt.maxCode (f : Fmt) : Nat :=
  if f.ew = 0 then 2 ^ f.mw - 1
  else match f.spm with
    | 1 => (2 ^ f.ew - 1) * 2 ^ f.mw - 1
    | 2 => 2 ^ (f.ew + f.mw) - 2
    | _ => 2 ^ (f.ew + f.mw) - 1

def Fmt.signCode (f : Fmt) (neg : Bool) : Nat := if neg && f.sgn then 2 ^ (f.width - 1) else 0

/-- Canonical NaN (R47, R53). -/
def Fmt.nanCode (f : Fmt) : Nat :=
  if f.spm = 2 then 2 ^ (f.ew + f.mw) - 1 else (2 ^ f.ew - 1) * 2 ^ f.mw + 2 ^ (f.mw - 1)

def Fmt.infCode (f : Fmt) (neg : Bool) : Nat := (2 ^ f.ew - 1) * 2 ^ f.mw + f.signCode neg

/-- What encoding one element gives: its code, the residue assigned to the code and to bits [63:32] of it,
the flags it sets, and whether it is offending under R63. -/
structure Enc where
  code : Nat
  pred : Nat
  predH : Nat
  flags : BitVec 6
  off : Bool
  deriving DecidableEq, Repr

def Enc.const (code : Nat) (flags : BitVec 6) (off : Bool) : Enc :=
  ⟨code, code % 15, code / 2 ^ 32 % 15, flags, off⟩

/-- One step of the seed (R60). -/
def seedStep (s : W32) : W32 :=
  let x := if s = 0 then 0x6D2B79F5 else s
  let x := x ^^^ (x <<< 13)
  let x := x ^^^ (x >>> 17)
  x ^^^ (x <<< 5)

def seedIter : Nat → W32 → W32
  | 0, s => s
  | n + 1, s => seedIter n (seedStep s)

/-- Position of the leading bit. -/
def lead (m : Nat) : Int := Nat.log2 m

/-- A magnitude rounded to a multiple of 2^q (R59): the multiple, whether it is inexact, the increment, and
the discarded bits with their count. `stk` says that the exact magnitude lies above m · 2^e by less than
one unit of its last bit. `u` is the top 24 bits of the stepped seed. A tie under mode 0 goes to the even multiple: so `rne` of R59
says; in a format with MW 0, whose two neighbours both have the significand 1, so that neither is the even one, this is the
larger magnitude (DESIGN CHOICE, log entry 70). -/
structure Rounded where
  m : Nat
  inexact : Bool
  inc : Nat
  low : Nat
  t : Int
  deriving DecidableEq, Repr

def roundMag (rm u : Nat) (neg : Bool) (m : Nat) (e : Int) (stk : Bool) (q : Int) : Rounded :=
  if q ≤ e then ⟨m * 2 ^ (e - q).toNat, stk, 0, 0, q - e⟩
  else
    let t0 := (q - e).toNat
    let far := decide ((lead m).toNat + 30 < t0)
    let t := if far then 30 else t0
    let hi := if far then 0 else m / 2 ^ t
    let low := if far then 0 else m % 2 ^ t
    let inexact := stk || low != 0 || (far && m != 0)
    let inc : Bool := inexact && (match rm with
      | 0 => decide (2 ^ t < 2 * low) || (2 * low == 2 ^ t && (stk || hi % 2 == 1))
      | 1 => false
      | 2 => neg
      | 3 => !neg
      | _ => decide (2 ^ 24 ≤ low * 2 ^ 24 / 2 ^ t + u))
    ⟨hi + inc.toNat, inexact, inc.toNat, if far then m else low, q - e⟩

/-- Residue of the rounded significand from that of M (R131). -/
def Rounded.rho (r : Rounded) (mrho : Nat) : Nat :=
  if 0 ≤ r.t then
    (Machine.rho ((mrho : Int) - Machine.rho r.low) * unweight r.t.toNat + r.inc) % 15
  else mrho * weight (-r.t).toNat % 15

/-- Special cases of R63 for a float target, `conv` telling a conversion from an arithmetic instruction. -/
inductive Special where
  | overflow (neg : Bool)
  | infinite (neg : Bool)
  | nan (sig : Bool)
  | negative (finite : Bool)
  deriving DecidableEq, Repr

/-- The special value of a target: infinity, else its NaN. -/
def Fmt.special (f : Fmt) (neg : Bool) : Nat := if f.spm = 1 then f.infCode neg else f.nanCode

def specialCase (f : Fmt) (rm ob : Nat) (conv : Bool) (c : Special) : Enc :=
  let sat : BitVec 6 := if conv then flagSAT else 0
  match c with
  | .overflow neg =>
    let mx := f.maxCode + f.signCode neg
    let spec : Bool := f.spm != 0 && ob == 2 && (match rm with
      | 0 => true | 2 => neg | 3 => !neg | _ => false)
    if spec then Enc.const (f.special neg) (flagOF ||| flagNX) true
    else Enc.const mx (flagOF ||| flagNX ||| sat) true
  | .infinite neg =>
    let mx := f.maxCode + f.signCode neg
    if f.spm = 1 then
      (if ob = 1 then Enc.const mx sat false else Enc.const (f.infCode neg) 0 false)
    else if ob = 2 && f.spm == 2 then Enc.const f.nanCode 0 true
    else Enc.const mx sat true
  | .nan sig =>
    if f.spm = 0 then Enc.const 0 flagNV true
    else Enc.const f.nanCode (if sig then flagNV else 0) true
  | .negative finite => Enc.const 0 (if finite then sat ||| flagNX else sat) true

/-- fmt_encode of a finite non-zero magnitude into a float format (R62, R131); a magnitude that rounds to zero takes
a generated residue (R133). -/
def encodeMag (f : Fmt) (rm ob u : Nat) (ftz conv : Bool) (neg : Bool) (m mrho : Nat) (e : Int)
    (stk : Bool) : Enc :=
  let top := e + lead m
  let free := top - f.mw
  let low := 1 - f.bias - f.mw
  let flush := ftz || !f.sub
  let un := roundMag rm u neg m e stk free
  let tiny := decide (free < low) && !(decide (low - free ≤ 1) && decide (2 ^ (f.mw + 1) ≤ un.m))
  if tiny && flush then
    Enc.const (f.signCode neg) (flagUF ||| flagNX) false
  else
    let q := if f.sub then max free low else free
    let r := roundMag rm u neg m e stk q
    let ex := q + f.bias + f.mw
    let code := ((ex - 1) * 2 ^ f.mw + r.m).toNat
    if (f.maxCode : Int) < (ex - 1) * 2 ^ f.mw + r.m then specialCase f rm ob conv (.overflow neg)
    else
      let mr := r.rho mrho
      let fl : BitVec 6 := if r.inexact then (if tiny then flagUF ||| flagNX else flagNX) else 0
      let sr : Int := if neg then weight (f.width - 1) else 0
      if r.m = 0 then Enc.const (f.signCode neg) fl false else
      ⟨code + f.signCode neg, Machine.rho (sr + (weight f.mw : Int) * (ex - 1) + mr),
       Machine.rho (sr + (weight f.mw : Int) * (ex - 1) + (r.m / 2 ^ 32 : Nat)), fl, false⟩

/-- fmt_encode into a float format. -/
def encodeFloat (f : Fmt) (rm ob u : Nat) (ftz conv : Bool) (stk : Bool) (v : FVal) : Enc :=
  match v with
  | .nan sig => specialCase f rm ob conv (.nan sig)
  | .inf neg =>
    if neg && !f.sgn then specialCase f rm ob conv (.negative false)
    else specialCase f rm ob conv (.infinite neg)
  | .fin neg m mrho e =>
    if m = 0 && !stk then Enc.const (f.signCode neg) 0 false
    else if neg && !f.sgn then specialCase f rm ob conv (.negative true)
    else encodeMag f rm ob u ftz conv neg m mrho e stk

/-- A value encoded in an integer range, as a signed value, with the flags it sets and whether it is offending. -/
structure EncInt where
  val : CInt
  flags : BitVec 6
  off : Bool
  deriving DecidableEq, Repr

/-- fmt_encode into an integer range lo..hi with `bias` fraction places (R62, R63). A value that rounds to `lo` itself
is in range, as R43 and R53 hold it there (DEDUCED, log entry 64). -/
def encodeInt (lo hi bias : Int) (rm u : Nat) (v : FVal) : EncInt :=
  match v with
  | .nan _ => ⟨CInt.const 0, flagNV, true⟩
  | .inf neg => ⟨CInt.const (if neg then lo else hi), flagSAT ||| flagNV, true⟩
  | .fin neg m mrho e =>
    if lead m + e + bias > 70 && m != 0 then ⟨CInt.const (if neg then lo else hi), flagSAT, true⟩
    else
      let r := roundMag rm u neg m e false (-bias)
      let s : Int := if neg then -(r.m : Int) else r.m
      if s < lo then ⟨CInt.const lo, flagSAT, true⟩
      else if hi < s then ⟨CInt.const hi, flagSAT, true⟩
      else if s = 0 then ⟨CInt.const 0, 0, false⟩
      else ⟨⟨s, Machine.rho (if neg then -(r.rho mrho : Int) else r.rho mrho)⟩, 0, false⟩

/-- fmt_encode into a narrow format (R54, R62): the code in its container. -/
def encodeNarrow (f : Fmt) (rm ob u : Nat) (v : FVal) : Enc :=
  if f.ew = 0 then
    let lo : Int := if f.sgn then -(2 ^ f.mw) else 0
    let r := encodeInt lo (2 ^ f.mw - 1) f.bias rm u v
    let c := r.val.cut 0 f.width false
    ⟨c.bits.toNat, c.pred, 0, r.flags, r.off⟩
  else encodeFloat f rm ob u false true false v

/-- The top 24 bits of the stepped seed (R60). -/
def seedTop (s : W32) : Nat := s.toNat / 256

/-- Negation of a value. -/
def FVal.neg : FVal → FVal
  | .nan s => .nan s
  | .inf s => .inf (!s)
  | .fin s m r e => .fin (!s) m r e

def FVal.isNan : FVal → Bool
  | .nan _ => true
  | _ => false

def FVal.isSig : FVal → Bool
  | .nan s => s
  | _ => false

/-- The signed integer of a finite value in units of 2^e0, with its residue. -/
def scaled (e0 : Int) (neg : Bool) (m mrho : Nat) (e : Int) : CInt :=
  let c := (CInt.mk m mrho).shl (e - e0).toNat
  if neg then c.neg else c

/-- An exact product; the flag says that it is invalid (0 × ∞). -/
def mulVal (a b : FVal) : FVal × Bool :=
  match a, b with
  | .nan _, _ => (.nan false, false)
  | _, .nan _ => (.nan false, false)
  | .inf s, .inf t => (.inf (s != t), false)
  | .inf s, .fin t m _ _ => if m = 0 then (.nan false, true) else (.inf (s != t), false)
  | .fin s m _ _, .inf t => if m = 0 then (.nan false, true) else (.inf (s != t), false)
  | .fin s m r e, .fin t n q g => (.fin (s != t) (m * n) (r * q % 15) (e + g), false)

/-- Whether a finite value is a zero of the given sign. -/
def isZeroOf (neg : Bool) : FVal → Bool
  | .fin s m _ _ => m == 0 && s == neg
  | _ => false

def expOf : FVal → Int
  | .fin _ _ _ e => e
  | _ => 0

def isInfOf (neg : Bool) : FVal → Bool
  | .inf s => s == neg
  | _ => false

/-- An exact sum of terms (R134, R135); the flag says that it is invalid (∞ − ∞). A zero sum is −0 when
every term is −0, or under RDN when the signs of the terms differ. -/
def sumVal (rm : Nat) (ts : List FVal) : FVal × Bool :=
  if ts.any FVal.isNan then (.nan false, false)
  else if ts.any (isInfOf true) && ts.any (isInfOf false) then (.nan false, true)
  else if ts.any (isInfOf true) then (.inf true, false)
  else if ts.any (isInfOf false) then (.inf false, false)
  else
    let e0 := ts.foldl (fun acc t => min acc (expOf t)) (expOf (ts.headD (.fin false 0 0 0)))
    let s := (ts.map fun t => match t with
      | .fin n m r e => scaled e0 n m r e
      | _ => CInt.const 0).foldl CInt.add (CInt.const 0)
    if s.int = 0 then
      if ts.all (isZeroOf true) then (.fin true 0 0 0, false)
      else if ts.all (isZeroOf false) then (.fin false 0 0 0, false)
      else (.fin (rm == 2) 0 0 0, false)
    else (.fin (decide (s.int < 0)) s.int.natAbs (if s.int < 0 then s.neg.rho else s.rho) e0, false)

/-- Ordering of finite and infinite values (−0 equal to +0). -/
def leVal (a b : FVal) : Bool :=
  match a, b with
  | .nan _, _ => false
  | _, .nan _ => false
  | .inf true, _ => true
  | _, .inf false => true
  | .inf false, _ => false
  | _, .inf true => false
  | .fin s m r e, .fin t n q g =>
    let e0 := min e g
    decide ((scaled e0 s m r e).int ≤ (scaled e0 t n q g).int)

/-- .ftz on an operand (R61): a subnormal reads as zero with its sign. -/
def flushIn (f : Fmt) (v : FVal) : FVal :=
  match v with
  | .fin s m r e => if m < 2 ^ f.mw then .fin s 0 0 0 else .fin s m r e
  | v => v

end Sys2Proof.Machine
end

