-- ==== Sys2Proof/Machine/Special.lean ====
section
/-! DEFINITION. Division, roots and the special functions (R142 to R144). A value is given exactly, or as a
magnitude m · 2^e with a mark that the exact magnitude lies above it by less than one unit; m then has far
more bits than any target, so that rounding it is rounding the exact value. -/

namespace Sys2Proof.Machine

open Sys2Proof

/-- Fraction bits of the fixed-point numbers below. -/
def fixP : Nat := 640

/-- floor(π · 2^640). -/
def fixPi : Nat := 0x3243F6A8885A308D313198A2E03707344A4093822299F31D0082EFA98EC4E6C89452821E638D01377BE5466CF34E90C6CC0AC29B7C97C50DD3F84D5B5B54709179216D5D98979FB1BD1310BA698DFB5AC

/-- floor(ln 2 · 2^640). -/
def fixLn2 : Nat := 0xB17217F7D1CF79ABC9E3B39803F2F6AF40F343267298B62D8A0D175B8BAAFA2BE7B876206DEBAC98559552FB4AFA1B10ED2EAE35C138214427573B291169B8253E96CA16224AE8C51ACBDA11317C387E

/-- What a division, root or special function gives: the value, whether its magnitude is a lower bound,
flags, and a failed check. -/
structure Fun where
  v : FVal
  stk : Bool := false
  flags : BitVec 6 := 0
  bad : Option Nat := none
  deriving DecidableEq, Repr

/-- Integer square root by bits, for numbers below 4^fuel. -/
def isqrt : Nat → Nat → Nat
  | 0, _ => 0
  | fuel + 1, n =>
    let s := 2 * isqrt fuel (n / 4)
    if (s + 1) * (s + 1) ≤ n then s + 1 else s

/-- Sum of the terms x^k/k! from term number k on. -/
def expLoop : Nat → Nat → Nat → Nat → Nat → Nat
  | 0, _, _, _, acc => acc
  | fuel + 1, k, x, term, acc =>
    let t := term * x / 2 ^ fixP / k
    expLoop fuel (k + 1) x t (acc + t)

/-- e^x in fixed point for 0 ≤ x < 1. -/
def expFix (x : Nat) : Nat := expLoop 150 1 x (2 ^ fixP) (2 ^ fixP)

def sinLoop : Nat → Nat → Nat → Int → Int → Int
  | 0, _, _, _, acc => acc
  | fuel + 1, k, xx, term, acc =>
    let t := -(term * xx / 2 ^ fixP / ((k + 1) * (k + 2) : Nat))
    sinLoop fuel (k + 2) xx t (acc + t)

/-- sin x in fixed point for 0 ≤ x ≤ π/2. -/
def sinFix (x : Nat) : Nat := (sinLoop 80 1 (x * x / 2 ^ fixP) x x).toNat

def atanhLoop : Nat → Nat → Int → Int → Int → Int
  | 0, _, _, _, acc => acc
  | fuel + 1, k, zz, pw, acc =>
    let p := pw * zz / 2 ^ fixP
    atanhLoop fuel (k + 2) zz p (acc + p / (k + 2 : Nat))

/-- atanh z in fixed point for |z| ≤ 1/5. -/
def atanhFix (z : Int) : Int := atanhLoop 150 1 (z * z / 2 ^ fixP) z z

/-- e^(−y) for y > 0 as (E, k) with value E · 2^(−640 − k). -/
def expNeg (y : Nat) : Nat × Nat :=
  let k := y / fixLn2 + 1
  (expFix (k * fixLn2 - y), k)

/-- Whether a significand residue agrees with its significand. -/
def sigOk (m mrho : Nat) : Bool := m % 15 == mrho % 15

def badNan (sig : Bool) : Fun := { v := .nan false, flags := if sig then flagNV else 0 }

/-- Quotient of two finite non-zero magnitudes, with the identity of R132. -/
def divFin (neg : Bool) (m ms : Nat) (e : Int) (n ns : Nat) (g : Int) : Fun :=
  let q := m * 2 ^ 140 / n
  let r := m * 2 ^ 140 % n
  let q0 := m * 2 ^ Config.divExtra / n
  let r0 := m * 2 ^ Config.divExtra % n
  { v := .fin neg q (q % 15) (e - g - 140), stk := r != 0,
    bad := if sigOk m ms && sigOk n ns then none
      else if ms * weight Config.divExtra % 15 = (rho q0 * ns + rho r0) % 15 then none else some 3 }

/-- fdiv (R144). Infinity over zero and zero over infinity stand in no row: they give infinity and zero with sign
a XOR b and no flag, as for a finite other operand (DESIGN CHOICE, log entry 64). -/
def funDiv (a b : FVal) : Fun :=
  match a, b with
  | .nan s, .nan t => badNan (s || t)
  | .nan s, _ => badNan s
  | _, .nan t => badNan t
  | .inf _, .inf _ => badNan true
  | .inf s, .fin t _ _ _ => { v := .inf (s != t) }
  | .fin s _ _ _, .inf t => { v := .fin (s != t) 0 0 0 }
  | .fin s m ms e, .fin t n ns g =>
    if n = 0 then (if m = 0 then badNan true else { v := .inf (s != t), flags := flagDZ })
    else if m = 0 then { v := .fin (s != t) 0 0 0 }
    else divFin (s != t) m ms e n ns g

def funRcp (a : FVal) : Fun := funDiv (.fin false 1 1 0) a

/-- Square root of m · 2^e: the exponent is made even, the root taken with 90 more bits. -/
def funSqrt (a : FVal) : Fun :=
  match a with
  | .nan s => badNan s
  | .inf s => if s then badNan true else { v := .inf false }
  | .fin s m ms e =>
    if m = 0 then { v := .fin s 0 0 0 }
    else if s then badNan true
    else
      let odd := (e % 2).toNat
      let n := m * 2 ^ odd * 4 ^ 90
      let r := isqrt 130 n
      { v := .fin false r (r % 15) ((e - odd) / 2 - 90), stk := r * r != n,
        bad := if sigOk m ms then none else some 3 }

/-- A special function's first step compares the operand's residue (R132). -/
def stepBad (m ms : Nat) : Option Nat := if sigOk m ms then none else some 0

def funRsq (a : FVal) : Fun :=
  match a with
  | .nan s => badNan s
  | .inf s => if s then badNan true else { v := .fin false 0 0 0 }
  | .fin s m ms e =>
    if m = 0 then { v := .inf s, flags := flagDZ }
    else if s then badNan true
    else
      let odd := (e % 2).toNat
      let n := m * 2 ^ odd
      let r := isqrt 130 (4 ^ 110 / n)
      { v := .fin false r (r % 15) (-((e - odd) / 2) - 110), stk := r * r * n != 4 ^ 110, bad := stepBad m ms }

def funExp2 (a : FVal) : Fun :=
  match a with
  | .nan s => badNan s
  | .inf s => if s then { v := .fin false 0 0 0 } else { v := .inf false }
  | .fin s m ms e =>
    if m = 0 then { v := .fin false 1 1 0 }
    else if 11 < lead m + e then
      (if s then { v := .fin false 1 1 (-3000), stk := true, bad := stepBad m ms }
       else { v := .fin false 1 1 3000, bad := stepBad m ms })
    else
      let x : Int := if s then -(m : Int) else m
      let d : Nat := 2 ^ (-e).toNat
      let k := if 0 ≤ e then x * 2 ^ e.toNat else x.fdiv d
      let f := if 0 ≤ e then 0 else (x.fmod d).toNat
      if f = 0 then { v := .fin false 1 1 k, bad := stepBad m ms }
      else
        let y := expFix (f * fixLn2 / d)
        { v := .fin false y (y % 15) (k - fixP), stk := true, bad := stepBad m ms }

def funLog2 (a : FVal) : Fun :=
  match a with
  | .nan s => badNan s
  | .inf s => if s then badNan true else { v := .inf false }
  | .fin s m ms e =>
    if m = 0 then { v := .inf true, flags := flagDZ }
    else if s then badNan true
    else
      let l := (lead m).toNat
      if m = 2 ^ l then
        let k := e + l
        { v := .fin (decide (k < 0)) k.natAbs (k.natAbs % 15) 0, bad := stepBad m ms }
      else
        let up := decide (3 * 2 ^ l < 2 * m)
        let k : Int := e + l + (if up then 1 else 0)
        let den : Int := if up then 2 ^ (l + 1) else 2 ^ l
        let z := (((m : Int) - den) * 2 ^ fixP).tdiv (m + den)
        let t := k * 2 ^ fixP + (2 * atanhFix z * 2 ^ fixP).tdiv fixLn2
        { v := .fin (decide (t < 0)) t.natAbs (t.natAbs % 15) (-(fixP : Int)), stk := true, bad := stepBad m ms }

/-- Fraction of a finite value below one, in units of 1/d: the value modulo 2 for a negative exponent. -/
def funSin (a : FVal) : Fun :=
  match a with
  | .nan s => badNan s
  | .inf _ => badNan true
  | .fin s m ms e =>
    if m = 0 then { v := .fin s 0 0 0 }
    else if 0 ≤ e then { v := .fin s 0 0 0, bad := stepBad m ms }
    else
      let d := 2 ^ (-e).toNat
      let x := m % (2 * d)
      let neg := s != decide (d ≤ x)
      let r0 := x % d
      if r0 = 0 then { v := .fin s 0 0 0, bad := stepBad m ms }
      else if 2 * r0 = d then { v := .fin neg 1 1 0, bad := stepBad m ms }
      else
        let r := if d < 2 * r0 then d - r0 else r0
        let y := sinFix (fixPi * r / d)
        { v := .fin neg y (y % 15) (-(fixP : Int)), stk := true, bad := stepBad m ms }

def funCos (a : FVal) : Fun :=
  match a with
  | .nan s => badNan s
  | .inf _ => badNan true
  | .fin _ m ms e =>
    if m = 0 then { v := .fin false 1 1 0 }
    else if 0 ≤ e then { v := .fin (e == 0 && m % 2 == 1) 1 1 0, bad := stepBad m ms }
    else
      let d := 2 ^ (-e).toNat
      let x := m % (2 * d)
      let r1 := if d < x then 2 * d - x else x
      let neg := decide (d < 2 * r1)
      let r := if neg then d - r1 else r1
      if r = 0 then { v := .fin neg 1 1 0, bad := stepBad m ms }
      else if 2 * r = d then { v := .fin false 0 0 0, bad := stepBad m ms }
      else
        let y := sinFix (fixPi * (d - 2 * r) / (2 * d))
        { v := .fin neg y (y % 15) (-(fixP : Int)), stk := true, bad := stepBad m ms }

/-- |a| in fixed point, for |a| below 2^30. -/
def toFix (m : Nat) (e : Int) : Nat :=
  if 0 ≤ e then m * 2 ^ e.toNat * 2 ^ fixP else m * 2 ^ fixP / 2 ^ (-e).toNat

def funTanh (a : FVal) : Fun :=
  match a with
  | .nan s => badNan s
  | .inf s => { v := .fin s 1 1 0 }
  | .fin s m ms e =>
    if m = 0 then { v := .fin s 0 0 0 }
    else
      let one := 2 ^ fixP
      let y := if 6 < lead m + e then one - 1
        else
          let (x, k) := expNeg (2 * toFix m e)
          let t := x / 2 ^ k
          (one - t) * one / (one + t)
      { v := .fin s y (y % 15) (-(fixP : Int)), stk := true, bad := stepBad m ms }

def funSigm (a : FVal) : Fun :=
  match a with
  | .nan s => badNan s
  | .inf s => if s then { v := .fin false 0 0 0 } else { v := .fin false 1 1 0 }
  | .fin s m ms e =>
    if m = 0 then { v := .fin false 1 1 (-1) }
    else
      let one := 2 ^ fixP
      if 6 < lead m + e then
        (if s then { v := .fin false 1 1 (-3000), stk := true, bad := stepBad m ms }
         else { v := .fin false (one - 1) 0 (-(fixP : Int)), stk := true, bad := stepBad m ms })
      else
        let (x, k) := expNeg (toFix m e)
        let t := x / 2 ^ k
        if s then
          let y := x * one / (one + t)
          { v := .fin false y (y % 15) (-(fixP : Int) - k), stk := true, bad := stepBad m ms }
        else
          let y := one * one / (one + t)
          { v := .fin false y (y % 15) (-(fixP : Int)), stk := true, bad := stepBad m ms }

end Sys2Proof.Machine
end

