-- ==== Sys2Proof/Machine/Float.lean ====
section
/-! DEFINITION. Floating-point arithmetic of one lane (05 R125 to R144). -/

namespace Sys2Proof.Machine

open Sys2Proof

/-- The container shape of a float format code (R50). -/
def floatShape (code : Nat) : IntTy :=
  match code with
  | 0x0C | 0x0D => ⟨16, false, false⟩
  | 0x10 | 0x11 => ⟨16, false, true⟩
  | 0x0F => ⟨64, false, false⟩
  | _ => ⟨32, false, false⟩

/-- Element values of an operand, subnormals flushed under .ftz. -/
def floatElems (code : Nat) (ftz : Bool) (ws : List Word) : List FVal :=
  ((floatShape code).elemsU ws).map fun c =>
    let v := (floatFmt code).decode c.int.toNat c.rho
    if ftz then flushIn (floatFmt code) v else v

/-- Words of a result from its encoded elements (R47, R50, R131). -/
def placeEnc (code : Nat) (es : List Enc) : List Cut :=
  let e0 := es.headD (Enc.const 0 0 false)
  let e1 := (es.drop 1).headD (Enc.const 0 0 false)
  let w (e : Enc) : Cut := ⟨BitVec.ofNat 32 e.code, e.pred⟩
  if (floatShape code).packed then [packCut (w e0) (w e1)]
  else if (floatShape code).w = 64 then
    [⟨BitVec.ofNat 32 e0.code, rho ((e0.pred : Int) - e0.predH)⟩, ⟨BitVec.ofNat 32 (e0.code / 2 ^ 32), e0.predH⟩]
  else [w e0]

/-- Encodes elements in order; under mode 4 each advances the seed once (R60). -/
def encodeAll (enc : Nat → Fun → Enc) (rm : Nat) : W32 → List Fun → List Enc × W32
  | seed, [] => ([], seed)
  | seed, x :: xs =>
    let s := if rm = 4 then seedStep seed else seed
    let e := enc (seedTop s) x
    let (es, s') := encodeAll enc rm s xs
    (e :: es, s')

/-- RM and FTZ of the rounding XM field (R127). -/
def rmOf (xm : BitVec 6) : Nat := (xm &&& 7).toNat
def ftzOf (xm : BitVec 6) : Bool := xm.getLsbD 3

/-- R128: exact element results rounded into format `code`. -/
def roundOut (code : Nat) (xm : BitVec 6) (seed : W32) (vs : List Fun) : AluOut :=
  let rm := rmOf xm
  let (es, s) := encodeAll (fun u x => encodeFloat (floatFmt code) rm 2 u (ftzOf xm) false x.stk x.v) rm seed vs
  { words := placeEnc code es,
    flags := (vs.map (·.flags)).foldl (· ||| ·) ((es.map (·.flags)).foldl (· ||| ·) 0),
    seed := if rm = 4 then some s else none,
    bad := vs.findSome? (·.bad) }

def nvIf (b : Bool) : BitVec 6 := if b then flagNV else 0

/-- NaN operands give a quiet result here, so that only a signalling operand or an invalid operation sets NV. -/
def arith (ops : List FVal) (r : FVal × Bool) : Fun :=
  { v := r.1, flags := nvIf (ops.any FVal.isSig || r.2) }

/-- R134. -/
def aluFadd (code : Nat) (xm : BitVec 6) (seed : W32) (a b : List Word) : AluOut :=
  roundOut code xm seed (List.zipWith (fun x y => arith [x, y] (sumVal (rmOf xm) [x, y]))
    (floatElems code (ftzOf xm) a) (floatElems code (ftzOf xm) b))
def aluFsub (code : Nat) (xm : BitVec 6) (seed : W32) (a b : List Word) : AluOut :=
  roundOut code xm seed (List.zipWith (fun x y => arith [x, y] (sumVal (rmOf xm) [x, y.neg]))
    (floatElems code (ftzOf xm) a) (floatElems code (ftzOf xm) b))
def aluFmul (code : Nat) (xm : BitVec 6) (seed : W32) (a b : List Word) : AluOut :=
  roundOut code xm seed (List.zipWith (fun x y => arith [x, y] (mulVal x y))
    (floatElems code (ftzOf xm) a) (floatElems code (ftzOf xm) b))

/-- A fused sum of products and an addend: an invalid product or sum gives the NaN (R134, R135). -/
def fused (rm : Nat) (ps : List (FVal × FVal)) (c : FVal) : Fun :=
  let prods := ps.map fun p => mulVal p.1 p.2
  let s := sumVal rm (prods.map (·.1) ++ [c])
  let bad := prods.any (·.2)
  arith (c :: ps.flatMap fun p => [p.1, p.2]) (if bad then .nan false else s.1, bad || s.2)

def aluFfma (code : Nat) (xm : BitVec 6) (seed : W32) (a b c : List Word) : AluOut :=
  let e := floatElems code (ftzOf xm)
  roundOut code xm seed (List.zipWith (fun p z => fused (rmOf xm) [p] z) ((e a).zip (e b)) (e c))

/-- R135. -/
def aluFdot2 (code : Nat) (xm : BitVec 6) (seed : W32) (a b c : List Word) : AluOut :=
  let e := floatElems code (ftzOf xm)
  let z := (floatElems 0x0E (ftzOf xm) c).headD (.fin false 0 0 0)
  roundOut 0x0E xm seed [fused (rmOf xm) ((e a).zip (e b)) z]

/-- The power of a scaling (R136). -/
def scaleVal (v : FVal) (k : Int) : Fun :=
  { v := match v with
      | .fin s m r e => .fin s m r (if m = 0 then e else e + k)
      | .nan _ => .nan false
      | v => v,
    flags := nvIf v.isSig }

def aluFscale (code : Nat) (xm : BitVec 6) (seed : W32) (a b : List Word) : AluOut :=
  let ks : List Int :=
    if (floatShape code).packed then ((intTy 0x0A).elems b).map (·.int) else [(word32 true b).int]
  roundOut code xm seed (List.zipWith scaleVal (floatElems code (ftzOf xm) a) ks)

/-- R137: one element rounded to an integral value; no flag but NV. -/
def roundIntegral (f : Fmt) (rm u : Nat) (v : FVal) : FVal :=
  match v with
  | .fin s m r e =>
    if (f.mw : Int) ≤ lead m + e || m = 0 then v
    else
      let q := roundMag rm u s m e false 0
      .fin s q.m (q.rho r) 0
  | v => v

def aluFrnd (code : Nat) (xm : BitVec 6) (seed : W32) (a : List Word) : AluOut :=
  let f := floatFmt code
  let rm := rmOf xm
  let vs := floatElems code (ftzOf xm) a
  let (es, s) := encodeAll (fun u x =>
    encodeFloat f 1 2 0 false false false (roundIntegral f rm u x.v)) rm seed (vs.map fun v => { v := v })
  { words := placeEnc code es, flags := nvIf (vs.any FVal.isSig), seed := if rm = 4 then some s else none }

/-- The order of fmin and fmax: −0 below +0 (R138). -/
def leOrd (a b : FVal) : Bool :=
  if leVal a b then (if leVal b a then (isZeroOf true a || !isZeroOf true b) else true) else false

/-- R138 for one element: 0 for the first operand, 1 for the second, 2 for the canonical NaN. Of equal operands
other than zeros, which differ at most in the residue of one value, the first is kept (DESIGN CHOICE: R138 is silent on it;
log entry 70). -/
def pickMinMax (mx : Bool) (a b : FVal) : Nat :=
  if a.isNan && b.isNan then 2 else if a.isNan then 1 else if b.isNan then 0
  else if mx then (if leOrd b a then 0 else 1) else (if leOrd a b then 0 else 1)

/-- An element kept with its bits and residue, or its flushed zero, or the canonical NaN. -/
def keepElem (f : Fmt) (k : Nat) (pick : Nat) (a b : CInt) (va vb : FVal) : Enc :=
  let c := if pick = 0 then a else b
  let v := if pick = 0 then va else vb
  if pick = 2 then Enc.const f.nanCode 0 false
  else match v with
    | .fin s 0 _ _ =>
      if c.int.toNat % 2 ^ (f.width - 1) = 0 then ⟨c.int.toNat, c.rho, k, 0, false⟩
      else Enc.const (f.signCode s) 0 false
    | _ => ⟨c.int.toNat, c.rho, k, 0, false⟩

def aluMinMax (mx : Bool) (code : Nat) (xm : BitVec 6) (a b : List Word) : AluOut :=
  let f := floatFmt code
  let va := floatElems code (ftzOf xm) a
  let vb := floatElems code (ftzOf xm) b
  let ca := (floatShape code).elemsU a
  let cb := (floatShape code).elemsU b
  let picks := List.zipWith (pickMinMax mx) va vb
  let hiOf (ws : List Word) : Nat := ((ws.drop 1).headD .zero).res.toNat
  let hs := picks.map fun p => if p = 0 then hiOf a else hiOf b
  let es := List.zipWith (fun (pv : Nat × Nat × FVal × FVal) (c : CInt × CInt) =>
      keepElem f pv.2.1 pv.1 c.1 c.2 pv.2.2.1 pv.2.2.2)
    (picks.zip (hs.zip (va.zip vb))) (ca.zip cb)
  { words := placeEnc code es, flags := nvIf (va.any FVal.isSig || vb.any FVal.isSig) }

/-- R139. -/
def aluFcmp (d cond : Nat) (quiet : Bool) (code : Nat) (ftz : Bool) (a b : List Word) : AluOut :=
  let x := (floatElems code ftz a).headD (.nan false)
  let y := (floatElems code ftz b).headD (.nan false)
  let un := x.isNan || y.isNan
  let r := match cond with
    | 0 => leVal x y && leVal y x
    | 1 => !(leVal x y && leVal y x)
    | 2 => !un && !leVal y x
    | 3 => leVal x y
    | 4 => !un && !leVal x y
    | 5 => leVal y x
    | 6 => un
    | _ => !un
  let nv := x.isSig || y.isSig || (un && decide (2 ≤ cond) && decide (cond ≤ 5) && !quiet)
  { preds := [(d, r)], flags := nvIf nv }

/-- R140: the bit of the class. -/
def classBit (f : Fmt) (v : FVal) : Nat :=
  match v with
  | .nan s => if s then 8 else 9
  | .inf s => if s then 0 else 7
  | .fin s m _ _ =>
    if m = 0 then (if s then 3 else 4)
    else if m < 2 ^ f.mw then (if s then 2 else 5)
    else (if s then 1 else 6)

def aluFclass (code : Nat) (a : List Word) : AluOut :=
  let v := (floatElems code false a).headD (.nan false)
  .word (.gen (BitVec.ofNat 32 (2 ^ classBit (floatFmt code) v)))

/-- R141: one element with a new sign; the residue moves by 8 for each sign changed. -/
def signElem (w mode : Nat) (a b : CInt) : CInt :=
  let sa := decide (2 ^ (w - 1) ≤ a.int)
  let sb := decide (2 ^ (w - 1) ≤ b.int)
  let s := match mode with | 0 => sb | 1 => !sb | _ => sa != sb
  let d : Int := (s.toNat : Int) - sa.toNat
  ⟨a.int + d * 2 ^ (w - 1), rho ((a.rho : Int) + 8 * d)⟩

def aluFcopysign (code : Nat) (xm : BitVec 6) (a b : List Word) : AluOut :=
  let t := floatShape code
  let mode := (xm &&& 3).toNat
  if t.w = 64 then
    let h (ws : List Word) : CInt := wordC ((ws.drop 1).headD .zero)
    { words := [Cut.copy (a.headD .zero), (signElem 32 mode (h a) (h b)).cut 0 32 false] }
  else { words := t.place 0 (zip2 (signElem t.w mode) (t.elemsU a) (t.elemsU b)) }

/-- A one-operand function element by element (R142, R143). -/
def aluFun1 (g : FVal → Fun) (code : Nat) (xm : BitVec 6) (seed : W32) (a : List Word) : AluOut :=
  roundOut code xm seed ((floatElems code (ftzOf xm) a).map g)

def aluFdiv (code : Nat) (xm : BitVec 6) (seed : W32) (a b : List Word) : AluOut :=
  roundOut code xm seed (List.zipWith funDiv (floatElems code (ftzOf xm) a) (floatElems code (ftzOf xm) b))

/-! ### Conversions (R145 to R150) -/

def isFloatCode (c : Nat) : Bool := decide (0x0C ≤ c) && decide (c ≤ 0x0F)
def isIntCode (c : Nat) : Bool := decide (0x02 ≤ c) && decide (c ≤ 0x09)

/-- The pairs that cvt accepts (R145). -/
def cvtPair (dst src : Nat) : Bool :=
  (isFloatCode dst && (isFloatCode src || isIntCode src)) || (isIntCode dst && isFloatCode src) ||
  ((dst == 0x10 || dst == 0x11) && (src == 0x10 || src == 0x11))

def intVal (c : CInt) : FVal :=
  .fin (decide (c.int < 0)) c.int.natAbs (if c.int < 0 then c.neg.rho else c.rho) 0

/-- R146. -/
def aluCvt (dst src : Nat) (xm : BitVec 6) (seed : W32) (a : List Word) : AluOut :=
  let rm := rmOf xm
  let ob := (xm >>> 4).toNat
  let ftz := ftzOf xm
  let vs := if isIntCode src then ((intTy src).elems a).map intVal else floatElems src ftz a
  if isIntCode dst then
    let t := intTy dst
    let s := if rm = 4 then seedStep seed else seed
    let r := encodeInt t.lo t.hi 0 rm (seedTop s) (vs.headD (.nan false))
    { words := t.place 0 [r.val], flags := r.flags, seed := if rm = 4 then some s else none }
  else
    let (es, s) := encodeAll (fun u x => encodeFloat (floatFmt dst) rm ob u ftz true false x.v) rm seed
      (vs.map fun v => { v := v })
    { words := placeEnc dst es,
      flags := (es.map (·.flags)).foldl (· ||| ·) (nvIf (vs.any FVal.isSig)),
      seed := if rm = 4 then some s else none }

/-- R149. -/
def aluCvtxEnc (f : Fmt) (code : Nat) (xm : BitVec 6) (seed : W32) (a b : List Word) : AluOut :=
  let rm := rmOf xm
  let vs := floatElems code false a ++ floatElems code false b
  let (es, s) := encodeAll (fun u x => encodeNarrow f rm (xm >>> 4).toNat u x.v) rm seed
    (vs.map fun v => { v := v })
  let w := es.foldr (fun e acc => e.code + acc * 2 ^ f.cont) 0
  { words := [⟨BitVec.ofNat 32 w, (es.map (·.pred)).sum % 15⟩],
    flags := (es.map (·.flags)).foldl (· ||| ·) (nvIf (vs.any FVal.isSig)),
    seed := if rm = 4 then some s else none }

/-- A narrow NaN decodes as quiet (R150). -/
def quiet : FVal → FVal
  | .nan _ => .nan false
  | v => v

/-- R150. -/
def aluCvtxDec (f : Fmt) (code : Nat) (xm : BitVec 6) (seed : W32) (a b : List Word) : AluOut :=
  let rm := rmOf xm
  let n := 32 / f.cont
  let i := (b.headD .zero).val.toNat % n
  let x := (a.headD .zero).val.toNat
  let elem (k : Nat) : Fun :=
    let c := x / 2 ^ (f.cont * k) % 2 ^ f.width
    { v := quiet (f.decode c (c % 15)) }
  let ks := if (floatShape code).packed then [i, (i + 1) % n] else [i]
  let (es, s) := encodeAll (fun u v => encodeFloat (floatFmt code) rm (xm >>> 4).toNat u false true false v.v)
    rm seed (ks.map elem)
  { words := placeEnc code es, flags := (es.map (·.flags)).foldl (· ||| ·) 0,
    seed := if rm = 4 then some s else none }

end Sys2Proof.Machine
end

