-- ==== Sys2Proof/Machine/Aes.lean ====
section
/-! DEFINITION. The ciphers that R314, R415 and R418 name: AES-256 (FIPS 197), its XTS mode for the 72 bytes of a line,
its Galois/counter mode, and HKDF with SHA-384. They stand outside the manual (log entry 67). Bytes are numbers here. -/

namespace Sys2Proof.Machine

open Sys2Proof

/-! ### AES-256 -/

def xtime (a : Nat) : Nat := if a < 128 then 2 * a else (2 * a) ^^^ 0x11B

/-- The product of two bytes in the field of AES. -/
def gmul (a b : Nat) : Nat :=
  (List.range 8).foldl (fun acc i => if b.testBit (7 - i) then xtime acc ^^^ a else xtime acc) 0

/-- a to the power 254, which is the inverse of a non-zero byte. -/
def ginv (a : Nat) : Nat :=
  ((List.range 7).foldl (fun (x : Nat × Nat) _ =>
    let q := gmul x.2 x.2
    (gmul x.1 q, q)) (1, a)).1

def rotByte (a n : Nat) : Nat := (a * 2 ^ n ||| a / 2 ^ (8 - n)) % 256

def aesSub (a : Nat) : Nat :=
  let b := ginv a
  b ^^^ rotByte b 1 ^^^ rotByte b 2 ^^^ rotByte b 3 ^^^ rotByte b 4 ^^^ 0x63

def aesUnsub (a : Nat) : Nat := ginv (rotByte a 1 ^^^ rotByte a 3 ^^^ rotByte a 6 ^^^ 0x05)

def xorBytes (a b : List Nat) : List Nat := List.zipWith (· ^^^ ·) a b

/-- Word i of the key schedule from the earlier ones, newest first. -/
def aesNextKey (i : Nat) (ws : List (List Nat)) : List Nat :=
  let t := ws.headD []
  let rcon := (List.range (i / 8 - 1)).foldl (fun r _ => xtime r) 1
  let t := if i % 8 = 0 then xorBytes ((t.drop 1 ++ t.take 1).map aesSub) [rcon, 0, 0, 0]
    else if i % 8 = 4 then t.map aesSub else t
  xorBytes (ws.getD 7 []) t

/-- The 15 round keys of a 32-byte key. -/
def aesKeys (key : List Nat) : List (List Nat) :=
  let w0 := ((List.range 8).map fun i => (key.drop (4 * i)).take 4).reverse
  let ws := ((List.range 52).foldl (fun ws i => aesNextKey (i + 8) ws :: ws) w0).reverse
  (List.range 15).map fun r => ((ws.drop (4 * r)).take 4).flatten

/-- Rows of a block moved: byte 4c + r comes from column c + k·r. -/
def aesRows (k : Nat) (b : List Nat) : List Nat :=
  (List.range 16).map fun i => b.getD (4 * ((i / 4 + k * (i % 4)) % 4) + i % 4) 0

/-- Columns of a block multiplied by the circulant of four coefficients. -/
def aesMix (cs b : List Nat) : List Nat :=
  (List.range 16).map fun i =>
    (List.range 4).foldl (fun acc j => acc ^^^ gmul (cs.getD ((j + 4 - i % 4) % 4) 0) (b.getD (i / 4 * 4 + j) 0)) 0

def aesEnc (keys : List (List Nat)) (b : List Nat) : List Nat :=
  let b := (List.range 13).foldl (fun b r => xorBytes (aesMix [2, 3, 1, 1] (aesRows 1 (b.map aesSub))) (keys.getD (r + 1) []))
    (xorBytes b (keys.getD 0 []))
  xorBytes (aesRows 1 (b.map aesSub)) (keys.getD 14 [])

def aesDec (keys : List (List Nat)) (b : List Nat) : List Nat :=
  let b := (List.range 13).foldl (fun b r => aesMix [14, 11, 13, 9] (xorBytes ((aesRows 3 b).map aesUnsub) (keys.getD (13 - r) [])))
    (xorBytes b (keys.getD 14 []))
  xorBytes ((aesRows 3 b).map aesUnsub) (keys.getD 0 [])

/-! ### XTS with ciphertext stealing -/

/-- The next tweak: the 16 bytes, least significant first, times x. -/
def xtsNext (t : List Nat) : List Nat :=
  let n := t.reverse.foldl (fun n b => 256 * n + b) 0
  let n := if n < 2 ^ 127 then 2 * n else (2 * n - 2 ^ 128) ^^^ 0x87
  (List.range 16).map fun i => n / 256 ^ i % 256

/-- Tweaks 0 to 4 of a data unit. -/
def xtsTweaks (key : List Nat) (unit : Nat) : List (List Nat) :=
  let t0 := aesEnc (aesKeys (key.drop 32)) ((List.range 16).map fun i => unit / 256 ^ i % 256)
  ((List.range 4).foldl (fun ts _ => xtsNext (ts.headD []) :: ts) [t0]).reverse

/-- A block under a tweak. -/
def xtsBlock (f : List Nat → List Nat) (t b : List Nat) : List Nat := xorBytes (f (xorBytes b t)) t

/-- The 72 bytes of a data unit under the key pair of 64 bytes; the last 8 steal from the fourth block. -/
def xts (enc : Bool) (key : List Nat) (unit : Nat) (bs : List Nat) : List Nat :=
  let ks := aesKeys (key.take 32)
  let f := if enc then aesEnc ks else aesDec ks
  let ts := xtsTweaks key unit
  let t (i : Nat) : List Nat := ts.getD i []
  let blk (i : Nat) : List Nat := (bs.drop (16 * i)).take 16
  let c := xtsBlock f (t (if enc then 3 else 4)) (blk 3)
  let last := xtsBlock f (t (if enc then 4 else 3)) (blk 4 ++ c.drop 8)
  xtsBlock f (t 0) (blk 0) ++ xtsBlock f (t 1) (blk 1) ++ xtsBlock f (t 2) (blk 2) ++ last ++ c.take 8

/-! ### Galois/counter mode -/

def ghashMul (x h : Nat) : Nat :=
  ((List.range 128).foldl (fun (a : Nat × Nat) i =>
    (if x.testBit (127 - i) then a.1 ^^^ a.2 else a.1, if a.2 % 2 = 1 then (a.2 / 2) ^^^ (0xE1 * 2 ^ 120) else a.2 / 2)) (0, h)).1

def beNat (bs : List Nat) : Nat := bs.foldl (fun n b => 256 * n + b) 0
def beBytes (n x : Nat) : List Nat := (bytesBE n x).map (·.toNat)
def pad16 (bs : List Nat) : List Nat := bs ++ List.replicate ((16 - bs.length % 16) % 16) 0

def ghash (h : Nat) (bs : List Nat) : Nat :=
  (List.range (bs.length / 16)).foldl (fun y i => ghashMul (y ^^^ beNat ((bs.drop (16 * i)).take 16)) h) 0

/-- Text opened under a 32-byte key and a 12-byte nonce; none where the tag does not fit. -/
def gcmOpen (key nonce aad cipher tag : List Byte) : Option (List Byte) :=
  let n (bs : List Byte) : List Nat := bs.map (·.toNat)
  let ks := aesKeys (n key)
  let h := beNat (aesEnc ks (List.replicate 16 0))
  let ctr (i : Nat) : List Nat := aesEnc ks (n nonce ++ beBytes 4 i)
  let c := n cipher
  let s := ghash h (pad16 (n aad) ++ pad16 c ++ beBytes 8 (8 * aad.length) ++ beBytes 8 (8 * c.length))
  if n tag = xorBytes (beBytes 16 s) (ctr 1) then
    some ((xorBytes c ((List.range ((c.length + 15) / 16)).flatMap fun i => ctr (i + 2))).map (BitVec.ofNat 8))
  else none

/-! ### HKDF -/

def hmac384 (key m : List Byte) : List Byte :=
  let k := if 128 < key.length then sha384 key else key
  let k := k ++ List.replicate (128 - k.length) 0
  sha384 (k.map (· ^^^ 0x5C) ++ sha384 (k.map (· ^^^ 0x36) ++ m))

/-- The first 32 bytes that HKDF-SHA-384 derives. -/
def hkdf32 (ikm salt info : List Byte) : List Byte := (hmac384 (hmac384 salt ikm) (info ++ [1])).take 32

end Sys2Proof.Machine
end

