-- ==== Sys2Proof/Machine/Mem.lean ====
section
/-! DEFINITION. Storage in canonical form: bytes and residues by rising address, nothing listed that is 0. -/

namespace Sys2Proof.Machine

open Sys2Proof

/-- What an unlisted byte and an unlisted residue read as (R304, R422). -/
def unlisted : Byte := 0

/-- The byte listed at an address. -/
def cellAt (l : List Host.Cell) (a : Nat) : Byte :=
  match l with
  | [] => unlisted
  | (i, b) :: r => if i = a then b else cellAt r a

/-- Sets a byte; keys stay in rising order and a byte equal to `unlisted` is not listed. -/
def cellSet (l : List Host.Cell) (a : Nat) (b : Byte) : List Host.Cell :=
  match l with
  | [] => if b = unlisted then [] else [(a, b)]
  | (i, c) :: r =>
    if i = a then (if b = unlisted then r else (a, b) :: r)
    else if a < i then (if b = unlisted then (i, c) :: r else (a, b) :: (i, c) :: r)
    else (i, c) :: cellSet r a b

/-- Rising keys, none listed that reads as unlisted. -/
def cellsWf : List Host.Cell → Bool
  | [] => true
  | [(_, b)] => b != unlisted
  | (i, b) :: (j, c) :: r => b != unlisted && decide (i < j) && cellsWf ((j, c) :: r)

/-- The canonical form of a memory. -/
def Memory.wf (m : Mem) : Bool := cellsWf m.data && cellsWf m.side

/-- Every memory of the package. -/
def mems (s : State) : List Mem := [s.hbm, s.parity, s.podMem, s.hostMem, s.xs, s.cs, s.ks, s.ob]

def Memory.allWf (s : State) : Bool := (mems s).all Memory.wf

def readByte (m : Mem) (a : Nat) : Byte := cellAt m.data a

/-- The aligned word that holds byte address `a`, little-endian (R7). -/
def readWord (m : Mem) (a : Nat) : Word :=
  let b (i : Nat) : Nat := (cellAt m.data (4 * (a / 4) + i)).toNat
  ⟨BitVec.ofNat 32 (b 0 + 256 * (b 1 + 256 * (b 2 + 256 * b 3))), (cellAt m.side (a / 4)).setWidth 4⟩

def writeWord (m : Mem) (a : Nat) (w : Word) : Mem :=
  let b (i : Nat) : Byte := BitVec.ofNat 8 (w.val.toNat / 256 ^ i)
  let k := 4 * (a / 4)
  { data := cellSet (cellSet (cellSet (cellSet m.data k (b 0)) (k + 1) (b 1)) (k + 2) (b 2)) (k + 3) (b 3),
    side := cellSet m.side (a / 4) (w.res.setWidth 8) }

def readWords (m : Mem) (a n : Nat) : List Word := (List.range n).map fun i => readWord m (a + 4 * i)

def writeWords (m : Mem) (a : Nat) (ws : List Word) : Mem :=
  (ws.foldl (fun (x : Mem × Nat) w => (writeWord x.1 x.2 w, x.2 + 4)) (m, a)).1

/-- Zeroes n words (R304). -/
def clearWords (m : Mem) (a n : Nat) : Mem :=
  { data := m.data.filter fun c => decide (c.1 < 4 * (a / 4)) || decide (4 * (a / 4) + 4 * n ≤ c.1),
    side := m.side.filter fun c => decide (c.1 < a / 4) || decide (a / 4 + n ≤ c.1) }

/-! ### Patches: what a store brings to a word (R157) -/

def byteOf (v : W32) (i : Nat) : Nat := v.toNat / 256 ^ i % 256

/-- Bytes of `v` under a mask over those of `w`. -/
def mergeBytes (mask : BitVec 4) (v w : W32) : W32 :=
  let b (i : Nat) : Nat := if mask.getLsbD i then byteOf v i else byteOf w i
  BitVec.ofNat 32 (b 0 + 256 * (b 1 + 256 * (b 2 + 256 * b 3)))

/-- A word with some bytes replaced: residue less that of the old bytes plus that of the new; poison stays. -/
def mergeWord (mask : BitVec 4) (v : W32) (w : Word) : Word :=
  let sum (x : W32) : Nat := ((List.range 4).filter mask.getLsbD).foldl (fun acc i => acc + byteOf x i) 0
  ⟨mergeBytes mask v w.val,
   if isPoison w then 0xF else BitVec.ofNat 4 (rho ((w.res.toNat : Int) - sum w.val + sum v))⟩

/-- A patch laid over a word; a poisoned sub-word value leaves the container poisoned (R157). -/
def applyPatch (p : Patch) (w : Word) : Word :=
  if p.whole then p.w
  else
    let m := mergeWord p.mask p.w.val w
    if isPoison p.w then ⟨m.val, 0xF⟩ else m

/-- A later patch laid over an earlier one. -/
def joinPatch (new old : Patch) : Patch :=
  if new.whole then new
  else if old.whole then { old with w := applyPatch new old.w }
  else ⟨false, old.mask ||| new.mask, ⟨mergeBytes new.mask new.w.val old.w.val,
    if isPoison new.w || isPoison old.w then 0xF else 0⟩⟩

def wholePatch (w : Word) : Patch := ⟨true, 0xF, w⟩

/-- Patches of a line laid over its words, by word index. -/
def patchLine (ps : AList Patch) (ws : List Word) : List Word :=
  ps.foldl (fun ws p => ws.set p.1 (applyPatch p.2 (ws.getD p.1 .zero))) ws

/-! ### Host memory -/

/-- The line number under which the L2 of B0 holds a line of the host window (R306, R307). -/
def hostL2Line (a : Nat) : Nat := 2 ^ 45 + a / 64

/-- Words stored in host memory at a host address; B0's copies of the lines go, as CXL.cache keeps them coherent. -/
def hostStore (s : State) (a : Nat) (ws : List Word) : State :=
  { s with
    hostMem := writeWords s.hostMem a ws,
    l2 := s.l2.filter fun c => !(decide (hostL2Line a ≤ c.line) && decide (c.line < hostL2Line (a + 4 * ws.length + 63))) }

/-! ### Notifications to the host (R403, R411) -/

/-- A message of R409 with a status, written to an interface's notification ring as 256 bytes; a full ring drops
it, and the next one written carries the count of those dropped in its last word (log entry 20). One that is written raises
MSI-X vector 1 (R403). -/
def notifyWith (s : State) (vi type op tag member status : Nat) (payload : List W32) : State :=
  match s.ifaces[vi]? with
  | none => s
  | some f =>
    let n := f.nqsize.toNat
    if n = 0 then s
    else
      let t := f.nqtail.toNat % n
      if (t + 1) % n = f.nqhead.toNat % n then
        { s with ifaces := lmod s.ifaces vi fun f => { f with dropped := f.dropped + 1 } }
      else
        let h0 := BitVec.ofNat 32 (type * 2 ^ 24 + op * 2 ^ 16 + tag * 2 ^ 8 + member)
        let ws := (h0 :: BitVec.ofNat 32 (status * 2 ^ 24 + payload.length) :: payload)
        let ws := ws ++ List.replicate (63 - ws.length) 0 ++ [BitVec.ofNat 32 f.dropped]
        { hostStore s (f.nqbase.toNat + 256 * t) (ws.map gen) with
          ifaces := lmod s.ifaces vi fun f =>
            { f with nqtail := BitVec.ofNat 32 ((t + 1) % n), dropped := 0, vec1 := f.vec1 + 1 } }

def notify (s : State) (vi type op tag member : Nat) (payload : List W32) : State :=
  notifyWith s vi type op tag member 0 payload

end Sys2Proof.Machine
end

