-- ==== Sys2Proof/Machine/Home.lean ====
section
/-! DEFINITION. The memory system below the cores: HBM4 controllers with the line code (R272 to R276, R280,
R314), the L2, pod and host lines, core caches and the store path (R306, R307). -/

namespace Sys2Proof.Machine

open Sys2Proof

/-- The stack of a local physical address (R306). -/
def stackOf (pa : Nat) : Nat := pa % 2 ^ 40 / 4096 % 12

/-- Data index within the stack (R272). -/
def dataIndex (pa : Nat) : Nat := 64 * (pa % 2 ^ 40 / 4096 / 12) + pa / 64 % 64

/-- The line (address div 64) at a data index of a stack. -/
def lineAt (stack n : Nat) : Nat := (n / 64 * 12 + stack) * 64 + n % 64

/-- The lines of the parity group of a line, and the address of its parity line in `parity`. -/
def groupLines (line : Nat) : List Nat :=
  let pa := 64 * line
  (List.range 15).map fun i => lineAt (stackOf pa) (15 * (dataIndex pa / 15) + i)
def parityAddr (line : Nat) : Nat := 64 * (dataIndex (64 * line) / 15 * 12 + stackOf (64 * line))

def xorWord (a b : Word) : Word := ⟨a.val ^^^ b.val, a.res ^^^ b.res⟩
def xorLine (a b : List Word) : List Word := List.zipWith xorWord a b

def hbmLine (s : State) (line : Nat) : List Word := readWords s.hbm (64 * line) 16

/-- Indexes of the words that are bad under R273. -/
def badWords (ws : List Word) : List Nat :=
  (List.range ws.length).filter fun i => mismatch (ws.getD i .zero)

def maskOf (is : List Nat) : Nat := is.foldl (fun m i => m ||| 2 ^ i) 0

/-- Partition owning a physical address, in its local or its host window, or 0xFF (R276). -/
def ownerPart (s : State) (pa : Nat) : Nat :=
  match s.parts.find? (fun p => [p.loc, p.host].any fun w => match w with
    | some w => decide (w.base ≤ pa) && decide (pa < w.base + w.len)
    | none => false) with
  | some p => p.id
  | none => 0xFF

/-- A controller report (R276), forwarded through the telemetry endpoint. For a line of a host window, which has no stack,
the controller, its COUNT and the member are those that the stack map gives for its address: the model's choice (log entry
62). -/
def report (s : State) (kind src line mask : Nat) : State :=
  let pa := 64 * line
  let c := stackOf pa
  let s := if kind = 0 then
      { s with ctrls := lmod s.ctrls c fun x =>
          { x with corrected := if x.corrected = 0xFFFFFFFF then x.corrected else x.corrected + 1 } }
    else s
  let n := (s.ctrls.getD c ⟨0, 0, 0⟩).corrected
  notify s 0 4 0x81 0 (c / 3)
    [BitVec.ofNat 32 (kind + src * 16 + ownerPart s pa * 256 + mask * 65536),
     BitVec.ofNat 32 pa, BitVec.ofNat 32 (pa / 2 ^ 32), n, BitVec.ofNat 32 c]

/-- A line reaches the cells; an armed inversion acts on this write and is used up (R280). -/
def hbmPut (s : State) (line : Nat) (ws : List Word) : State :=
  let arm := s.armings.find? fun a => a.line == line
  let ws := match arm with
    | none => ws
    | some a => lmod ws a.word fun w =>
        if a.sb then ⟨w.val, w.res ^^^ BitVec.ofNat 4 (2 ^ a.bit)⟩
        else ⟨w.val ^^^ BitVec.ofNat 32 (2 ^ a.bit), w.res⟩
  { s with hbm := writeWords s.hbm (64 * line) ws,
           armings := s.armings.filter fun a => a.line != line }

/-- The parity line takes the difference of two stored images (R272, R314). -/
def parityUpdate (s : State) (line : Nat) (old new : List Word) : State :=
  let a := parityAddr line
  { s with parity := writeWords s.parity a (xorLine (readWords s.parity a 16) (xorLine old new)) }

/-! #### Encryption (R314) -/

/-- The slot a line was last written under and the key it held then, one more than its number; plaintext to begin with. -/
def lineKey (s : State) (line : Nat) : Nat × Nat := (aget s.lineKeys line).getD (0, 0)

/-- A slot with the key that it holds now; slot 0 is plaintext, and an empty slot opens nothing. -/
def keyNow (s : State) (key : Nat) : Option (Nat × Nat) :=
  if key = 0 then some (0, 0) else (aget s.keySlots key).map fun k => (key, k.key + 1)

/-- Whether a slot opens a line: it holds the key under which the line was last written. -/
def opens (s : State) (line key : Nat) : Bool := keyNow s key == some (lineKey s line)

/-- The 72 bytes of a line: its words, then its sideband. -/
def lineBytes (ws : List Word) : List Nat :=
  ws.flatMap (fun w => (List.range 4).map fun i => byteOf w.val i) ++
  (List.range 8).map fun i => (ws.getD (2 * i) .zero).res.toNat + 16 * (ws.getD (2 * i + 1) .zero).res.toNat

def bytesLine (bs : List Nat) : List Word :=
  (List.range 16).map fun i =>
    let b (j : Nat) : Nat := bs.getD (4 * i + j) 0
    ⟨BitVec.ofNat 32 (b 0 + 256 * (b 1 + 256 * (b 2 + 256 * b 3))), BitVec.ofNat 4 (bs.getD (64 + i / 2) 0 / 16 ^ (i % 2))⟩

/-- The stored image of a line under a slot and its key, and the line that an image gives: AES-XTS-256 with the line's
physical address as the tweak. -/
def cipherLine (enc : Bool) (k : Nat × Nat) (line : Nat) (ws : List Word) : List Word :=
  if k.1 = 0 then ws
  else bytesLine (xts enc ((List.range 64).map fun i => (k.2 - 1) / 256 ^ i % 256) (64 * line) (lineBytes ws))

/-- Sixteen words whose bits are open. -/
def openLine (s : State) : List Word × State :=
  ((List.range 16).map fun i => ⟨Config.freeWord (s.free + i), 0xF⟩, { s with free := s.free + 16 })

/-- The image of a line about to be written under a slot; under an empty slot its bits are open, and nothing opens it. -/
def sealLine (s : State) (line key : Nat) (ws : List Word) : List Word × State :=
  match keyNow s key with
  | some k => (cipherLine true k line ws, { s with lineKeys := if key = 0 then adel s.lineKeys line else aset s.lineKeys line k })
  | none =>
    let (ws, s) := openLine s
    (ws, { s with lineKeys := aset s.lineKeys line (key, 0) })

/-- A line as the controller decrypts it under the slot it was written under. -/
def plainLine (s : State) (line : Nat) : List Word := cipherLine false (lineKey s line) line (hbmLine s line)

/-- A line without a bad word that its slot still opens. -/
def lineSound (s : State) (line : Nat) : Bool := opens s line (lineKey s line).1 && (badWords (plainLine s line)).isEmpty

/-- R273: a line read. Under another key than that of the last write, every word is bad (R314). -/
def hbmRead (s : State) (line key src : Nat) : List Word × State :=
  let img := hbmLine s line
  let right := opens s line key
  let (d, s) := match keyNow s key with
    | some k => (cipherLine false k line img, s)
    | none => openLine s
  let bad := if right then badWords d else List.range 16
  if bad.isEmpty then (d, s)
  else
    let others := (groupLines line).filter (· != line)
    let clean := right && others.all (lineSound s)
    let img' := others.foldl (fun acc l => xorLine acc (hbmLine s l)) (readWords s.parity (parityAddr line) 16)
    let c := cipherLine false (lineKey s line) line img'
    let same := (List.range 16).all fun i => bad.contains i || c.getD i .zero == d.getD i .zero
    if clean && (badWords c).isEmpty && same then
      (c, report (hbmPut s line img') 0 src line (maskOf bad))
    else
      let m := if clean then
          (List.range 16).filter fun i => bad.contains i || c.getD i .zero != d.getD i .zero
        else bad
      let new := (List.range 16).map fun i =>
        let w := d.getD i .zero
        if m.contains i then ⟨w.val, 0xF⟩ else w
      let (img', s) := sealLine s line key new
      (new, report (hbmPut (parityUpdate s line img img') line img') 1 src line (maskOf m))

/-- R272, R274: a line write as an indivisible read, compare and write with its parity. -/
def hbmWrite (s : State) (line key : Nat) (ps : AList Patch) : State :=
  let (old, s) := hbmRead s line key 1
  let img := if (keyNow s key).isSome then cipherLine true (lineKey s line) line old else hbmLine s line
  let new := patchLine ps old
  let bad := badWords new
  let new := (List.range 16).map fun i =>
    let w := new.getD i .zero
    if bad.contains i then ⟨w.val, 0xF⟩ else w
  let (img', s) := sealLine s line key new
  let s := hbmPut (parityUpdate s line img img') line img'
  if bad.isEmpty then s else report s 1 1 line (maskOf bad)

/-! ### L2 -/

def l2Find (s : State) (line : Nat) : Option CLine := s.l2.find? fun c => c.line == line

def l2Put (s : State) (c : CLine) : State :=
  { s with l2 := c :: s.l2.filter fun x => x.line != c.line }

def l2Drop (s : State) (line : Nat) : State := { s with l2 := s.l2.filter fun c => c.line != line }

def allPatches (ws : List Word) : AList Patch := (List.range 16).map fun i => (i, wholePatch (ws.getD i .zero))

/-- A dirty line is written back; it stays valid and clean. -/
def l2Clean (s : State) (line : Nat) : State :=
  match l2Find s line with
  | some c => if c.dirty then l2Put (hbmWrite s line c.key (allPatches c.words)) { c with dirty := false } else s
  | none => s

/-- The line that a full cache gives up: of those of least priority the oldest (R188, R310); lines are listed newest
first. -/
def victimOf (cs : List CLine) : Option CLine :=
  cs.foldl (fun b c => match b with
    | some v => if c.prio ≤ v.prio then some c else b
    | none => some c) none

/-- Lines that the 128 MiB L2 of a base die holds (R5). -/
def l2Lines : Nat := 2 ^ 21

/-- A line enters the L2 of its base die; a full one first evicts a line, which is written back if it is dirty. -/
def l2Fill (s : State) (c : CLine) : State :=
  let there := s.l2.filter fun x => x.core == c.core && x.line != c.line
  let s := match if l2Lines ≤ there.length then victimOf there else none with
    | some v => l2Drop (l2Clean s v.line) v.line
    | none => s
  l2Put s c

/-- A local line in its home L2, filled if it is not there. -/
def l2Read (s : State) (line key prio : Nat) : List Word × State :=
  match l2Find s line with
  | some c => (c.words, s)
  | none =>
    let (ws, s) := hbmRead s line key 0
    (ws, l2Fill s ⟨stackOf (64 * line) / 3, line, ws, false, prio, key⟩)

/-! ### Physical lines -/

/-- How a leaf holds a line: cache level, write-through, priority and key (R310). -/
structure LineAttr where
  cl : Nat
  wt : Bool
  prio : Nat
  key : Nat
  deriving DecidableEq, Repr

def windowOf (pa : Nat) : Nat := pa / 2 ^ 50 % 4

def podPkg (pa : Nat) : Nat := pa / 2 ^ 40 % 512

/-- The port that carries requests for a line of the pod window: one in load-store mode (R404). -/
def podPort (s : State) (pa : Nat) : Option Port :=
  let ps := s.ports.filter fun p => !p.ethernet
  ps[Config.podRoute (pa / 64) % max 1 ps.length]?

/-- Whether a pod request has no path: it is marked failed (R405), or no port is in load-store mode (log entry 54). -/
def offlinePa (s : State) (pa : Nat) : Bool :=
  windowOf pa == 1 && (podPort s pa).all fun p => p.failed.contains (podPkg pa)

/-- A request goes out and its reply comes in: the nonce counters of both directions advance (R405). -/
def podTrip (s : State) (pa : Nat) : State :=
  match podPort s pa with
  | none => s
  | some p => { s with ports := s.ports.map fun q =>
      if q.id == p.id then { q with txNonce := acount q.txNonce (podPkg pa), rxNonce := acount q.rxNonce (podPkg pa) } else q }

/-- What a request answered DIE_OFFLINE reads (R159, R401). -/
def poisonLine : List Word := List.replicate 16 ⟨0, 0xF⟩

/-- The host's own address of a line of the host window (R306). -/
def hostLine (pa : Nat) : Nat := pa % 2 ^ 50 / 64 * 64

/-- A line of the host window as the L2 of B0 holds it, filled from the host if it is not there (R307). -/
def hostRead (s : State) (pa prio : Nat) : List Word × State :=
  match l2Find s (hostL2Line (hostLine pa)) with
  | some c => (c.words, s)
  | none =>
    let ws := readWords s.hostMem (hostLine pa) 16
    (ws, l2Fill s ⟨0, hostL2Line (hostLine pa), ws, false, prio, 0⟩)

/-- An uncached access finds no copy of its line in L2 (R307): one that accesses of another kind left there goes to HBM4. -/
def l2Out (s : State) (line : Nat) : State := l2Drop (l2Clean s line) line

/-- A line as its home holds it. -/
def homeRead (s : State) (pa : Nat) (at_ : LineAttr) : List Word × State :=
  let line := pa / 64
  match windowOf pa with
  | 0 => if at_.cl = 2 then hbmRead (l2Out s line) line at_.key 0 else l2Read s line at_.key at_.prio
  | 1 => if offlinePa s pa then (poisonLine, s) else (readWords s.podMem (64 * line) 16, podTrip s pa)
  | _ => if at_.cl = 2 then (readWords s.hostMem (hostLine pa) 16, s) else hostRead s pa at_.prio

/-- Words leave for the host: if one of them is poisoned or mismatches, all of them are sent as poison, and the egress
reports those that were bad (R277). The host has them at once, and B0 keeps no copy (log entry 56). -/
def egressPatch (s : State) (pa : Nat) (ps : AList Patch) : State :=
  let line := pa / 64
  let new := patchLine ps (readWords s.hostMem (hostLine pa) 16)
  let bad := (ps.map (·.1)).filter fun i =>
    let w := new.getD i .zero
    isPoison w || mismatch w
  let new := (List.range 16).map fun i =>
    let w := new.getD i .zero
    if !bad.isEmpty && ps.any (fun p => p.1 == i) then ⟨w.val, 0xF⟩ else w
  let s := hostStore s (hostLine pa) new
  if bad.isEmpty then s else report s 2 3 line (maskOf bad)

/-- Patches performed at a line's home. -/
def homeWrite (s : State) (pa : Nat) (at_ : LineAttr) (ps : AList Patch) : State :=
  let line := pa / 64
  match windowOf pa with
  | 0 =>
    if at_.cl = 2 then hbmWrite (l2Out s line) line at_.key ps
    else
      let (ws, s) := l2Read s line at_.key at_.prio
      let new := patchLine ps ws
      let prio := ((l2Find s line).map (·.prio)).getD at_.prio
      let s := l2Put s ⟨stackOf pa / 3, line, new, true, prio, at_.key⟩
      if at_.wt then l2Clean s line else s
  | 1 =>
    if offlinePa s pa then s
    else { podTrip s pa with podMem := writeWords s.podMem (64 * line) (patchLine ps (readWords s.podMem (64 * line) 16)) }
  | _ => egressPatch s pa ps

/-! ### Core caches and the store path -/

def dcFind (s : State) (core line : Nat) : Option CLine :=
  s.dcache.find? fun c => c.core == core && c.line == line

def dcDrop (s : State) (core line : Nat) : State :=
  { s with dcache := s.dcache.filter fun c => !(c.core == core && c.line == line) }

/-- Every line of a core's cache dropped: what an acquire above `.core` does (R307, R323). -/
def dcDropAll (s : State) (core : Nat) : State :=
  { s with dcache := s.dcache.filter fun c => c.core != core }

/-- A line enters a core's cache of 128 KiB, as its newest or, under `.evf`, as the one to be evicted first (R155). -/
def dcPut (s : State) (core line : Nat) (ws : List Word) (prio : Nat) (evf : Bool) : State :=
  let mine := s.dcache.filter fun c => c.core == core && c.line != line
  let mine := match if 2048 ≤ mine.length then victimOf mine else none with
    | some v => mine.filter fun c => c.line != v.line
    | none => mine
  let rest := s.dcache.filter fun c => c.core != core
  { s with dcache := (if evf then mine ++ [⟨core, line, ws, false, 0, 0⟩] else ⟨core, line, ws, false, prio, 0⟩ :: mine) ++ rest }

/-- An address of the store path: the line number and whether it is in `.xs`. -/
def wcFind (s : State) (core : Nat) (xs : Bool) (line : Nat) : Option WcBuf :=
  s.wc.find? fun b => b.core == core && b.xs == xs && b.line == line

def attrOf (b : WcBuf) : LineAttr := ⟨if b.uncached then 2 else 0, b.through, b.prio, b.key⟩

/-- Words update a core's copy of a line, which keeps its place there or, after a store with `.evf`, is the one to be evicted
first; a page with CL = 2 leaves no copy (R155, R307). -/
def dcUpdate (s : State) (b : WcBuf) : State :=
  match dcFind s b.core b.line with
  | none => s
  | some c =>
    let ws := patchLine b.words c.words
    if b.uncached then dcDrop s b.core b.line
    else if b.evf then dcPut s b.core b.line ws 0 true
    else { s with dcache := s.dcache.map fun x => if x.core == b.core && x.line == b.line then { x with words := ws } else x }

/-- A buffer is sent to its line's home; on the way it updates a copy in the core cache (R307). -/
def wcSend (s : State) (b : WcBuf) : State :=
  let s := { s with wc := s.wc.filter fun x => !(x.core == b.core && x.xs == b.xs && x.line == b.line) }
  if b.xs then
    { s with xs := writeWords s.xs (64 * b.line) (patchLine b.words (readWords s.xs (64 * b.line) 16)) }
  else homeWrite (dcUpdate s b) (64 * b.line) (attrOf b) b.words

def flushLine (s : State) (core : Nat) (xs : Bool) (line : Nat) : State :=
  match wcFind s core xs line with
  | some b => wcSend s b
  | none => s

/-- All buffers of a core sent, oldest first: a release above `.core`, a task's completion, a drain (R307). -/
def flushCore (s : State) (core : Nat) : State :=
  (s.wc.filter fun b => b.core == core).foldl wcSend s

/-- A store enters a buffer of its line; a 65th line sends the oldest buffer first. -/
def wcStore (s : State) (core : Nat) (xs : Bool) (line : Nat) (at_ : LineAttr) (i : Nat) (p : Patch)
    (evf : Bool := false) : State :=
  match wcFind s core xs line with
  | some b =>
    let np := match aget b.words i with
      | some old => joinPatch p old
      | none => p
    { s with wc := s.wc.map fun x =>
        if x.core == core && x.xs == xs && x.line == line then { x with words := aset x.words i np, evf := x.evf || evf } else x }
  | none =>
    let mine := s.wc.filter fun b => b.core == core
    let s := match mine with
      | b :: _ => if mine.length < 64 then s else wcSend s b
      | [] => s
    { s with wc := s.wc ++ [⟨core, xs, line, s.cycle, at_.wt, at_.cl == 2, evf, at_.prio, at_.key, [(i, p)]⟩] }

/-- A word seen through the core's store path. -/
def throughPath (s : State) (core : Nat) (xs : Bool) (line i : Nat) (w : Word) : Word :=
  match wcFind s core xs line with
  | some b => match aget b.words i with
    | some p => applyPatch p w
    | none => w
  | none => w

/-- A `.gm` word as a core's load sees it; `ch` is the cache hint of R155. A load that bypasses the core's cache drops the
line's copy there, so that no later load reads an older value (R326). -/
def gmLoad (s : State) (core pa : Nat) (at_ : LineAttr) (ch : Nat) : Word × State :=
  let line := pa / 64
  let i := pa / 4 % 16
  let cached := windowOf pa == 0 && at_.cl == 0 && ch != 3
  match if cached then dcFind s core line else none with
  | some c =>
    let s := if ch = 2 then dcPut s core line c.words 0 true else s
    (throughPath s core false line i (c.words.getD i .zero), s)
  | none =>
    let (ws, s) := homeRead (if cached then s else dcDrop s core line) pa at_
    let s := if cached && ch != 1 then dcPut s core line ws at_.prio (ch == 2) else s
    (throughPath s core false line i (ws.getD i .zero), s)

def xsLoad (s : State) (core a : Nat) : Word := throughPath s core true (a / 64) (a / 4 % 16) (readWord s.xs a)

end Sys2Proof.Machine
end

