-- ==== Sys2Proof/Machine/Xlate.lean ====
section
/-! DEFINITION. Translation (R308 to R317): walk, TLB, permissions. -/

namespace Sys2Proof.Machine

open Sys2Proof

/-- Bits [63:55] all equal bit 54 (R308). -/
def canonical (va : Nat) : Bool :=
  va / 2 ^ 55 == (if va.testBit 54 then 2 ^ 9 - 1 else 0)

def inWindow (w : Window) (pa : Nat) : Bool := decide (w.base ≤ pa) && decide (pa < w.base + w.len)

/-- Whether an address lies in one of the partition's windows (R306). -/
def inWindows (p : Part) (pa : Nat) : Bool :=
  (p.loc.map (inWindow · pa)).getD false || p.pods.any (fun x => inWindow x.2 pa) ||
  (p.host.map (inWindow · pa)).getD false

def inLocal (p : Part) (pa : Nat) : Bool := (p.loc.map (inWindow · pa)).getD false

/-- Fields of a table entry (R310). -/
def pteType (e : W64) : Nat := e.toNat % 4
def pteAddr (e : W64) : Nat := e.toNat / 2 ^ 16 % 2 ^ 36 * 2 ^ 16
def pteKey (e : W64) : Nat := e.toNat / 2 ^ 52 % 256
def pteCl (e : W64) : Nat := e.toNat / 2 ^ 14 % 4
def pteRD (e : W64) : Bool := e.getLsbD 6
def pteWR (e : W64) : Bool := e.getLsbD 7
def pteEX (e : W64) : Bool := e.getLsbD 8
def pteUS (e : W64) : Bool := e.getLsbD 9
def ptePT (e : W64) : Bool := e.getLsbD 10

def lineAttr (e : W64) : LineAttr := ⟨pteCl e, e.getLsbD 13, e.toNat / 2 ^ 11 % 4, pteKey e⟩

/-- A malformed entry of level L (R311). -/
def malformed (L : Nat) (e : W64) : Bool :=
  let ty := pteType e
  e &&& 0xF00000000000003C != 0 || ty == 3 ||
  (ty == 2 && (pteCl e == 3 || L == 1 || (L == 2 && pteAddr e % 2 ^ 29 != 0))) ||
  (ty == 1 && (L == 3 || e &&& 0x0FF000000000FFFC != 0))

/-- A translation or the fault of R312, with the table entry and its level. -/
inductive Xl where
  | ok (pa : Nat) (e : W64) (level : Nat)
  | fault (cause sub : Nat)
  deriving DecidableEq, Repr

/-- A TYPE 1 entry that the walker of a base die holds for a level of an address (R315). -/
def walkFind (s : State) (base part level pre : Nat) : Option W64 :=
  (s.walks.find? fun w => w.base == base && w.part == part && w.level == level && w.pre == pre).map (·.entry)

/-- A TYPE 1 entry enters the walk cache of a base die, which holds 4,096. -/
def walkPut (s : State) (w : WalkEnt) : State :=
  let mine := s.walks.filter fun x => x.base == w.base && (x.part, x.level, x.pre) != (w.part, w.level, w.pre)
  { s with walks := w :: mine.take 4095 ++ s.walks.filter fun x => x.base != w.base }

/-- The walk of R311 by the walker of a base die, from level L on, `fuel` levels left. An entry that faults is not held, and
a held one whose table the window has left since is read again: every fault comes from a fresh read (R315). -/
def walkFrom (base : Nat) (part : Part) (va : Nat) : Nat → Nat → Nat → State → Xl × State
  | 0, _, _, s => (.fault causeXlate 5, s)
  | fuel + 1, L, t, s =>
    let pre := va / 2 ^ (55 - 13 * L)
    match (walkFind s base part.id L pre).filter fun e => inLocal part (pteAddr e) with
    | some e => walkFrom base part va fuel (L + 1) (pteAddr e) s
    | none =>
      let a := t + 8 * (pre % 2 ^ 13)
      let (ws, s) := homeRead s a ⟨0, false, 0, 0⟩
      let lo := ws.getD (a / 4 % 16) .zero
      let hi := ws.getD (a / 4 % 16 + 1) .zero
      let e : W64 := hi.val ++ lo.val
      if isPoison lo || isPoison hi then (.fault causeXlate 7, s)
      else if pteType e = 0 then (.fault causeXlate (1 + L), s)
      else if malformed L e then (.fault causeXlate 5, s)
      else if pteType e = 1 then
        if !inLocal part (pteAddr e) then (.fault causeXlate 6, s)
        else walkFrom base part va fuel (L + 1) (pteAddr e) (walkPut s ⟨base, part.id, L, pre, e⟩)
      else
        let pa := pteAddr e + va % 2 ^ (if L = 2 then 29 else 16)
        if !inWindows part pa || windowOf pa == 3 then (.fault causeXlate 6, s)
        else if windowOf pa != 0 && pteKey e != 0 then (.fault causeXlate 5, s)
        else if pteKey e != 0 && !part.keys.contains (pteKey e) then (.fault causeProtection 5, s)
        else (.ok pa e L, s)

/-- A fresh walk by the walker of a base die (R309, R311). -/
def walk (s : State) (base : Nat) (part : Part) (va : Nat) : Xl × State :=
  if !canonical va then (.fault causeXlate 1, s)
  else if !part.root.getLsbD 0 then (.fault causeXlate 2, s)
  else
    let t := part.root.toNat / 2 ^ 16 % 2 ^ 36 * 2 ^ 16
    if !inLocal part t then (.fault causeXlate 6, s)
    else walkFrom base part (va % 2 ^ 55) 3 1 t s

def leafBits (level : Nat) : Nat := if level = 2 then 29 else 16

def tlbFind (s : State) (core part va : Nat) : Option Tlb :=
  s.tlb.find? fun t => t.core == core && t.part == part && va / 2 ^ leafBits t.level == t.base

/-- A leaf enters a core's TLB of 2,048 leaves (R315). -/
def tlbPut (s : State) (t : Tlb) : State :=
  let mine := s.tlb.filter fun x => x.core == t.core
  { s with tlb := t :: mine.take 2047 ++ s.tlb.filter fun x => x.core != t.core }

/-- A translation by a core: from its TLB, else by a walk whose leaf the TLB then holds. -/
def translate (s : State) (core part va : Nat) : Xl × State :=
  if !canonical va then (.fault causeXlate 1, s)
  else match tlbFind s core part va with
    | some t => (.ok (pteAddr t.entry + va % 2 ^ leafBits t.level) t.entry t.level, s)
    | none => match partIx s part with
      | none => (.fault causeXlate 2, s)
      | some p => match walk s (baseOf (dieOf core)) p va with
        | (.ok pa e L, s) => (.ok pa e L, tlbPut s ⟨core, part, va / 2 ^ leafBits L, L, e⟩)
        | (x, s) => (x, s)

/-- What an access needs of its leaf (R313). -/
structure Need where
  rd : Bool
  wr : Bool
  ex : Bool
  user : Bool
  deriving DecidableEq, Repr

/-- First permission check that fails, in the order of R313. -/
def permit (n : Need) (e : W64) : Option Nat :=
  if n.user && !pteUS e then some 4
  else if n.ex && !n.user && pteUS e then some 4
  else if n.rd && !pteRD e then some 1
  else if n.wr && !pteWR e then some 2
  else if n.ex && !pteEX e then some 3
  else none

/-- A leaf of the pod window that names this package is its own HBM4, under the slot that its firmware assigned (R306,
R314). -/
def ownLeaf (s : State) (pa : Nat) (e : W64) : Nat × W64 :=
  if windowOf pa = 1 ∧ podPkg pa = s.pkg then
    (pa % 2 ^ 40, e ||| BitVec.ofNat 64 (Config.podKeySlot (pa % 2 ^ 40 / 64) % 256 * 2 ^ 52))
  else (pa, e)

/-- Translation with permissions: the physical address and its leaf, or cause and sub-code. -/
def resolve (s : State) (core part : Nat) (n : Need) (va : Nat) : Except (Nat × Nat) (Nat × W64) × State :=
  match translate s core part va with
  | (.ok pa e _, s) => match permit n e with
    | none => (.ok (ownLeaf s pa e), s)
    | some sub => (.error (causeProtection, sub), s)
  | (.fault c sub, s) => (.error (c, sub), s)

end Sys2Proof.Machine
end

