-- ==== Sys2Proof/Machine/Access.lean ====
section
/-! DEFINITION. Accesses of threads and copies to the five spaces (R153, R154, R304): locating, loading,
storing, releasing and acquiring. -/

namespace Sys2Proof.Machine

open Sys2Proof

/-- A place that passed the checks of R154: the space, the address within the space's storage, the address
the program used, and the leaf's attributes. -/
structure Loc where
  space : Nat
  at_ : Nat
  va : W64
  attr : LineAttr
  pt : Bool
  deriving DecidableEq, Repr

def noAttr : LineAttr := ⟨0, false, 0, 0⟩

def scratchOf (s : State) (g : Nat) : Nat := ((gridOf s g).map (·.kd.scratch)).getD 0
def ksmemOf (s : State) (g : Nat) : Nat := ((gridOf s g).map (·.kd.ksmem)).getD 0

/-- Storage address of byte 0 of a workgroup's `.cs` region, and of its gang's `.ks` region. -/
def csAddr (s : State) (g : Nat) : Nat := ((wgOf s g).map fun W => W.core * 2 ^ 18 + W.csBase).getD 0
def gangOf (s : State) (g : Nat) : Option Gang :=
  (wgOf s g).bind fun W => W.gang.bind fun k => aget s.gangs k
def ksAddr (s : State) (g : Nat) : Nat := ((gangOf s g).map fun k => k.quad * 2 ^ 18 + k.ksBase).getD 0

/-- Whether z bytes at a chip-scratch address lie in the partition's allotment (R153). -/
def inXs (p : Part) (a z : Nat) : Bool :=
  decide (a < 2 ^ 28) && match aget p.xs (a / 2 ^ 26) with
    | some w => decide (w.base ≤ a % 2 ^ 26) && decide (a % 2 ^ 26 + z ≤ w.base + w.len)
    | none => false

/-- Checks 2 to 4 of R154 for `z` bytes at an unbounded address: the place, or the trap. Check 2 asks whether the address
lies in its space; an aligned access whose last bytes do not is refused in the same way. -/
def locate (s : State) (g space z : Nat) (n : Need) (a : Int) : Except Trap Loc × State :=
  let tv : W64 := BitVec.ofInt 64 a
  let prot : Except Trap Loc := .error (trapAt causeProtection 0 tv)
  let mis := trapAt causeMisaligned 0 tv
  let aligned := decide (a % z = 0)
  let n' := a.toNat
  let local_ (size base : Nat) : Except Trap Loc :=
    if a < 0 ∨ size ≤ n' then prot
    else if !aligned then .error mis
    else if size < n' + z then prot
    else .ok ⟨space, base + n', tv, noAttr, false⟩
  match space with
  | 0 => (local_ 128 0, s)
  | 1 => (local_ (scratchOf s g) (csAddr s g), s)
  | 2 => (if (gangOf s g).isNone then prot else local_ (ksmemOf s g) (ksAddr s g), s)
  | 3 =>
    match partIx s (partOf s g) with
    | none => (prot, s)
    | some p =>
      (if a < 0 ∨ inXs p n' 1 = false then prot
       else if !aligned then .error mis
       else if inXs p n' z = false then prot
       else .ok ⟨3, n', tv, noAttr, false⟩, s)
  | _ =>
    if a < 0 ∨ 2 ^ 64 ≤ a ∨ canonical n' = false then (.error (trapAt causeXlate 1 tv), s)
    else if !aligned then (.error mis, s)
    else
      let core := ((getG s g).map (·.core)).getD 0
      match resolve s core (partOf s g) n n' with
      | (.ok (pa, e), s) => (.ok ⟨4, pa, tv, lineAttr e, ptePT e⟩, s)
      | (.error (c, sub), s) => (.error (trapAt c sub tv), s)

/-- The word holding byte `d` past a place, as a thread of the core loads it. -/
def loadWord (s : State) (g l core ch : Nat) (p : Loc) (d : Nat) : Word × State :=
  match p.space with
  | 0 => (((getT s g l).bind fun t => t.lp[(p.at_ + d) / 4]?).getD .zero, s)
  | 1 => (readWord s.cs (p.at_ + d), s)
  | 2 => (readWord s.ks (p.at_ + d), s)
  | 3 => (xsLoad s core (p.at_ + d), s)
  | _ => gmLoad s core (p.at_ + d) p.attr ch

def loadWords (s : State) (g l core ch : Nat) (p : Loc) : Nat → List Word × State
  | 0 => ([], s)
  | n + 1 =>
    let (ws, s) := loadWords s g l core ch p n
    let (w, s) := loadWord s g l core ch p (4 * n)
    (ws ++ [w], s)

/-- A patch stored at byte `d` past a place (R157); `.xs` and `.gm` stores enter the store path. -/
def storePatch (s : State) (g l core : Nat) (p : Loc) (d : Nat) (x : Patch) (evf : Bool := false) : State :=
  let a := p.at_ + d
  match p.space with
  | 0 => modT s g l fun t => { t with lp := lmod t.lp (a / 4) (applyPatch x) }
  | 1 => { s with cs := writeWord s.cs a (applyPatch x (readWord s.cs a)) }
  | 2 => { s with ks := writeWord s.ks a (applyPatch x (readWord s.ks a)) }
  | 3 => wcStore s core true (a / 64) noAttr (a / 4 % 16) x evf
  | _ => if offlinePa s a then s else wcStore s core false (a / 64) p.attr (a / 4 % 16) x evf

def storeWords (s : State) (g l core : Nat) (p : Loc) (ws : List Word) : State :=
  (ws.foldl (fun (x : State × Nat) w => (storePatch x.1 g l core p x.2 (wholePatch w), x.2 + 4)) (s, 0)).1

/-- A release and an acquire by a core at a scope (R307, R322, R323). -/
def releaseAt (s : State) (core scope : Nat) : State := if 1 < scope then flushCore s core else s
def acquireAt (s : State) (core scope : Nat) : State := if 1 < scope then dcDropAll s core else s

/-- A word at its home, past caches and store paths of no core: the line's buffer of the issuing core is sent first, and
the core's cached copy is given up (R307), so that no later load reads an older value (R326). -/
def homeWord (s : State) (core : Nat) (p : Loc) : Word × State :=
  match p.space with
  | 3 =>
    let s := flushLine s core true (p.at_ / 64)
    (readWord s.xs p.at_, s)
  | 4 =>
    let s := dcDrop (flushLine s core false (p.at_ / 64)) core (p.at_ / 64)
    let (ws, s) := homeRead s p.at_ p.attr
    (ws.getD (p.at_ / 4 % 16) .zero, s)
  | 1 => (readWord s.cs p.at_, s)
  | _ => (readWord s.ks p.at_, s)

/-- Words written at the home, as an atomic or a copy writes them; a copy in the core's cache is dropped. -/
def homePut (s : State) (core : Nat) (p : Loc) (ps : AList Patch) : State :=
  let base := p.at_ - p.at_ % 64
  let at_ (i : Nat) : Nat := base + 4 * i
  match p.space with
  | 3 => { s with xs := ps.foldl (fun m x => writeWord m (at_ x.1) (applyPatch x.2 (readWord m (at_ x.1)))) s.xs }
  | 4 => homeWrite (dcDrop s core (p.at_ / 64)) p.at_ p.attr ps
  | 1 => { s with cs := ps.foldl (fun m x => writeWord m (at_ x.1) (applyPatch x.2 (readWord m (at_ x.1)))) s.cs }
  | _ => { s with ks := ps.foldl (fun m x => writeWord m (at_ x.1) (applyPatch x.2 (readWord m (at_ x.1)))) s.ks }

end Sys2Proof.Machine
end

