-- ==== Sys2Proof/Machine/Barrier.lean ====
section
/-! DEFINITION. Hardware barriers: state, arrival, completion of a phase, exit of a group (R199 to R203). -/

namespace Sys2Proof.Machine

open Sys2Proof

/-- Number of barriers at a level (R199). -/
def barCount (lvl : Nat) : Nat :=
  match lvl with | 1 => 16 | 2 => 8 | 3 => 8 | 4 => 4 | 5 => 2 | _ => 0

/-- The unit that owns a workgroup's barriers at a level; none where it takes part in none (R199). -/
def barOwner (s : State) (W : Wg) (wg lvl num : Nat) : Option Nat :=
  match lvl with
  | 1 => match aget s.grids W.grid with
    | some k => if k.kd.bcmask.getLsbD num then some wg else none
    | none => none
  | 2 => W.gang
  | 3 => some (W.grid * 8 + W.share)
  | 4 => some W.grid
  | 5 => match aget s.grids W.grid with
    | some k =>
      if k.pbm.getLsbD num && s.podBars.any (fun r => r.part == k.part && r.bar == num && r.pkg == s.pkg) then some k.part
      else none
    | none => none
  | _ => none

def findBar (s : State) (lvl owner num : Nat) : Option Barrier :=
  s.bars.find? fun b => b.lvl == lvl && b.owner == owner && b.num == num

def setBar (s : State) (x : Barrier) : State :=
  { s with bars := s.bars.map fun b =>
      if b.lvl == x.lvl && b.owner == x.owner && b.num == x.num then x else b }

/-- The barrier that a group names (R199). -/
def groupBar (s : State) (g lvl num : Nat) : Option Barrier :=
  (getG s g).bind fun G => (aget s.wgs G.wg).bind fun W =>
    (barOwner s W G.wg lvl num).bind fun o => findBar s lvl o num

def getRec (G : Group) (lvl num : Nat) : Option BarRec :=
  G.bars.find? fun r => r.lvl == lvl && r.num == num

def putRec (G : Group) (r : BarRec) : Group :=
  { G with bars := r :: G.bars.filter fun x => !(x.lvl == r.lvl && x.num == r.num) }

def clearRec (G : Group) (lvl num : Nat) : Group :=
  { G with bars := G.bars.filter fun x => !(x.lvl == lvl && x.num == num) }

/-- Completes the records of a phase in one group (R202). -/
def completeRecs (b : Barrier) (G : Group) : Group :=
  { G with bars := G.bars.map fun r =>
      if r.lvl == b.lvl && r.num == b.num && r.ap == b.ph && !r.done then { r with done := true, err := b.ef } else r }

/-- Whether groups that no die has received yet may still join the barrier: those of a die barrier's grid that are with the
global dispatcher. The barrier waits for them (R199). -/
def barAwaits (s : State) (b : Barrier) : Bool :=
  b.lvl == 3 && (aget s.grids (b.owner / 8)).any fun K => K.nwg != 0xFFFFFFFF &&
    (decide (K.nextWg < K.nwg) ||
      K.returned.any fun w => !s.shadow.any fun v => v.wg.grid == b.owner / 8 && v.wg.index == w)

/-- The completion test of R202. DEDUCED (from the final PH of R283, R301 and R332): a barrier whose
target the exits of R203 have lowered to 0 completes no further phase (log entry 36). -/
def barTest (s : State) (b : Barrier) : State :=
  if b.pa = 0 ∧ b.pb = 0 ∧ b.tgt ≠ 0 ∧ barAwaits s b = false then
    let takes (W : Wg) (wg : Nat) : Bool := barOwner s W wg b.lvl b.num == some b.owner
    let s := setBar s { b with le := b.ef, ph := b.ph + 1, pa := b.tgt, pb := 0, ef := false }
    { s with
      groups := s.groups.map fun x => match aget s.wgs x.2.wg with
        | some W => if takes W x.2.wg then (x.1, completeRecs b x.2) else x
        | none => x,
      shadow := s.shadow.map fun v =>
        if takes v.wg v.uid then { v with groups := v.groups.map fun x => (x.1, completeRecs b x.2) } else v }
  else s

/-- The updates of a cycle stand applied when it ends: every barrier is tested once (R202). -/
def testBars (s : State) : State := s.bars.foldl barTest s

/-- The values of the barriers whose home is no core or quad, noted when they change, newest first: what the copies held by
the cores trail (R205). -/
def noteBars (s : State) : State :=
  let same (a b : Barrier) : Bool := a.lvl == b.lvl && a.owner == b.owner && a.num == b.num
  let far := s.bars.filter fun b => decide (3 ≤ b.lvl)
  let new := far.filter fun b => ((s.barLog.find? fun x => same x.2 b).map (·.2)) != some b
  { s with barLog := new.map (fun b => (s.cycle, b)) ++ s.barLog.filter fun x => far.any (same x.2) }

/-- The copy of a barrier that a core holds: what its home held a transit time ago, at first what it was at launch (R205). -/
def heldBar (s : State) (core : Nat) (b : Barrier) : Barrier :=
  if b.lvl < 3 then b
  else
    let mine := s.barLog.filter fun x => x.2.lvl == b.lvl && x.2.owner == b.owner && x.2.num == b.num
    ((mine.find? fun x => decide (x.1 + Config.barTransit core b.lvl < s.cycle)).or mine.getLast?).elim
      { b with pa := b.tgt, pb := 0, ph := 0, ef := false, le := false } (·.2)

/-- A target raised by n live groups, as more of them come to take part. -/
def barRaise (s : State) (lvl owner n : Nat) : State :=
  { s with bars := s.bars.map fun b =>
      if b.lvl == lvl && b.owner == owner then { b with tgt := b.tgt + n, pa := b.pa + n } else b }

/-- A target lowered by n groups that will never arrive (R203, R299). -/
def barLower (s : State) (lvl owner n : Nat) : State :=
  (s.bars.filter fun b => b.lvl == lvl && b.owner == owner).foldl (fun s b =>
    match findBar s b.lvl b.owner b.num with
    | some b => setBar s { b with tgt := b.tgt - n, pa := b.pa - n }
    | none => s) s

/-- Whether a group's record shows an arrival in the open phase (R201). -/
def arrived (b : Barrier) (G : Group) : Bool :=
  match getRec G b.lvl b.num with
  | some r => r.ap == b.ph && !r.done && !r.noarr
  | none => false

/-- Bytes announced (positive) or counted off (negative), with an error mark (R170, R201). -/
def barBytes (s : State) (b : Barrier) (d : Int) (err : Bool) : State :=
  setBar s { b with pb := b.pb + d, ef := b.ef || err }

/-- A group of this package that ends no longer counts among those registered for a pod barrier: a BARREG that follows
carries the target to the sum of what is registered then (R200, R407). -/
def regExit (s : State) (b : Barrier) : State :=
  if b.lvl = 5 then
    { s with podBars := s.podBars.map fun r =>
        if r.part == b.owner && r.bar == b.num && r.pkg == s.pkg then { r with groups := r.groups - 1 } else r }
  else s

/-- A participating group ends (R203). -/
def barExit (s : State) (G : Group) (b : Barrier) : State :=
  setBar (regExit s b) { b with tgt := b.tgt - 1, pa := if arrived b G then b.pa else b.pa - 1 }

/-- Every barrier that a group of a workgroup takes part in is lowered when the group ends. -/
def barExitOf (s : State) (W : Wg) (G : Group) : State :=
  (s.bars.filter fun b => barOwner s W G.wg b.lvl b.num == some b.owner).foldl
    (fun s b => match findBar s b.lvl b.owner b.num with
      | some b => barExit s G b
      | none => s) s

def barExitAll (s : State) (G : Group) : State :=
  match aget s.wgs G.wg with
  | none => s
  | some W => barExitOf s W G

end Sys2Proof.Machine
end

