-- ==== Sys2Proof/Machine/Life.lean ====
section
/-! DEFINITION. The end of threads, groups and workgroups (R197, R352), and the cancellation of workgroups that
have not been placed (R299). -/

namespace Sys2Proof.Machine

open Sys2Proof

/-- The ops of a carriage, oldest first. -/
def carriageOps (c : Carriage) : List Op :=
  c.exec.map (·.1) ++ (c.fetch.map (·.1)).toList ++ c.queue

/-- Whether an op uses the resources of a workgroup: its own, or those of the follower of a leader's `mma` (R235, R352); an
`mtrq` uses the issuing core's alone. -/
def opUses (s : State) (wg : Nat) (W : Wg) (o : Op) : Bool :=
  o.wg == wg ||
  (!o.mtrq && o.core % 2 == 0 && W.gang.isSome && W.core == o.core + 1 && ((aget s.wgs o.wg).bind (·.gang)) == W.gang)

/-- Copies or ops that hold a workgroup whose groups have all ended. -/
def wgBusy (s : State) (wg : Nat) (W : Wg) : Bool :=
  (s.copies.any fun c => c.wg == wg) || s.carriages.any fun c => (carriageOps c).any (opUses s wg W)

/-- A gang none of whose workgroups is left gives back its barriers, and its window unless pre-emption has taken it (R304). -/
def gangRelease (s : State) (k : Nat) : State :=
  if (s.wgs.any fun x => x.2.gang == some k) || (s.shadow.any fun v => v.wg.gang == some k) then s
  else match aget s.gangs k with
    | none => s
    | some K =>
      let n := ((aget s.grids K.grid).map (·.kd.ksmem)).getD 0
      { s with gangs := adel s.gangs k,
               bars := s.bars.filter fun b => !(b.lvl == 2 && b.owner == k),
               ks := if K.placed then clearWords s.ks (K.quad * 2 ^ 18 + K.ksBase) (n / 4) else s.ks }

/-- A workgroup counts as ended in its grid (R379). -/
def gridEnded (s : State) (k ix : Nat) : State :=
  modGrid s k fun g => { g with ended := g.ended + 1, done := ix :: g.done }

/-- A workgroup that never started counts as ended too (R299). -/
def gridGone (s : State) (k : Nat) : State := modGrid s k fun g => { g with ended := g.ended + 1 }

/-- Sets entries of a bank. -/
def setEntries (s : State) (core bank : Nat) (es : AList CbEntry) : State :=
  { s with banks := es.foldl (fun b x =>
      (b.filter fun y => !(y.1 == core && y.2.1 == bank && y.2.2.1 == x.1)) ++ [(core, bank, x.1, x.2)]) s.banks }

/-- Whether a bank write is to a bank of a workgroup's, whichever of its groups issued it. -/
def bankWriteOf (s : State) (W : Wg) (w : BankWrite) : Bool :=
  w.core == W.core && (aget s.grids W.grid).any fun K => K.kd.cbmask.getLsbD w.bank

/-- The bank writes that still wait at a workgroup's banks complete: no op is left that they wait for, and the next owner
finds what they wrote or nothing (R347). -/
def settleWrites (s : State) (W : Wg) : State :=
  (s.bankWrites.filter (bankWriteOf s W)).foldl (fun s w => setEntries s w.core w.bank w.ents)
    { s with bankWrites := s.bankWrites.filter fun w => !bankWriteOf s W w }

/-- The release of a workgroup's tiles, reservations, banks, accumulators, barriers and scratchpad. -/
def wgRelease (s : State) (wg : Nat) : State :=
  match aget s.wgs wg with
  | none => s
  | some W =>
    let n := ((aget s.grids W.grid).map (·.kd.scratch)).getD 0
    let s := settleWrites s W
    let s := { s with
      wgs := adel s.wgs wg,
      tiles := s.tiles.filter fun t => t.owner != wg,
      resvs := s.resvs.filter fun r => r.owner != wg,
      bars := s.bars.filter fun b => !(b.lvl == 1 && b.owner == wg),
      cs := clearWords s.cs (W.core * 2 ^ 18 + W.csBase) (n / 4) }
    let s := gridEnded s W.grid W.index
    match W.gang with
    | some k => gangRelease s k
    | none => s

/-- A workgroup whose last group has ended: released, or exit-pending (R352). -/
def wgEmptied (s : State) (wg : Nat) : State :=
  match aget s.wgs wg with
  | none => s
  | some W =>
    if (groupsOf s wg).isEmpty then
      (if wgBusy s wg W then modWg s wg fun W => { W with status := .exitPending } else wgRelease s wg)
    else s

/-- The end of a group (R197): barriers are lowered, the allotment and the group's waits are given up. -/
def endGroup (s : State) (g : Nat) : State :=
  match getG s g with
  | none => s
  | some G =>
    let s := barExitAll s G
    let s := { s with
      groups := adel s.groups g,
      queues := s.queues.map fun x => (x.1, { x.2 with waiters := x.2.waiters.filter fun w => w.grp != g }),
      syncWaits := s.syncWaits.filter fun w => w.grp != g,
      copyStops := s.copyStops.filter fun c => c.grp != g,
      mfills := s.mfills.filter fun m => m.grp != g }
    wgEmptied s G.wg

/-- The end of one thread (R197): pending results are discarded; the last thread ends the group. -/
def endThread (s : State) (g l : Nat) : State :=
  let s := modT s g l fun t => { t with live := false, pend := [], wait := .none, ibuf := none }
  let s := { s with
    queues := s.queues.map fun x => (x.1, { x.2 with waiters := x.2.waiters.filter fun w => !(w.grp == g && w.lane == l) }),
    syncWaits := s.syncWaits.filter fun w => !(w.grp == g && w.lane == l) }
  match getG s g with
  | some G => if (liveLanes G).isEmpty then endGroup s g else s
  | none => s

def endThreads (s : State) (g : Nat) (ls : List Nat) : State := ls.foldl (fun s l => endThread s g l) s

/-! ### Kills (R299) -/

/-- Ends every group of the workgroups that a predicate selects, saved ones included. A saved unit with copies or ops left
keeps its place in the order of placement: it resumes without groups, exit-pending, until they have retired (R299). -/
def killWgs (s : State) (sel : Nat → Wg → Bool) : State :=
  let gs := s.groups.filter fun x => match aget s.wgs x.2.wg with
    | some W => sel x.2.wg W
    | none => false
  let s := gs.foldl (fun s x => endGroup s x.1) s
  let hit := s.shadow.filter fun v => sel v.uid v.wg
  let works (v : Saved) : Bool := !v.copies.isEmpty || !v.ops.isEmpty
  let stays (v : Saved) : Bool := hit.any fun x => works x && (x.uid == v.uid || (x.wg.gang.isSome && x.wg.gang == v.wg.gang))
  let s := hit.foldl (fun s v => v.groups.foldl (fun s x => barExitOf s v.wg x.2) s) s
  let left (v : Saved) : Saved := { v with groups := [], wg := { v.wg with status := .exitPending }, spill := none }
  let shadow := s.shadow.map fun v => if sel v.uid v.wg then left v else v
  let dead := hit.filter fun v => !stays v
  let gone (k w : Nat) : Bool := dead.any fun v => v.wg.grid == k && v.wg.index == w
  let s := { s with
    shadow := shadow.filter fun v => !dead.any fun x => x.uid == v.uid,
    queues := s.queues.map fun x => (x.1, { x.2 with
      waiters := x.2.waiters.filter fun w => !hit.any fun v => v.groups.any fun y => y.1 == w.grp }),
    dies := s.dies.map fun d => { d with pending := d.pending.filter fun p => !(p.saved && gone p.grid p.wg) },
    grids := s.grids.map fun x => (x.1, { x.2 with returned := x.2.returned.filter fun w => !gone x.1 w }) }
  dead.foldl (fun s v =>
    let s := { s with bars := s.bars.filter fun b => !(b.lvl == 1 && b.owner == v.uid) }
    let s := gridEnded s v.wg.grid v.wg.index
    match v.wg.gang with
    | some k => gangRelease s k
    | none => s) s

/-- Dies with quads of a partition. -/
def partDies (p : Part) : Byte :=
  (List.range 8).foldl (fun m d =>
    if p.quads.extractLsb' (16 * d) 16 != 0 then m ||| BitVec.ofNat 8 (2 ^ d) else m) 0

/-- The dies that a grid may still use (R293, R299). -/
def allowedDies (s : State) (k : Grid) : Byte :=
  let pd := ((partIx s k.part).map partDies).getD 0
  (if k.dies = 0 then pd else k.dies &&& pd) &&& ~~~ k.banned

/-- Workgroups that will never start lower the targets of the package barriers that count them. -/
def lowerFor (s : State) (lvl owner grid n : Nat) : State :=
  barLower s lvl owner (n * ((aget s.grids grid).map (·.kd.groups)).getD 0)

/-- Takes the workgroups of a grid that were never placed off a die's pending list, with their die barriers. -/
def unpend (s : State) (grid d : Nat) : List Nat × State :=
  let mine (p : PendWg) : Bool := p.grid == grid && !p.saved
  match s.dies.find? fun D => D.id == d with
  | none => ([], s)
  | some D =>
    let hit := (D.pending.filter mine).map (·.wg)
    let drop (E : Die) : Die := if E.id == d then { E with pending := E.pending.filter fun p => !mine p } else E
    (hit, lowerFor { s with dies := s.dies.map drop } 3 (grid * 8 + d) grid hit.length)

/-- Cancels the workgroups of a grid that are pending at dies of a mask (R299). -/
def cancelPending (s : State) (grid : Nat) (mask : Byte) : State :=
  ((List.range 8).filter mask.getLsbD).foldl (fun s d =>
    let (hit, s) := unpend s grid d
    hit.foldl (fun s _ => gridGone s grid) (lowerFor s 4 grid grid hit.length)) s

/-- Cancels the workgroups that are still with the global dispatcher. -/
def cancelGlobal (s : State) (grid : Nat) : State :=
  match aget s.grids grid with
  | none => s
  | some k =>
    let fresh (w : Nat) : Bool := !s.shadow.any fun v => v.wg.grid == grid && v.wg.index == w
    let left := k.returned.filter fresh ++ (List.range (k.nwg - k.nextWg)).map (k.nextWg + ·)
    let s := modGrid s grid fun k => { k with returned := k.returned.filter fun w => !fresh w, nextWg := k.nwg }
    let s := lowerFor s 4 grid grid left.length
    left.foldl (fun s _ => gridGone s grid) s

/-- A grid stopped: nothing of it starts any more, and every workgroup is killed (R299, R382). -/
def stopGrid (s : State) (grid : Nat) : State :=
  let s := modGrid s grid fun k => { k with cancelled := true }
  let s := cancelGlobal (cancelPending s grid 0xFF) grid
  killWgs s fun _ x => x.grid == grid

/-- The grids of the task that a grid belongs to: itself, or every stage of its pipeline. -/
def taskGrids (s : State) (grid : Nat) : List Nat :=
  match (aget s.grids grid).bind (·.pipe) with
  | none => [grid]
  | some (p, _) => (s.grids.filter fun x => (x.2.pipe.map (·.1)) == some p).map (·.1)

/-- A kill of the unit at a level (R298, R299). -/
def killUnit (s : State) (g level : Nat) : State :=
  match getG s g with
  | none => s
  | some G => match aget s.wgs G.wg with
    | none => s
    | some W =>
      match level with
      | 0 => endGroup s g
      | 1 => killWgs s fun w _ => w == G.wg
      | 2 => killWgs s fun _ x => x.gang == W.gang && x.gang.isSome
      | 3 =>
        let s := modGrid s W.grid fun k => { k with banned := k.banned ||| BitVec.ofNat 8 (2 ^ W.share) }
        let s := cancelPending s W.grid (BitVec.ofNat 8 (2 ^ W.share))
        let s := killWgs s fun _ x => x.grid == W.grid && x.share == W.share
        match aget s.grids W.grid with
        | some k => if allowedDies s k = 0 then cancelGlobal s W.grid else s
        | none => s
      | _ => (taskGrids s W.grid).foldl stopGrid s

end Sys2Proof.Machine
end

