-- ==== Sys2Proof/Machine/Ops.lean ====
section
/-! DEFINITION. Taking a trap and returning from one (R39, R40, R220), containment (R298, R299), write-back
(R27, R28, R270, R222), and the issue of a coach's word with the checks that every word shares (R69 to R72, R89). -/

namespace Sys2Proof.Machine

open Sys2Proof

/-! ### Containment -/

/-- The policy of a level (R298). -/
def policyOf (cpol : BitVec 10) (level : Nat) : Nat := cpol.toNat / 4 ^ level % 4

def bump (l : AList Nat) (k : Nat) : AList Nat := aset l k (min 255 ((aget l k).getD 0 + 1))

/-- A containment act noted for the task's records (R299), with the first of its grids. -/
def recordEvent (s : State) (grid : Nat) (e : Event) : State :=
  modGrid s ((taskGrids s grid).headD grid) fun k => { k with
    first := k.first.orElse fun _ => some e,
    counts := if 1 ≤ e.disp ∧ e.disp ≤ 5 then bump k.counts e.disp else k.counts,
    fault := if 6 ≤ e.disp then k.fault.orElse fun _ => some e else k.fault,
    abortStream := k.abortStream || e.disp == 8 }

/-- A thread sent to an address as a run start. -/
def goto (pc : W64) (t : Thread) : Thread :=
  { t with pc, run := .empty, ibuf := none, wait := .none, stuck := 0 }

/-- What ignore leaves in a lane: every destination poisoned, then the word after (R299). The word counts as one of its
run, which goes on unless the word ends it (R70). -/
def ignoreLane (pc : W64) (nreq : Nat) (x : Ign) (t : Thread) : Thread :=
  let t := x.v.foldl (fun t r => if r.1 < nreq then writeV t r.1 ⟨r.2, 0xF⟩ else t) t
  let t := x.p.foldl (fun t r => writeP t r ⟨(readP t r).t, true⟩) t
  { goto (pc + 8) t with
    retry := none, run := if x.ends then .empty else { t.run with len := t.run.len + 1 } }

/-- Address of element i of a queue within its storage. -/
def qAddr (q : Queue) (i : Nat) : Nat := q.base + 4 * (i % q.cap)

def modQ (s : State) (k : Nat) (f : Queue → Queue) : State := { s with queues := amod s.queues k f }

/-- An element that an ignored word had taken goes back to the head of its queue (R299), if there is still room for it. -/
def qBack (s : State) (x : Nat × Word) : State :=
  match aget s.queues x.1 with
  | none => s
  | some q =>
    if q.count < q.cap then
      let h := (q.head + q.cap - 1) % q.cap
      let s := if q.xs then { s with xs := writeWord s.xs (qAddr q h) x.2 } else { s with ks := writeWord s.ks (qAddr q h) x.2 }
      modQ s x.1 fun q => { q with head := h, count := q.count + 1 }
    else s

/-- The act chosen by the loop of R298 from level L on: policy and level of the unit. -/
def containLoop (cpol : BitVec 10) (gang : Bool) : Nat → Nat → Nat × Nat
  | 0, L => (2, min L 4)
  | fuel + 1, L =>
    if L = 2 ∧ gang = false then containLoop cpol gang fuel 3
    else match policyOf cpol L with
      | 3 => if 4 ≤ L then (3, 4) else if L = 1 ∧ gang = false then (2, 3) else (2, L + 1)
      | p => (p, min L 4)

/-- Containment of an instruction at `pc` in lanes `ls` of group g (R298, R299); only the word that was retried counts as its
re-execution. -/
def contain (s : State) (g : Nat) (ls : List Nat) (e : Event) (ign : List (Nat × Ign)) : State :=
  match getG s g with
  | none => s
  | some G => match aget s.wgs G.wg with
    | none => s
    | some W => match aget s.grids W.grid with
      | none => s
      | some K =>
        let retried (l : Nat) : Nat := match (G.threads[l]?).bind (·.retry) with
          | some (r, was) => if was.pc == e.pc then r + 1 else 0
          | none => 0
        let start := ls.foldl (fun m l => max m (retried l)) 0
        let (p, L) := containLoop K.kd.cpol W.gang.isSome 6 start
        match p with
        | 0 =>
          let s := recordEvent s W.grid { e with disp := 1 }
          if e.cause = causeWatchdog then
            ls.foldl (fun s l => modT s g l fun t => { t with stuck := 0 }) s
          else
            let of (l : Nat) : Ign := ((ign.find? fun x => x.1 == l).map (·.2)).getD .none
            let s := (ls.reverse.flatMap fun l => (of l).q).foldl qBack s
            ls.foldl (fun s l => modT s g l (ignoreLane e.pc G.nreq (of l))) s
        | 1 =>
          ls.foldl (fun s l => modT s g l fun t => { goto e.pc t with retry := some (L, e) }) s
        | 2 =>
          let s := recordEvent s W.grid { e with disp := 3 + L }
          killUnit s g L
        | _ =>
          let s := recordEvent s W.grid { e with disp := 8 }
          killUnit s g 4

/-! ### Taking a trap -/

/-- `%tval` of a trapping lane: the cause's detail, or a free value where the manual names none. -/
def tvalOf (s : State) (l : Nat) (t : Trap) : W64 :=
  t.tval.getD (Config.freeWord (s.free + 2 * l + 1) ++ Config.freeWord (s.free + 2 * l))

/-- A trap is taken (R40) or contained (R39): `ts` are the lanes of group g that trapped at the word at `pc`. -/
def takeTrap (s : State) (g : Nat) (pc : W64) (ts : List (Nat × Trap × Ign)) : State :=
  match getG s g with
  | none => s
  | some G =>
    let cause := ts.foldl (fun m x => min m x.2.1.cause) 0xFF
    let sub := pick ((ts.filter fun x => x.2.1.cause == cause).map (·.2.1.sub))
    let mask := laneMask (ts.map (·.1))
    let tv := (ts.map fun x => tvalOf s x.1 x.2.1).headD 0
    let ign := ts.map fun x => (x.1, x.2.2)
    let s := { s with free := s.free + 64 }
    let tvec : W64 := (((gridOf s g).map (·.kd.tvec)).getD 0) &&& ~~~ 3
    match G.trap with
    | some c =>
      let ls := (liveLanes G).filter c.entry.getLsbD
      let e : Event := ⟨0, G.cause.toNat % 256, G.cause.toNat / 256 % 256, G.tpc,
        ((G.threads.getD (ls.headD 0) (Thread.initial 0 0 0)).tval), G.core, c.entry, some (cause, sub)⟩
      let s := modG s g fun G => { G with trap := none }
      let s := ls.foldl (fun s l => modT s g l (goto G.tpc)) s
      contain s g ls e c.ign
    | none =>
      if tvec = 0 then contain s g (ts.map (·.1)) ⟨0, cause, sub, pc, tv, G.core, mask, none⟩ ign
      else
        let s := modG s g fun G => { G with
          cause := BitVec.ofNat 32 (cause + 256 * sub), tpc := pc, tmask := mask,
          trap := some ⟨mask, 0, 0, ign⟩ }
        ts.foldl (fun s x => modT s g x.1 fun t => { goto tvec t with tval := tvalOf s x.1 x.2.1 }) s

/-! ### Return from a trap (R220) -/

/-- Whether the cause resumes after the trapped word (R204, R219). -/
def resumesAfter (cause : W32) : Bool :=
  cause.toNat % 256 == causeSoftware || (cause.toNat % 256 == causeBarrier && cause.toNat / 256 % 256 == 2)

/-- A group's records once it has left the wait it was in: the mark of a wait that found its record clear goes (R204). -/
def leaveWaits (rs : List BarRec) : List BarRec :=
  (rs.filter fun r => !(r.noarr && r.waiting.isSome)).map fun r => { r with waiting := none }

/-- Every handler lane that has not ended has reached a `tret`: the group leaves the handler. -/
def tretComplete (s : State) (g : Nat) : State :=
  match getG s g with
  | none => s
  | some G => match G.trap with
    | none => s
    | some c =>
      let ls := (liveLanes G).filter c.entry.getLsbD
      if ls.all c.atTret.getLsbD then
        let past (l : Nat) : Bool := c.skip.getLsbD l || resumesAfter G.cause
        let s := modG s g fun H => { H with
          trap := none, bars := if ls.all past then leaveWaits H.bars else H.bars }
        let back (l : Nat) (t : Thread) : Thread :=
          if past l then { goto (G.tpc + 8) t with retry := none } else goto G.tpc t
        let s := ls.foldl (fun s l => modT s g l (back l)) s
        endThreads s g (ls.filter fun l => !G.tmask.getLsbD l)
      else s

/-! ### Write-back -/

/-- Level and lane of an armed injection that applies to a class in a lane at user level (R221, R222). -/
def injects (G : Group) (l cls : Nat) : Option W32 :=
  match G.inj with
  | some d =>
    if !isSuper G l && d.toNat / 2 ^ 24 % 8 == cls && d.toNat / 2 ^ 16 % 32 == l then some d else none
  | none => none

/-- An injection that applies is used up (R222). -/
def disarm (s : State) (g l cls : Nat) : State :=
  match (getG s g).bind fun G => injects G l cls with
  | some _ => modG s g fun G => { G with inj := none }
  | none => s

/-- The flip of R222, made after the prediction is formed. -/
def flipCuts (d : W32) (ws : List Cut) : List Cut :=
  let bit := d.toNat / 256 % 64
  if d.getLsbD 30 then lmod ws 0 fun c => ⟨c.bits, (BitVec.ofNat 4 c.pred ^^^ BitVec.ofNat 4 (2 ^ (bit % 4))).toNat⟩
  else
    let k := if 32 ≤ bit ∧ 1 < ws.length then 1 else 0
    lmod ws k fun c => ⟨c.bits ^^^ BitVec.ofNat 32 (2 ^ (bit % 32)), c.pred⟩

/-- All words settled, or none when a comparison fails (R270). -/
def settleAll (psn : Bool) : List Cut → Option (List Word)
  | [] => some []
  | c :: r => match settle psn c, settleAll psn r with
    | some w, some ws => some (w :: ws)
    | _, _ => none

/-- Writes of a settled lane: registers, predicates, index registers, sticky bits and the seed. A predicate of the word
itself is written with fixed latency, beside a popped operand too: R16 lists those that are not, and R103 says so of its
own (DEDUCED, log entry 41). -/
def commit (late : Option Nat) (psn : Bool) (vs : AList Word) (o : AluOut) (t : Thread) : Thread :=
  let t := deliver none [] (o.preds.map fun p => (p.1, ⟨p.2, psn⟩)) (deliver late vs [] t)
  let t := deliverX late o.xs t
  { t with sticky := t.sticky ||| o.flags, seed := o.seed.getD t.seed }

/-- What a lane's arithmetic does to its thread: destinations `ds` for the words, class for injection,
latency, poison of the operands (R27, R28, R33, R222, R270). -/
def writeBack (s : State) (g l cls : Nat) (late psn : Bool) (ds : List Nat) (o : AluOut) : LaneRes :=
  let ign : Ign := ⟨List.zipWith (fun d c => (d, c.bits)) ds o.words, o.preds.map (·.1), false, []⟩
  match o.trap with
  | some t => .trap s t ⟨ds.map fun d => (d, 0), o.preds.map (·.1), false, []⟩
  | none =>
    let inj := if ds.isEmpty then none else (getG s g).bind fun G => injects G l cls
    let s := if ds.isEmpty then s else disarm s g l cls
    let ws := match inj with
      | some d => flipCuts d o.words
      | none => o.words
    match if psn then none else o.bad with
    | some sub => .trap s (trapOf causeCheck sub) ign
    | none => match settleAll psn ws with
      | none => .trap s (trapOf causeCheck 0) ign
      | some vs => .done (modT s g l (commit (if late then some s.cycle else none) psn (ds.zip vs) o))

/-- Words received by a lane, written with variable latency: comparison with their own residues (R270) and an
armed injection (R222). `sub` and `tv` are the sub-code and `%tval` of a failed comparison. -/
def landWords (s : State) (g l cls : Nat) (wide : Bool) (sub : Nat) (tv : Nat → Option W64) (ds : List Nat)
    (ws : List Word) : LaneRes :=
  let ign : Ign := ⟨List.zipWith (fun d w => (d, w.val)) ds ws, [], false, []⟩
  let inj := (getG s g).bind fun G => injects G l cls
  let s := disarm s g l cls
  match (List.range ws.length).find? fun k => mismatch (ws.getD k .zero) with
  | some k => .trap s ⟨causeCheck, sub, tv k⟩ ign
  | none => match inj with
    | none => .done (modT s g l (deliver (some s.cycle) (ds.zip ws) []))
    | some d =>
      let bit := d.toNat / 256 % 64
      let k := if !d.getLsbD 30 && decide (32 ≤ bit) && wide then 1 else 0
      let w := ws.getD k .zero
      if !isPoison w then .trap s (trapOf causeCheck 0) ign
      else
        let v := if d.getLsbD 30 then w.val else w.val ^^^ BitVec.ofNat 32 (2 ^ (bit % 32))
        .done (modT s g l (deliver (some s.cycle) (ds.zip (ws.set k ⟨v, 0xF⟩)) []))

/-! ### Issue of a coach's word -/

/-- The destinations of a word in a lane for the policy ignore, zero where no value is computed (R299). -/
def zeroed (v p : List Nat) : Ign := ⟨v.map fun d => (d, 0), p, false, []⟩

/-- What a word tells the issue: its switch marker, whether it ends its run, its guard (R65, R66, R70),
its destinations in a lane, the reservations that have to stand, and whether its wait makes the whole group ineligible.
DEDUCED: a reservation of another workgroup is refused whatever the guard (check 5 of R89), but in the run of R332 a
workgroup without the reservation passes an `mma` with a false guard, so that one stands at all is checked behind the guard
(log entry 42). -/
structure WordInfo where
  s : Bool
  ender : Bool
  pred : BitVec 4
  dest : State → Nat → Nat → Ign := fun _ _ _ => .none
  own : State → Nat → Option Trap := fun _ _ => none
  whole : Bool := false

/-- A word's destinations with the values that were computed before the trap; `e` tells whether the word ends its run. -/
def fillIgn (e : Bool) (d i : Ign) : Ign :=
  ⟨(d.v.filter fun x => !(i.v.any fun y => y.1 == x.1)) ++ i.v, (d.p.filter fun x => !i.p.contains x) ++ i.p, e, i.q⟩

/-- Whether a word ends its run (R70). -/
def WordInfo.ends (i : WordInfo) : Bool := i.s || i.ender

/-- The comparison of a fetched word with its residues (R69). -/
def fetchTrap (t : Thread) : Option Trap :=
  match t.ibuf with
  | none => none
  | some f =>
    if isPoison f.lo || isPoison f.hi then some (trapAt causePoison 0 t.pc)
    else if mismatch f.lo || mismatch f.hi then some (trapAt causeCheck 1 t.pc)
    else none

/-- The trap of a word beyond the length of its run, of which another failure of check 1 is as good (R89 lists them together;
log entry 30). -/
def longRun (own : Option Trap) : Trap :=
  trapOf causeIllegalOpcode (match own with
    | some x => if x.cause = causeIllegalOpcode then pick [4, x.sub] else 4
    | none => 4)

/-- Fetch comparison, run length (R71), then the checks 1 to 5 of the word itself. -/
def headTrap (i : WordInfo) (pre : State → Nat → Nat → Option Trap) (s : State) (g l : Nat) (t : Thread) :
    Option Trap :=
  match fetchTrap t with
  | some x => some x
  | none =>
    if 15 ≤ t.run.len ∧ i.s = false ∧ i.ender = false then some (longRun (pre s g l))
    else pre s g l

/-- The guard in a lane (R18, R66): a trap for a poisoned one, else its truth. -/
def guardOf (pred : BitVec 4) (t : Thread) : Option Bool :=
  let b := readP t (pred.toNat % 8)
  if b.psn then none else some (b.t != pred.getLsbD 3)

/-- A thread past a word it has completed: the next word, and the run position (R70, R72, R287). -/
def advance (i : WordInfo) (t : Thread) : Thread :=
  { t with pc := t.pc + 8, ibuf := none, cls := .normal, w := 0, stuck := 0, wait := .none,
           run := if i.s || i.ender then .empty else { t.run with len := t.run.len + 1 } }

def jumpTo (pc : W64) (t : Thread) : Thread :=
  { goto pc t with cls := .normal, w := 0 }

/-- The address of the coach's word in a group's lane. -/
def pcOf (s : State) (g l : Nat) : W64 := ((getT s g l).map (·.pc)).getD 0

/-- Lanes of a group that stand at the word of a lane. -/
def lanesAt (s : State) (g : Nat) (pc : W64) : List Nat :=
  match getG s g with
  | none => []
  | some G => (liveLanes G).filter fun l => (G.threads[l]?).any fun t => t.pc == pc

/-- Whether a lane executes in a handler. -/
def inHandler (s : State) (g l : Nat) : Bool := (getG s g).any fun G => isSuper G l

/-- The retry under way in a lane: its level and event. -/
def retryOf (s : State) (g l : Nat) : Option (Nat × Event) := (getT s g l).bind (·.retry)

/-- A lane completes a word: at user level a retry of it is over. The act is noted once, when the last of its lanes has
completed the word that was retried (R299); a handler's own words leave the retry under way (R298). -/
def retryDone (s : State) (g l : Nat) : State :=
  match retryOf s g l with
  | none => s
  | some (lv, e) =>
    if inHandler s g l then s
    else
      let again := pcOf s g l == e.pc
      let s := modT s g l fun t => { t with retry := none }
      let open_ := (List.range 32).any fun k => retryOf s g k == some (lv, e)
      if again && !open_ then
        match wgOf s g with
        | some W => recordEvent s W.grid { e with disp := 2 }
        | none => s
      else s

/-- Settles one lane's outcome: the state, and the lane with its trap if it trapped. -/
def settleLane (i : WordInfo) (g l : Nat) : LaneRes → State × List (Nat × Nat × Trap × Ign)
  | .done s => (modT (retryDone s g l) g l (advance i), [])
  | .park s w c =>
    (modT (modT (retryDone s g l) g l (advance i)) g l fun t => { t with wait := w, cls := c }, [])
  | .jump s pc => (modT (retryDone s g l) g l (jumpTo pc), [])
  | .hold s => (modT s g l fun t => { t with cls := .normal, w := 0 }, [])
  | .trap s t ign => (modT s g l fun t => { t with cls := .normal, w := 0 }, [(g, l, t, ign)])

/-- One lane at a word: the shared checks, the guard, then the instruction's own effect. -/
def laneStep (i : WordInfo) (pre : State → Nat → Nat → Option Trap) (body : State → Nat → Nat → LaneRes)
    (s : State) (g l : Nat) : LaneRes :=
  match getT s g l with
  | none => .hold s
  | some t => match headTrap i pre s g l t with
    | some x => .trap s x .none
    | none => match guardOf i.pred t with
      | none => .trap s (trapOf causePoison) .none
      | some false => .done s
      | some true => match i.own s g with
        | some x => .trap s x .none
        | none => body s g l

def runLanes (i : WordInfo) (pre : State → Nat → Nat → Option Trap) (body : State → Nat → Nat → LaneRes) :
    List (Nat × Nat) → State → State × List (Nat × Nat × Trap × Ign)
  | [], s => (s, [])
  | (g, l) :: r, s =>
    let d := i.dest s g l
    let (s, t1) := settleLane i g l (laneStep i pre body s g l)
    let t1 := t1.map fun x => (x.1, x.2.1, x.2.2.1, fillIgn i.ends d x.2.2.2)
    let (s, t2) := runLanes i pre body r s
    (s, t1 ++ t2)

/-- Whether a trap of a group now enters its handler (R39, R40). -/
def entersHandler (s : State) (g : Nat) : Bool :=
  (getG s g).any fun G => G.trap.isNone && ((((gridOf s g).map (·.kd.tvec)).getD 0) &&& ~~~ 3) != 0

/-- Traps of a coach are taken group by group; where a handler is entered, the lanes of the group that completed wait and
resume at a new run (R40, R70, R220). -/
def takeTraps (s0 : State) (lanes : List (Nat × Nat)) (ts : List (Nat × Nat × Trap × Ign)) (s : State) : State :=
  ((ts.map (·.1)).eraseDups).foldl (fun s g =>
    let mine := (ts.filter fun x => x.1 == g).map (·.2)
    let rest := (lanes.filter fun x => x.1 == g).filter fun x => !(mine.any fun m => m.1 == x.2)
    let s := if entersHandler s g then rest.foldl (fun s x => modT s x.1 x.2 newRun) s else s
    takeTrap s g (pcOf s0 g ((mine.map (·.1)).headD 0)) mine) s

/-- The coach's word is issued lane by lane, in ascending lane column (R290). -/
def issueLanes (i : WordInfo) (pre : State → Nat → Nat → Option Trap) (body : State → Nat → Nat → LaneRes)
    (s : State) : State :=
  match s.coach with
  | none => s
  | some c =>
    let s1 := { s with coach := none }
    let (s2, ts) := runLanes i pre body c.lanes s1
    takeTraps s1 c.lanes ts s2

/-- What a collective word does for one group: the state, the lanes that trap, the lanes that stay, and
those that transfer. -/
structure GroupRes where
  s : State
  traps : List (Nat × Trap × Ign)
  held : List Nat

def GroupRes.done (s : State) : GroupRes := ⟨s, [], []⟩
def GroupRes.holdAll (s : State) (ls : List Nat) : GroupRes := ⟨s, [], ls⟩
def GroupRes.trapAll (s : State) (ls : List Nat) (t : Trap) (ign : Ign) : GroupRes :=
  ⟨s, ls.map fun l => (l, t, ign), []⟩
/-- Only one lane traps, and the word does nothing; the others wait until `tret` and resume at the word after
(R40, R220). -/
def GroupRes.trapOne (s : State) (l : Nat) (t : Trap) (ign : Ign) : GroupRes :=
  ⟨s, [(l, t, ign)], []⟩

/-- Shared checks of a collective word in the lanes of one group: traps, lanes with a false guard, and lanes
that perform it. -/
def groupHead (i : WordInfo) (pre : State → Nat → Nat → Option Trap) (s : State) (g : Nat) (ls : List Nat) :
    List (Nat × Trap × Ign) × List Nat × List Nat :=
  ls.foldl (fun acc l => match getT s g l with
    | none => acc
    | some t => match headTrap i pre s g l t with
      | some x => (acc.1 ++ [(l, x, .none)], acc.2.1, acc.2.2)
      | none => match guardOf i.pred t with
        | none => (acc.1 ++ [(l, trapOf causePoison, .none)], acc.2.1, acc.2.2)
        | some false => (acc.1, acc.2.1 ++ [l], acc.2.2)
        | some true => match i.own s g with
          | some x => (acc.1 ++ [(l, x, .none)], acc.2.1, acc.2.2)
          | none => (acc.1, acc.2.1, acc.2.2 ++ [l])) ([], [], [])

/-- A collective word in one group, performed by the lanes that pass the shared checks; where its wait makes the whole group
ineligible, the lanes with a false guard stay too. -/
def groupStep (i : WordInfo) (pre : State → Nat → Nat → Option Trap) (body : State → Nat → List Nat → GroupRes)
    (g : Nat) (ls : List Nat) (s : State) : State × List (Nat × Nat × Trap × Ign) :=
  let (bad, off, on) := groupHead i pre s g ls
  let s0 := s
  let stay := i.whole && !on.isEmpty && !(body s g on).held.isEmpty
  let s := off.foldl (fun s l => (settleLane i g l (if stay then .hold s else .done s)).1) s
  let s := bad.foldl (fun s x => (settleLane i g x.1 (.hold s)).1) s
  let bad := bad.map fun x => (g, x.1, x.2.1, fillIgn i.ends (i.dest s0 g x.1) x.2.2)
  if on.isEmpty then (s, bad)
  else
    let r := body s g on
    let s := on.foldl (fun s l =>
      if r.traps.any (fun x => x.1 == l) || r.held.contains l then (settleLane i g l (.hold s)).1
      else (settleLane i g l (.done s)).1) r.s
    (s, bad ++ r.traps.map fun x => (g, x.1, x.2.1, fillIgn i.ends (i.dest s0 g x.1) x.2.2))

/-- The lowest lane of a group in a coach whose guard is true, or 32. -/
def leadLane (i : WordInfo) (s : State) (lanes : List (Nat × Nat)) (g : Nat) : Nat :=
  ((lanes.filter fun x => x.1 == g && ((getT s g x.2).bind (guardOf i.pred)) == some true).map (·.2)).headD 32

def insertLead (key : Nat → Nat) (g : Nat) : List Nat → List Nat
  | [] => [g]
  | x :: r => if key g < key x then g :: x :: r else x :: insertLead key g r

/-- The coach's collective word is issued group by group, in the order of their lowest active lane columns. -/
def issueGroups (i : WordInfo) (pre : State → Nat → Nat → Option Trap)
    (body : State → Nat → List Nat → GroupRes) (s : State) : State :=
  match s.coach with
  | none => s
  | some c =>
    let s1 := { s with coach := none }
    let gs := ((c.lanes.map (·.1)).eraseDups).foldr (insertLead (leadLane i s1 c.lanes)) []
    let (s2, ts) := gs.foldl (fun (acc : State × List (Nat × Nat × Trap × Ign)) g =>
      let (s, t) := groupStep i pre body g ((c.lanes.filter fun x => x.1 == g).map (·.2)) acc.1
      (s, acc.2 ++ t)) (s1, [])
    takeTraps s1 c.lanes ts s2

end Sys2Proof.Machine
end

