-- ==== Sys2Proof/Machine/Queue.lean ====
section
/-! DEFINITION. Hardware queues (R79, R213 to R215, R388): elements, closing, and one lane's pop, push and peek. -/

namespace Sys2Proof.Machine

open Sys2Proof

def qElem (s : State) (q : Queue) (i : Nat) : Word :=
  if q.xs then readWord s.xs (qAddr q i) else readWord s.ks (qAddr q i)

/-- Scope of a queue's releases and acquires (R214). -/
def qScope (q : Queue) : Nat := if q.xs then 4 else 2

/-- A queue is closed when every producer stage bound to it has ended (R213, R388). -/
def qClosed (s : State) (q : Queue) : Bool :=
  match aget s.pipes q.pipe with
  | none => true
  | some p => p.stages.all fun st => !st.push.getLsbD q.num || st.done

def qBinding (s : State) (g n : Nat) : Option QBind := (wgOf s g).bind fun W => aget W.q n
def qOf (s : State) (g n : Nat) : Option (Nat × Queue) :=
  (qBinding s g n).bind fun b => (aget s.queues b.queue).map fun q => (b.queue, q)

/-- Check 5 for a queue field (R21, R79, R213). -/
def qCheck (s : State) (g n : Nat) (push : Bool) : Option Trap :=
  match qBinding s g n with
  | none => some (trapOf causeQueue 1)
  | some b => if (if push then b.push else b.pop) then none else some (trapOf causeQueue 3)

def coreOf (s : State) (g : Nat) : Nat := ((getG s g).map (·.core)).getD 0

/-- Takes the head element: the word and the state, with the acquire of R215. -/
def qTake (s : State) (g k : Nat) (q : Queue) : Word × State :=
  (qElem s q q.head,
   acquireAt (modQ s k fun q => { q with head := (q.head + 1) % q.cap, count := q.count - 1 }) (coreOf s g) (qScope q))

/-- Appends an element after the release of R214. -/
def qPut (s : State) (g k : Nat) (q : Queue) (w : Word) : State :=
  let s := releaseAt s (coreOf s g) (qScope q)
  let a := qAddr q (q.head + q.count)
  let s := if q.xs then { s with xs := writeWord s.xs a w } else { s with ks := writeWord s.ks a w }
  modQ s k fun q => { q with count := q.count + 1 }

/-- Whether an entry is that of a lane. -/
def QueueWait.is (g l : Nat) (w : QueueWait) : Bool := w.grp == g && w.lane == l

/-- Whether a lane waits in a queue operation (R288). -/
def atQueue (s : State) (g l : Nat) : Bool := (getT s g l).any fun t => t.wait == .queue

/-- A queue without a lane among its waiters. -/
def Queue.without (g l : Nat) (q : Queue) : Queue := { q with waiters := q.waiters.filter fun w => !w.is g l }

/-- A lane joins the queue's waiters and becomes ineligible. One that was waiting there keeps its place. -/
def qWait (s : State) (g l k : Nat) (push : Bool) : State :=
  let again := atQueue s g l && (aget s.queues k).any fun q => q.waiters.any (QueueWait.is g l)
  let s := modT s g l fun t => { t with wait := .queue }
  if again then
    modQ s k fun q => { q with waiters := q.waiters.map fun w => if w.is g l then ⟨g, l, push, false⟩ else w }
  else
    modQ { s with queues := s.queues.map fun x => (x.1, x.2.without g l) } k fun q =>
      { q with waiters := q.waiters ++ [⟨g, l, push, false⟩] }

/-- A lane leaves the waiters once it proceeds. -/
def qUnwait (s : State) (g l k : Nat) : State :=
  modQ (modT s g l fun t => { t with wait := .none }) k (Queue.without g l)

/-- Waiters of a queue that still wait in it, in arrival order. -/
def qWaiters (s : State) (q : Queue) : List QueueWait := q.waiters.filter fun w => atQueue s w.grp w.lane

/-- The next waiter whose turn can come: one for which an element or a place is left beside those whose turn has come,
or a pop that a closed queue ends (R213 to R215). -/
def qTurn (s : State) (q : Queue) : Option QueueWait :=
  let ws := qWaiters s q
  let taken (push : Bool) : Nat := (ws.filter fun w => w.granted && w.push == push).length
  ws.find? fun w => !w.granted && (if w.push then decide (q.count + taken true < q.cap)
    else decide (taken false < q.count) || qClosed s q)

/-- The fields of a queue operand: number, non-blocking flag, predicate (R79). -/
def qNum (f : Byte) : Nat := f.toNat % 16
def qNB (f : Byte) : Bool := f.getLsbD 7
def qPred (f : Byte) : Nat := f.toNat / 16 % 8

/-- What taking one element gives a lane. -/
inductive QRes where
  | got (w : Word) (addr : W64) (s : State)
  | dry (s : State)
  | wait (s : State)
  | trap (s : State) (t : Trap)
  deriving DecidableEq

/-- One lane's pop (R215): an element, no element under NB, a wait, or the trap of a closed queue. -/
def qPopLane (s : State) (g l : Nat) (f : Byte) : QRes :=
  match qOf s g (qNum f) with
  | none => .trap s (trapOf causeQueue 1)
  | some (k, q) =>
    if 0 < q.count then
      let (w, s) := qTake (qUnwait s g l k) g k q
      .got w (BitVec.ofNat 64 (qAddr q q.head)) s
    else if qNB f then .dry s
    else if qClosed s q then .trap (qUnwait s g l k) (trapOf causeQueue 2)
    else .wait (qWait s g l k false)

/-- The element that one lane's pop takes, by queue. -/
def qTaken (s : State) (g : Nat) (f : Byte) : List (Nat × Word) :=
  match qOf s g (qNum f) with
  | none => []
  | some (k, q) => if 0 < q.count then [(k, qElem s q q.head)] else []

/-- A trap keeps what the lane had taken from a queue, for the policy ignore (R299). -/
def LaneRes.taking (q : List (Nat × Word)) : LaneRes → LaneRes
  | .trap s t i => .trap s t { i with q }
  | r => r

/-- Room for one lane's push. -/
def qRoom (s : State) (g : Nat) (f : Byte) : Bool :=
  match qOf s g (qNum f) with
  | none => true
  | some (_, q) => decide (q.count < q.cap)

def qPushLane (s : State) (g l : Nat) (f : Byte) (w : Word) : State :=
  match qOf s g (qNum f) with
  | none => s
  | some (k, q) => qPut (qUnwait s g l k) g k q w

def qWaitPush (s : State) (g l : Nat) (f : Byte) : State :=
  match qOf s g (qNum f) with
  | none => s
  | some (k, _) => qWait s g l k true

/-- The predicate of a non-blocking queue operand, written with variable latency (R16, R79). -/
def qFlag (s : State) (g l : Nat) (f : Byte) (b : Bool) : State :=
  if qNB f then modT s g l (deliver (some s.cycle) [] [(qPred f, ⟨b, false⟩)]) else s

end Sys2Proof.Machine
end

