-- ==== Sys2Proof/Machine/Operands.lean ====
section
/-! DEFINITION. Operand fields, the standard MOD layout and its operand modes (R75 to R80), the encoding checks
of R87 to R90, and the issue of an instruction of opcode groups 0x0 to 0x4. -/

namespace Sys2Proof.Machine

open Sys2Proof

/-- An operand field: unused, a predicate, an instruction's own layout, or vector registers of a format. -/
inductive Fld where
  | z
  | p
  | raw
  | v (ty : Nat)
  deriving DecidableEq, Repr

def wide (ty : Nat) : Bool := ty == 0x01 || ty == 0x05 || ty == 0x09 || ty == 0x0F
def packedTy (ty : Nat) : Bool := ty == 0x0A || ty == 0x0B || ty == 0x10 || ty == 0x11
def nRegs (ty : Nat) : Nat := if wide ty then 2 else 1

/-- What the encoding tables R95 and R125 say of an instruction for the word at hand. -/
structure Row where
  d : Fld
  a : Fld
  b : Fld
  c : Fld
  types : List Nat
  xm : BitVec 6
  cbTy : Nat
  subs : List Nat := []
  regs : List Nat := []
  preds : List Nat := []
  outP : List Nat := []
  xs : List Nat := []
  deriving DecidableEq, Repr

def tyOf (f : FullWord) : Nat := f.mod.toNat / 2 ^ 11
def omodeOf (f : FullWord) : Nat := f.mod.toNat / 2 ^ 8 % 8
def oselOf (f : FullWord) : Nat := f.mod.toNat / 2 ^ 6 % 4
def xmOf (f : FullWord) : BitVec 6 := f.mod.setWidth 6

def fieldAt (f : FullWord) (i : Nat) : Byte :=
  match i with | 0 => f.a | 1 => f.b | 2 => f.c | _ => f.d
def Row.at_ (r : Row) (i : Nat) : Fld :=
  match i with | 0 => r.a | 1 => r.b | 2 => r.c | _ => r.d

def isV : Fld → Bool
  | .v _ => true
  | _ => false

/-- R76: whether a mode may be selected for an operand. -/
def modeAllowed (r : Row) (m i : Nat) : Bool :=
  isV (r.at_ i) && match m with
    | 1 | 4 => true
    | 2 => (i == 0 || i == 1) && r.c == .z && !wide r.cbTy && !packedTy r.cbTy
    | 3 => (i == 0 || i == 1) && r.c == .z && packedTy r.cbTy
    | 5 | 6 => i != 3
    | _ => true

/-- Whether field i is direct. -/
def isDirect (f : FullWord) (i : Nat) : Bool := omodeOf f == 0 || oselOf f != i

/-- Sub-codes that field i violates (R26, R78 to R80, R87). -/
def fieldSubs (r : Row) (f : FullWord) (i : Nat) : List Nat :=
  let x := fieldAt f i
  let n := x.toNat
  let cb := (omodeOf f == 2 || omodeOf f == 3) && i == 2
  match r.at_ i with
  | .z => if cb || n == 0 then [] else [2]
  | .p => if n < 8 then [] else [2]
  | .raw => []
  | .v ty =>
    if isDirect f i then (if wide ty && n % 2 == 1 then [5] else [])
    else match omodeOf f with
      | 4 => if !qNB x && qPred x != 0 then [2] else []
      | 5 => (if n < 32 then [] else [2]) ++ (if wide ty && n % 2 == 1 then [5] else [])
      | _ => []

/-- Conditions on the codebook descriptor (R78). -/
def codebookSubs (f : FullWord) : List Nat :=
  let w := f.c.getLsbD 3
  let pos2 := f.c.getLsbD 2
  match omodeOf f with
  | 2 => if !w && pos2 then [1] else []
  | 3 => if !w || pos2 then [1] else []
  | _ => []

/-- Every sub-code of ILLEGAL_OPERAND that an R75 word violates (check 3 of R89). -/
def r75Subs (r : Row) (f : FullWord) : List Nat :=
  (if f.pred = 0xF then [1] else []) ++
  (if 0x13 ≤ tyOf f then [1] else if r.types.contains (tyOf f) then [] else [4]) ++
  (if omodeOf f = 7 ∨ (omodeOf f = 0 ∧ oselOf f ≠ 0) then [1] else []) ++
  (if xmOf f &&& ~~~ r.xm = 0 then [] else [2]) ++
  (if omodeOf f = 0 ∨ omodeOf f = 7 ∨ modeAllowed r (omodeOf f) (oselOf f) then [] else [3]) ++
  [0, 1, 2, 3].flatMap (fieldSubs r f) ++ codebookSubs f ++ r.subs

/-- Direct vector registers that the word names, in the order D, A, B, C. -/
def r75Regs (r : Row) (f : FullWord) : List Nat :=
  ([3, 0, 1, 2].flatMap fun i => match r.at_ i with
    | .v ty =>
      let n := (fieldAt f i).toNat
      if isDirect f i then (List.range (nRegs ty)).map (n + ·)
      else if omodeOf f = 2 ∨ omodeOf f = 3 then [n] else []
    | _ => []) ++ r.regs

/-- R14: direct indexes out of bound. -/
def outOfBound (nreq : Nat) (rs : List Nat) : List Nat := rs.filter fun i => decide (nreq ≤ i) && i != 255

def regTrap (nreq : Nat) (rs : List Nat) : Option Trap :=
  match outOfBound nreq rs with
  | [] => none
  | l => some (trapAt causeRegBound 0 (BitVec.ofNat 64 (pick l)))

def subTrap (subs : List Nat) : Option Trap :=
  if subs.isEmpty then none else some (trapOf causeIllegalOperand (pick subs))

def nreqOf (s : State) (g : Nat) : Nat := ((getG s g).map (·.nreq)).getD 0

def ownsBank (s : State) (g b : Nat) : Bool := ((gridOf s g).map fun k => k.kd.cbmask.getLsbD b).getD false

/-- Check 5 of R89 for an R75 word: queue binding, bank ownership. -/
def r75Check5 (f : FullWord) (s : State) (g : Nat) : Option Trap :=
  match omodeOf f with
  | 4 => qCheck s g (qNum (fieldAt f (oselOf f))) (oselOf f == 3)
  | 2 | 3 => if ownsBank s g (f.c.toNat / 16) then none else some (trapOf causeProtection)
  | _ => none

/-- Checks 3 to 5 of R89 for an R75 word. -/
def r75Pre (r : Row) (f : FullWord) (s : State) (g _l : Nat) : Option Trap :=
  (subTrap (r75Subs r f)).or ((regTrap (nreqOf s g) (r75Regs r f)).or (r75Check5 f s g))

/-! ### Reading operands -/

/-- The immediate of R80 in the format of its operand. -/
def imm8 (ty : Nat) (x : Byte) : List Word :=
  let n := x.toInt
  if 0x0C ≤ ty ∧ ty ≤ 0x11 then
    let v : FVal := .fin (decide (n < 0)) n.natAbs (n.natAbs % 15) 0
    let e := encodeFloat (floatFmt ty) 0 2 0 false false false v
    (placeEnc ty [e, e]).map fun c => gen c.bits
  else if packedTy ty then
    let h := (BitVec.ofInt 16 n).toNat
    [gen (BitVec.ofNat 32 (h + h * 65536))]
  else if wide ty then [gen (BitVec.ofInt 32 n), gen (BitVec.ofInt 32 (n / 2 ^ 32))]
  else [gen (BitVec.ofInt 32 n)]

/-- An entry of a codebook bank; one that is not listed is invalid, its data bits open (R347, R413; log entry 3). -/
def bankEntry (s : State) (core bank i : Nat) : CbEntry :=
  ((s.banks.find? fun x => x.1 == core && x.2.1 == bank && x.2.2.1 == i).map (·.2.2.2)).getD
    ⟨Config.freeWord (2 ^ 40 + core * 4096 + bank * 256 + i), 0xF, 0xF⟩

/-- An invalid entry on a read (R23, R78). -/
def entryInvalid (e : CbEntry) : Option Trap :=
  if e.h0 = 0xF ∨ e.h1 = 0xF then some (trapOf causeCodebook) else none

/-- The checks of an entry on a read (R23, R78): invalid first, then a half-residue mismatch. -/
def entryTrap (e : CbEntry) : Option Trap :=
  if e.h0 = 0xF ∨ e.h1 = 0xF then some (trapOf causeCodebook)
  else if rho (e.val.toNat % 65536 : Nat) ≠ e.h0.toNat ∨ rho (e.val.toNat / 65536 : Nat) ≠ e.h1.toNat then
    some (trapOf causeCheck 2)
  else none

/-- Codebook expansion (R78): a poisoned index, then an invalid entry, then a half-residue mismatch. -/
def expand (s : State) (core mode : Nat) (c : Byte) (idx : Word) : Except Trap Word :=
  let bank := c.toNat / 16
  let pos := c.toNat % 8
  if isPoison idx then .error (trapOf causePoison)
  else if mode = 2 then
    let i := if c.getLsbD 3 then idx.val.toNat / 16 ^ pos % 16 else idx.val.toNat / 256 ^ pos % 256
    let e := bankEntry s core bank i
    match entryTrap e with
    | some t => .error t
    | none => .ok ⟨e.val, BitVec.ofNat 4 ((e.h0.toNat + e.h1.toNat) % 15)⟩
  else
    let b := idx.val.toNat / 256 ^ pos % 256
    let e0 := bankEntry s core bank (b % 16)
    let e1 := bankEntry s core bank (b / 16)
    match (entryInvalid e0).or ((entryInvalid e1).or ((entryTrap e0).or (entryTrap e1))) with
    | some t => .error t
    | none =>
      .ok ⟨BitVec.ofNat 32 (e0.val.toNat % 65536 + e1.val.toNat % 65536 * 65536),
           BitVec.ofNat 4 ((e0.h0.toNat + e1.h0.toNat) % 15)⟩

/-- An indirect operand (R14, R77): its first register. For REG_BOUND the register index of a negative index is reported
as its two's complement of 64 bits (DESIGN CHOICE, log entry 63). -/
def indirect (t : Thread) (nreq ty : Nat) (x : Byte) : Except Trap Nat :=
  let δ : Int := (x.setWidth 6).toInt
  let i : Int := (readX t (x.toNat / 64)).toNat + δ
  if i < 0 ∨ (nreq : Int) ≤ i ∨ i = 255 then .error (trapAt causeRegBound 0 (BitVec.ofInt 64 i))
  else if wide ty ∧ i % 2 = 1 then .error (trapOf causeIllegalOperand 5)
  else if wide ty ∧ (nreq : Int) ≤ i + 1 ∧ i + 1 ≠ 255 then
    .error (trapAt causeRegBound 0 (BitVec.ofInt 64 (i + 1)))
  else .ok i.toNat

def regsFrom (t : Thread) (n k : Nat) : List Word := (List.range k).map fun j => readV t (n + j)

/-- What reading the operand that takes a mode gives a lane. -/
inductive OpRes where
  | words (s : State) (ws : List Word)
  | stop (r : LaneRes)
  deriving DecidableEq

/-- A word as an operand of a format; that of a 64-bit format has an open high word (log entries 5 and 41). -/
def openHigh (s : State) (ty : Nat) (w : Word) : OpRes :=
  if wide ty then .words { s with free := s.free + 1 } [w, gen (Config.freeWord s.free)] else .words s [w]

/-- An operand popped from a queue (R79): one element. The flag of a non-blocking pop that takes one is written with the
word's results, since a lane that traps later writes nothing (R40). DEDUCED (log entry 41): the element is compared at the pop
(R79, R215), whatever the other operands hold, so its CHECK comes before the word's own traps, DIVIDE among them, and stands
where another operand is poisoned. -/
def popOperand (s : State) (g l ty : Nat) (x : Byte) : OpRes :=
  match qPopLane s g l x with
  | .trap s t => .stop (.trap s t .none)
  | .wait s => .stop (.hold s)
  | .dry s => .stop (.done (qFlag s g l x true))
  | .got w a s =>
    if mismatch w then .stop (.trap s (trapAt causeCheck 1 a) .none)
    else openHigh s ty w

/-- Reads operand i of an R75 word in a lane. -/
def readOperand (r : Row) (f : FullWord) (s : State) (g l : Nat) (t : Thread) (i : Nat) : OpRes :=
  match r.at_ i with
  | .v ty =>
    let x := fieldAt f i
    if isDirect f i then .words s (regsFrom t x.toNat (nRegs ty))
    else match omodeOf f with
      | 1 => match indirect t (nreqOf s g) ty x with
        | .ok n => .words s (regsFrom t n (nRegs ty))
        | .error e => .stop (.trap s e .none)
      | 4 => popOperand s g l ty x
      | 5 => .words s ((List.range (nRegs ty)).map fun j =>
          ((wgOf s g).map fun W => W.g.getD (x.toNat + j) .zero).getD .zero)
      | 6 => .words s (imm8 ty x)
      | m => match expand s (coreOf s g) m f.c (readV t x.toNat) with
        | .ok w => openHigh s ty w
        | .error e => .stop (.trap s e .none)
  | _ => .words s []

/-- What an instruction's arithmetic is given in a lane. -/
structure Ctx where
  f : FullWord
  a : List Word
  b : List Word
  c : List Word
  t : Thread

def Ctx.ty (x : Ctx) : Nat := tyOf x.f
def Ctx.xm (x : Ctx) : BitVec 6 := xmOf x.f
def Ctx.it (x : Ctx) : IntTy := intTy (tyOf x.f)
def Ctx.p (x : Ctx) (n : Nat) : Prd := readP x.t n

/-- Destination registers of a direct or indirect D. -/
def destRegs (r : Row) (f : FullWord) (nreq : Nat) (t : Thread) : Except Trap (List Nat) :=
  match r.d with
  | .v ty =>
    if isDirect f 3 then .ok ((List.range (nRegs ty)).map (f.d.toNat + ·))
    else if omodeOf f = 1 then (indirect t nreq ty f.d).map fun n => (List.range (nRegs ty)).map (n + ·)
    else .ok []
  | _ => .ok []

/-- Whether an operand is popped from a queue: the results then are variable-latency results (R72, R79). -/
def popsQueue (f : FullWord) : Bool := omodeOf f == 4 && oselOf f != 3

/-- A result pushed exactly as `qpush` pushes (R79, R214): the lane's traps and the poison of the result come before the
test for room; without room nothing of the word is done. -/
def pushResult (s : State) (g l : Nat) (x : Byte) (r : LaneRes) (ws : Option (List Word)) : LaneRes :=
  match r, ws with
  | .done s', some (w :: _) =>
    if isPoison w then .trap s (trapOf causePoison) .none
    else if qRoom s g x then .done (qFlag (qPushLane s' g l x w) g l x false)
    else if qNB x then .done (qFlag s g l x true)
    else .hold (qWaitPush s g l x)
  | r, _ => r

/-- A word that popped an operand completes: the flag of a non-blocking pop is false (R79). -/
def popDone (g l : Nat) (x : Byte) : LaneRes → LaneRes
  | .done s => .done (qFlag s g l x false)
  | r => r

/-- The instruction's own part in a lane: operands read, result formed, written back or pushed. DEDUCED (log entry 41): an
element that a lane has popped stays removed whichever trap of the lane follows, DIVIDE as well as CHECK, as the lane goes to
its handler or is retried; it goes back only under the policy ignore (R299). -/
def aluLane (r : Row) (cls : Nat) (run : Ctx → AluOut) (f : FullWord) (s : State) (g l : Nat) : LaneRes :=
  match getT s g l with
  | none => .hold s
  | some t =>
    let push := omodeOf f == 4 && oselOf f == 3
    match destRegs r f (nreqOf s g) t with
    | .error e => .trap s e .none
    | .ok ds =>
      let x := fieldAt f (oselOf f)
      let q := if popsQueue f then qTaken s g x else []
      match readOperand r f s g l t 0 with
      | .stop x => x.taking q
      | .words s a => match readOperand r f s g l t 1 with
        | .stop x => x.taking q
        | .words s b => match readOperand r f s g l t 2 with
          | .stop x => x.taking q
          | .words s c =>
            let o := run ⟨f, a, b, c, t⟩
            let psn := (a ++ b ++ c).any isPoison || (r.regs.any fun n => isPoison (readV t n)) ||
              r.preds.any fun p => (readP t p).psn
            if push then pushResult s g l f.d (writeBack s g l cls false psn [] o) (settleAll psn (o.words.take 1))
            else if popsQueue f then popDone g l x ((writeBack s g l cls true psn ds o).taking q)
            else writeBack s g l cls false psn ds o

/-- Destinations of an R75 word in a lane: D, a carry, a queue operand's flag. -/
def r75Dest (r : Row) (f : FullWord) (s : State) (g l : Nat) : Ign :=
  let ds := match (getT s g l).map (destRegs r f (nreqOf s g)) with
    | some (.ok ds) => ds
    | _ => []
  let q := fieldAt f (oselOf f)
  zeroed ds ((match r.d with | .p => [f.d.toNat % 8] | _ => []) ++ r.outP ++
    if omodeOf f = 4 ∧ qNB q then [qPred q] else [])

def infoOf (f : FullWord) : WordInfo := { s := f.s, ender := false, pred := f.pred }

/-- `infoOf` with the destinations that the word names directly. -/
def infoTo (f : FullWord) (v p : List Nat) : WordInfo := { infoOf f with dest := fun _ _ _ => zeroed v p }

/-- Issues an instruction of opcode groups 0x0 to 0x4 (R75). -/
def issueR75 (row : FullWord → Row) (cls : Nat) (run : Ctx → AluOut) (f : FullWord) (s : State) :
    Host.Outcome State Fault Refusal :=
  .next (issueLanes { infoOf f with dest := r75Dest (row f) f } (r75Pre (row f) f) (aluLane (row f) cls run f) s)

end Sys2Proof.Machine
end

