-- ==== Sys2Proof/Machine/Integer.lean ====
section
/-! DEFINITION. The integer arithmetic instructions, opcode group 0x0 (R95, R102 to R110, R117, R118), and rshr. -/

namespace Sys2Proof.Machine

open Sys2Proof

/-- Type sets of R95. -/
def typesI : List Nat := [0x02, 0x03, 0x04, 0x05, 0x06, 0x07, 0x08, 0x09, 0x0A, 0x0B]
def typesS : List Nat := [0x02, 0x03, 0x04, 0x05, 0x0A]
def typesW : List Nat := [0x04, 0x08]
def typesB : List Nat := [0x00, 0x01]

/-- Rows whose operands all have the format TYPE. -/
def rowDA (types : List Nat) (xm : BitVec 6) (f : FullWord) : Row :=
  let v := Fld.v (tyOf f)
  { d := v, a := v, b := .z, c := .z, types, xm, cbTy := tyOf f }
def rowDAB (types : List Nat) (xm : BitVec 6) (f : FullWord) : Row :=
  let v := Fld.v (tyOf f)
  { d := v, a := v, b := v, c := .z, types, xm, cbTy := tyOf f }
def rowDABC (types : List Nat) (xm : BitVec 6) (f : FullWord) : Row :=
  let v := Fld.v (tyOf f)
  { d := v, a := v, b := v, c := v, types, xm, cbTy := tyOf f }

/-- addc and subb: the carry predicate of XM[2:0] is read and written (R103). -/
def rowCarry (f : FullWord) : Row :=
  { rowDAB typesW 7 f with preds := [(xmOf f).toNat % 8], outP := [(xmOf f).toNat % 8] }

/-- A 32-bit accumulator beside packed or word operands (R107, R108). -/
def accTy (ty : Nat) : Nat := if ty == 0x0A || ty == 0x04 then 0x04 else 0x08
def rowAcc (types : List Nat) (xm : BitVec 6) (subs : List Nat) (f : FullWord) : Row :=
  { rowDABC types xm f with d := .v (accTy (tyOf f)), c := .v (accTy (tyOf f)), subs }

/-- R107: `.bytes` needs `.n32`. -/
def sadSubs (f : FullWord) : List Nat := if (xmOf f).getLsbD 0 ∧ tyOf f ≠ 0x08 then [0x20] else []

/-- R117: reserved NW and RND, and the reserved bit. -/
def rshrSubs (f : FullWord) : List Nat :=
  (if (xmOf f).toNat / 16 = 3 then [1] else []) ++ (if (xmOf f).toNat % 4 = 3 then [1] else [])

/-- mulw: D is an even pair whatever TYPE is (R109). -/
def rowMulw (f : FullWord) : Row := { rowDAB typesW 0 f with d := .v 0x09 }

abbrev Exec := State → Host.Outcome State Fault Refusal

/-- R102 -/
def execAdd (f : FullWord) : Exec :=
  issueR75 (rowDAB typesI 0) 0 (fun x => aluAdd x.it x.a x.b) f

/-- R102 -/
def execSub (f : FullWord) : Exec :=
  issueR75 (rowDAB typesI 0) 0 (fun x => aluSub x.it x.a x.b) f

/-- R103 -/
def execAddc (f : FullWord) : Exec :=
  issueR75 (rowCarry) 0 (fun x => aluAddc (x.xm.toNat % 8) (x.p (x.xm.toNat % 8)).t x.a x.b) f

/-- R103 -/
def execSubb (f : FullWord) : Exec :=
  issueR75 (rowCarry) 0 (fun x => aluSubb (x.xm.toNat % 8) (x.p (x.xm.toNat % 8)).t x.a x.b) f

/-- R109 -/
def execMul (f : FullWord) : Exec :=
  issueR75 (rowDAB typesI 0) 0 (fun x => aluMul x.it x.a x.b) f

/-- R109 -/
def execMulh (f : FullWord) : Exec :=
  issueR75 (rowDAB [0x04, 0x08, 0x0A, 0x0B] 0) 0 (fun x => aluMulh x.it x.a x.b) f

/-- R109 -/
def execMulw (f : FullWord) : Exec :=
  issueR75 (rowMulw) 0 (fun x => aluMulw x.it x.a x.b) f

/-- R109 -/
def execMad (f : FullWord) : Exec :=
  issueR75 (rowDABC [0x04, 0x08, 0x05, 0x09, 0x0A, 0x0B] 0) 0 (fun x => aluMad x.it x.a x.b x.c) f

/-- R109 -/
def execMadh (f : FullWord) : Exec :=
  issueR75 (rowDABC typesW 0) 0 (fun x => aluMadh x.it x.a x.b x.c) f

/-- R110 -/
def execDiv (f : FullWord) : Exec :=
  issueR75 (rowDAB [0x04, 0x08, 0x05, 0x09] 0) 0 (fun x => aluDivRem false x.it x.a x.b) f

/-- R110 -/
def execRem (f : FullWord) : Exec :=
  issueR75 (rowDAB [0x04, 0x08, 0x05, 0x09] 0) 0 (fun x => aluDivRem true x.it x.a x.b) f

/-- R105 -/
def execNeg (f : FullWord) : Exec :=
  issueR75 (rowDA typesS 1) 0 (fun x => aluNeg (x.xm.getLsbD 0) x.it x.a) f

/-- R105 -/
def execAbs (f : FullWord) : Exec :=
  issueR75 (rowDA typesS 1) 0 (fun x => aluAbs (x.xm.getLsbD 0) x.it x.a) f

/-- R106 -/
def execMin (f : FullWord) : Exec :=
  issueR75 (rowDAB typesI 0) 0 (fun x => aluMin x.it x.a x.b) f

/-- R106 -/
def execMax (f : FullWord) : Exec :=
  issueR75 (rowDAB typesI 0) 0 (fun x => aluMax x.it x.a x.b) f

/-- R106 -/
def execClamp (f : FullWord) : Exec :=
  issueR75 (rowDABC typesI 0) 0 (fun x => aluClamp x.it x.a x.b x.c) f

/-- R104 -/
def execSadd (f : FullWord) : Exec :=
  issueR75 (rowDAB typesI 0) 0 (fun x => aluSadd x.it x.a x.b) f

/-- R104 -/
def execSsub (f : FullWord) : Exec :=
  issueR75 (rowDAB typesI 0) 0 (fun x => aluSsub x.it x.a x.b) f

/-- R108 -/
def execDot2s (f : FullWord) : Exec :=
  issueR75 (fun f => rowAcc [0x0A, 0x0B] 0 [] f) 0 (fun x => aluDot2s x.it x.a x.b x.c) f

/-- R107 -/
def execSad (f : FullWord) : Exec :=
  issueR75 (fun f => rowAcc [0x04, 0x08, 0x0A, 0x0B] 1 (sadSubs f) f) 0 (fun x => aluSad (x.xm.getLsbD 0) x.it x.a x.b x.c) f

end Sys2Proof.Machine
end

