-- ==== Sys2Proof/Machine/LoadStore.lean ====
section
/-! DEFINITION. Loads and stores: ld, st, ldx, lda, stl (R152 to R159, R270, R271). -/

namespace Sys2Proof.Machine

open Sys2Proof

/-- Bytes of an element of a memory TYPE (R155). -/
def elemBytes (ty : Nat) : Nat :=
  match ty with | 0x02 | 0x06 => 1 | 0x03 | 0x07 => 2 | 0x01 => 8 | _ => 4

def memTypes : List Nat := [0x00, 0x01, 0x02, 0x03, 0x06, 0x07]

def spaceOf (f : FullWord) : Nat := f.mod.toNat / 2 ^ 8 % 8
def vecOf (f : FullWord) : Nat := f.mod.toNat / 2 ^ 6 % 4
def ubOf (f : FullWord) : Bool := f.mod.getLsbD 5
def chOf (f : FullWord) : Nat := f.mod.toNat / 2 ^ 3 % 4
def scOf (f : FullWord) : Nat := f.mod.toNat % 8

/-- Access size in bytes, and registers moved. -/
def sizeOf_ (ty vec : Nat) : Nat := elemBytes ty * 2 ^ vec
def moved (ty vec : Nat) : Nat := max 1 (sizeOf_ ty vec / 4)

def predSubs (f : FullWord) : List Nat := if f.pred = 0xF then [1] else []
def zeroSub (b : Bool) : List Nat := if b then [] else [2]

/-- Conditions on a scope code where a scope is required (R158, R161, R183). -/
def scopeSubs (sc : Nat) : List Nat := if sc = 0 then [0x24] else if 5 < sc then [1] else []

/-- Conditions on a scope code where no scope is taken: a reserved one meets 0x01 of R90 as well (log entry 30). -/
def noScopeSubs (sc : Nat) : List Nat := if sc = 0 then [] else if 5 < sc then [0x24, 1] else [0x24]

/-- A space code beside those that an instruction accepts: the entry's own sub-code, also for a reserved code. -/
def spaceSubs (ok : List Nat) (sp : Nat) : List Nat := if ok.contains sp then [] else [0x20]

/-- Conditions on the base field of an address in a space (R153, R155). -/
def baseSubs (space : Nat) (ub : Bool) (a : Byte) : List Nat :=
  (if ub ∧ 32 ≤ a.toNat then [2] else []) ++ (if space = 4 ∧ a.toNat % 2 = 1 then [5] else [])

def baseRegs (space : Nat) (ub : Bool) (a : Byte) : List Nat :=
  if ub then [] else if space = 4 then [a.toNat, a.toNat + 1] else [a.toNat]

/-- Conditions common to the five instructions. `sync` tells lda and stl (R155, R158). -/
def memSubs (sync ix : Bool) (f : FullWord) : List Nat :=
  let ty := tyOf f
  let sp := spaceOf f
  predSubs f ++
  (if memTypes.contains ty then [] else [4]) ++
  (if 5 ≤ sp then [1] else []) ++
  (if sync then
     zeroSub (vecOf f == 0 && !ubOf f && chOf f == 0) ++ (if sp = 0 then [0x20] else []) ++ scopeSubs (scOf f)
   else
     (if vecOf f = 3 then [1] else []) ++
     (if vecOf f ≠ 0 ∧ ty ≠ 0 ∧ ty ≠ 1 then [0x23] else []) ++
     (if chOf f ≠ 0 ∧ sp ≠ 3 ∧ sp ≠ 4 then [0x21] else []) ++
     (if ix then (if 5 ≤ scOf f then [1] else []) else zeroSub (scOf f == 0))) ++
  zeroSub (ix || f.b == 0) ++
  (if f.d.toNat % moved ty (if sync || vecOf f == 3 then 0 else vecOf f) = 0 then [] else [0x23]) ++
  baseSubs sp (ubOf f) f.a

def memRegs (ix : Bool) (f : FullWord) : List Nat :=
  (List.range (moved (tyOf f) (vecOf f))).map (f.d.toNat + ·) ++ baseRegs (spaceOf f) (ubOf f) f.a ++
  (if ix then [f.b.toNat] else [])

def memPre (sync ix : Bool) (f : FullWord) (s : State) (g _l : Nat) : Option Trap :=
  (subTrap (memSubs sync ix f)).or (regTrap (nreqOf s g) (memRegs ix f))

/-- A base in a lane: whether it is poisoned, and its value. -/
def baseIn (s : State) (g : Nat) (t : Thread) (space : Nat) (ub : Bool) (a : Byte) : Bool × Nat :=
  let rd (n : Nat) : Word :=
    if ub then ((wgOf s g).map fun W => W.g.getD n .zero).getD .zero else readV t n
  let lo := rd a.toNat
  let hi := if space = 4 then rd (a.toNat + 1) else .zero
  (isPoison lo || isPoison hi, lo.val.toNat + 2 ^ 32 * hi.val.toNat)

/-- Address of a lane's access, and whether a word of it is poisoned (R156). -/
def effAddr (ix : Bool) (f : FullWord) (s : State) (g : Nat) (t : Thread) : Bool × Int :=
  let (bad, base) := baseIn s g t (spaceOf f) (ubOf f) f.a
  let i := readV t f.b.toNat
  let z : Int := sizeOf_ (tyOf f) (vecOf f)
  let a : Int := base + f.c.toInt * z
  if ix then (bad || isPoison i, a + i.val.toNat * 2 ^ scOf f) else (bad, a)

/-- An element of a container word, extended (R44), with the residue that R97 and R98 predict for it: bytes 1 to 3 and
half 1 are predicted from their own bits, byte 0 and half 0 from the container's residue less that of its other bits. -/
def extendElem (ty : Nat) (off : Nat) (w : Word) : Word :=
  let n := 8 * elemBytes ty
  let e := w.val.toNat / 256 ^ off % 2 ^ n
  let neg := decide ((ty = 2 ∨ ty = 3) ∧ 2 ^ (n - 1) ≤ e)
  let r : Int := if off = 0 then (w.res.toNat : Int) - rho (w.val.toNat / 2 ^ n : Nat) else rho e
  let c := (CInt.mk (if neg then (e : Int) - 2 ^ n else e) (rho (r - neg.toNat))).cut 0 32 false
  ⟨c.bits, if isPoison w then 0xF else BitVec.ofNat 4 c.pred⟩

def dead (ds : List Nat) : Ign := ⟨ds.map fun d => (d, 0), [], false, []⟩

/-- One lane's load (R156). The comparison that fails for a sub-word element is reported as that of the word received
from memory, with its address (R270 sub-code 0x01, log entry 37). -/
def memLoad (s : State) (g l space ty vec ch d : Nat) (bad : Bool) (addr : Int) : LaneRes :=
  let ds := (List.range (moved ty vec)).map (d + ·)
  if bad then .trap s (trapAt causePoison 0 (BitVec.ofInt 64 addr)) (dead ds)
  else
    let user := ((getG s g).map fun G => !isSuper G l).getD true
    match locate s g space (sizeOf_ ty vec) ⟨true, false, false, user⟩ addr with
    | (.error t, s) => .trap s t (dead ds)
    | (.ok p, s) =>
      let core := coreOf s g
      let tv (k : Nat) : Option W64 := some (BitVec.ofInt 64 (addr - addr % 4 + 4 * k))
      if elemBytes ty < 4 then
        let (w, s) := loadWord s g l core ch p 0
        landWords s g l 4 false 1 tv ds [extendElem ty (addr % 4).toNat w]
      else
        let (ws, s) := loadWords s g l core ch p (moved ty vec)
        landWords s g l 4 (wide ty) 1 tv ds ws

/-- What a store of a type brings to its words: whole words, or bytes of one container (R157). -/
def storeParts (ty off : Nat) (ws : List Word) : List Patch :=
  if elemBytes ty < 4 then
    let w := ws.headD .zero
    let m : Nat := (2 ^ elemBytes ty - 1) * 2 ^ off
    [⟨false, BitVec.ofNat 4 m, ⟨w.val <<< (8 * off), w.res⟩⟩]
  else ws.map wholePatch

def storeParts' (s : State) (g l core : Nat) (p : Loc) (ps : List Patch) (evf : Bool) : State :=
  (ps.foldl (fun (x : State × Nat) q => (storePatch x.1 g l core p x.2 q evf, x.2 + 4)) (s, 0)).1

/-- One lane's store of the words of registers (R157, R271); `rel` is the scope of a release made before it, `evf` the cache
hint evict first (R155). -/
def memStore (s : State) (g l space ty vec rel : Nat) (ws : List Word) (bad : Bool) (addr : Int)
    (evf : Bool := false) : LaneRes :=
  let tv := BitVec.ofInt 64 addr
  if bad then .trap s (trapAt causePoison 0 tv) .none
  else
    let user := ((getG s g).map fun G => !isSuper G l).getD true
    match locate s g space (sizeOf_ ty vec) ⟨false, true, false, user⟩ addr with
    | (.error t, s) => .trap s t .none
    | (.ok p, s) =>
      if ws.any mismatch then .trap s (trapAt causeCheck 4 tv) .none
      else if p.pt && ws.any isPoison then .trap s (trapAt causePoison 0 tv) .none
      else
        let core := coreOf s g
        .done (storeParts' (releaseAt s core rel) g l core p (storeParts ty (addr % 4).toNat ws) evf)

def loadBody (ix : Bool) (acq : Nat) (f : FullWord) (s : State) (g l : Nat) : LaneRes :=
  match getT s g l with
  | none => .hold s
  | some t =>
    let (bad, addr) := effAddr ix f s g t
    match memLoad s g l (spaceOf f) (tyOf f) (vecOf f) (chOf f) f.d.toNat bad addr with
    | .done s => .done (acquireAt s (coreOf s g) acq)
    | x => x

def storeBody (rel : Nat) (f : FullWord) (s : State) (g l : Nat) : LaneRes :=
  match getT s g l with
  | none => .hold s
  | some t =>
    let (bad, addr) := effAddr false f s g t
    memStore s g l (spaceOf f) (tyOf f) (vecOf f) rel
      ((List.range (moved (tyOf f) (vecOf f))).map fun i => readV t (f.d.toNat + i)) bad addr (chOf f == 2)

/-- A load names D's registers as destinations; a store none. -/
def loadDests (load : Bool) (f : FullWord) : List Nat :=
  if load then (List.range (moved (tyOf f) (vecOf f))).map (f.d.toNat + ·) else []

def issueMem (load sync ix : Bool) (body : FullWord → State → Nat → Nat → LaneRes) (f : FullWord) (s : State) :
    Host.Outcome State Fault Refusal :=
  .next (issueLanes (infoTo f (loadDests load f) []) (memPre sync ix f) (body f) s)

/-- R156 -/
def execLd (f : FullWord) : Exec := issueMem true false false (loadBody false 0) f

/-- R157 -/
def execSt (f : FullWord) : Exec := issueMem false false false (storeBody 0) f

/-- R156 -/
def execLdx (f : FullWord) : Exec := issueMem true false true (loadBody true 0) f

/-- R158 -/
def execLda (f : FullWord) : Exec := issueMem true true false (loadBody false (scOf f)) f

/-- R158 -/
def execStl (f : FullWord) : Exec := issueMem false true false (storeBody (scOf f)) f

end Sys2Proof.Machine
end

