-- ==== Sys2Proof/Machine/Control.lean ====
section
/-! DEFINITION. Branches, calls, the end of a thread, yield, wait, nop (R195 to R198), and traps and their return
(R219, R220). -/

namespace Sys2Proof.Machine

open Sys2Proof

/-- A word that ends its run. -/
def enderOf (f : FullWord) : WordInfo := { infoOf f with ender := true }

/-! ### Branches (R195, R196) -/

def braSubs (link : Bool) (w : LongWord) : List Nat :=
  (if w.pred = 0xF then [1] else []) ++ zeroSub (w.a == 0) ++
  (if link then (if w.d ≠ 255 ∧ w.d.toNat % 2 = 1 then [5] else []) else zeroSub (w.d == 0))

/-- The link pair of a call (R195). -/
def linkRegs (w : LongWord) : List Nat := if w.d ≠ 255 then [w.d.toNat, w.d.toNat + 1] else []

def braPre (link : Bool) (w : LongWord) (s : State) (g _l : Nat) : Option Trap :=
  (subTrap (braSubs link w)).or
    (regTrap (nreqOf s g) (if link then linkRegs w else []))

/-- Target of a branch: the word's address plus 8 · IMM. -/
def braTarget (pc : W64) (imm : W32) : W64 := pc + BitVec.ofInt 64 (8 * imm.toInt)

/-- The link pair written in a lane (R195). -/
def writeLink (d : Nat) (pc : W64) (t : Thread) : Thread :=
  let n := pc + 8
  if d = 255 then t else writeV (writeV t d (gen (n.setWidth 32))) (d + 1) (gen ((n >>> 32).setWidth 32))

/-- A target that is no multiple of 8, which a word at such an address has, is refused (R69). -/
def braBody (link : Bool) (w : LongWord) (s : State) (g l : Nat) : LaneRes :=
  let pc := pcOf s g l
  let dest := braTarget pc w.imm
  if dest &&& 7 ≠ 0 then .trap s (trapAt causeMisaligned 0 dest) (zeroed (if link then linkRegs w else []) [])
  else .jump (if link then modT s g l (writeLink w.d.toNat pc) else s) dest

/-- R195 -/
def execBra (w : LongWord) (s : State) : Host.Outcome State Fault Refusal :=
  .next (issueLanes { s := w.s, ender := true, pred := w.pred } (braPre false w) (braBody false w) s)

/-- R195 -/
def execCall (w : LongWord) (s : State) : Host.Outcome State Fault Refusal :=
  .next (issueLanes { s := w.s, ender := true, pred := w.pred, dest := fun _ _ _ => zeroed (linkRegs w) [] }
    (braPre true w) (braBody true w) s)

/-- Whether the target is relative: REL of brx. -/
def brxRel (f : FullWord) : Bool := f.mod.getLsbD 0

def brxSubs (rel : Bool) (f : FullWord) : List Nat :=
  predSubs f ++ zeroSub (f.d == 0 && f.b == 0 && f.c == 0) ++
  zeroSub (f.mod &&& ~~~ (if rel then 1 else 0) == 0) ++
  (if !(rel && brxRel f) && f.a.toNat % 2 == 1 then [5] else [])

def brxPre (rel : Bool) (f : FullWord) (s : State) (g _l : Nat) : Option Trap :=
  (subTrap (brxSubs rel f)).or
    (regTrap (nreqOf s g) (if rel && brxRel f then [f.a.toNat] else [f.a.toNat, f.a.toNat + 1]))

def brxBody (rel : Bool) (f : FullWord) (s : State) (g l : Nat) : LaneRes :=
  match getT s g l with
  | none => .hold s
  | some t =>
    let a := readV t f.a.toNat
    let b := readV t (f.a.toNat + 1)
    let short := rel && brxRel f
    let dest := if short then t.pc + BitVec.ofInt 64 a.val.toInt else b.val ++ a.val
    if isPoison a || (!short && isPoison b) then .trap s (trapOf causePoison) .none
    else if dest &&& 7 ≠ 0 then .trap s (trapAt causeMisaligned 0 dest) .none
    else .jump s dest

/-- R196 -/
def execBrx (f : FullWord) (s : State) : Host.Outcome State Fault Refusal :=
  .next (issueLanes (enderOf f) (brxPre true f) (brxBody true f) s)

/-- R196 -/
def execRet (f : FullWord) (s : State) : Host.Outcome State Fault Refusal :=
  .next (issueLanes (enderOf f) (brxPre false f) (brxBody false f) s)

/-! ### exit, yield, wait, nop (R197, R198) -/

/-- Every field of the word but the marker and the guard is zero. -/
def plainSubs (f : FullWord) : List Nat :=
  predSubs f ++ zeroSub (f.d == 0 && f.a == 0 && f.b == 0 && f.c == 0 && f.mod == 0)

def exitBody (s : State) (g l : Nat) : LaneRes :=
  let s := retryDone s g l
  .hold (if ((getG s g).map fun G => isSuper G l).getD false then endGroup s g else endThread s g l)

/-- R197 -/
def execExit (f : FullWord) (s : State) : Host.Outcome State Fault Refusal :=
  .next (issueLanes (enderOf f) (fun _ _ _ => subTrap (plainSubs f)) exitBody s)

/-- R198, R287 -/
def execYield (f : FullWord) (s : State) : Host.Outcome State Fault Refusal :=
  .next (issueLanes (enderOf f) (fun _ _ _ => subTrap (plainSubs f)) (fun s _ _ => .park s .none .yielded) s)

/-- R198 -/
def execNop (f : FullWord) (s : State) : Host.Outcome State Fault Refusal :=
  .next (issueLanes (infoOf f) (fun _ _ _ => subTrap (plainSubs f)) (fun s _ _ => .done s) s)

def waitSubs (f : FullWord) : List Nat :=
  predSubs f ++ zeroSub (f.d == 0 && f.b == 0 && f.c == 0) ++ zeroSub (f.mod &&& ~~~ 0xF == 0) ++
  zeroSub (f.mod.getLsbD 3 || f.a == 0)

def waitPre (f : FullWord) (s : State) (g _l : Nat) : Option Trap :=
  (subTrap (waitSubs f)).or (regTrap (nreqOf s g) (if f.mod.getLsbD 3 then [f.a.toNat] else []))

/-- The condition that a wait of this mask ends on: CYC, MEM, CPY, VLR from bit 3 down. -/
def waitOf (f : FullWord) (s : State) (t : Thread) : Wait :=
  if f.mod = 0 then .none
  else .cond (f.mod.setWidth 4)
    (s.cycle + if f.mod.getLsbD 3 then (readV t f.a.toNat).val.toNat else 0) s.uid

def waitBody (f : FullWord) (s : State) (g l : Nat) : LaneRes :=
  match getT s g l with
  | none => .hold s
  | some t => .park s (waitOf f s t) .normal

/-- R198 -/
def execWait (f : FullWord) (s : State) : Host.Outcome State Fault Refusal :=
  .next (issueLanes (enderOf f) (waitPre f) (waitBody f) s)

/-- Whether the conditions of a wait hold at once (R198); copies are those issued before it. -/
def waitDone (s : State) (g : Nat) (t : Thread) : Bool :=
  match t.wait with
  | .cond m u b =>
    (!m.getLsbD 3 || decide (u ≤ s.cycle)) &&
    (!m.getLsbD 2 || (t.reds == 0 && t.pend.all fun p => p.src != .direct)) &&
    (!m.getLsbD 1 || s.copies.all fun c => !(decide (c.id < b) && c.carts.any fun k => k.grp == g)) &&
    (!m.getLsbD 0 || t.pend.isEmpty)
  | _ => false

/-- R198: a wait whose conditions hold ends. -/
def execWaitCyclesElapsed (grp lane : Nat) (s : State) : Host.Outcome State Fault Refusal :=
  .next (match getT s grp lane with
    | none => s
    | some t => if waitDone s grp t then modT s grp lane fun t => { t with wait := .none, stuck := 0 } else s)

/-! ### trap and tret (R219, R220) -/

def trapSubs (f : FullWord) : List Nat :=
  predSubs f ++ zeroSub (f.d == 0 && f.a == 0 && f.b == 0 && f.c == 0) ++ zeroSub (f.mod &&& 0xFF00 == 0)

/-- R219 -/
def execTrap (f : FullWord) (s : State) : Host.Outcome State Fault Refusal :=
  .next (issueLanes (enderOf f) (fun _ _ _ => subTrap (trapSubs f))
    (fun s _ _ => .trap s (trapAt causeSoftware (f.mod.toNat % 256) 0) .none) s)

/-- The trap of a privileged word at user level (R37, check 2 of R89). -/
def privTrap (s : State) (g l : Nat) : Option Trap :=
  if ((getG s g).map fun G => isSuper G l).getD false then none else some (trapOf causePrivilege)

def tretPre (f : FullWord) (s : State) (g l : Nat) : Option Trap :=
  (privTrap s g l).or (subTrap (predSubs f ++
    zeroSub (f.d == 0 && f.a == 0 && f.b == 0 && f.c == 0) ++ zeroSub (f.mod &&& 0xFFFE == 0)))

/-- A handler lane reaches its tret with its SKIP bit (R220). -/
def tretBody (f : FullWord) (s : State) (g l : Nat) : LaneRes :=
  let bit : BitVec 32 := 1 <<< l
  .hold (tretComplete (modG s g fun G => { G with trap := G.trap.map fun c =>
    { c with atTret := c.atTret ||| bit, skip := if f.mod.getLsbD 0 then c.skip ||| bit else c.skip } }) g)

/-- R220 -/
def execTret (f : FullWord) (s : State) : Host.Outcome State Fault Refusal :=
  .next (issueLanes (enderOf f) (tretPre f) (tretBody f) s)

end Sys2Proof.Machine
end

