-- ==== Sys2Proof/Machine/Scale.lean ====
section
/-! DEFINITION. Element widths and values of the formats of R42 and R54, and block scales (R57, R58). -/

namespace Sys2Proof.Machine

open Sys2Proof

/-- Element width in bits of a format code (R42, R54); a reserved code has none (free value, log entry 5). -/
def elemWidth (code : Nat) (nfmt : W32) : Nat :=
  match code with
  | 0x01 | 0x05 | 0x09 | 0x0F => 64
  | 0x02 | 0x06 => 8
  | 0x03 | 0x07 | 0x0A | 0x0B | 0x0C | 0x0D | 0x10 | 0x11 => 16
  | 0x00 | 0x04 | 0x08 | 0x0E => 32
  | 0x12 => (fmtOfRecord nfmt).cont
  | _ => (Config.freeWord code).toNat % 65

/-- Value of an element's bits read under a format; untyped bits have none. -/
def elemVal (code : Nat) (nfmt : W32) (bits : Nat) : FVal :=
  if code = 0x12 then
    let f := fmtOfRecord nfmt
    f.decode bits (bits % 2 ^ f.width % 15)
  else if 0x0C ≤ code then (floatFmt code).decode bits (bits % 15)
  else
    let w := elemWidth code nfmt
    let signed : Bool := code == 2 || code == 3 || code == 4 || code == 5 || code == 0x0A
    let v : Int := if signed && bits.testBit (w - 1) then (bits : Int) - 2 ^ w else bits
    .fin (decide (v < 0)) v.natAbs (v.natAbs % 15) 0

/-- An element written into a format (R62, R63): code and whether it is offending. -/
def elemEnc (code : Nat) (nfmt : W32) (rm ob u : Nat) (v : FVal) : Nat × Bool :=
  if code = 0x12 then
    let e := encodeNarrow (fmtOfRecord nfmt) rm ob u v
    (e.code, e.off)
  else if 0x0C ≤ code then
    let e := encodeFloat (floatFmt code) rm ob u false true false v
    (e.code, e.off)
  else
    let w := elemWidth code nfmt
    let signed : Bool := code == 2 || code == 3 || code == 4 || code == 5 || code == 0x0A
    let lo : Int := if signed then -(2 ^ (w - 1)) else 0
    let hi : Int := if signed then 2 ^ (w - 1) - 1 else 2 ^ w - 1
    let r := encodeInt lo hi 0 rm u v
    ((r.val.int % 2 ^ w).toNat, r.off)

/-- The format's own overflow rule (R64). -/
def ownRule (code : Nat) (nfmt : W32) : Nat :=
  if code = 0x12 then (if (fmtOfRecord nfmt).ovf = 1 then 2 else 1) else if 0x0C ≤ code then 2 else 1

def fmtE4M3 : Fmt := fmtOfRecord 0x16070343

/-- Value of a block-scale code (R57). -/
def blockScaleVal (e4m3 : Bool) (code : Nat) : FVal :=
  if e4m3 then fmtE4M3.decode code (code % 15)
  else if code = 255 then .nan false
  else .fin false 1 1 ((code : Int) - 127)

/-- Largest finite value of a format as a magnitude and exponent (R53). -/
def maxFin (f : Fmt) : Nat × Int :=
  match f.decode f.maxCode (f.maxCode % 15) with
  | .fin _ m _ e => (m, e)
  | _ => (0, 0)

/-- A finite value over a scale, with a sticky last bit far below any rounding position. -/
def divScale (v sc : FVal) : FVal :=
  match v, sc with
  | .fin s m _ e, .fin _ n _ g =>
    let q := 2 * (m * 2 ^ 300 / n) + (if m * 2 ^ 300 % n = 0 then 0 else 1)
    .fin s q (q % 15) (e - g - 301)
  | v, _ => v

/-- Greater magnitude of two finite ones. -/
def maxMag (a b : Nat × Int) : Nat × Int :=
  let e := min a.2 b.2
  if a.1 * 2 ^ (a.2 - e).toNat < b.1 * 2 ^ (b.2 - e).toNat then b else a

/-- Scale code of a block of values, and its value (R58). A format whose values are all zeros (SGN 1, EW 0, MW 0) has the
largest finite value 0, and the code of a block with amax above 0 is a free value within the rule's bounds (log entry 69). -/
def blockScale (e4m3 : Bool) (f : Fmt) (vs : List FVal) : Nat × FVal :=
  let special := vs.any fun v => match v with
    | .fin _ _ _ _ => false
    | _ => true
  let amax : Nat × Int := vs.foldl (fun (a : Nat × Int) v => match v with
    | .fin _ m _ e => maxMag a (m, e)
    | _ => a) ((0, 0) : Nat × Int)
  let code :=
    if special then (if e4m3 then 0x7F else 255)
    else if amax.1 = 0 then (if e4m3 then 0x38 else 127)
    else
      let (mm, me) := maxFin f
      if mm = 0 then
        let n := Config.scaleOfNone e4m3 amax.1 amax.2
        if e4m3 then 1 + n % 126 else n % 255
      else if e4m3 then
        (encodeNarrow fmtE4M3 3 1 0 (divScale (.fin false amax.1 0 amax.2) (.fin false mm 0 me))).code
      else
        let c := lead amax.1 + amax.2 - (lead mm + me) + 127
        (if c < 0 then 0 else if 254 < c then 254 else c).toNat
  (code, blockScaleVal e4m3 code)

end Sys2Proof.Machine
end

