-- ==== Sys2Proof/Machine/CopyUnit.lean ====
section
/-! DEFINITION. The copy unit: descriptors (R166, R167), windows (R168), conversion (R174), gath and scat
(R175 to R177), and what a copy's data movement comes to (R169, R170, R173). -/

namespace Sys2Proof.Machine

open Sys2Proof

/-- A copy descriptor (R166). `bad` tells reserved bits and words that are poisoned or do not match. -/
structure Desc where
  src : Nat
  dst : Nat
  sx : Nat
  sy : Nat
  ox : Int
  oy : Int
  wx : Nat
  wy : Nat
  sp : Int
  dp : Int
  sf : Nat
  df : Nat
  ssp : Nat
  dsp : Nat
  rm : Nat
  nfmt : W32
  soff : Int
  sl : Nat
  e4m3 : Bool
  bad : Bool
  deriving DecidableEq, Repr

def descOf (ws : List Word) : Desc :=
  let v (i : Nat) : Nat := (ws.getD i .zero).val.toNat
  let i (k : Nat) : Int := (ws.getD k .zero).val.toInt
  { src := v 0 + 2 ^ 32 * v 1, dst := v 2 + 2 ^ 32 * v 3, sx := v 4, sy := v 5, ox := i 6, oy := i 7,
    wx := v 8 % 2 ^ 24, wy := v 9 % 2 ^ 17, sp := i 10, dp := i 11,
    sf := v 12 / 2 ^ 27, df := v 12 / 2 ^ 22 % 32, ssp := v 12 / 2 ^ 19 % 8, dsp := v 12 / 2 ^ 16 % 8,
    rm := v 12 / 2 ^ 13 % 8, nfmt := (ws.getD 13 .zero).val, soff := i 14 / 256, sl := v 14 / 64 % 4,
    e4m3 := (v 14).testBit 5,
    bad := v 8 / 2 ^ 24 != 0 || v 9 / 2 ^ 17 != 0 || v 12 % 2 ^ 13 != 0 || v 14 % 32 != 0 || v 15 != 0 ||
      ws.any (fun w => isPoison w || mismatch w) }

/-- Fields of a copy's MOD (R165). -/
def copyMreg (m : W16) : Nat := m.toNat / 2 ^ 13
def copyMV (m : W16) : Bool := m.getLsbD 12
def copyRS (m : W16) : Bool := m.getLsbD 11
def copyScope (m : W16) : Nat := m.toNat / 2 ^ 8 % 8
def copyAcq (m : W16) : Bool := m.getLsbD 7
def copyRel (m : W16) : Bool := m.getLsbD 6
def copyPch (m : W16) : Bool := m.getLsbD 5
def copyOrd (m : W16) : Bool := m.getLsbD 4
def copySop (m : W16) : Nat := m.toNat / 4 % 4

/-- Block length of a scale field (R57, R166). -/
def blockLen (sl : Nat) : Nat := match sl with | 1 => 16 | 2 => 32 | 3 => 64 | _ => 0

def tileOf (s : State) (core num : Nat) : Option Tile := s.tiles.find? fun t => t.core == core && t.num == num

def copyTile (s : State) (c : Copy) : Option Tile :=
  if c.tile.getLsbD 7 && (c.kind == .cpy || c.kind == .cpyc || c.kind == .tdrain) then
    tileOf s c.core (c.tile.toNat % 64)
  else none

/-- Bit span of rows r0 to r1 − 1 and columns c0 to c1 − 1 from a base (R168). -/
def spanOf (base : Nat) (p : Int) (e : Nat) (r0 r1 c0 c1 : Int) : Int × Int :=
  if r1 ≤ r0 ∨ c1 ≤ c0 then (8 * base, 8 * base)
  else
    let a := r0 * p
    let b := (r1 - 1) * p
    (8 * base + (min a b + c0) * e, 8 * base + (max a b + c1) * e)

/-- Whether the window of a copy lies in its tile's range (R167, R180). -/
def fitsTile (kind : CopyKind) (t : Tile) (d : Desc) : Bool :=
  let (lo, hi) :=
    if kind == .tdrain then
      spanOf d.src d.sp (elemWidth d.sf d.nfmt) (max d.oy 0) (min (d.oy + d.wy) d.sy) (max d.ox 0) (min (d.ox + d.wx) d.sx)
    else spanOf d.dst d.dp (elemWidth d.df d.nfmt) 0 d.wy 0 d.wx
  decide (0 ≤ lo) && decide (hi ≤ 8 * t.len)

def untyped (code : Nat) : Bool := code == 0 || code == 1

/-- Whether a copy ends with a descriptor error (R167, R175, R176, R178, R180). -/
def descError (kind : CopyKind) (mod : W16) (named : Bool) (t : Option Tile) (d : Desc) : Bool :=
  let x8 := d.sf == 0x12 || d.df == 0x12
  let es := elemWidth d.sf d.nfmt
  let ed := elemWidth d.df d.nfmt
  let sop := copySop mod
  d.bad || decide (0x12 < d.sf) || decide (0x12 < d.df) || decide (4 < d.rm) || decide (4 < d.ssp) ||
  decide (4 < d.dsp) || d.ssp == 0 || d.dsp == 0 ||
  (if x8 then !validRecord d.nfmt else d.nfmt != 0) ||
  (if kind == .cpyc then
     (d.sf == 0x12 && d.df == 0x12) || (d.sl != 0 && d.df != 0x12) ||
     ((untyped d.sf || untyped d.df) && d.sf != d.df)
   else d.sf != d.df) ||
  d.wx == 0 || d.wy == 0 || decide (65536 < d.wy) ||
  d.sp * es % 8 != 0 || d.dp * ed % 8 != 0 ||
  (decide (8 ≤ es) && d.src % (es / 8) != 0) || (decide (8 ≤ ed) && d.dst % (ed / 8) != 0) ||
  ((kind == .gath || kind == .scat) &&
    (d.wy != 1 || d.ox != 0 || d.oy != 0 ||
     (kind == .scat && sop == 1 && !([0x04, 0x08, 0x0C, 0x0D, 0x0E].contains d.sf)) ||
     (kind == .scat && decide (2 ≤ sop) && !([0x04, 0x08, 0x0E].contains d.sf)))) ||
  (kind == .cpys && ((d.ssp != 1 && d.ssp != 2) || (d.dsp != 3 && d.dsp != 4))) ||
  (kind == .tdrain && d.dsp != 3 && d.dsp != 4) ||
  (named && match t with
    | none => true
    | some t => (if kind == .tdrain then d.ssp else d.dsp) != (if t.ks then 2 else 1) || !fitsTile kind t d)

/-! ### Words of a copy -/

/-- The place of an aligned word of a space as a copy reaches it, or the status code of the failure (R320). -/
def copyLoc (s : State) (c : Copy) (space : Nat) (rd wr : Bool) (k : Int) : Except Nat Loc × State :=
  let a := 4 * k
  let n := a.toNat
  let W := aget s.wgs c.wg
  let K := W.bind fun W => aget s.grids W.grid
  match space with
  | 1 =>
    let size := (K.map (·.kd.scratch)).getD 0
    (if a < 0 ∨ size < n + 4 then .error 4
     else .ok ⟨1, c.core * 2 ^ 18 + (W.map (·.csBase)).getD 0 + n, 0, noAttr, false⟩, s)
  | 2 =>
    let G := (W.bind (·.gang)).bind fun k => aget s.gangs k
    let size := (K.map (·.kd.ksmem)).getD 0
    (match G with
     | none => .error 4
     | some G => if a < 0 ∨ size < n + 4 then .error 4 else .ok ⟨2, G.quad * 2 ^ 18 + G.ksBase + n, 0, noAttr, false⟩, s)
  | 3 =>
    (match partIx s c.part with
     | none => .error 4
     | some p => if a < 0 ∨ inXs p n 4 = false then .error 4 else .ok ⟨3, n, 0, noAttr, false⟩, s)
  | _ =>
    if a < 0 ∨ 2 ^ 64 ≤ a ∨ canonical n = false then (.error 3, s)
    else match resolve s c.core c.part ⟨rd, wr, false, !c.sup⟩ n with
      | (.ok (pa, e), s) => (.ok ⟨4, pa, 0, lineAttr e, ptePT e⟩, s)
      | (.error (cause, _), s) => (.error (if cause = causeXlate then 3 else 4), s)

/-- Bits assembled for one destination word: which bits, their values, which are poisoned, and the source word
when every bit so far is its bit in the same place. -/
structure CPatch where
  loc : Loc
  mask : W32
  bits : W32
  psn : W32
  org : Option (Int × Word)
  deriving DecidableEq, Repr

def CPatch.over (p : CPatch) (mask bits psn : W32) (org : Option (Int × Word)) : CPatch :=
  { p with
    mask := p.mask ||| mask, bits := (p.bits &&& ~~~ mask) ||| (bits &&& mask),
    psn := (p.psn &&& ~~~ mask) ||| (psn &&& mask),
    org := if p.mask &&& ~~~ mask = 0 then org else if p.org == org then org else none }

/-- A container word with assembled bits laid over it (R168, R172, R157). -/
def CPatch.onto (p : CPatch) (old : Word) : Word :=
  if p.mask = 0xFFFFFFFF then
    match p.org with
    | some (_, w) => w
    | none => if p.psn = 0 then gen p.bits else ⟨p.bits, 0xF⟩
  else
    let v := (old.val &&& ~~~ p.mask) ||| p.bits
    if p.psn ≠ 0 ∨ isPoison old then ⟨v, 0xF⟩
    else ⟨v, BitVec.ofNat 4 (rho ((old.res.toNat : Int) - (old.val &&& p.mask).toNat + p.bits.toNat))⟩

/-- A cart at work. -/
structure Work where
  s : State
  out : AList CPatch
  mis : Option Nat
  psn : Option Nat
  off : Option Nat
  die : Option (Nat × Nat)
  stop : Option (Nat × Nat × Nat)
  seed : W32

/-- WHERE of R169 for an access at word k of a side based at `base` bytes. -/
def lineOffset (base : Nat) (k : Int) : Nat := ((4 * k / 64 * 64 - base) / 64 % 2 ^ 32).toNat

def firstOf (x : Option Nat) (i : Nat) : Option Nat := x.or (some i)

/-- Writes of the assembled words at their homes, each once. -/
def Work.flush (w : Work) (core : Nat) : Work :=
  { w with out := [], s := w.out.foldl (fun s x =>
      let (old, s) := homeWord s core x.2.loc
      homePut s core x.2.loc [(x.2.loc.at_ / 4 % 16, wholePatch (x.2.onto old))]) w.s }

/-- An element read: its bits, whether a word of it is poisoned or mismatching, and its source words with the
bit at which the element starts in the first. -/
structure Elem where
  bits : Nat
  psn : Bool
  mis : Bool
  at_ : Nat
  words : List (Int × Word)
  deriving DecidableEq, Repr

def Elem.zero : Elem := ⟨0, false, false, 0, []⟩

/-- The words k, k + 1, … of one side. ST 6 records the first line in the order of the accesses, a row's reads before its
writes, that answered DIE_OFFLINE (DESIGN CHOICE, log entry 15). -/
def readSide (c : Copy) (space side base : Nat) (wr : Bool) (k : Int) : Nat → Work → List (Int × Word) × Work
  | 0, w => ([], w)
  | n + 1, w =>
    match copyLoc w.s c space true wr k with
    | (.error st, s) => ([], { w with s, stop := some (st, side, lineOffset base k) })
    | (.ok p, s) =>
      let die := if p.space == 4 && offlinePa s p.at_ then w.die.or (some (side, lineOffset base k)) else w.die
      let (x, s) := homeWord s c.core p
      let (r, w) := readSide c space side base wr (k + 1) n { w with s, die }
      ((k, x) :: r, w)

/-- Number of words that hold n bits from a bit address. -/
def wordSpan (bit : Int) (n : Nat) : Nat := ((bit + n - 1) / 32 - bit / 32 + 1).toNat

/-- Reads n bits at a bit address. -/
def readElem (c : Copy) (space side base : Nat) (wr : Bool) (bit : Int) (n : Nat) (w : Work) : Elem × Work :=
  let (ws, w) := readSide c space side base wr (bit / 32) (wordSpan bit n) w
  let o := (bit % 32).toNat
  let v := ws.foldr (fun x acc => x.2.val.toNat + 2 ^ 32 * acc) 0
  (⟨v / 2 ^ o % 2 ^ n, ws.any fun x => isPoison x.2, ws.any fun x => mismatch x.2, o, ws⟩, w)

/-- Places of the words to be written; a failure stops the cart. -/
def writeLocs (c : Copy) (space base : Nat) (k : Int) : Nat → Work → List Loc × Work
  | 0, w => ([], w)
  | n + 1, w =>
    match copyLoc w.s c space false true k with
    | (.error st, s) => ([], { w with s, stop := some (st, 1, lineOffset base k) })
    | (.ok p, s) =>
      let die := if p.space == 4 && offlinePa s p.at_ then w.die.or (some (1, lineOffset base k)) else w.die
      let (r, w) := writeLocs c space base (k + 1) n { w with s, die }
      (p :: r, w)

/-- Writes an element of n bits at a bit address; a poisoned one is refused on a poison-trap page (R172). -/
def writeElem (c : Copy) (space base : Nat) (bit : Int) (n ix : Nat) (e : Elem) (w : Work) : Work :=
  let k0 := bit / 32
  let cnt := wordSpan bit n
  let (ls, w) := writeLocs c space base k0 cnt w
  if w.stop.isSome then w
  else if e.psn && ls.any (·.pt) then { w with psn := firstOf w.psn ix }
  else
    { w with out := (List.range cnt).foldl (fun (out : AList CPatch) (i : Nat) =>
        let k := k0 + (i : Int)
        let lo := max bit (32 * k)
        let hi := min (bit + n) (32 * k + 32)
        let sh := (lo - 32 * k).toNat
        let mask := BitVec.ofNat 32 ((2 ^ (hi - lo).toNat - 1) * 2 ^ sh)
        let bits := BitVec.ofNat 32 (e.bits / 2 ^ (lo - bit).toNat * 2 ^ sh)
        let org := if e.at_ == (bit % 32).toNat && e.words.length == cnt then e.words[i]? else none
        let p := ls.getD i ⟨1, 0, 0, noAttr, false⟩
        let key := k.toNat
        let old := (aget out key).getD ⟨p, 0, 0, 0, none⟩
        aset out key (old.over mask bits (if e.psn then mask else 0) org)) w.out }

/-! ### Windows -/

/-- Reads one row of the window: an element is none where it is out of range (R168). -/
def readRow (c : Copy) (d : Desc) (sb : Nat) (i : Nat) (w : Work) : List (Option Elem) × Work :=
  let e := elemWidth d.sf d.nfmt
  let y := d.oy + i
  (List.range d.wx).foldl (fun (acc : List (Option Elem) × Work) (j : Nat) =>
    if acc.2.stop.isSome then acc
    else
      let x := d.ox + j
      if 0 ≤ x ∧ x < d.sx ∧ 0 ≤ y ∧ y < d.sy then
        let (el, w) := readElem c d.ssp 0 sb false (8 * sb + (y * d.sp + x) * e) e acc.2
        if w.stop.isSome then (acc.1, w) else (acc.1 ++ [some el], w)
      else (acc.1 ++ [none], acc.2)) ([], w)

def seedAdvance (rm : Nat) (x : W32) : W32 := if rm = 4 then seedStep x else x

/-- One element of a converting copy (R64, R172, R174); `sc` is the block's scale. Of a block that offends for a NaN or an
infinity (R58) every element in range offends, so that ST 1 records the first of them (DESIGN CHOICE, log entry 15). -/
def convElem (c : Copy) (d : Desc) (ix : Nat) (sc : Option FVal) (e : Option Elem) (w : Work) : Elem × Work :=
  let w := { w with seed := seedAdvance d.rm w.seed }
  match e with
  | none => (.zero, w)
  | some e =>
    let w := if e.mis then { w with mis := firstOf w.mis ix } else w
    let psn := e.psn || e.mis
    if untyped d.sf then (⟨e.bits, psn, false, 0, []⟩, w)
    else
      let ob := if copyPch c.mod then ownRule d.df d.nfmt else 0
      let v := elemVal d.sf d.nfmt e.bits
      let (code, off) := match sc with
        | some (.nan _) => (0, true)
        | some k => elemEnc d.df d.nfmt d.rm ob (seedTop w.seed) (divScale v k)
        | none => elemEnc d.df d.nfmt d.rm ob (seedTop w.seed) v
      let w := if off && !copyPch c.mod then { w with off := firstOf w.off ix } else w
      (⟨code, psn, false, 0, []⟩, w)

/-- A run of elements of one block converted in order. -/
def convRun (c : Copy) (d : Desc) (sc : Option FVal) : Nat → List (Option Elem) → Work → List Elem × Work
  | _, [], w => ([], w)
  | ix, e :: r, w =>
    let (x, w) := convElem c d ix sc e w
    let (xs, w) := convRun c d sc (ix + 1) r w
    (x :: xs, w)

/-- The blocks of a row, `fuel` of them at most: converted elements and scale codes. -/
def convBlocks (c : Copy) (d : Desc) (L : Nat) : Nat → Nat → List (Option Elem) → Work → List Elem × List Nat × Work
  | 0, _, _, w => ([], [], w)
  | fuel + 1, ix, es, w =>
    if es.isEmpty then ([], [], w)
    else
      let b := es.take L
      let vals := b.map fun e => match e with
        | some e => elemVal d.sf d.nfmt e.bits
        | none => .fin false 0 0 0
      let (code, k) := blockScale d.e4m3 (fmtOfRecord d.nfmt) vals
      let (xs, w) := convRun c d (some k) ix b w
      let (ys, ks, w) := convBlocks c d L fuel (ix + L) (es.drop L) w
      (xs ++ ys, code :: ks, w)

/-- Counted bytes of a row (R170). -/
def rowBytes (d : Desc) : Nat := (d.wx * elemWidth d.df d.nfmt + 7) / 8

/-- The completion bits that a `.resume` skips (R173, R175). -/
def skipOf (c : Copy) (k : Cart) : W64 := if copyRS c.mod then k.skip else 0

/-- Rows in a chunk of the completion bitmap (R173). -/
def chunkRows (d : Desc) : Nat := max 1 ((d.wy + 63) / 64)

/-- One row of a window: read, converted where the copy converts, written. -/
def moveRow (c : Copy) (d : Desc) (sb db skipped : Nat) (w : Work) (i : Nat) : Work :=
  if w.stop.isSome then w
  else if skipped.testBit (i / chunkRows d) then
    { w with seed := if c.kind == .cpyc && d.rm == 4 then seedIter d.wx w.seed else w.seed }
  else
    let e := elemWidth d.df d.nfmt
    let (row, w) := readRow c d sb i w
    let stop := w.stop
    let w := { w with stop := none }
    let L := blockLen d.sl
    let (xs, ks, w) :=
      if c.kind == .cpyc then
        (if L = 0 then
           let (xs, w) := convRun c d none (i * d.wx) row w
           (xs, [], w)
         else convBlocks c d L row.length (i * d.wx) row w)
      else (row.map fun x => x.getD .zero, [], w)
    let at_ (j : Nat) : Int := 8 * db + ((i : Int) * d.dp + j) * e
    let (w, _) := xs.foldl (fun (acc : Work × Nat) x =>
      if acc.1.stop.isSome then acc
      else (writeElem c d.dsp db (at_ acc.2) e (i * d.wx + acc.2) x acc.1, acc.2 + 1)) (w, 0)
    let w := if w.stop.isSome then w else { w with stop }
    if w.stop.isSome then w
    else
      let per : Nat := if L = 0 then 0 else (d.wx + L - 1) / L
      (ks.foldl (fun (acc : Work × Nat) k =>
        if acc.1.stop.isSome then acc
        else (writeElem c d.dsp db (8 * (db + d.soff + (i * per + acc.2 : Nat))) 8 (i * d.wx)
          ⟨k, false, false, 0, []⟩ acc.1, acc.2 + 1)) (w, 0)).1

/-- The first row that a stop left incomplete. -/
def moveRows (c : Copy) (d : Desc) (sb db skipped : Nat) : List Nat → Work → Work × Nat
  | [], w => (w, d.wy)
  | i :: r, w =>
    let w := moveRow c d sb db skipped w i
    if w.stop.isSome then (w, i) else moveRows c d sb db skipped r w

/-- Completion bitmap after every row before `row` (R173). -/
def chunkBits (d : Desc) (skipped row : Nat) : W64 :=
  let h := chunkRows d
  BitVec.ofNat 64 (maskOf ((List.range 64).filter fun b =>
    decide (d.wy ≤ b * h) || skipped.testBit b || decide (min ((b + 1) * h) d.wy ≤ row)))

/-- A cart's outcome and its bitmap. -/
def moveWindow (c : Copy) (t : Option Tile) (k : Cart) (d : Desc) (w : Work) : Work × W64 :=
  let base := (t.map (·.off)).getD 0
  let sb := if c.kind == .tdrain then d.src + base else d.src
  let db := if c.kind == .tdrain then d.dst else d.dst + base
  let skipped := (skipOf c k).toNat
  let (w, row) := moveRows c d sb db skipped (List.range d.wy) w
  (w.flush c.core, chunkBits d skipped row)

/-! ### gath and scat -/

/-- Combination of two elements of a scat (R176): memory value first. -/
def combine (sop code : Nat) (nfmt : W32) (a b : Nat) : Nat :=
  let n := elemWidth code nfmt
  let va := elemVal code nfmt a
  let vb := elemVal code nfmt b
  if sop = 1 then
    (if code < 0x0C then (a + b) % 2 ^ n
     else (encodeFloat (floatFmt code) 0 2 0 false false false (sumVal 0 [va, vb]).1).code)
  else if code < 0x0C then
    (if leVal va vb == (sop == 2) || (leVal va vb && leVal vb va) then a else b)
  else
    let f := floatFmt code
    match va, vb with
    | .nan _, .nan _ => f.nanCode
    | .nan _, _ => b
    | _, .nan _ => a
    | _, _ =>
      if leVal va vb && leVal vb va then
        (let na := a.testBit (n - 1)
         if na == (sop == 2) then a else b)
      else if leVal va vb == (sop == 2) then a else b

/-- Two elements of a scat combined, memory first (R176): `.min` and `.max` keep the chosen one's bits and residue. -/
def combineElem (sop code : Nat) (nfmt : W32) (a b : Elem) : Elem :=
  let v := combine sop code nfmt a.bits b.bits
  let nans := (elemVal code nfmt a.bits).isNan && (elemVal code nfmt b.bits).isNan
  if a.psn || b.psn || sop = 1 || nans then ⟨v, a.psn || b.psn, false, 0, []⟩ else if v = a.bits then a else b

/-- Balanced pairwise combination over lanes in ascending order (R177). -/
def pairUp (sop code : Nat) (nfmt : W32) : List Elem → List Elem
  | a :: b :: r => combineElem sop code nfmt a b :: pairUp sop code nfmt r
  | l => l

def treeOf (sop code : Nat) (nfmt : W32) : Nat → List Elem → Elem
  | 0, l => l.headD .zero
  | fuel + 1, l =>
    match l with
    | [a] => a
    | l => treeOf sop code nfmt fuel (pairUp sop code nfmt l)

/-- Elements of several rows with one index combined (R177). -/
def combineElems (sop code : Nat) (nfmt : W32) (es : List Elem) : Elem :=
  if sop = 0 then es.getLastD .zero else treeOf sop code nfmt 6 es

/-- A row to be applied: its lanes, its place, its elements. -/
structure RowJob where
  lanes : List Nat
  pos : Nat
  elems : List Elem

/-- Rows of the active lanes, read in ascending lane order; also the lanes that need no write. A row is its WIN0 elements
whole, SEXT0 not applied: R175 and R176 bound the row index alone. Element j of lane t has index t · WIN0 + j in WHERE, as
an element of window row t has (DESIGN CHOICE, log entry 65). -/
def readRows (c : Copy) (d : Desc) (k : Cart) (w : Work) : List RowJob × List Nat × Work :=
  let e := elemWidth d.sf d.nfmt
  k.rows.foldl (fun (acc : List RowJob × List Nat × Work) x =>
    let (js, done, w) := acc
    let t := x.1
    let u := x.2.val.toNat
    if w.stop.isSome ∨ (skipOf c k).getLsbD t then acc
    else if isPoison x.2 then (js, done, { w with psn := firstOf w.psn (t * d.wx) })
    else if c.kind == .scat && decide (d.sy ≤ u) then (js, done ++ [t], w)
    else
      let r := if c.kind == .gath then u else t
      let (es, w) := (List.range d.wx).foldl (fun (a : List Elem × Work) (j : Nat) =>
        if a.2.stop.isSome then a
        else if c.kind == .gath && decide (d.sy ≤ u) then (a.1 ++ [.zero], a.2)
        else
          let (el, w) := readElem c d.ssp 0 d.src false (8 * d.src + ((r : Int) * d.sp + j) * e) e a.2
          (a.1 ++ [el], w)) ([], w)
      if w.stop.isSome then (js, done, w)
      else (js ++ [⟨[t], if c.kind == .gath then t else u, es⟩], done, w)) ([], [], w)

/-- Duplicate indexes combined, in the order of their first lanes (R177). -/
def mergeRows (d : Desc) (sop : Nat) (js : List RowJob) : List RowJob :=
  ((js.map (·.pos)).eraseDups).map fun u =>
    let same := js.filter fun j => j.pos == u
    ⟨same.flatMap (·.lanes), u, (List.range d.wx).map fun i =>
      combineElems sop d.sf d.nfmt (same.map fun j => j.elems.getD i .zero)⟩

/-- The lesser of two indexes noted: a refused element before one of a poisoned index, or behind it (R169). -/
def leastOf (a b : Option Nat) : Option Nat :=
  match a, b with
  | some x, some y => some (min x y)
  | a, b => a.or b

/-- Applies one row; the lanes whose row is complete. A row with a refused element is not (R175 says so of a poisoned index),
and WHERE counts such an element in the row's first lane, also where lanes share the row (DESIGN CHOICE, log entry 65). -/
def applyRow (c : Copy) (d : Desc) (sop : Nat) (acc : List Nat × Work) (j : RowJob) : List Nat × Work :=
  if acc.2.stop.isSome then acc
  else
    let e := elemWidth d.sf d.nfmt
    let before := acc.2.psn
    let w0 := { acc.2 with psn := none }
    let (w, _) := j.elems.foldl (fun (a : Work × Nat) x =>
      if a.1.stop.isSome then a
      else
        let bit : Int := 8 * d.dst + ((j.pos : Int) * d.dp + a.2) * e
        let (x, w) :=
          if sop = 0 then (x, a.1)
          else
            let (m, w) := readElem c d.dsp 1 d.dst true bit e a.1
            (combineElem sop d.sf d.nfmt m x, w)
        if w.stop.isSome then (w, a.2 + 1)
        else
          let w := writeElem c d.dsp d.dst bit e (j.lanes.headD 0 * d.wx + a.2) x w
          (if sop = 0 then w else w.flush c.core, a.2 + 1)) (w0, 0)
    let ok := w.psn.isNone && w.stop.isNone
    (if ok then acc.1 ++ j.lanes else acc.1, { w with psn := leastOf before w.psn })

def moveLanes (c : Copy) (k : Cart) (d : Desc) (w : Work) : Work × W64 :=
  let sop := if c.kind == .scat then copySop c.mod else 0
  let (js, done, w) := readRows c d k w
  let stop := w.stop
  let w := { w with stop := none }
  let js := if c.kind == .scat && !copyOrd c.mod then mergeRows d sop js else js
  let (ok, w) := js.foldl (applyRow c d sop) ([], w)
  let w := (if w.stop.isSome then w else { w with stop }).flush c.core
  let mask : W64 := BitVec.ofNat 64 (maskOf (done ++ ok))
  let act : W64 := k.lanes.setWidth 64
  let skipped := skipOf c k &&& act
  (w, (k.skip &&& ~~~ act) ||| skipped ||| mask)

/-! ### A whole copy -/

/-- Counted bytes of a cart (R170). -/
def countedBytes (c : Copy) (k : Cart) (d : Desc) : Nat :=
  if k.desc.isEmpty then 0
  else if c.kind == .gath || c.kind == .scat then k.rows.length * rowBytes d
  else d.wy * rowBytes d

/-- Counted bytes of the chunks or rows that a set of completion bits names (R170, R173, R175). -/
def chunkBytes (c : Copy) (k : Cart) (d : Desc) (bits : W64) : Nat :=
  if c.kind == .gath || c.kind == .scat then (k.rows.filter fun x => bits.getLsbD x.1).length * rowBytes d
  else ((List.range d.wy).filter fun r => bits.getLsbD (r / chunkRows d)).length * rowBytes d

/-- Conditions of a cart for the status (R169): code, group index, side, WHERE. For gath and scat, which have no cart
(R175), CART takes the group's index too (DESIGN CHOICE, log entry 65). -/
def condsOf (ix : Nat) (w : Work) : List (Nat × Nat × Nat × Nat) :=
  let cap (n : Nat) : Nat := min n 0xFFFFFFFF
  (w.stop.map fun x => (x.1, ix, x.2.1, x.2.2)).toList ++
  (w.mis.map fun i => (8, ix, 0, cap i)).toList ++
  (w.die.map fun x => (6, ix, x.1, x.2)).toList ++
  (w.psn.map fun i => (5, ix, 0, cap i)).toList ++
  (w.off.map fun i => (1, ix, 0, cap i)).toList

/-- The condition that the status reports: the first code in the order of R169, then the lowest cart. -/
def chooseCond (cs : List (Nat × Nat × Nat × Nat)) : Nat × Nat × Nat × Nat :=
  (([3, 4, 2, 8, 6, 5, 1].findSome? fun st =>
    ((cs.filter fun c => c.1 == st).foldl (fun (m : Option (Nat × Nat × Nat × Nat)) c =>
      match m with
      | none => some c
      | some x => if c.2.1 < x.2.1 then some c else some x) none)).getD (0, 0, 0, 0))

/-- Whether a record is of an earlier stop of the same copy in a group: the same instruction (R173). -/
def CopyStopRec.sameAs (x : CopyStopRec) (c : Copy) (grp : Nat) : Bool :=
  x.grp == grp && x.kind == c.kind && x.mod == c.mod &&& ~~~ 0x0800 && x.bar == c.bar && x.tile == c.tile

/-- The chunks or rows that earlier stops of the same copy have taken off (R170). -/
def takenOf (s : State) (c : Copy) (k : Cart) : W64 :=
  if copyRS c.mod then ((s.copyStops.find? fun x => x.sameAs c k.grp).map (·.taken)).getD 0 else 0

/-- Carts in ascending group index (R168). -/
def insertCart (k : Cart) : List Cart → List Cart
  | [] => [k]
  | x :: r => if k.idx < x.idx then k :: x :: r else x :: insertCart k r

/-- The copy's acquire, then the movement of all its carts: the state and what it came to. -/
def runCopy (s : State) (c : Copy) : State × CopyResult :=
  let s := if copyAcq c.mod then acquireAt s c.core (copyScope c.mod) else s
  let carts := (c.carts.filter fun k => !k.desc.isEmpty).foldr insertCart []
  let t := copyTile s c
  let ds := carts.map fun k => (k, descOf k.desc)
  let badCarts := ds.filter fun x => descError c.kind c.mod (c.tile.getLsbD 7 && c.kind != .cpys && c.kind != .gath &&
    c.kind != .scat) t x.2
  let total := ds.foldl (fun n x => n + (countedBytes c x.1 x.2 : Int) - chunkBytes c x.1 x.2 (takenOf s c x.1)) 0
  if !badCarts.isEmpty then
    let (st, ix, sd, wh) := chooseCond (badCarts.map fun x => (2, x.1.idx, 0, 0))
    (s, ⟨st, ix, sd, wh, total, false,
      ds.map fun x => (x.1.grp, if c.kind == .gath || c.kind == .scat then
        (x.1.skip &&& ~~~ x.1.lanes.setWidth 64) ||| (skipOf c x.1 &&& x.1.lanes.setWidth 64)
        else chunkBits x.2 (skipOf c x.1).toNat 0), []⟩)
  else
    let earlier (x : Cart × Desc) : W64 := takenOf s c x.1
    let (s, conds, bits) := ds.foldl
      (fun (acc : State × List (Nat × Nat × Nat × Nat) × AList W64) x =>
        let (s, conds, bits) := acc
        let w : Work := ⟨s, [], none, none, none, none, none, x.1.seed⟩
        let c := { c with sup := x.1.sup }
        let (w, b) := if c.kind == .gath || c.kind == .scat then moveLanes c x.1 x.2 w
          else moveWindow c t x.1 x.2 w
        (w.s, conds ++ condsOf x.1.idx w, bits ++ [(x.1.grp, b)])) (s, [], [])
    let (st, ix, sd, wh) := chooseCond conds
    let stopped := st = 3 || st = 4
    let new (x : Cart × Desc) : W64 := (aget bits x.1.grp).getD 0 &&& ~~~ skipOf c x.1 &&& ~~~ earlier x
    let part := ds.foldl (fun n x => n + (chunkBytes c x.1 x.2 (new x) : Int)) 0
    (s, ⟨st, ix, sd, wh, if stopped then part else total, stopped, bits,
      ds.map fun x => (x.1.grp, earlier x ||| new x)⟩)

end Sys2Proof.Machine
end

