-- ==== Sys2Proof/Machine/Copy.lean ====
section
/-! DEFINITION. The copy instructions cpy, cpyc, gath, scat, cpys, cpre, tdrain (R164 to R180) and the steps in
which a copy completes or stops (R169, R170, R173, R178). -/

namespace Sys2Proof.Machine

open Sys2Proof

/-- Conditions on a barrier field; `need` where the instruction requires one (R165, R194). -/
def barSubs (need : Bool) (b : Byte) : List Nat :=
  let lvl := b.toNat / 16 % 8
  if b.getLsbD 7 then
    (if lvl = 0 ∨ 5 < lvl then [1] else if barCount lvl ≤ b.toNat % 16 then [0x22] else [])
  else if need then [0x25] else zeroSub (b == 0)

def barLvl (b : Byte) : Nat := b.toNat / 16 % 8
def barNum (b : Byte) : Nat := b.toNat % 16

/-- Conditions on a tile field; required on tdrain (R165). -/
def tileSubs (need : Bool) (c : Byte) : List Nat :=
  (if c.getLsbD 7 then [] else if need then [0x25] else zeroSub (c.toNat % 64 == 0)) ++ zeroSub (!c.getLsbD 6)

/-- A status pair field: even, or 255 (R165). -/
def pairSubs (d : Byte) : List Nat := if d ≠ 255 ∧ d.toNat % 2 = 1 then [5] else []
def pairRegs (d : Byte) : List Nat := if d = 255 then [] else [d.toNat, d.toNat + 1]

def copySubs (k : CopyKind) (f : FullWord) : List Nat :=
  let m := f.mod
  let sc := copyScope m
  let ar := copyAcq m || copyRel m
  predSubs f ++ pairSubs f.d ++ barSubs false f.b ++
  (match k with
   | .cpy | .cpyc => tileSubs false f.c
   | .tdrain => tileSubs true f.c
   | .cpys => pairSubs f.c
   | _ => []) ++
  (if (k == .gath || k == .scat) && !copyMV m then [0x25] else []) ++
  (if copyRS m && !copyMV m then [0x25] else []) ++ zeroSub (copyMV m || copyMreg m == 0) ++
  (if ar then scopeSubs sc else noScopeSubs sc) ++
  zeroSub (k == .cpyc || !copyPch m) ++
  zeroSub (k == .scat || (!copyOrd m && copySop m == 0)) ++
  zeroSub (m.toNat % 4 == 0)

def copyRegs (k : CopyKind) (f : FullWord) : List Nat :=
  pairRegs f.d ++ [f.a.toNat] ++
  (match k with
   | .gath | .scat => [f.c.toNat]
   | .cpys => pairRegs f.c
   | _ => [])

/-- Whether the workgroup of a group owns a tile. -/
def ownsTile (s : State) (g num : Nat) : Bool :=
  match getG s g, tileOf s (coreOf s g) num with
  | some G, some t => t.owner == G.wg
  | _, _ => false

/-- The trap of a tile that the workgroup does not own (R22). -/
def tileTrap (s : State) (g num : Nat) : Option Trap :=
  if ownsTile s g num then none else some (trapOf causeProtection)

def namesTile (k : CopyKind) (f : FullWord) : Bool := (k == .cpy || k == .cpyc || k == .tdrain) && f.c.getLsbD 7

/-- Checks 2 to 5 of a copy (R89, R165): its tile must be the workgroup's (R22). -/
def copyPre (k : CopyKind) (f : FullWord) (s : State) (g l : Nat) : Option Trap :=
  let user := ((getG s g).map fun G => !isSuper G l).getD true
  (if k == .cpyc && copyPch f.mod && user then some (trapOf causePrivilege) else none).or
    ((subTrap (copySubs k f)).or ((regTrap (nreqOf s g) (copyRegs k f)).or
      (if namesTile k f then tileTrap s g (f.c.toNat % 64) else none)))

/-- The descriptor address of a copy, in the lane whose operands the group uses (R164). -/
def descAddr (s : State) (g l : Nat) (a : Byte) : Except Trap Nat :=
  match getT s g l with
  | none => .error (trapOf causePoison)
  | some t =>
    let w := readV t a.toNat
    let n := w.val.toNat
    let tv := BitVec.ofNat 64 n
    if isPoison w then .error (trapAt causePoison 0 tv)
    else if scratchOf s g ≤ n then .error (trapAt causeProtection 0 tv)
    else if n % 64 ≠ 0 then .error (trapAt causeMisaligned 0 tv)
    else if scratchOf s g < n + 64 then .error (trapAt causeProtection 0 tv)
    else .ok n

/-- Copies in flight in a core's copy unit. -/
def inFlight (s : State) (core : Nat) : Nat := (s.copies.filter fun c => c.core == core).length

/-- Whether a copy in flight names an m register of a group (R20). -/
def mregBusy (s : State) (g m : Nat) : Bool :=
  s.copies.any fun c => copyMV c.mod && copyMreg c.mod == m && c.carts.any fun k => k.grp == g && !k.desc.isEmpty

/-- The forming copy of the workgroup that a group's next cart joins (R174). -/
def formingOf (s : State) (g : Nat) (k : CopyKind) : Option Copy :=
  (getG s g).bind fun G => s.copies.find? fun c =>
    c.forming && c.wg == G.wg && c.kind == k && !(c.carts.any fun x => x.grp == g)

/-- What makes a copy reissued with `.resume` the same as the one that stopped: its kind, MOD and barrier (R173, R318). -/
def copyName (k : CopyKind) (m : W16) (b : Byte) : CopyKind × W16 × Byte := (k, m &&& ~~~ 0x0800, b)

/-- Whether the tile that a copy names is in the state it needs (R181, R318). -/
def tileReady (s : State) (g : Nat) (k : CopyKind) (f : FullWord) : Bool :=
  if namesTile k f then
    match tileOf s (coreOf s g) (f.c.toNat % 64) with
    | none => true
    | some t =>
      let cont := copyRS f.mod && t.stopped == some (copyName k f.mod f.b)
      if k == .tdrain then t.st == .ready || (t.st == .draining && cont)
      else t.st == .empty || (t.st == .filling && cont)
  else true

/-- Whether a copy instruction has to wait in a group (R164, R20, R181). -/
def copyBlocked (k : CopyKind) (f : FullWord) (s : State) (g : Nat) : Bool :=
  (copyMV f.mod && mregBusy s g (copyMreg f.mod)) ||
  ((formingOf s g k).isNone && (decide (64 ≤ inFlight s (coreOf s g)) || !tileReady s g k f))

def setTile (s : State) (x : Tile) : State :=
  { s with tiles := s.tiles.map fun t => if t.core == x.core && t.num == x.num then x else t }

/-- Whether a copy that a group would start waits for its tile's state (R225, R318). -/
def tileWaits (k : CopyKind) (f : FullWord) (s : State) (g : Nat) : Bool :=
  (formingOf s g k).isNone && !tileReady s g k f

/-- The tile of a copy leaves its resting state at issue (R318). -/
def tileIssue (s : State) (g : Nat) (k : CopyKind) (f : FullWord) : State :=
  if namesTile k f then
    match tileOf s (coreOf s g) (f.c.toNat % 64) with
    | none => s
    | some t => setTile s { t with st := if k == .tdrain then .draining else .filling, stopped := none }
  else s

/-- Registers that wait for a copy's status in every lane of a list (R169). -/
def pendStatus (s : State) (g id : Nat) (second : Bool) (d : Byte) (ls : List Nat) : State :=
  if d = 255 then s
  else ls.foldl (fun s l => modT s g l fun t =>
    pending (.copy id second) [(d.toNat, .zero), (d.toNat + 1, .zero)] [] [] s.cycle t) s

def collective (k : CopyKind) : Bool := k == .cpy || k == .cpyc || k == .cpys

/-- Whether every group of a copy's workgroup has arrived (R174). -/
def allArrived (s : State) (c : Copy) : Bool :=
  (groupsOf s c.wg).all fun x => c.carts.any fun k => k.grp == x.1
def copyReady (s : State) (c : Copy) : Bool := !c.forming || allArrived s c

def modCopy (s : State) (id : Nat) (f : Copy → Copy) : State :=
  { s with copies := s.copies.map fun c => if c.id == id then f c else c }

/-- A group's own part in a copy: the index words of its active lanes (R175). -/
def indexRows (s : State) (g : Nat) (c : Byte) (ls : List Nat) : AList Word :=
  ls.map fun l => (l, ((getT s g l).map fun t => readV t c.toNat).getD .zero)

/-- Adds a group's cart to its copy, which it makes if it is the first. -/
def addCart (k : CopyKind) (f : FullWord) (s : State) (g : Nat) (ls : List Nat) (a : Nat) : State :=
  match getG s g with
  | none => s
  | some G =>
    let lead := ls.headD 0
    let m := G.m.getD (copyMreg f.mod) (.zero, .zero)
    let kart : Cart :=
      { grp := g, idx := G.idx, desc := readWords s.cs (csAddr s g + a) 16, lanes := laneMask ls,
        rows := if k == .gath || k == .scat then indexRows s g f.c ls else [],
        d := f.d.toNat, e := f.c.toNat, mreg := if copyMV f.mod then some (copyMreg f.mod) else none,
        skip := if copyMV f.mod then m.2.val ++ m.1.val else 0,
        seed := ((getT s g lead).map (·.seed)).getD 0, sup := isSuper G lead }
    let told := if k == .tdrain then ls else liveLanes G
    let p : Nat × State := match formingOf s g k with
      | some c => (c.id, modCopy s c.id fun c => { c with carts := c.carts ++ [kart] })
      | none =>
        let s := tileIssue s g k f
        (s.uid, { s with uid := s.uid + 1, copies := s.copies ++
          [{ id := s.uid, kind := k, core := G.core, wg := G.wg, part := partOf s g, sup := isSuper G lead,
             forming := collective k, carts := [kart], bar := f.b, tile := f.c, mod := f.mod,
             srcDone := false, result := none }] })
    let id := p.1
    let s := pendStatus p.2 g id false f.d told
    let s := if k == .cpys then pendStatus s g id true f.c told else s
    match s.copies.find? fun c => c.id == id with
    | some c => if c.forming && allArrived s c then modCopy s id fun c => { c with forming := false } else s
    | none => s

/-- The status pairs of a copy word. -/
def copyDests (k : CopyKind) (f : FullWord) : List Nat := pairRegs f.d ++ if k == .cpys then pairRegs f.c else []

def copyInfo (k : CopyKind) (f : FullWord) : WordInfo := infoTo f (copyDests k f) []

/-- Whether the m register whose old bits a copy uses has a word that does not match its residue: the copy consumes it,
and its lead lane raises CHECK (R269). -/
def badMreg (k : CopyKind) (f : FullWord) (s : State) (g : Nat) : Bool :=
  (copyRS f.mod || k == .gath || k == .scat) && (getG s g).any fun G =>
    let m := G.m.getD (copyMreg f.mod) (.zero, .zero)
    mismatch m.1 || mismatch m.2

/-- What a copy instruction does for one group (R164, R174). A later cart that differs in its barrier field and names a
barrier its group has no part in takes PROTECTION, not 0x27, and its group adds no empty cart: the model's choice, since no
rule orders the two (R174, R192; log entry 13). -/
def copyBody (k : CopyKind) (f : FullWord) (s : State) (g : Nat) (ls : List Nat) : GroupRes :=
  let lead := ls.headD 0
  let status : Ign := zeroed (copyDests k f) []
  match descAddr s g lead f.a with
    | .error t => .trapOne s lead t status
    | .ok a =>
      if f.b.getLsbD 7 && (groupBar s g (barLvl f.b) (barNum f.b)).isNone then
        .trapAll s ls (trapOf causeProtection) status
      else
        let clash := match if collective k then formingOf s g k else none with
          | some c => if c.bar == f.b && (k == CopyKind.cpys || c.tile == f.c) && c.mod == f.mod then none else some c.id
          | none => none
        match clash with
        | some id =>
          let idx := ((getG s g).map (·.idx)).getD 0
          let s := modCopy s id fun c => { c with carts := c.carts ++
            [{ grp := g, idx, desc := [], lanes := 0, rows := [], d := 255, e := 255, mreg := none, skip := 0,
               seed := 0, sup := false }] }
          .trapAll s ls (trapOf causeIllegalOperand 0x27) status
        | none =>
          if copyBlocked k f s g then .holdAll s ls
          else if badMreg k f s g then .trapOne s lead (trapOf causeCheck) status
          else .done (addCart k f s g ls a)

def issueCopy (k : CopyKind) (f : FullWord) (s : State) : Host.Outcome State Fault Refusal :=
  .next (issueGroups (copyInfo k f) (copyPre k f) (copyBody k f) s)

/-- R174 -/
def execCpy (f : FullWord) : Exec := issueCopy .cpy f

/-- R174 -/
def execCpyc (f : FullWord) : Exec := issueCopy .cpyc f

/-- R175 -/
def execGath (f : FullWord) : Exec := issueCopy .gath f

/-- R176, R177 -/
def execScat (f : FullWord) : Exec := issueCopy .scat f

/-- R178 -/
def execCpys (f : FullWord) : Exec := issueCopy .cpys f

/-- R180 -/
def execTdrain (f : FullWord) : Exec := issueCopy .tdrain f

/-! ### cpre (R179) -/

/-- R179 lets MOD hold only SCOPE and ACQ, R165 has REL ignored on cpre: REL is given 0x02 (DESIGN CHOICE, log entry 65). -/
def cpreSubs (f : FullWord) : List Nat :=
  predSubs f ++ zeroSub (f.d == 0 && f.b == 0 && f.c == 0) ++ zeroSub (f.mod &&& ~~~ 0x0780 == 0) ++
  (if copyAcq f.mod then scopeSubs (copyScope f.mod) else noScopeSubs (copyScope f.mod))

def cprePre (f : FullWord) (s : State) (g _l : Nat) : Option Trap :=
  (subTrap (cpreSubs f)).or (regTrap (nreqOf s g) [f.a.toNat])

/-- The source window's lines are read into L2; any failure ends the prefetch silently. -/
def prefetch (c : Copy) (d : Desc) (s : State) : State :=
  let w : Work := ⟨s, [], none, none, none, none, none, 0⟩
  ((List.range d.wy).foldl (fun w i => if w.stop.isSome then w else (readRow c d d.src i w).2) w).s

def cpreBody (f : FullWord) (s : State) (g : Nat) (ls : List Nat) : GroupRes :=
  let lead := ls.headD 0
  match getG s g with
  | none => .done s
  | some G => match descAddr s g lead f.a with
    | .error t => .trapOne s lead t .none
    | .ok a =>
      if 64 ≤ inFlight s G.core then .holdAll s ls
      else
        let s := if copyAcq f.mod then acquireAt s G.core (copyScope f.mod) else s
        let d := descOf (readWords s.cs (csAddr s g + a) 16)
        let c : Copy := ⟨0, .cpy, G.core, G.wg, partOf s g, isSuper G lead, false, [], 0, 0, 0, false, none⟩
        .done (if descError .cpy 0 false none d then s else prefetch c d s)

/-- R179 -/
def execCpre (f : FullWord) (s : State) : Host.Outcome State Fault Refusal :=
  .next (issueGroups (infoOf f) (cprePre f) (cpreBody f) s)

/-! ### Completion and stop -/

/-- The two status words (R169). -/
def statusWords (r : CopyResult) : Word × Word :=
  let side := if r.st = 3 ∨ r.st = 4 ∨ r.st = 6 then r.side else 0
  let whr := if r.st = 0 ∨ r.st = 2 then 0 else r.whr
  (gen (BitVec.ofNat 32 (r.st * 2 ^ 28 + r.cart % 32 * 2 ^ 23 + side * 2 ^ 22)), gen (BitVec.ofNat 32 whr))

/-- The pending results of one source land with two words. -/
def landPend (src : PendSrc) (w0 w1 : Word) (t : Thread) : Thread :=
  let mine := t.pend.filter fun p => p.src == src
  let t := { t with pend := t.pend.filter fun p => p.src != src }
  mine.foldl (fun t p =>
    landAll t (p.v.zipIdx.map fun x => (x.1.1, if x.2 = 0 then w0 else w1)) []) t

def landStatus (s : State) (c : Copy) (second : Bool) (w0 w1 : Word) : State :=
  c.carts.foldl (fun s k => modG s k.grp fun G =>
    { G with threads := G.threads.map (landPend (.copy c.id second) w0 w1) }) s

/-- The barrier that a workgroup names. -/
def wgBar (s : State) (wg lvl num : Nat) : Option Barrier :=
  (aget s.wgs wg).bind fun W => (barOwner s W wg lvl num).bind fun o => findBar s lvl o num

def copyTileEnd (s : State) (c : Copy) (r : CopyResult) : State :=
  match copyTile s c with
  | none => s
  | some t =>
    if r.stopped then setTile s { t with stopped := some (copyName c.kind c.mod c.bar) }
    else if c.kind == .tdrain then setTile s { t with st := .empty, stopped := none }
    else setTile s { t with st := .ready, stopped := none, err := decide (r.st ≠ 0) }

/-- What later resumptions must know of the bytes already taken off (R170). -/
def copyTaken (s : State) (c : Copy) (r : CopyResult) : State :=
  let rest := s.copyStops.filter fun x => !c.carts.any fun (k : Cart) => x.sameAs c k.grp
  if copyMV c.mod then
    let new : List CopyStopRec := r.done.map fun x => ⟨x.1, c.kind, c.mod &&& ~~~ 0x0800, c.bar, c.tile, x.2⟩
    { s with copyStops := (if r.stopped then rest ++ new else rest) }
  else s

/-- The end of a copy: release, barrier, status, bitmap and tile (R169, R170, R173). -/
def finishCopy (s : State) (c : Copy) (r : CopyResult) : State :=
  let s := if copyRel c.mod then releaseAt s c.core (copyScope c.mod) else s
  let s := match if c.bar.getLsbD 7 then wgBar s c.wg (barLvl c.bar) (barNum c.bar) else none with
    | some b => barBytes s b (-r.bytes) (r.st = 1 || r.st = 2 || r.st = 5 || r.st = 6 || r.st = 8)
    | none => s
  let (w0, w1) := statusWords r
  let s := landStatus s c (c.kind == .cpys) w0 w1
  let s := if copyMV c.mod then
      r.bits.foldl (fun (s : State) (x : Nat × W64) => modG s x.1 fun G =>
        { G with m := G.m.set (copyMreg c.mod) (gen (x.2.setWidth 32), gen ((x.2 >>> 32).setWidth 32)) }) s
    else s
  let s := copyTaken (copyTileEnd s c r) c r
  wgEmptied { s with copies := s.copies.filter (fun x => x.id != c.id) } c.wg

def findCopy (s : State) (id : Nat) : Option Copy := s.copies.find? fun c => c.id == id

/-- A copy ends as a completion or as a stop; the other step leaves it as it is. -/
def endCopy (stop : Bool) (id : Nat) (s : State) : State :=
  match findCopy s id with
  | none => s
  | some c =>
    if !copyReady s c then s
    else if c.kind == .cpys then
      match c.result with
      | some r => if c.srcDone && r.stopped == stop then finishCopy s c r else s
      | none => s
    else
      let (s', r) := runCopy s c
      if r.stopped == stop then finishCopy s' c r else s

/-- R169, R170, R173 -/
def execCopyCompletion (copy : Nat) (s : State) : Host.Outcome State Fault Refusal := .next (endCopy false copy s)

/-- R173, R320 -/
def execCopyStop (copy : Nat) (s : State) : Host.Outcome State Fault Refusal := .next (endCopy true copy s)

/-- R178: every source has been read; the first status pair is written. -/
def execCpysSourceReadDone (copy : Nat) (s : State) : Host.Outcome State Fault Refusal :=
  .next (match findCopy s copy with
    | none => s
    | some c =>
      if c.kind == .cpys && copyReady s c && !c.srcDone then
        let (s, r) := runCopy s c
        let (w0, w1) := statusWords { r with st := if r.st = 2 then 2 else 0 }
        let s := landStatus s c false (if r.st = 2 then w0 else gen 0) w1
        modCopy s copy fun c => { c with srcDone := true, result := some r }
      else s)

end Sys2Proof.Machine
end

