-- ==== Sys2Proof/Machine/BarrierOps.lean ====
section
/-! DEFINITION. The barrier instructions bar.arr, bar.wait, bar.sync, bar.exp, bar.stat (R199 to R206). -/

namespace Sys2Proof.Machine

open Sys2Proof

/-- PRED of a word that takes no guard (R193, R194). -/
def noGuard (f : FullWord) : List Nat := (if f.pred = 7 then [] else [0x2A]) ++ predSubs f

/-- Conditions of a barrier word: which fields it uses and which MOD bits. -/
def barOpSubs (useD useA : Bool) (mods : W16) (f : FullWord) : List Nat :=
  noGuard f ++ zeroSub ((useD || f.d == 0) && (useA || f.a == 0) && f.c == 0 && f.mod &&& ~~~ mods == 0) ++
  barSubs true f.b

def barPre (useD useA : Bool) (mods : W16) (f : FullWord) (s : State) (g _l : Nat) : Option Trap :=
  (subTrap (barOpSubs useD useA mods f)).or
    (regTrap (nreqOf s g) ((if useD then [f.d.toNat] else []) ++ if useA then [f.a.toNat] else []))

/-- The status word of a wait (R204). -/
def waitStatus (r : BarRec) : W32 :=
  BitVec.ofNat 32 (r.noarr.toNat * 4 + (r.ap.toNat + 1) % 2 * 2 + r.err.toNat)

/-- Passes a wait whose record is complete: acquire, status, record cleared (R204, R206). -/
def barPass (f : FullWord) (s : State) (g : Nat) (ls : List Nat) (r : BarRec) : GroupRes :=
  let s := acquireAt (modG s g fun G => clearRec G r.lvl r.num) (coreOf s g) r.lvl
  if f.mod.getLsbD 0 && r.err then .trapAll s ls (trapOf causeBarrier 2) (dead [f.d.toNat])
  else .done (ls.foldl (fun s l => modT s g l fun t => writeV t f.d.toNat (gen (waitStatus r))) s)

/-- Holds a group at a wait (R204). -/
def barHold (s : State) (g : Nat) (ls : List Nat) (r : BarRec) : GroupRes :=
  let s := modG s g fun G => putRec G r
  .holdAll (ls.foldl (fun s l => modT s g l fun t => { t with wait := .bar r.lvl r.num }) s) ls

/-- The wait of bar.wait and of bar.sync once its arrival is made. A wait that finds the record clear leaves a mark of its
own in it, which goes with the wait (log entry 35). -/
def barWaitOn (f : FullWord) (s : State) (g : Nat) (ls : List Nat) (b : Barrier) : GroupRes :=
  let pc := pcOf s g (ls.headD 0)
  match (getG s g).bind fun G => getRec G b.lvl b.num with
  | none => barHold s g ls ⟨b.lvl, b.num, b.ph, false, false, true, some pc⟩
  | some r => if r.done then barPass f s g ls r else barHold s g ls { r with waiting := some pc }

/-- Arrival, announced bytes and error mark of one group, applied together (R201, R202, R206). -/
def barApply (s : State) (g : Nat) (b : Barrier) (arr err : Bool) (bytes : Int) : State :=
  let s := if arr then releaseAt s (coreOf s g) b.lvl else s
  let s := if arr then modG s g fun G => putRec G ⟨b.lvl, b.num, b.ph, false, false, false, none⟩ else s
  setBar s { b with pa := if arr then b.pa - 1 else b.pa, pb := b.pb + bytes, ef := b.ef || err }

def arrivedIn (s : State) (g : Nat) (b : Barrier) : Bool := (getG s g).any (arrived b)

def barArrBody (f : FullWord) (s : State) (g : Nat) (ls : List Nat) : GroupRes :=
  match groupBar s g (barLvl f.b) (barNum f.b) with
  | none => .trapAll s ls (trapOf causeProtection) .none
  | some b =>
    if arrivedIn s g b then .trapAll s ls (trapOf causeBarrier 1) .none
    else .done (barApply s g b true (f.mod.getLsbD 0) 0)

/-- R201, R206 -/
def execBarArr (f : FullWord) (s : State) : Host.Outcome State Fault Refusal :=
  .next (issueGroups (infoOf f) (barPre false false 1 f) (barArrBody f) s)

def barWaitBody (f : FullWord) (s : State) (g : Nat) (ls : List Nat) : GroupRes :=
  match groupBar s g (barLvl f.b) (barNum f.b) with
  | none => .trapAll s ls (trapOf causeProtection) (dead [f.d.toNat])
  | some b => barWaitOn f s g ls b

/-- R204, R206 -/
def execBarWait (f : FullWord) (s : State) : Host.Outcome State Fault Refusal :=
  .next (issueGroups { infoTo f [f.d.toNat] [] with ender := true } (barPre true false 1 f) (barWaitBody f) s)

/-- Whether the group has begun the wait of the word at hand: its arrival is not made again (R225). -/
def barBegun (s : State) (g : Nat) (ls : List Nat) (b : Barrier) : Bool :=
  ((getG s g).bind fun G => getRec G b.lvl b.num).any fun r => r.waiting == some (pcOf s g (ls.headD 0))

def barSyncBody (f : FullWord) (s : State) (g : Nat) (ls : List Nat) : GroupRes :=
  match groupBar s g (barLvl f.b) (barNum f.b) with
  | none => .trapAll s ls (trapOf causeProtection) (dead [f.d.toNat])
  | some b =>
    if barBegun s g ls b then barWaitOn f s g ls b
    else if arrivedIn s g b then .trapAll s ls (trapOf causeBarrier 1) (dead [f.d.toNat])
    else
      let s := barApply s g b true (f.mod.getLsbD 1) 0
      match groupBar s g (barLvl f.b) (barNum f.b) with
      | none => .done s
      | some b => barWaitOn f s g ls b

/-- R201, R204, R206 -/
def execBarSync (f : FullWord) (s : State) : Host.Outcome State Fault Refusal :=
  .next (issueGroups { infoTo f [f.d.toNat] [] with ender := true } (barPre true false 3 f) (barSyncBody f) s)

/-- The failures of R201 in the order of its text, as check 9 of R89 has it: a second arrival, a count beyond the limit, a
poisoned count word. -/
def barExpBody (f : FullWord) (s : State) (g : Nat) (ls : List Nat) : GroupRes :=
  let lead := ls.headD 0
  let arr := f.mod.getLsbD 0
  match groupBar s g (barLvl f.b) (barNum f.b), getT s g lead with
  | some b, some t =>
    let w := readV t f.a.toNat
    if arr && arrivedIn s g b then .trapAll s ls (trapOf causeBarrier 1) .none
    else if (2 : Int) ^ 31 - 1 < b.pb + (w.val.toNat : Int) then .trapAll s ls (trapOf causeBarrier 3) .none
    else if isPoison w then .trapOne s lead (trapOf causePoison) .none
    else .done (barApply s g b arr (f.mod.getLsbD 1) w.val.toNat)
  | _, _ => .trapAll s ls (trapOf causeProtection) .none

/-- R201, R206 -/
def execBarExp (f : FullWord) (s : State) : Host.Outcome State Fault Refusal :=
  .next (issueGroups (infoOf f) (barPre false true 3 f) (barExpBody f) s)

/-! ### bar.stat (R205) -/

def barStatSubs (f : FullWord) : List Nat :=
  predSubs f ++ zeroSub (f.a == 0 && f.c == 0 && f.mod == 0) ++ barSubs true f.b ++
  (if f.d.toNat % 4 = 0 then [] else [5])

def barStatPre (f : FullWord) (s : State) (g _l : Nat) : Option Trap :=
  (subTrap (barStatSubs f)).or (regTrap (nreqOf s g) ((List.range 4).map (f.d.toNat + ·)))

/-- The four words of R205. -/
def barWords (b : Barrier) : List W32 :=
  [BitVec.ofNat 32 (b.le.toNat * 2 ^ 31 + b.ef.toNat * 2 ^ 30 + b.ph.toNat % 2 * 2 ^ 29 + b.ph.toNat),
   BitVec.ofNat 32 b.pa, BitVec.ofInt 32 b.pb, BitVec.ofNat 32 b.tgt]

def barStatBody (f : FullWord) (s : State) (g l : Nat) : LaneRes :=
  match groupBar s g (barLvl f.b) (barNum f.b) with
  | none => .trap s (trapOf causeProtection) (dead ((List.range 4).map (f.d.toNat + ·)))
  | some b => .done (modT s g l (deliver none ((barWords (heldBar s (coreOf s g) b)).zipIdx.map fun x => (f.d.toNat + x.2, gen x.1)) []))

/-- R205 -/
def execBarStat (f : FullWord) (s : State) : Host.Outcome State Fault Refusal :=
  .next (issueLanes (infoTo f ((List.range 4).map (f.d.toNat + ·)) []) (barStatPre f) (barStatBody f) s)

end Sys2Proof.Machine
end

