-- ==== Sys2Proof/Machine/Allot.lean ====
section
/-! DEFINITION. Changes of a group's register allotment: agrow and ashrink (R15, R216 to R218, R286, R297). -/

namespace Sys2Proof.Machine

open Sys2Proof

def allotN (f : FullWord) : Nat := f.mod.toNat % 256

def allotSubs (useD : Bool) (f : FullWord) : List Nat :=
  noGuard f ++ zeroSub ((if useD then decide (f.d.toNat < 8) else f.d == 0) && f.a == 0 && f.b == 0 && f.c == 0 &&
    f.mod &&& 0xFF00 == 0) ++ (if allotN f = 0 then [0x0B] else [])

/-- N_req becomes n: registers above the old bound read zero, those above the new one are lost (R15). -/
def resize (n : Nat) (G : Group) : Group :=
  let one (t : Thread) : Thread :=
    { t with
      v := t.v.take n ++ List.replicate (n - t.v.length) Word.zero,
      run := { t.run with v := t.run.v.filter (fun x => decide (x.1 < n)) } }
  { G with nreq := n, threads := G.threads.map one }

/-- A growth request is answered in a thread. -/
def answerIn (ok : Bool) (t : Thread) : Thread :=
  let mine := t.pend.filter fun p => p.src == .agrow
  mine.foldl (fun t p => landAll t [] (p.p.map fun x => (x.1, ⟨ok, false⟩)))
    { t with pend := t.pend.filter fun p => p.src != .agrow }

/-- A growth request is answered in every thread of its group. -/
def answerGrow (ok : Bool) (G : Group) : Group := { G with agrow := none, threads := G.threads.map (answerIn ok) }

/-- Free words of a quarter (R286). -/
def freeWords (s : State) (core qtr : Nat) : Nat :=
  16384 - ((s.groups.filter fun x => x.2.core == core && x.2.qtr == qtr).map fun x => 32 * allot x.2.nreq).sum

def agrowBody (f : FullWord) (s : State) (g : Nat) (ls : List Nat) : GroupRes :=
  let n := allotN f
  let p := f.d.toNat % 8
  match getG s g with
  | none => .done s
  | some G =>
    let all (s : State) (b : Bool) : State :=
      ls.foldl (fun s l => modT s g l (deliver (some s.cycle) [] [(p, ⟨b, false⟩)])) s
    if G.agrow.isSome then .holdAll s ls
    else if n ≤ G.nreq then .done (all s true)
    else if allot n = allot G.nreq then .done (all (modG s g (resize n)) true)
    else
      let s := modG { s with uid := s.uid + 1 } g fun G => { G with agrow := some ⟨n, s.uid⟩ }
      .done (ls.foldl (fun s l => modT s g l fun t =>
        pending .agrow [] [(p, ⟨false, false⟩)] [] s.cycle t) s)

/-- R216 -/
def execAgrow (f : FullWord) (s : State) : Host.Outcome State Fault Refusal :=
  .next (issueGroups (infoTo f [] [f.d.toNat % 8]) (fun _ _ _ => subTrap (allotSubs true f)) (agrowBody f) s)

/-- Whether a variable-latency write to a register that ashrink gives up is pending (R218). -/
def shrinkWaits (n : Nat) (G : Group) : Bool :=
  G.threads.any fun t => t.live && t.pend.any fun p => p.v.any fun x => decide (n ≤ x.1) && x.1 != 255

def ashrinkBody (f : FullWord) (s : State) (g : Nat) (ls : List Nat) : GroupRes :=
  let n := allotN f
  match getG s g with
  | none => .done s
  | some G =>
    if G.agrow.isSome then .holdAll s ls
    else if G.nreq ≤ n then .done s
    else if shrinkWaits n G then .holdAll s ls
    else .done (modG s g (resize n))

/-- R218 -/
def execAshrink (f : FullWord) (s : State) : Host.Outcome State Fault Refusal :=
  .next (issueGroups (infoOf f) (fun _ _ _ => subTrap (allotSubs false f)) (ashrinkBody f) s)

/-- Groups of a quarter with a request, oldest request first. -/
def growers (s : State) (core qtr : Nat) : AList Group :=
  let gs := s.groups.filter fun x => x.2.core == core && x.2.qtr == qtr && x.2.agrow.isSome
  let seq (x : Nat × Group) : Nat := (x.2.agrow.map (·.seq)).getD 0
  gs.foldl (fun acc x => acc.takeWhile (fun y => decide (seq y ≤ seq x)) ++ [x] ++
    acc.dropWhile fun y => decide (seq y ≤ seq x)) []

/-- The group of the oldest request of a quarter when it can be granted. -/
def grantable (s : State) (core qtr : Nat) : Option (Nat × Nat) :=
  match growers s core qtr with
  | [] => none
  | (k, G) :: _ =>
    let n := (G.agrow.map (·.n)).getD 0
    if 32 * (allot n - allot G.nreq) ≤ freeWords s core qtr then some (k, n) else none

end Sys2Proof.Machine
end

