-- ==== Sys2Proof/Machine/Atomic.lean ====
section
/-! DEFINITION. Atomics: atom, acas, red (R160 to R163). -/

namespace Sys2Proof.Machine

open Sys2Proof

def aopOf (f : FullWord) : Nat := f.mod.toNat / 2 ^ 4 % 16
def ordOf (f : FullWord) : Nat := f.mod.toNat / 2 ^ 2 % 4

/-- TYPE values that an operation accepts (R160). -/
def aopTypes (aop : Nat) : List Nat :=
  match aop with
  | 0 => [0x04, 0x08, 0x05, 0x09, 0x0E]
  | 1 | 2 => [0x04, 0x08, 0x05, 0x09]
  | 3 | 4 | 5 | 6 => [0x00, 0x01]
  | 7 | 8 => [0x08]
  | _ => []

/-- The scope code: in C, or in MOD[6:4] for acas (R161). -/
def atomScope (cas : Bool) (f : FullWord) : Nat := if cas then aopOf f % 8 else f.c.toNat % 8

def atomSubs (cas isRed : Bool) (f : FullWord) : List Nat :=
  let ty := tyOf f
  let odd (b : Byte) : List Nat := if wide ty ∧ b.toNat % 2 = 1 then [5] else []
  predSubs f ++
  (if cas then (if ty = 0 ∨ ty = 1 then [] else [4]) ++ zeroSub (decide (aopOf f < 8))
   else
     (if 9 ≤ aopOf f then [1] else if (aopTypes (aopOf f)).contains ty then [] else [4]) ++
     (if isRed ∧ 6 ≤ aopOf f ∧ aopOf f < 9 then [0x26] else []) ++
     zeroSub (decide (f.c.toNat < 8))) ++
  (if spaceOf f = 0 then [0x20] else if 5 ≤ spaceOf f then [1] else []) ++
  (if isRed ∧ ordOf f % 2 = 1 then [0x26] else []) ++
  zeroSub (f.mod.toNat % 4 == 0) ++
  scopeSubs (atomScope cas f) ++
  (if isRed then zeroSub (f.d == 0) else odd f.d) ++ odd f.b ++ (if cas then odd f.c else []) ++
  baseSubs (spaceOf f) false f.a

def atomRegs (cas isRed : Bool) (f : FullWord) : List Nat :=
  let two (b : Byte) : List Nat := (List.range (nRegs (tyOf f))).map (b.toNat + ·)
  (if isRed then [] else two f.d) ++ baseRegs (spaceOf f) false f.a ++ two f.b ++ (if cas then two f.c else [])

def atomPre (cas isRed : Bool) (f : FullWord) (s : State) (g _l : Nat) : Option Trap :=
  (subTrap (atomSubs cas isRed f)).or (regTrap (nreqOf s g) (atomRegs cas isRed f))

/-- The new memory value with its prediction (R160, R163). -/
def atomNew (aop ty : Nat) (m b : List Word) : AluOut :=
  let t := intTy ty
  match aop with
  | 0 => if ty = 0x0E then aluFadd ty 0 0 m b else aluAdd t m b
  | 1 => aluMin t m b
  | 2 => aluMax t m b
  | 3 => aluAnd m b
  | 4 => aluOr m b
  | 5 => aluXor m b
  | 6 => aluCopy b
  | 7 =>
    let mv := (m.headD .zero).val.toNat
    if (b.headD .zero).val.toNat ≤ mv then aluCopy [gen 0] else aluAdd t m [gen 1]
  | _ =>
    let mv := (m.headD .zero).val.toNat
    if mv = 0 ∨ (b.headD .zero).val.toNat < mv then aluCopy b else aluSub t m [gen 1]

/-- A word or pair at its home. -/
def homeWords (s : State) (core : Nat) (p : Loc) (n : Nat) : List Word × State :=
  let (w, s) := homeWord s core p
  if n = 1 then ([w], s)
  else
    let (v, s) := homeWord s core { p with at_ := p.at_ + 4 }
    ([w, v], s)

/-- An atomic whose home answers DIE_OFFLINE: no effect in memory, poisoned words to a lane that takes a result, no trap
(R159, R401). -/
def offlineAtom (isRed : Bool) (s : State) (g l n : Nat) (ds : List Nat) : LaneRes :=
  if isRed then .done (modT s g l fun t => { t with reds := t.reds + 1 })
  else landWords s g l 4 false 1 (fun _ => none) ds (List.replicate n ⟨0, 0xF⟩)

/-- One lane's atomic (R162, R163); `acas` stores C when the bits of M and B are equal. A poisoned memory word makes the new
word poison, `.exch` included, as R163 says, although R157 lets an atomic write such a word clean (DESIGN CHOICE, log
entry 65). -/
def atomBody (cas isRed : Bool) (f : FullWord) (s : State) (g l : Nat) : LaneRes :=
  match getT s g l with
  | none => .hold s
  | some t =>
    let n := nRegs (tyOf f)
    let rd (r : Byte) : List Word := (List.range n).map fun i => readV t (r.toNat + i)
    let ds := if isRed then [] else (List.range n).map (f.d.toNat + ·)
    let (bad, addr) := baseIn s g t (spaceOf f) false f.a
    let tv := BitVec.ofNat 64 addr
    if bad then .trap s (trapAt causePoison 0 tv) (dead ds)
    else
      let user := ((getG s g).map fun G => !isSuper G l).getD true
      match locate s g (spaceOf f) (4 * n) ⟨true, true, false, user⟩ addr with
      | (.error e, s) => .trap s e (dead ds)
      | (.ok p, s) =>
        let core := coreOf s g
        let sc := atomScope cas f
        let s := if ordOf f / 2 = 1 then releaseAt s core sc else s
        let (m, s) := homeWords s core p n
        let b := rd f.b
        let c := rd f.c
        let psn := m.any isPoison || b.any isPoison || (cas && c.any isPoison)
        let hit := !cas || m.map (·.val) == b.map (·.val)
        let new := if cas then aluCopy c else atomNew (aopOf f) (tyOf f) m b
        let tvs (k : Nat) : Option W64 := some (tv + BitVec.ofNat 64 (4 * k))
        if p.space == 4 && offlinePa s p.at_ then offlineAtom isRed s g l n ds
        else match if hit then settleAll psn new.words else some m with
        | none =>
          if !isRed && m.any mismatch then landWords s g l 4 (wide (tyOf f)) 1 tvs ds m
          else .trap (if isRed then s else disarm s g l 4) (trapOf causeCheck 0)
            ⟨List.zipWith (fun d w => (d, w.val)) ds m, [], false, []⟩
        | some ws =>
          if hit && p.pt && ws.any isPoison then .trap s (trapAt causePoison 0 tv) (dead ds)
          else match if isRed then .done s else landWords s g l 4 (wide (tyOf f)) 1 tvs ds m with
          | .done s =>
            let k := p.at_ / 4 % 16
            let s := if hit then
                homePut s core p ((List.range n).map fun i => (k + i, wholePatch (ws.getD i .zero)))
              else s
            let s := if isRed then modT s g l fun t => { t with reds := t.reds + 1 } else s
            .done (if ordOf f % 2 = 1 then acquireAt s core sc else s)
          | x => x

def issueAtom (cas isRed : Bool) (f : FullWord) (s : State) : Host.Outcome State Fault Refusal :=
  .next (issueLanes (infoTo f (if isRed then [] else (List.range (nRegs (tyOf f))).map (f.d.toNat + ·)) []) (atomPre cas isRed f) (atomBody cas isRed f) s)

/-- R160 to R163 -/
def execAtom (f : FullWord) : Exec := issueAtom false false f

/-- R161 to R163 -/
def execAcas (f : FullWord) : Exec := issueAtom true false f

/-- R160 to R163 -/
def execRed (f : FullWord) : Exec := issueAtom false true f

end Sys2Proof.Machine
end

