-- ==== Sys2Proof/Machine/Bits.lean ====
section
/-! DEFINITION. Logic, shift, bit and field instructions, opcode group 0x1 (R111 to R118). -/

namespace Sys2Proof.Machine

open Sys2Proof

/-- lop3: the third source and two LUT bits share the C field (R112). -/
def rowLop3 (f : FullWord) : Row :=
  let c := f.c.toNat % 64
  { rowDAB typesB 0x3F f with
    c := .raw, subs := if wide (tyOf f) ∧ c % 2 = 1 then [5] else [],
    regs := (List.range (nRegs (tyOf f))).map (c + ·) }

def lop3Lut (f : FullWord) : Byte := BitVec.ofNat 8 ((xmOf f).toNat + f.c.toNat / 64 * 64)

def runLop3 (x : Ctx) : AluOut :=
  aluLop3 (lop3Lut x.f) x.a x.b (regsFrom x.t (x.f.c.toNat % 64) (nRegs x.ty))

/-- A shift count: a word, or for a packed TYPE the elements of B (R113). -/
def countTy (ty : Nat) : Nat := if packedTy ty then ty else 0x08
def rowShift (types : List Nat) (f : FullWord) : Row :=
  { rowDAB types 0 f with b := .v (countTy (tyOf f)) }

def rowRshr (f : FullWord) : Row := { rowDAB typesW 0x3B f with b := .v 0x08, subs := rshrSubs f }

/-- popc, clz and ctz write one register (R115). -/
def rowCount (f : FullWord) : Row := { rowDA typesB 0 f with d := .v 0x08 }

/-- R111 -/
def execAnd (f : FullWord) : Exec :=
  issueR75 (rowDAB typesB 0) 1 (fun x => aluAnd x.a x.b) f

/-- R111 -/
def execOr (f : FullWord) : Exec :=
  issueR75 (rowDAB typesB 0) 1 (fun x => aluOr x.a x.b) f

/-- R111 -/
def execXor (f : FullWord) : Exec :=
  issueR75 (rowDAB typesB 0) 1 (fun x => aluXor x.a x.b) f

/-- R111 -/
def execNot (f : FullWord) : Exec :=
  issueR75 (rowDA typesB 0) 1 (fun x => aluNot x.a) f

/-- R112 -/
def execLop3 (f : FullWord) : Exec :=
  issueR75 (rowLop3) 1 (runLop3) f

/-- R113 -/
def execShl (f : FullWord) : Exec :=
  issueR75 (rowShift [0x00, 0x01, 0x0B]) 1 (fun x => aluShl x.it x.a x.b) f

/-- R113 -/
def execShr (f : FullWord) : Exec :=
  issueR75 (rowShift [0x00, 0x01, 0x0B]) 1 (fun x => aluShr x.it x.a x.b) f

/-- R113 -/
def execSar (f : FullWord) : Exec :=
  issueR75 (rowShift [0x04, 0x05, 0x0A]) 1 (fun x => aluSar x.it x.a x.b) f

/-- R113 -/
def execRot (f : FullWord) : Exec :=
  issueR75 (rowDAB [0x00] 1) 1 (fun x => aluRot (x.xm.getLsbD 0) x.a x.b) f

/-- R113 -/
def execShf (f : FullWord) : Exec :=
  issueR75 (rowDABC [0x00] 3) 1 (fun x => aluShf (x.xm.getLsbD 0) (x.xm.getLsbD 1) x.a x.b x.c) f

/-- R117, R118 -/
def execRshr (f : FullWord) : Exec :=
  issueR75 (rowRshr) 1 (fun x => aluRshr x.xm x.it x.a x.b) f

/-- R114 -/
def execBext (f : FullWord) : Exec :=
  issueR75 (rowDAB typesW 0) 1 (fun x => aluBext x.it x.a x.b) f

/-- R114 -/
def execBins (f : FullWord) : Exec :=
  issueR75 (rowDABC [0x00] 0) 1 (fun x => aluBins x.a x.b x.c) f

/-- R114 -/
def execBmsk (f : FullWord) : Exec :=
  issueR75 (rowDA [0x00] 0) 1 (fun x => aluBmsk x.a) f

/-- R115 -/
def execBrev (f : FullWord) : Exec :=
  issueR75 (rowDA typesB 0) 1 (fun x => aluBrev x.it x.a) f

/-- R115 -/
def execPopc (f : FullWord) : Exec :=
  issueR75 (rowCount) 1 (fun x => aluPopc x.it x.a) f

/-- R115 -/
def execClz (f : FullWord) : Exec :=
  issueR75 (rowCount) 1 (fun x => aluClz x.it x.a) f

/-- R115 -/
def execCtz (f : FullWord) : Exec :=
  issueR75 (rowCount) 1 (fun x => aluCtz x.it x.a) f

/-- R116 -/
def execPerm (f : FullWord) : Exec :=
  issueR75 (rowDABC [0x00] 0) 1 (fun x => aluPerm x.a x.b x.c) f

/-- R114 -/
def execSext (f : FullWord) : Exec :=
  issueR75 (rowDAB [0x00] 0) 1 (fun x => aluExt true x.a x.b) f

/-- R114 -/
def execZext (f : FullWord) : Exec :=
  issueR75 (rowDAB [0x00] 0) 1 (fun x => aluExt false x.a x.b) f

end Sys2Proof.Machine
end

