-- ==== Sys2Proof/Machine/Codebook.lean ====
section
/-! DEFINITION. Codebook instructions: cbld, cbst, cbw, cbinv, cbfence (R189 to R191), and the completion of a
bank write (R349). -/

namespace Sys2Proof.Machine

open Sys2Proof

/-- The range of R189: first entry and number of entries. -/
def cbRange (w : W32) : Nat × Nat :=
  let first := w.toNat % 256
  (first, min (w.toNat / 2 ^ 8 % 512) (256 - first))

/-- The trap of a bank outside the workgroup's mask (R22). -/
def bankTrap (s : State) (g b : Nat) : Option Trap :=
  if ownsBank s g b then none else some (trapOf causeProtection)

/-- A bank write arrives at its bank (R349). -/
def bankWrite (s : State) (core bank g : Nat) (ents : AList CbEntry) : State :=
  { s with uid := s.uid + 1, bankWrites := s.bankWrites ++ [⟨s.uid, s.cycle, core, bank, [g], ents⟩] }

/-! ### cbld and cbst (R189) -/

def cbMemSubs (f : FullWord) : List Nat :=
  predSubs f ++ zeroSub (decide (f.d.toNat < 16) && f.c == 0) ++ spaceSubs [1, 3, 4] (spaceOf f) ++
  zeroSub (f.mod &&& ~~~ 0x0700 == 0) ++ baseSubs (spaceOf f) false f.a

def cbMemPre (f : FullWord) (s : State) (g _l : Nat) : Option Trap :=
  (subTrap (cbMemSubs f)).or
    ((regTrap (nreqOf s g) (baseRegs (spaceOf f) false f.a ++ [f.b.toNat])).or (bankTrap s g (f.d.toNat % 16)))

/-- An entry from its two image words. -/
def entryOf (lo hi : Word) : CbEntry :=
  if isPoison lo || isPoison hi then ⟨lo.val, 0xF, 0xF⟩ else ⟨lo.val, hi.val.setWidth 4, (hi.val >>> 4).setWidth 4⟩

/-- The two image words of an entry. -/
def imageOf (e : CbEntry) : List Word :=
  [⟨e.val, if e.h0 = 0xF ∨ e.h1 = 0xF then 0xF else BitVec.ofNat 4 ((e.h0.toNat + e.h1.toNat) % 15)⟩,
   gen (BitVec.ofNat 32 (e.h0.toNat + 16 * e.h1.toNat))]

/-- The places of n image entries from an address. An empty range names none, and its address is not checked (DESIGN
CHOICE, log entry 65). -/
def cbPlaces (s : State) (g l space : Nat) (need : Need) (addr : Nat) : Nat → Except Trap (List Loc) × State
  | 0 => (.ok [], s)
  | n + 1 =>
    match cbPlaces s g l space need addr n with
    | (.error t, s) => (.error t, s)
    | (.ok ps, s) => match locate s g space 8 need (addr + 8 * n : Nat) with
      | (.error t, s) => (.error { t with tval := some (BitVec.ofNat 64 addr) }, s)
      | (.ok p, s) => (.ok (ps ++ [p]), s)

def cbMemBody (load : Bool) (f : FullWord) (s : State) (g : Nat) (ls : List Nat) : GroupRes :=
  let lead := ls.headD 0
  match getG s g, getT s g lead with
  | some G, some t =>
    let (bad, addr) := baseIn s g t (spaceOf f) false f.a
    let r := readV t f.b.toNat
    let tv := BitVec.ofNat 64 addr
    let bank := f.d.toNat % 16
    let (first, n) := cbRange r.val
    if bad || isPoison r then .trapOne s lead (trapAt causePoison 0 tv) .none
    else match cbPlaces s g lead (spaceOf f) ⟨load, !load, false, !isSuper G lead⟩ addr n with
      | (.error e, s) => .trapOne s lead e .none
      | (.ok ps, s) =>
        if load then
          let r := ps.foldl (fun (x : List CbEntry × State) p =>
            let (ws, s) := loadWords x.2 g lead G.core 0 p 2
            (x.1 ++ [entryOf (ws.getD 0 .zero) (ws.getD 1 .zero)], s)) ([], s)
          .done (bankWrite r.2 G.core bank g (r.1.zipIdx.map fun x => (first + x.2, x.1)))
        else
          let images := (List.range n).map fun i => imageOf (bankEntry s G.core bank (first + i))
          if images.any fun ws => ws.any mismatch then .trapOne s lead (trapAt causeCheck 4 tv) .none
          else if (ps.zip images).any fun x => x.1.pt && x.2.any isPoison then
            .trapOne s lead (trapAt causePoison 0 tv) .none
          else .done ((ps.zip images).foldl (fun s x => storeWords s g lead G.core x.1 x.2) s)
  | _, _ => .done s

/-- R189 -/
def execCbld (f : FullWord) (s : State) : Host.Outcome State Fault Refusal :=
  .next (issueGroups (infoOf f) (cbMemPre f) (cbMemBody true f) s)

/-- R189, R271 -/
def execCbst (f : FullWord) (s : State) : Host.Outcome State Fault Refusal :=
  .next (issueGroups (infoOf f) (cbMemPre f) (cbMemBody false f) s)

/-! ### cbw (R190) -/

def cbwSubs (f : FullWord) : List Nat :=
  predSubs f ++ zeroSub (decide (f.d.toNat < 16) && f.c == 0 && f.mod == 0)

def cbwPre (f : FullWord) (s : State) (g _l : Nat) : Option Trap :=
  (subTrap (cbwSubs f)).or
    ((regTrap (nreqOf s g) [f.a.toNat, f.b.toNat]).or (bankTrap s g (f.d.toNat % 16)))

/-- An entry with half-residues generated from a word's halves. -/
def halves (w : W32) : CbEntry :=
  ⟨w, BitVec.ofNat 4 (w.toNat % 65536 % 15), BitVec.ofNat 4 (w.toNat / 65536 % 15)⟩

def cbwBody (f : FullWord) (s : State) (g l : Nat) : LaneRes :=
  match getT s g l with
  | none => .hold s
  | some t =>
    let a := readV t f.a.toNat
    let b := readV t f.b.toNat
    if isPoison a then .trap s (trapOf causePoison) .none
    else if mismatch b then .trap s (trapOf causeCheck (pick [0, 2])) .none
    else
      let e := if isPoison b then ⟨b.val, 0xF, 0xF⟩ else halves b.val
      .done (bankWrite s (coreOf s g) (f.d.toNat % 16) g [(a.val.toNat % 256, e)])

/-- The lanes of one coach make one bank write (R349), in ascending lane column (R190). -/
def joinWrites (since : Nat) (s : State) : State :=
  match s.bankWrites.filter fun w => decide (since ≤ w.stamp) with
  | [] => s
  | w :: r =>
    { s with bankWrites := (s.bankWrites.filter fun w => decide (w.stamp < since)) ++
        [{ w with grps := (w.grps ++ r.flatMap (·.grps)).eraseDups, ents := w.ents ++ r.flatMap (·.ents) }] }

/-- R190 -/
def execCbw (f : FullWord) (s : State) : Host.Outcome State Fault Refusal :=
  .next (joinWrites s.uid (issueLanes (infoOf f) (cbwPre f) (cbwBody f) s))

/-! ### cbinv and cbfence -/

def cbinvSubs (f : FullWord) : List Nat :=
  predSubs f ++ zeroSub (decide (f.d.toNat < 16) && f.a == 0 && f.c == 0 && f.mod == 0)

def cbinvPre (f : FullWord) (s : State) (g _l : Nat) : Option Trap :=
  (subTrap (cbinvSubs f)).or ((regTrap (nreqOf s g) [f.b.toNat]).or (bankTrap s g (f.d.toNat % 16)))

def cbinvBody (f : FullWord) (s : State) (g : Nat) (ls : List Nat) : GroupRes :=
  let lead := ls.headD 0
  match getT s g lead with
  | none => .done s
  | some t =>
    let r := readV t f.b.toNat
    let core := coreOf s g
    let bank := f.d.toNat % 16
    let (first, n) := cbRange r.val
    if isPoison r then .trapOne s lead (trapOf causePoison) .none
    else .done (bankWrite s core bank g ((List.range n).map fun i =>
      (first + i, ⟨(bankEntry s core bank (first + i)).val, 0xF, 0xF⟩)))

/-- R190 -/
def execCbinv (f : FullWord) (s : State) : Host.Outcome State Fault Refusal :=
  .next (issueGroups (infoOf f) (cbinvPre f) (cbinvBody f) s)

/-- Whether a group's bank writes are still to complete (R191). -/
def bankPending (s : State) (g : Nat) : Bool := s.bankWrites.any fun w => w.grps.contains g

def cbfenceSubs (f : FullWord) : List Nat :=
  predSubs f ++ zeroSub (f.d == 0 && f.a == 0 && f.b == 0 && f.c == 0 && f.mod == 0)

def cbfenceBody (s : State) (g l : Nat) : LaneRes :=
  if bankPending s g then .hold (modT s g l fun t => { t with wait := .cbfence }) else .done s

/-- R191 -/
def execCbfence (f : FullWord) (s : State) : Host.Outcome State Fault Refusal :=
  .next (issueLanes (infoOf f) (fun _ _ _ => subTrap (cbfenceSubs f)) cbfenceBody s)

/-! ### Banks as ops and bank writes reach them (R349) -/

def resvOf (s : State) (core num : Nat) : Option Resv :=
  s.resvs.find? fun r => r.core == core && r.num == num

/-- The reservations that an op reads, as (core, number) (R235, R246). -/
def opReads (s : State) (o : Op) : List (Nat × Nat) :=
  if o.mtrq then [(o.core, o.ra)]
  else [(o.core, o.ra), (o.core, o.rb)] ++
    (match resvOf s o.core o.ra with
     | some r => if r.ks then [] else [(o.core + 1, o.ra)]
     | none => [])

/-- The banks that an op expands through (R235, R348). -/
def opBanks (s : State) (o : Op) : List (Nat × Nat) :=
  if o.mtrq then []
  else
    let of (core num : Nat) : List (Nat × Nat) := match resvOf s core num with
      | some r => if r.cbv then [(core, r.cbk)] else []
      | none => []
    of o.core o.ra ++ of o.core o.rb ++ (match resvOf s o.core o.ra with
      | some r => if r.ks then (if r.cbv then [(o.core + 1, r.cbk)] else []) else of (o.core + 1) o.ra
      | none => [])

/-- Ops that have not fetched all their operands. -/
def unfetched (s : State) : List Op := (s.carriages.flatMap carriageOps).filter fun o => o.data.isNone

/-- Whether an earlier op still has to expand through the bank of a write. Of the arrivals of one cycle the op is first, so
a write completes in a later cycle than it arrives. -/
def writeWaits (s : State) (w : BankWrite) : Bool :=
  w.cycle == s.cycle || (unfetched s).any fun o => decide (o.cycle ≤ w.cycle) && (opBanks s o).contains (w.core, w.bank)

/-- Whether a write that arrived before an op holds its fetch. -/
def opWaits (s : State) (o : Op) : Bool :=
  s.bankWrites.any fun w => decide (w.cycle < o.cycle) && (opBanks s o).contains (w.core, w.bank)

/-- The oldest write of a bank. -/
def oldestWrite (s : State) (core bank : Nat) : Option BankWrite :=
  s.bankWrites.find? fun w => w.core == core && w.bank == bank

/-- Lanes held by a cbfence go on once their group's writes have completed. -/
def cbRelease (s : State) : State :=
  { s with groups := s.groups.map fun x =>
      if bankPending s x.1 then x
      else (x.1, { x.2 with threads := x.2.threads.map fun t =>
        if t.wait == .cbfence then { t with wait := .none } else t }) }

/-- R191, R349: the oldest write of a bank completes once no earlier op has still to fetch from it. -/
def execBankWriteComplete (core bank : Nat) (s : State) : Host.Outcome State Fault Refusal :=
  .next (match oldestWrite s core bank with
    | none => s
    | some w =>
      if writeWaits s w then s
      else cbRelease (setEntries { s with bankWrites := s.bankWrites.filter (fun x => x.stamp != w.stamp) }
        core bank w.ents))

end Sys2Proof.Machine
end

