-- ==== Sys2Proof/Machine/Cross.lean ====
section
/-! DEFINITION. Cross-lane instructions: xshf, xred, xscan, xvote, xmatch, xelect, xbpc (R207 to R212). -/

namespace Sys2Proof.Machine

open Sys2Proof

/-! ### Fields (R208) -/

def mmkOf (f : FullWord) : Bool := f.mod.getLsbD 10
def xSubOf (f : FullWord) : Nat := f.mod.toNat / 256 % 4
def biOf (f : FullWord) : Bool := f.mod.getLsbD 7
def pvOf (f : FullWord) : Bool := f.mod.getLsbD 6
def pnOf (f : FullWord) : Nat := f.mod.toNat / 8 % 8
def opOf (f : FullWord) : Nat := f.mod.toNat % 8

/-- The seven cross-lane instructions. -/
inductive XOp where
  | shf | red | scan | vote | match_ | elect | bpc
  deriving DecidableEq, Repr

/-- Whether D is a predicate. -/
def xPredD (k : XOp) (f : FullWord) : Bool := k == .elect || (k == .vote && opOf f != 2)

/-- Whether A is a predicate. -/
def xPredA (k : XOp) : Bool := k == .vote || k == .elect || k == .bpc

def xTypes (k : XOp) (f : FullWord) : List Nat :=
  match k with
  | .shf | .match_ => [0x00, 0x01]
  | .red | .scan => if opOf f < 3 then [0x04, 0x08, 0x0E] else [0x00]
  | _ => [0x00]

def xSubs (k : XOp) (f : FullWord) : List Nat :=
  let op := opOf f
  let wide64 := tyOf f == 1 && (k == .shf || k == .match_)
  let tot := k == .bpc && op == 1
  noGuard f ++
  (if (k == .red || k == .scan) && decide (5 < op) then [1]
   else if k == .vote && decide (2 < op) then [1]
   else if (xTypes k f).contains (tyOf f) then [] else [4]) ++
  zeroSub (mmkOf f || f.c == 0) ++
  zeroSub (match k with
    | .shf => true
    | .scan | .match_ => !f.mod.getLsbD 9
    | _ => xSubOf f == 0) ++
  zeroSub (k == .shf || !biOf f) ++
  zeroSub (k == .shf || k == .match_ || !pvOf f) ++ zeroSub (pvOf f || pnOf f == 0) ++
  zeroSub (match k with
    | .red | .scan | .vote => true
    | .bpc => op ≤ 1
    | _ => op == 0) ++
  zeroSub (if xPredD k f then decide (f.d.toNat < 8) else true) ++
  zeroSub (if xPredA k then decide (f.a.toNat < 8) else true) ++
  zeroSub (if k == .shf then !biOf f || decide (f.b.toNat < 64) else f.b == 0) ++
  (if (wide64 && (f.d.toNat % 2 == 1 || f.a.toNat % 2 == 1)) || (tot && f.d.toNat % 2 == 1) then [5] else [])

def xRegs (k : XOp) (f : FullWord) : List Nat :=
  let two (n : Nat) (b : Bool) : List Nat := if b then [n, n + 1] else [n]
  let wide64 := tyOf f == 1
  (if xPredD k f then [] else two f.d.toNat (wide64 || (k == .bpc && opOf f == 1))) ++
  (if xPredA k then [] else two f.a.toNat wide64) ++
  (if k == .shf && !biOf f then [f.b.toNat] else []) ++ (if mmkOf f then [f.c.toNat] else [])

/-- Destinations of a cross-lane word: registers, and predicates with PV's. -/
def xDests (k : XOp) (f : FullWord) : List Nat × List Nat :=
  (if xPredD k f then []
   else if (tyOf f == 1 && k != .match_) || (k == .bpc && opOf f == 1) then [f.d.toNat, f.d.toNat + 1] else [f.d.toNat],
   (if xPredD k f then [f.d.toNat % 8] else []) ++ (if pvOf f then [pnOf f] else []))

def xPre (k : XOp) (f : FullWord) (s : State) (g _l : Nat) : Option Trap :=
  (subTrap (xSubs k f)).or (regTrap (nreqOf s g) (xRegs k f))

/-! ### Member sets (R207) -/

/-- Mask that a lane presents, exited lanes removed, or none where the word is poisoned. -/
def maskOf_ (s : State) (g l : Nat) (c : Byte) : Option (BitVec 32) :=
  match getT s g l, getG s g with
  | some t, some G =>
    let w := readV t c.toNat
    if isPoison w then none else some (w.val &&& laneMask (liveLanes G))
  | _, _ => none

/-- Whether a lane's mask register holds its value: one whose result has still to land presents no mask yet (R72, R207). -/
def maskReady (s : State) (g : Nat) (c : Byte) (l : Nat) : Bool :=
  (getT s g l).any fun t => !t.pend.any fun p => p.v.any fun x => x.1 == c.toNat && x.1 != 255

/-- What a lane's mask makes of it: a trap, a participation still incomplete, its members, or the lanes whose masks differ
and intersect, which trap together. -/
inductive Party where
  | bad (t : Trap)
  | wait
  | members (ms : List Nat)
  | clash (ms : List Nat)
  deriving DecidableEq, Repr

/-- Whether the masks of two lanes differ and intersect (R207). -/
def masksClash (s : State) (g : Nat) (c : Byte) (k j : Nat) : Bool :=
  match maskOf_ s g k c, maskOf_ s g j c with
  | some m, some n => m != n && m &&& n != 0
  | _, _ => false

/-- The lanes among `shown` that a chain of clashing masks, `fuel` links long at most, joins to those listed. -/
def clashing (s : State) (g : Nat) (c : Byte) (shown : List Nat) : Nat → List Nat → List Nat
  | 0, ls => ls
  | fuel + 1, ls =>
    clashing s g c shown fuel (shown.filter fun k => ls.contains k || ls.any (masksClash s g c k))

def partyOf (f : FullWord) (s : State) (g l : Nat) : Party :=
  let at_ := lanesAt s g (pcOf s g l)
  let shown := at_.filter (maskReady s g f.c)
  let live := ((getG s g).map liveLanes).getD []
  if !mmkOf f then (if live.all at_.contains then .members live else .wait)
  else match maskOf_ s g l f.c with
    | none => .bad (trapOf causePoison)
    | some m =>
      if shown.any (masksClash s g f.c l) then .clash (clashing s g f.c shown shown.length [l])
      else if !m.getLsbD l then .bad (trapOf causeIllegalOperand 0x2B)
      else
        let ms := live.filter m.getLsbD
        if ms.all fun k => shown.contains k && maskOf_ s g k f.c == some m then .members ms else .wait

/-! ### Results -/

/-- A word as a combining step leaves it: flags set on the way, and whether a comparison failed (R212). -/
structure Node where
  w : Word
  flags : BitVec 6
  bad : Bool
  deriving DecidableEq, Repr

def Node.leaf (w : Word) : Node := ⟨w, 0, false⟩

/-- The arithmetic of a combining step (R210). -/
def combAlu (op ty : Nat) (a b : List Word) : AluOut :=
  match op with
  | 0 => if ty = 0x0E then aluFadd 0x0E 0 0 a b else aluAdd (intTy ty) a b
  | 1 => if ty = 0x0E then aluMinMax false 0x0E 0 a b else aluMin (intTy ty) a b
  | 2 => if ty = 0x0E then aluMinMax true 0x0E 0 a b else aluMax (intTy ty) a b
  | 3 => aluAnd a b
  | 4 => aluOr a b
  | _ => aluXor a b

def combNode (op ty : Nat) (a b : Node) : Node :=
  let o := combAlu op ty [a.w] [b.w]
  let psn := isPoison a.w || isPoison b.w
  let c := o.words.headD (Cut.gen 0)
  let fl := a.flags ||| b.flags ||| o.flags
  match settle psn c with
  | some w => ⟨w, fl, a.bad || b.bad || (!psn && o.bad.isSome)⟩
  | none => ⟨gen c.bits, fl, true⟩

/-- Adjacent entries combined in pairs (R210). -/
def pairNodes (op ty : Nat) : List Node → List Node
  | a :: b :: r => combNode op ty a b :: pairNodes op ty r
  | l => l

def treeNode (op ty : Nat) : Nat → List Node → Node
  | _, [a] => a
  | 0, l => l.headD (.leaf .zero)
  | fuel + 1, l => treeNode op ty fuel (pairNodes op ty l)

/-- Inclusive results from left to right. -/
def scanNodes (op ty : Nat) : Option Node → List Node → List Node
  | _, [] => []
  | none, a :: r => a :: scanNodes op ty (some a) r
  | some p, a :: r => let n := combNode op ty p a; n :: scanNodes op ty (some n) r

/-- Identities of R210. -/
def identityOf (op ty : Nat) : W32 :=
  match op, ty with
  | 1, 0x04 => 0x7FFFFFFF
  | 1, 0x08 => 0xFFFFFFFF
  | 1, _ => 0x7F800000
  | 2, 0x04 => 0x80000000
  | 2, 0x08 => 0
  | 2, _ => 0xFF800000
  | 3, _ => 0xFFFFFFFF
  | _, _ => 0

/-- What a cross-lane word gives a member: words for D, predicates, flags, or a trap. -/
structure XRes where
  words : List Word
  preds : List (Nat × Prd)
  flags : BitVec 6
  trap : Option Trap
  deriving DecidableEq, Repr

def XRes.ofWords (ws : List Word) : XRes := ⟨ws, [], 0, none⟩

/-- A word with a generated residue, poisoned where a contribution is. -/
def wordP (psn : Bool) (v : Nat) : Word := let w := gen (BitVec.ofNat 32 v); if psn then ⟨w.val, 0xF⟩ else w

/-- The A words of a lane. -/
def xA (f : FullWord) (t : Thread) : List Word := regsFrom t f.a.toNat (if tyOf f = 1 then 2 else 1)

/-- Source lane of xshf for the member at position i, and whether it is valid (R209). -/
def shfSource (mode : Nat) (ms : List Nat) (i t : Nat) (k : Int) : Nat × Bool :=
  let s : Int := match mode with
    | 0 => k % 32
    | 1 => t + k
    | 2 => (t ^^^ (k % 32).toNat : Nat)
    | _ => (ms.getD (((i : Int) + k) % ms.length).toNat t : Nat)
  if 0 ≤ s ∧ s ≤ 31 ∧ ms.contains s.toNat then (s.toNat, true) else (t, false)

def xShf (f : FullWord) (th : Nat → Thread) (ms : List Nat) (i t : Nat) : XRes :=
  let b := readV (th t) f.b.toNat
  if !biOf f && isPoison b then ⟨[], [], 0, some (trapOf causePoison)⟩
  else
    let k : Int := if biOf f then (f.b.setWidth 6).toInt else b.val.toInt
    let (src, ok) := shfSource (xSubOf f) ms i t k
    { XRes.ofWords (xA f (th src)) with preds := if pvOf f then [(pnOf f, ⟨ok, false⟩)] else [] }

def nodeRes (n : Node) : XRes :=
  ⟨[n.w], [], n.flags, if n.bad then some (trapOf causeCheck) else none⟩

def xLeaves (f : FullWord) (th : Nat → Thread) (ms : List Nat) : List Node :=
  ms.map fun m => .leaf (readV (th m) f.a.toNat)

def xScan (f : FullWord) (th : Nat → Thread) (ms : List Nat) (i : Nat) : XRes :=
  let ns := scanNodes (opOf f) (tyOf f) none (xLeaves f th ms)
  let at_ (j : Nat) : Node := ns.getD j (.leaf .zero)
  if !f.mod.getLsbD 8 then nodeRes (at_ i)
  else if i = 0 then .ofWords [gen (identityOf (opOf f) (tyOf f))]
  else nodeRes (at_ (i - 1))

/-- Predicate A of the members, in order. -/
def xPreds (f : FullWord) (th : Nat → Thread) (ms : List Nat) : List (Nat × Prd) :=
  ms.map fun m => (m, readP (th m) (f.a.toNat % 8))

def xVote (f : FullWord) (th : Nat → Thread) (ms : List Nat) : XRes :=
  let ps := xPreds f th ms
  let psn := ps.any (·.2.psn)
  let d := f.d.toNat % 8
  match opOf f with
  | 0 => ⟨[], [(d, ⟨ps.all (·.2.t), psn⟩)], 0, none⟩
  | 1 => ⟨[], [(d, ⟨ps.any (·.2.t), psn⟩)], 0, none⟩
  | _ => .ofWords [wordP psn (laneMask ((ps.filter (·.2.t)).map (·.1))).toNat]

def xElect (f : FullWord) (th : Nat → Thread) (ms : List Nat) (t : Nat) : XRes :=
  let ps := xPreds f th ms
  let first := (ps.find? (·.2.t)).map (·.1)
  ⟨[], [(f.d.toNat % 8, ⟨first == some t, ps.any (·.2.psn)⟩)], 0, none⟩

def xBpc (f : FullWord) (th : Nat → Thread) (ms : List Nat) (t : Nat) : XRes :=
  let ps := xPreds f th ms
  let below := ps.filter fun p => decide (p.1 < t)
  let count (l : List (Nat × Prd)) : Word := wordP (l.any (·.2.psn)) (l.filter (·.2.t)).length
  .ofWords (if opOf f = 1 then [count below, count ps] else [count below])

def xMatch (f : FullWord) (th : Nat → Thread) (ms : List Nat) (t : Nat) : XRes :=
  let vals := ms.map fun m => (m, xA f (th m))
  let psn := vals.any fun x => x.2.any isPoison
  let mine := (xA f (th t)).map (·.val)
  let same := (vals.filter fun x => x.2.map (·.val) == mine).map (·.1)
  let v := if f.mod.getLsbD 8 then same.headD t else (laneMask same).toNat
  { XRes.ofWords [wordP psn v] with
    preds := if pvOf f then [(pnOf f, ⟨same.length == ms.length, psn⟩)] else [] }

/-- Result of a cross-lane word in the member at position i. -/
def xRun (k : XOp) (f : FullWord) (th : Nat → Thread) (ms : List Nat) (i t : Nat) : XRes :=
  match k with
  | .shf => xShf f th ms i t
  | .red => nodeRes (treeNode (opOf f) (tyOf f) ms.length (xLeaves f th ms))
  | .scan => xScan f th ms i
  | .vote => xVote f th ms
  | .match_ => xMatch f th ms t
  | .elect => xElect f th ms t
  | .bpc => xBpc f th ms t

/-- One member's result is written (R270, R222) or traps; a failed node is check 10 of R89, so an injection armed for the lane
is used up there too. The two words of `.tot` are 32-bit results. -/
def xLand (f : FullWord) (s : State) (g l : Nat) (r : XRes) : State × List (Nat × Trap × Ign) :=
  let ds := (List.range r.words.length).map (f.d.toNat + ·)
  let ign : Ign := ⟨List.zipWith (fun d w => (d, w.val)) ds r.words, r.preds.map (·.1), false, []⟩
  match r.trap with
  | some t => (if t.cause = causeCheck then disarm s g l 5 else s, [(l, t, ign)])
  | none =>
    let pair := tyOf f == 1 && decide (1 < ds.length)
    match if r.words.isEmpty then .done s else landWords s g l 5 pair 0 (fun _ => none) ds r.words with
    | .trap s t _ => (s, [(l, t, ign)])
    | .done s | .park s _ _ | .jump s _ | .hold s =>
      (modT s g l fun t => { deliver (some s.cycle) [] r.preds t with sticky := t.sticky ||| r.flags }, [])

/-- A cross-lane word in one group: lanes whose masks are wrong trap, complete participations execute. -/
def xBody (k : XOp) (f : FullWord) (s0 : State) (g : Nat) (ls : List Nat) : GroupRes :=
  let th (l : Nat) : Thread := (getT s0 g l).getD (Thread.initial 0 0 0)
  ls.foldl (fun acc l => match partyOf f s0 g l with
    | .bad t => { acc with traps := acc.traps ++ [(l, t, dead [])] }
    | .wait => { acc with held := acc.held ++ [l] }
    | .clash ms =>
      if ms.all ls.contains then { acc with traps := acc.traps ++ [(l, trapOf causeIllegalOperand 0x2B, dead [])] }
      else { acc with held := acc.held ++ [l] }
    | .members ms =>
      if ms.all ls.contains then
        let (s, ts) := xLand f acc.s g l (xRun k f th ms (ms.takeWhile (· != l)).length l)
        { acc with s, traps := acc.traps ++ ts }
      else { acc with held := acc.held ++ [l] }) (.done s0)

def issueCross (k : XOp) (f : FullWord) (s : State) : Host.Outcome State Fault Refusal :=
  .next (issueGroups (infoTo f (xDests k f).1 (xDests k f).2) (xPre k f) (xBody k f) s)

/-- R209 -/
def execXshf (f : FullWord) : Exec := issueCross .shf f

/-- R210, R212 -/
def execXred (f : FullWord) : Exec := issueCross .red f

/-- R210, R212 -/
def execXscan (f : FullWord) : Exec := issueCross .scan f

/-- R211 -/
def execXvote (f : FullWord) : Exec := issueCross .vote f

/-- R211 -/
def execXmatch (f : FullWord) : Exec := issueCross .match_ f

/-- R211 -/
def execXelect (f : FullWord) : Exec := issueCross .elect f

/-- R211 -/
def execXbpc (f : FullWord) : Exec := issueCross .bpc f

end Sys2Proof.Machine
end

