-- ==== Sys2Proof/Machine/FloatOps.lean ====
section
/-! DEFINITION. Floating-point, special and conversion instructions, opcode groups 0x3 and 0x4 (R125 to R151). -/

namespace Sys2Proof.Machine

open Sys2Proof

/-- Type sets of R125. -/
def typesFA : List Nat := [0x0C, 0x0D, 0x0E, 0x0F, 0x10, 0x11]
def typesFS : List Nat := [0x0C, 0x0D, 0x0E, 0x0F]
def typesFT : List Nat := [0x0C, 0x0D, 0x0E, 0x10, 0x11]

/-- RM = 5 to 7 is reserved (R126). -/
def rmSubs (f : FullWord) : List Nat := if 5 ≤ (xmOf f).toNat % 8 then [1] else []
/-- RM other than 0 where only RNE exists (R126); a reserved RM meets both rows of R126 (log entry 30). -/
def rneSubs (f : FullWord) : List Nat :=
  rmSubs f ++ if (xmOf f).toNat % 8 ≠ 0 then [0x20] else []
def obSubs (f : FullWord) : List Nat := if (xmOf f).toNat / 16 = 3 then [1] else []

def rowF1 (f : FullWord) : Row := { rowDA typesFA 0xF f with subs := rmSubs f }
def rowF2 (f : FullWord) : Row := { rowDAB typesFA 0xF f with subs := rmSubs f }
def rowF3 (f : FullWord) : Row := { rowDABC typesFA 0xF f with subs := rmSubs f }
def rowFun (f : FullWord) : Row := { rowDA typesFT 0xF f with subs := rneSubs f }

def rowFcmp (f : FullWord) : Row := { rowDAB typesFS 0x1F f with d := .p }
def rowFclass (f : FullWord) : Row := { rowDA typesFS 0 f with d := .v 0x08 }
def rowFcopysign (f : FullWord) : Row :=
  { rowDAB typesFA 3 f with subs := if (xmOf f).toNat % 4 = 3 then [1] else [] }
/-- fscale: B is an integer word, or packed integers (R136). -/
def rowFscale (f : FullWord) : Row :=
  { rowF2 f with b := .v (if packedTy (tyOf f) then 0x0A else 0x04) }
def rowFdot2 (f : FullWord) : Row :=
  { rowDABC [0x10, 0x11] 0xF f with d := .v 0x0E, c := .v 0x0E, subs := rmSubs f }

/-- cvt (R145): B holds the source format; the codebook conditions go by it. -/
def srcOf (f : FullWord) : Nat := f.b.toNat % 32
def rowCvt (f : FullWord) : Row :=
  let src := srcOf f
  { d := .v (tyOf f), a := .v src, b := .raw, c := .z,
    types := [0x02, 0x03, 0x04, 0x05, 0x06, 0x07, 0x08, 0x09, 0x0C, 0x0D, 0x0E, 0x0F, 0x10, 0x11],
    xm := 0x3F, cbTy := src,
    subs := rmSubs f ++ obSubs f ++ (if 32 ≤ f.b.toNat then [2] else []) ++
      (if cvtPair (tyOf f) src then [] else [0x20]) }

/-- cvti (R147): its codebook conditions go by TYPE, since R126 exempts cvt alone. A TYPE or SRC outside the scalar integer
formats meets the rows 0x04 and 0x20 of R126 (log entry 30). -/
def rowCvti (f : FullWord) : Row :=
  let src := srcOf f
  { d := .v (tyOf f), a := .v src, b := .raw, c := .z,
    types := [0x02, 0x03, 0x04, 0x05, 0x06, 0x07, 0x08, 0x09], xm := 0x31, cbTy := tyOf f,
    subs := obSubs f ++ (if 32 ≤ f.b.toNat then [2] else []) ++ (if isIntCode (tyOf f) && isIntCode src then [] else [0x20]) ++
      (if (xmOf f).getLsbD 0 ∧ (xmOf f).toNat / 16 ≠ 0 then [0x21] else []) }

/-- cvtx (R148 to R150): C must be uniform. -/
def rowCvtx (f : FullWord) : Row :=
  let dec := (xmOf f).getLsbD 3
  let v := Fld.v (tyOf f)
  { d := if dec then v else .v 0x00, a := if dec then .v 0x00 else v, b := if dec then .v 0x08 else v,
    c := .v 0x00, types := typesFT, xm := 0x3F, cbTy := tyOf f,
    subs := rmSubs f ++ obSubs f ++ (if omodeOf f = 5 ∧ oselOf f = 2 then [] else [3]) }

/-- The record's own checks come first (R148). -/
def runCvtx (x : Ctx) : AluOut :=
  let r := x.c.headD .zero
  if isPoison r then { trap := some (trapOf causePoison) }
  else if !validRecord r.val then { trap := some (trapOf causeIllegalOperand 8) }
  else if x.xm.getLsbD 3 then aluCvtxDec (fmtOfRecord r.val) x.ty x.xm x.t.seed x.a x.b
  else aluCvtxEnc (fmtOfRecord r.val) x.ty x.xm x.t.seed x.a x.b

/-- R134 -/
def execFadd (f : FullWord) : Exec :=
  issueR75 (rowF2) 2 (fun x => aluFadd x.ty x.xm x.t.seed x.a x.b) f

/-- R134 -/
def execFsub (f : FullWord) : Exec :=
  issueR75 (rowF2) 2 (fun x => aluFsub x.ty x.xm x.t.seed x.a x.b) f

/-- R134 -/
def execFmul (f : FullWord) : Exec :=
  issueR75 (rowF2) 2 (fun x => aluFmul x.ty x.xm x.t.seed x.a x.b) f

/-- R134 -/
def execFfma (f : FullWord) : Exec :=
  issueR75 (rowF3) 2 (fun x => aluFfma x.ty x.xm x.t.seed x.a x.b x.c) f

/-- R138 -/
def execFmin (f : FullWord) : Exec :=
  issueR75 (rowDAB typesFA 8) 2 (fun x => aluMinMax false x.ty x.xm x.a x.b) f

/-- R138 -/
def execFmax (f : FullWord) : Exec :=
  issueR75 (rowDAB typesFA 8) 2 (fun x => aluMinMax true x.ty x.xm x.a x.b) f

/-- R139 -/
def execFcmp (f : FullWord) : Exec :=
  issueR75 (rowFcmp) 7 (fun x => aluFcmp (x.f.d.toNat % 8) (x.xm.toNat % 8) (x.xm.getLsbD 4) x.ty (ftzOf x.xm) x.a x.b) f

/-- R140 -/
def execFclass (f : FullWord) : Exec :=
  issueR75 (rowFclass) 2 (fun x => aluFclass x.ty x.a) f

/-- R141 -/
def execFcopysign (f : FullWord) : Exec :=
  issueR75 (rowFcopysign) 2 (fun x => aluFcopysign x.ty x.xm x.a x.b) f

/-- R136 -/
def execFscale (f : FullWord) : Exec :=
  issueR75 (rowFscale) 2 (fun x => aluFscale x.ty x.xm x.t.seed x.a x.b) f

/-- R137 -/
def execFrnd (f : FullWord) : Exec :=
  issueR75 (rowF1) 2 (fun x => aluFrnd x.ty x.xm x.t.seed x.a) f

/-- R135 -/
def execFdot2 (f : FullWord) : Exec :=
  issueR75 (rowFdot2) 2 (fun x => aluFdot2 x.ty x.xm x.t.seed x.a x.b x.c) f

/-- R142, R144 -/
def execFrcp (f : FullWord) : Exec :=
  issueR75 (rowF1) 3 (fun x => aluFun1 funRcp x.ty x.xm x.t.seed x.a) f

/-- R143, R144 -/
def execFrsq (f : FullWord) : Exec :=
  issueR75 (rowFun) 3 (fun x => aluFun1 funRsq x.ty x.xm x.t.seed x.a) f

/-- R142, R144 -/
def execFsqrt (f : FullWord) : Exec :=
  issueR75 (rowF1) 3 (fun x => aluFun1 funSqrt x.ty x.xm x.t.seed x.a) f

/-- R142, R144 -/
def execFdiv (f : FullWord) : Exec :=
  issueR75 (rowF2) 3 (fun x => aluFdiv x.ty x.xm x.t.seed x.a x.b) f

/-- R143, R144 -/
def execFexp2 (f : FullWord) : Exec :=
  issueR75 (rowFun) 3 (fun x => aluFun1 funExp2 x.ty x.xm x.t.seed x.a) f

/-- R143, R144 -/
def execFlog2 (f : FullWord) : Exec :=
  issueR75 (rowFun) 3 (fun x => aluFun1 funLog2 x.ty x.xm x.t.seed x.a) f

/-- R143, R144 -/
def execFsin (f : FullWord) : Exec :=
  issueR75 (rowFun) 3 (fun x => aluFun1 funSin x.ty x.xm x.t.seed x.a) f

/-- R143, R144 -/
def execFcos (f : FullWord) : Exec :=
  issueR75 (rowFun) 3 (fun x => aluFun1 funCos x.ty x.xm x.t.seed x.a) f

/-- R143, R144 -/
def execFtanh (f : FullWord) : Exec :=
  issueR75 (rowFun) 3 (fun x => aluFun1 funTanh x.ty x.xm x.t.seed x.a) f

/-- R143, R144 -/
def execFsigm (f : FullWord) : Exec :=
  issueR75 (rowFun) 3 (fun x => aluFun1 funSigm x.ty x.xm x.t.seed x.a) f

/-- R145, R146 -/
def execCvt (f : FullWord) : Exec :=
  issueR75 (rowCvt) 3 (fun x => aluCvt x.ty (srcOf x.f) x.xm x.t.seed x.a) f

/-- R147 -/
def execCvti (f : FullWord) : Exec :=
  issueR75 (rowCvti) 3 (fun x => aluCvti (x.xm.getLsbD 0) x.it (intTy (srcOf x.f)) x.a) f

/-- R148 to R150 -/
def execCvtx (f : FullWord) : Exec :=
  issueR75 (rowCvtx) 3 (runCvtx) f

end Sys2Proof.Machine
end

