-- ==== Sys2Proof/Machine/Curve.lean ====
section
/-! DEFINITION. The curve brainpoolP384r1 of RFC 5639 with ECDH and ECDSA over it, as R415 and R416 name them. -/

namespace Sys2Proof.Machine

open Sys2Proof

/-! ### The domain parameters (log entry 52) -/

def bpP : Nat := 0x8CB91E82A3386D280F5D6F7E50E641DF152F7109ED5456B412B1DA197FB71123ACD3A729901D1A71874700133107EC53
def bpA : Nat := 0x7BC382C63D8C150C3C72080ACE05AFA0C2BEA28E4FB22787139165EFBA91F90F8AA5814A503AD4EB04A8C7DD22CE2826
def bpB : Nat := 0x04A8C7DD22CE28268B39B55416F0447C2FB77DE107DCD2A62E880EA53EEB62D57CB4390295DBC9943AB78696FA504C11
def bpX : Nat := 0x1D1C64F068CF45FFA2A63A81B7C13F6B8847A3E77EF14FE3DB7FCAFE0CBD10E8E826E03436D646AAEF87B2E247D4AF1E
def bpY : Nat := 0x8ABE1D7520F9C2A45CB1EB8E95CFD55262B70B29FEEC5864E19C054FF99129280E4646217791811142820341263C5315
/-- The order of the base point, which is that of the curve. -/
def bpQ : Nat := 0x8CB91E82A3386D280F5D6F7E50E641DF152F7109ED5456B31F166E6CAC0425A7CF3AB6AF6B7FC3103B883202E9046565

/-! ### Arithmetic -/

/-- A power modulo `m` by the low `n` bits of the exponent. -/
def modPow (m b e : Nat) : Nat → Nat
  | 0 => 1 % m
  | n + 1 =>
    let r := modPow m (b * b % m) (e / 2) n
    if e % 2 = 1 then b * r % m else r

/-- The inverse modulo a prime below 2^384. -/
def modInv (m x : Nat) : Nat := modPow m (x % m) (m - 2) 384

def bpSub (x y : Nat) : Nat := (x + bpP - y % bpP) % bpP

/-- A point of the curve in projective coordinates: x is X divided by Z², y is Y divided by Z³, and Z = 0 is the point at
infinity. -/
structure BpPoint where
  x : Nat
  y : Nat
  z : Nat
  deriving DecidableEq, Repr

def bpBase : BpPoint := ⟨bpX, bpY, 1⟩
def bpZero : BpPoint := ⟨1, 1, 0⟩

def bpDouble (a : BpPoint) : BpPoint :=
  let y2 := a.y * a.y % bpP
  let z2 := a.z * a.z % bpP
  let s := 4 * a.x * y2 % bpP
  let m := (3 * a.x * a.x + bpA * z2 * z2) % bpP
  let x := bpSub (m * m) (2 * s)
  ⟨x, bpSub (m * bpSub s x) (8 * y2 * y2), 2 * a.y * a.z % bpP⟩

def bpAdd (a b : BpPoint) : BpPoint :=
  if a.z = 0 then b else if b.z = 0 then a
  else
    let za := a.z * a.z % bpP
    let zb := b.z * b.z % bpP
    let u := a.x * zb % bpP
    let v := b.x * za % bpP
    let s := a.y * zb * b.z % bpP
    let t := b.y * za * a.z % bpP
    let h := bpSub v u
    let r := bpSub t s
    if h = 0 then (if r = 0 then bpDouble a else bpZero)
    else
      let hh := h * h % bpP
      let w := u * hh % bpP
      let x := bpSub (r * r) (h * hh + 2 * w)
      ⟨x, bpSub (r * bpSub w x) (s * (h * hh % bpP)), h * a.z % bpP * b.z % bpP⟩

/-- A multiple of a point by the low `n` bits of the number. -/
def bpMul (a : BpPoint) (k : Nat) : Nat → BpPoint
  | 0 => bpZero
  | n + 1 =>
    let r := bpMul (bpDouble a) (k / 2) n
    if k % 2 = 1 then bpAdd a r else r

/-- The two coordinates of a point; (0, 0) for the point at infinity. -/
def bpCoords (a : BpPoint) : Nat × Nat :=
  let i := modInv bpP a.z
  (a.x * i * i % bpP, a.y * i * i * i % bpP)

def onCurve (x y : Nat) : Bool :=
  decide (x < bpP) && decide (y < bpP) && decide (y * y % bpP = (x * x * x + bpA * x + bpB) % bpP)

/-! ### Keys (R415 to R419) -/

/-- The private number of one of the package's key pairs, in 1 to q − 1. -/
def privateKey (key : Nat) : Nat := 1 + Config.keySecret key % (bpQ - 1)

/-- The public point of a key pair. -/
def publicKey (key : Nat) : Nat × Nat := bpCoords (bpMul bpBase (privateKey key) 384)

/-- The x coordinate of the point that a key pair shares with the host's public key; open where that is no point. -/
def sharedX (key hx hy : Nat) : Nat :=
  if onCurve hx hy then (bpCoords (bpMul ⟨hx, hy, 1⟩ (privateKey key) 384)).1 else Config.sharedOff hx hy

/-- The two numbers of an ECDSA signature by a key pair, with SHA-384; the number drawn for it is open (R416). -/
def ecdsa (key : Nat) (m : List Byte) : Nat × Nat :=
  let k := 1 + Config.signDraw key m % (bpQ - 1)
  let r := (bpCoords (bpMul bpBase k 384)).1 % bpQ
  (r, modInv bpQ k * (natBE (sha384 m) + r * privateKey key) % bpQ)

/-- A signature: r, then s, of 48 bytes each (R418, R419). -/
def signed (key : Nat) (m : List Byte) : List Byte :=
  let x := ecdsa key m
  bytesBE 48 x.1 ++ bytesBE 48 x.2

end Sys2Proof.Machine
end

