-- ==== Sys2Proof/Machine/Long.lean ====
section
/-! DEFINITION. The long-immediate forms, opcodes 0x2C0 to 0x2C5 (R67, R123). -/

namespace Sys2Proof.Machine

open Sys2Proof

/-- Checks 3 and 4 of a long-immediate word. -/
def longPre (noA : Bool) (w : LongWord) (s : State) (g _l : Nat) : Option Trap :=
  (subTrap ((if w.pred = 0xF then [1] else []) ++ (if noA ∧ w.a ≠ 0 then [2] else []))).or
    (regTrap (nreqOf s g) (w.d.toNat :: if noA then [] else [w.a.toNat]))

/-- Issues a long-immediate arithmetic word: A from its register, B the immediate. -/
def issueLong (cls : Nat) (noA : Bool) (run : List Word → List Word → AluOut) (w : LongWord) (s : State) :
    Host.Outcome State Fault Refusal :=
  .next (issueLanes { s := w.s, ender := false, pred := w.pred, dest := fun _ _ _ => zeroed [w.d.toNat] [] } (longPre noA w) (fun s g l =>
    match getT s g l with
    | none => .hold s
    | some t =>
      let a := if noA then [] else [readV t w.a.toNat]
      writeBack s g l cls false (a.any isPoison) [w.d.toNat] (run a [gen w.imm])) s)

/-- R123. -/
def execMovi (w : LongWord) : Exec := issueLong 1 true (fun _ b => aluCopy b) w

/-- R102, R123. -/
def execAddLong (w : LongWord) : Exec := issueLong 0 false (aluAdd (intTy 0x04)) w

/-- R109, R123. -/
def execMulLong (w : LongWord) : Exec := issueLong 0 false (aluMul (intTy 0x04)) w

/-- R111, R123. -/
def execAndLong (w : LongWord) : Exec := issueLong 1 false aluAnd w

/-- R111, R123. -/
def execOrLong (w : LongWord) : Exec := issueLong 1 false aluOr w

/-- R111, R123. -/
def execXorLong (w : LongWord) : Exec := issueLong 1 false aluXor w

end Sys2Proof.Machine
end

