-- ==== Sys2Proof/Machine/MatrixOp.lean ====
section
/-! DEFINITION. What a matrix op computes: operand rows as fetched (R230, R235, R239, R344, R348), the two
accumulation modes (R237, R238, R339), and the requantising transpose (R246, R345). -/

namespace Sys2Proof.Machine

open Sys2Proof

/-- The format of a reservation's elements after expansion (R230, R236). -/
def resvFmt (r : Resv) : Fmt :=
  match r.efmt with
  | 0x0C => fmtF16
  | 0x0D => fmtBF16
  | _ => fmtOfRecord r.fmt

/-- Storage width c of an element, and width of the element that the op works on (R230, R337). -/
def storeWidth (r : Resv) : Nat :=
  if r.cbv then (match r.cbw with | 0 => 8 | 1 => 4 | _ => 2)
  else if r.efmt = 0x12 then (resvFmt r).cont else 16
def elWidth (r : Resv) : Nat := (resvFmt r).width

/-- Significand and exponent of a code read as though finite (R238, R344). -/
def rawElem (f : Fmt) (code : Nat) : Int × Int :=
  let w := f.width
  let c := code % 2 ^ w
  if f.ew = 0 then ((if f.sgn && c.testBit (w - 1) then (c : Int) - 2 ^ w else c), -f.bias)
  else
    let e := c / 2 ^ f.mw % 2 ^ f.ew
    let m := c % 2 ^ f.mw
    let sig : Int := if 0 < e then 2 ^ f.mw + m else if f.sub then m else 0
    (if f.sgn && c.testBit (w - 1) then -sig else sig, (max e 1 : Nat) - f.bias - f.mw)

def isSpecial (f : Fmt) (code : Nat) : Bool :=
  match f.decode code 0 with
  | .fin _ _ _ _ => false
  | _ => true

/-- The exponent gF of a format (R238). -/
def gridOfFmt (f : Fmt) : Int := if f.ew = 0 then -f.bias else 1 - f.bias - f.mw

/-- A scale code as significand and exponent, and whether it is a NaN (R57, R344). -/
def rawScale (e4m3 : Bool) (code : Nat) : (Int × Int) × Bool :=
  if e4m3 then (rawElem fmtE4M3 code, isSpecial fmtE4M3 code) else ((1, (code : Int) - 127), code == 255)

/-- The memory that a reservation lies in, and its first byte there. -/
def resvMem (s : State) (r : Resv) : Mem := if r.ks then s.ks else s.ob
def resvBase (s : State) (r : Resv) : Nat :=
  if r.ks then
    (match (aget s.wgs r.owner).bind fun W => W.gang.bind fun k => aget s.gangs k with
     | some K => K.quad * 2 ^ 18 + K.ksBase + r.off
     | none => r.off)
  else r.core * 2 ^ 19 + r.off

/-- Elements of width `c` packed in a word, element 0 lowest (R54). -/
def unpack (c : Nat) (w : Word) : List (Nat × Word) :=
  (List.range (32 / c)).map fun i => (w.val.toNat / 2 ^ (c * i) % 2 ^ c, w)

/-- One fetched element: significand and exponent, and its marks. -/
structure Fetch where
  m : Int
  e : Int
  spc : Bool
  psn : Bool
  cix : Bool
  cbi : Bool
  chk : Bool

/-- Element of a code word, expanded through a bank where the reservation is indexed (R78, R348). -/
def fetchElem (r : Resv) (bank : List CbEntry) (x : Nat × Word) : Fetch :=
  let f := resvFmt r
  let bad := mismatch x.2
  if r.cbv then
    let e := bank.getD x.1 ⟨0, 0xF, 0xF⟩
    let code := e.val.toNat % 2 ^ f.width
    let (m, ε) := rawElem f code
    let psn := isPoison x.2
    let inv := e.h0 == 0xF || e.h1 == 0xF
    let half := rho (e.val.toNat % 65536 : Nat) != e.h0.toNat || rho (e.val.toNat / 65536 : Nat) != e.h1.toNat
    ⟨m, ε, isSpecial f code, false, psn, !psn && inv, bad || (!psn && !inv && half)⟩
  else
    let (m, ε) := rawElem f x.1
    ⟨m, ε, isSpecial f x.1, isPoison x.2, false, false, bad⟩

/-- A scale taken into an element. -/
def Fetch.scaled (e4m3 : Bool) (x : Fetch) (k : Nat × Word) : Fetch :=
  let ((ms, es), nan) := rawScale e4m3 k.1
  { x with m := x.m * ms, e := x.e + es, spc := x.spc || nan, psn := x.psn || isPoison k.2,
           chk := x.chk || mismatch k.2 }

def replicateEach {α : Type} (n : Nat) (l : List α) : List α := l.flatMap fun a => List.replicate n a

/-- Bytes of a range, each with its word. -/
def bytesAt (m : Mem) (a n : Nat) : List (Nat × Word) :=
  (List.range n).map fun i =>
    let w := readWord m (a + i)
    (byteOf w.val ((a + i) % 4), w)

/-- K elements of operand row `row` (R230). -/
def fetchRow (s : State) (r : Resv) (bank : List CbEntry) (K row : Nat) : ORow :=
  let c := storeWidth r
  let m := resvMem s r
  let base := resvBase s r
  let codes := ((readWords m (base + row * r.pitch) ((K * c + 31) / 32)).flatMap (unpack c)).take K
  let els := codes.map (fetchElem r bank)
  let els := if r.sl = 0 then els else
    let L := blockLen r.sl
    let ks := replicateEach L (bytesAt m (base + r.soff + row * r.spitch) ((K + L - 1) / L))
    (els.zip ks).map fun x => x.1.scaled r.sf x.2
  ⟨els.map fun x => (x.m, x.e), els.any (·.spc), els.any (·.psn), els.any (·.cix), els.any (·.cbi), els.any (·.chk)⟩

def bankTable (s : State) (core : Nat) (r : Resv) : List CbEntry :=
  if r.cbv then (List.range (2 ^ storeWidth r)).map (bankEntry s core r.cbk) else []

def opK (o : Op) : Nat := o.kw.toNat % 2 ^ 13
def opER (k : W32) : Int := ((k >>> 16).setWidth 8).toInt

/-- The operands of an mma as they stand (R235). -/
def fetchOp (s : State) (o : Op) : OpData :=
  let K := opK o
  match resvOf s o.core o.ra, resvOf s o.core o.rb with
  | some ra, some rb =>
    let (rf, first) := if ra.ks then (some ra, 64) else (resvOf s (o.core + 1) o.ra, 0)
    { a0 := (List.range 64).map (fetchRow s ra (bankTable s o.core ra) K),
      a1 := match rf with
        | some rf => (List.range 64).map fun i => fetchRow s rf (bankTable s (o.core + 1) rf) K (first + i)
        | none => [],
      b := (List.range 64).map (fetchRow s rb (bankTable s o.core rb) K) }
  | _, _ => ⟨[], [], []⟩

/-! ### Accumulation -/

/-- A signed significand and exponent as a value. -/
def exactVal (m e : Int) : FVal := .fin (decide (m < 0)) m.natAbs (m.natAbs % 15) e

def decode64 (c : Nat) : FVal := fmtF64.decode c (c % 15)

/-- Exact sum rounded to binary64 with ties to even; a zero sum is +0 (R237). -/
def rne64 (a b : FVal) : FVal :=
  match (sumVal 0 [a, b]).1 with
  | .fin s m r e => if m = 0 then .fin false 0 0 0 else decode64 (encodeFloat fmtF64 0 2 0 false false false (.fin s m r e)).code
  | v => v

/-- Exact products along K, four at a time (R237). -/
def acc64 : List ((Int × Int) × (Int × Int)) → FVal → FVal
  | p0 :: p1 :: p2 :: p3 :: r, acc =>
    let p (x : (Int × Int) × (Int × Int)) : FVal := exactVal (x.1.1 * x.2.1) (x.1.2 + x.2.2)
    acc64 r (rne64 acc (rne64 (rne64 (p p0) (p p1)) (rne64 (p p2) (p p3))))
  | _, acc => acc

/-- A sum on its grid: value, residue column, and the SAT and INX marks (R238, R339). -/
structure XAcc where
  v : Int
  col : Nat
  sat : Bool
  inx : Bool
  deriving DecidableEq, Repr

/-- One term of R238 at exponent `d` over the grid. -/
def termX (a : XAcc) (p d : Int) : XAcc :=
  let t := if 0 ≤ d then p * 2 ^ d.toNat else p.fdiv (2 ^ (-d).toNat)
  let inx := decide (d < 0) && decide (p.fmod (2 ^ (-d).toNat) ≠ 0)
  let v := a.v + t
  if 2 ^ 63 ≤ v then ⟨2 ^ 63 - 1, rho (2 ^ 63 - 1), true, a.inx || inx⟩
  else if v < -2 ^ 63 then ⟨-2 ^ 63, rho (-2 ^ 63), true, a.inx || inx⟩
  else ⟨v, (a.col + rho t) % 15, a.sat, a.inx || inx⟩

def accX (grid : Int) (ps : List ((Int × Int) × (Int × Int))) (a : XAcc) : XAcc :=
  ps.foldl (fun a x => termX a (x.1.1 * x.2.1) (x.1.2 + x.2.2 - grid)) a

/-! ### Accumulator tiles (R338) -/

def Acc.clear (core num : Nat) : Acc := ⟨core, num, .none, 0, [], 0, 0, 0, 0, 0, 0, 0, []⟩

def accOf (s : State) (core num : Nat) : Acc :=
  (s.accs.find? fun a => a.core == core && a.num == num).getD (Acc.clear core num)

def setAcc (s : State) (a : Acc) : State :=
  { s with accs := a :: s.accs.filter fun b => !(b.core == a.core && b.num == a.num) }

def clearAcc (s : State) (core num : Nat) : State :=
  { s with accs := s.accs.filter fun b => !(b.core == core && b.num == num) }

/-- Entry (r, n) with its residue entry. -/
def accEntry (a : Acc) (i : Nat) : W64 × BitVec 4 := (aget a.ents i).getD (0, 0)

/-- The residue that an entry's bits call for (R338, R339). -/
def entryRes (mode : AccMode) (v : W64) : BitVec 4 :=
  let r : Int := (v.toNat % 2 ^ 32 % 15 : Nat) + (v.toNat / 2 ^ 32 % 15 : Nat)
  BitVec.ofNat 4 (match mode with
    | .none => 0
    | .f64 => rho r
    | .x64 => rho (r - if v.getLsbD 63 then 1 else 0))

/-- Bit r of a row bitmap, set where a condition holds. -/
def rowBits (bs : List Bool) : W64 :=
  (bs.zipIdx).foldl (fun m x => if x.1 then m ||| BitVec.ofNat 64 (2 ^ x.2) else m) 0

/-- Sets a row's CHK mark and kind (R239, R342). -/
def markChk (kind : Nat) (rows : List Nat) (a : Acc) : Acc :=
  rows.foldl (fun a r => { a with chk := a.chk ||| BitVec.ofNat 64 (2 ^ r), kinds := aset a.kinds r kind }) a

/-- An entry of an `.f64` op over its products (R237). -/
def f64Entry (o : Op) (e0 : W64) (ps : List ((Int × Int) × (Int × Int))) : W64 :=
  BitVec.ofNat 64 (encodeFloat fmtF64 0 2 0 false false false
    (acc64 ps (if o.ovw then .fin false 0 0 0 else decode64 e0.toNat))).code

/-- One row of results: the entries and whether SAT and INX are set. -/
def opRow (o : Op) (old : Acc) (b : List ORow) (r : Nat) (row : ORow) : AList (W64 × BitVec 4) × Bool × Bool :=
  (b.zipIdx).foldl (fun (x : AList (W64 × BitVec 4) × Bool × Bool) c =>
    let i := 64 * r + c.2
    let ps := row.els.zip c.1.els
    let e0 := accEntry old i
    match o.mode with
    | .x64 =>
      let a := accX o.grid ps (if o.ovw then ⟨0, 0, false, false⟩ else ⟨e0.1.toInt, e0.2.toNat, false, false⟩)
      (x.1 ++ [(i, BitVec.ofInt 64 a.v, BitVec.ofNat 4 a.col)], x.2.1 || a.sat, x.2.2 || a.inx)
    | _ =>
      let bits := f64Entry o e0.1 ps
      (x.1 ++ [(i, bits, entryRes .f64 bits)], x.2)) ([], false, false)

/-- The output column that the spare column of an `.f64` op recomputes (R341). -/
def spareColumn (o : Op) : Nat := o.seq.toNat % 64

/-- R341: the rows whose entry of the recomputed column differs bitwise from the spare column's, formed from the same operands
and the same starting value. -/
def spareRows (o : Op) (old a : Acc) (rows b : List ORow) : List Nat :=
  if o.mode ≠ .f64 then []
  else match b[spareColumn o]? with
    | none => []
    | some c => (rows.zipIdx.filter fun x =>
        let i := 64 * x.2 + spareColumn o
        f64Entry o (accEntry old i).1 (x.1.els.zip c.els) != (accEntry a i).1).map (·.2)

/-- The accumulator of one array after an op (R237 to R239, R341). -/
def opArray (o : Op) (old : Acc) (rows b : List ORow) : Acc :=
  let res := (rows.zipIdx).map fun x => opRow o old b x.2 x.1
  let all (p : ORow → Bool) : W64 := rowBits (rows.map fun r => p r || b.any p)
  let base : Acc := if o.ovw then { Acc.clear old.core old.num with ents := [] } else old
  let a : Acc := { base with
    mode := o.mode, g := o.grid,
    ents := (res.flatMap (·.1)).filter fun e => e.2 != (0, 0),
    spc := base.spc ||| all (·.spc), psn := base.psn ||| all (·.psn), cix := base.cix ||| all (·.cix),
    cbi := base.cbi ||| all (·.cbi), sat := base.sat ||| rowBits (res.map (·.2.1)),
    inx := base.inx ||| rowBits (res.map (·.2.2)) }
  markChk 2 (spareRows o old a rows b) (markChk 3 ((rows.zipIdx.filter fun x => x.1.chk || b.any (·.chk)).map (·.2)) a)

/-! ### The transpose (R246) -/

/-- A source element: value, poison, residue mismatch. -/
structure TElem where
  v : FVal
  psn : Bool
  mis : Bool
  deriving DecidableEq, Repr

/-- Source element (row, k) as a value. -/
def trqSource (s : State) (r : Resv) (row k : Nat) : TElem :=
  let c := storeWidth r
  let base := resvBase s r
  let w := readWord s.ob (base + row * r.pitch + 4 * (k * c / 32))
  let code := w.val.toNat / 2 ^ (k * c % 32) % 2 ^ c
  let at_ := base + r.soff + row * r.spitch + k / blockLen r.sl
  let x := readWord s.ob at_
  { v := (mulVal (elemVal 0x12 r.fmt code) (blockScaleVal false (byteOf x.val (at_ % 4)))).1,
    psn := isPoison w || isPoison x, mis := mismatch w || mismatch x }

/-- |decode(code) · scale − v| as a magnitude and exponent. -/
def trqErr (fmt : W32) (code : Nat) (k v : FVal) : Nat × Int :=
  match (sumVal 0 [(mulVal (elemVal 0x12 fmt code) k).1, v.neg]).1 with
  | .fin _ m _ e => (m, e)
  | _ => (0, 0)

/-- First index that set the status; a mismatch (8) ranks before an offending element (1), as in R169. -/
def trqStatus (p : TrqPos) (mis off : Bool) (ix : Nat) : TrqPos :=
  if mis then (if p.st = 8 then p else { p with st := 8, idx := ix })
  else if off && p.st == 0 then { p with st := 1, idx := ix }
  else p

/-- One destination element: its code and poison. Only an offending element is left out of the largest error (R246). -/
def trqElem (o : Op) (fmt : W32) (k : FVal) (ix : Nat) (x : TElem) (p : TrqPos) : (Nat × Bool) × TrqPos :=
  let p := { p with seed := if o.rm = 4 then seedStep p.seed else p.seed }
  let (code, off) := match k with
    | .nan _ => (0, true)
    | k => elemEnc 0x12 fmt o.rm 0 (seedTop p.seed) (divScale x.v k)
  let e := if off then (p.errM, p.errE) else maxMag (p.errM, p.errE) (trqErr fmt code k x.v)
  ((code, x.psn || x.mis), trqStatus { p with errM := e.1, errE := e.2 } x.mis off ix)

/-- The blocks of a destination row, `fuel` of them at most: codes, scale codes. -/
def trqBlocks (o : Op) (rd : Resv) : Nat → Nat → List TElem → TrqPos → List (Nat × Bool) × List Nat × TrqPos
  | 0, _, _, p => ([], [], p)
  | fuel + 1, ix, xs, p =>
    if xs.isEmpty then ([], [], p)
    else
      let L := blockLen rd.sl
      let b := xs.take L
      let (sc, k) := blockScale false (resvFmt rd) (b.map (·.v))
      let (cs, _, p) := b.foldl (fun (acc : List (Nat × Bool) × Nat × TrqPos) x =>
        let (c, p) := trqElem o rd.fmt k acc.2.1 x acc.2.2
        (acc.1 ++ [c], acc.2.1 + 1, p)) ([], ix, p)
      let (rest, ks, p) := trqBlocks o rd fuel (ix + L) (xs.drop L) p
      (cs ++ rest, sc :: ks, p)

/-- Elements of width c laid from a byte address, words predicted as cvtx does (R149, R157). -/
def putRun (m : Mem) (a c : Nat) (els : List (Nat × Bool)) : Mem :=
  let n := c * els.length
  let v := (els.zipIdx).foldl (fun acc x => acc + x.1.1 * 2 ^ (c * x.2)) 0
  let psn := (els.zipIdx).foldl (fun acc x => if x.1.2 then acc + (2 ^ c - 1) * 2 ^ (c * x.2) else acc) 0
  let o := 8 * (a % 4)
  let at_ (x i : Nat) : W32 := BitVec.ofNat 32 (x * 2 ^ o / 2 ^ (32 * i))
  (List.range ((o + n + 31) / 32)).foldl (fun m i =>
    let k := 4 * (a / 4) + 4 * i
    let p : CPatch := ⟨⟨1, 0, 0, noAttr, false⟩, at_ (2 ^ n - 1) i, at_ v i, at_ psn i, none⟩
    writeWord m k (p.onto (readWord m k))) m

/-- Destination row k of a transpose. -/
def trqStep (R : Nat) (o : Op) (rs rd : Resv) (s : State) (p : TrqPos) : State × TrqPos :=
  let col := (List.range R).map fun r => trqSource s rs r p.row
  let (cs, ks, q) := trqBlocks o rd R (p.row * R) col p
  let base := resvBase s rd
  let ob := putRun s.ob (base + p.row * rd.pitch) (storeWidth rd) cs
  let ob := putRun ob (base + rd.soff + p.row * rd.spitch) 8 (ks.map fun k => (k, false))
  ({ s with ob }, { q with row := p.row + 1 })

/-- A transpose from its position to output row `upto`. -/
def trqRun (o : Op) (upto : Nat) (s : State) : State × TrqPos :=
  let R := o.kw.toNat % 65536
  let KC := o.kw.toNat / 65536
  match resvOf s o.core o.ra, resvOf s o.core o.rb with
  | some rs, some rd =>
    (List.range (min upto KC - o.pos.row)).foldl (fun (x : State × TrqPos) _ => trqStep R o rs rd x.1 x.2) (s, o.pos)
  | _, _ => (s, o.pos)

/-- The status pair of a transpose (R246). -/
def trqWords (p : TrqPos) : Word × Word :=
  let idx := if p.st = 0 then 0 else min p.idx (2 ^ 28 - 1)
  (gen (BitVec.ofNat 32 (p.st * 2 ^ 28 + idx)),
   gen (BitVec.ofNat 32 (encodeFloat fmtF32 3 2 0 false false false (.fin false p.errM (p.errM % 15) p.errE)).code))

end Sys2Proof.Machine
end

