-- ==== Sys2Proof/Machine/Tile.lean ====
section
/-! DEFINITION. Tile instructions: tbind, tstate, tfree (R181, R182, R318). -/

namespace Sys2Proof.Machine

open Sys2Proof

def tbindSubs (f : FullWord) : List Nat :=
  predSubs f ++ zeroSub (decide (f.d.toNat < 64) && f.c == 0) ++ zeroSub (f.mod &&& ~~~ 0x0700 == 0) ++
  spaceSubs [1, 2] (spaceOf f)

/-- The trap of a tile that another workgroup has bound (R22). -/
def foreignTrap (s : State) (g num : Nat) : Option Trap :=
  match getG s g, tileOf s (coreOf s g) num with
  | some G, some t => if t.owner = G.wg then none else some (trapOf causeProtection)
  | _, _ => none

def tbindPre (f : FullWord) (s : State) (g _l : Nat) : Option Trap :=
  (subTrap (tbindSubs f)).or
    ((regTrap (nreqOf s g) [f.a.toNat, f.b.toNat]).or (foreignTrap s g (f.d.toNat % 64)))

def tbindBody (f : FullWord) (s : State) (g : Nat) (ls : List Nat) : GroupRes :=
  let lead := ls.headD 0
  let num := f.d.toNat % 64
  let core := coreOf s g
  match getG s g, getT s g lead with
  | some G, some t =>
    let a := readV t f.a.toNat
    let b := readV t f.b.toNat
    let off := a.val.toNat
    let len := b.val.toNat
    let ks := spaceOf f == 2
    let size := if !ks then scratchOf s g else if (gangOf s g).isSome then ksmemOf s g else 0
    if isPoison a || isPoison b then .trapOne s lead (trapOf causePoison) .none
    else if off % 64 ≠ 0 ∨ len % 64 ≠ 0 then .trapOne s lead (trapAt causeMisaligned 0 (BitVec.ofNat 64 off)) .none
    else if len ≠ 0 ∧ size < off + len then .trapOne s lead (trapAt causeProtection 0 (BitVec.ofNat 64 off)) .none
    else if len ≠ 0 ∧ (s.tiles.any fun u => u.core == core && u.num != num && u.owner == G.wg && u.ks == ks &&
        decide (u.off < off + len) && decide (off < u.off + u.len)) then
      .trapOne s lead (trapOf causeIllegalOperand 0x28) .none
    else match tileOf s core num with
      | none =>
        if len = 0 then .trapOne s lead (trapOf causeProtection) .none
        else .done { s with tiles := ⟨core, num, G.wg, ks, off, len, false, .empty, none⟩ :: s.tiles }
      | some u =>
        if u.st ≠ .empty then .holdAll s ls
        else if len = 0 then .done { s with tiles := s.tiles.filter fun u => !(u.core == core && u.num == num) }
        else .done (setTile s { u with ks, off, len })
  | _, _ => .done s

def tstateSubs (f : FullWord) : List Nat :=
  predSubs f ++ zeroSub (decide (f.a.toNat < 64) && f.b == 0 && f.c == 0 && f.mod == 0)

def tstatePre (f : FullWord) (s : State) (g _l : Nat) : Option Trap :=
  (subTrap (tstateSubs f)).or ((regTrap (nreqOf s g) [f.d.toNat]).or (foreignTrap s g (f.a.toNat % 64)))

/-- The word of R182. -/
def tileWord (t : Option Tile) : W32 :=
  match t with
  | none => 0
  | some t =>
    let st := match t.st with | .empty => 0 | .filling => 1 | .ready => 2 | .draining => 3
    BitVec.ofNat 32 (t.len / 64 % 2 ^ 16 * 2 ^ 16 + t.err.toNat * 8 + 4 + st)

def tstateBody (f : FullWord) (s : State) (g : Nat) (ls : List Nat) : GroupRes :=
  let w := gen (tileWord (tileOf s (coreOf s g) (f.a.toNat % 64)))
  .done (ls.foldl (fun s l => modT s g l fun t => writeV t f.d.toNat w) s)

def tfreeSubs (f : FullWord) : List Nat :=
  predSubs f ++ zeroSub (decide (f.a.toNat < 64) && f.d == 0 && f.b == 0 && f.c == 0 && f.mod == 0)

def tfreePre (f : FullWord) (s : State) (g _l : Nat) : Option Trap :=
  (subTrap (tfreeSubs f)).or (tileTrap s g (f.a.toNat % 64))

/-- The stopped copies that name a tile can no longer be resumed: what a later copy with `.resume` skips, it has not taken off
its barrier (R170, R181). -/
def endResume (s : State) (t : Tile) : State :=
  { s with copyStops := s.copyStops.filter fun x =>
      !(coreOf s x.grp == t.core && x.tile.getLsbD 7 && x.tile.toNat % 64 == t.num && (x.kind == .cpy || x.kind == .cpyc)) }

def tfreeBody (f : FullWord) (s : State) (g : Nat) (ls : List Nat) : GroupRes :=
  match tileOf s (coreOf s g) (f.a.toNat % 64) with
  | none => .done s
  | some t =>
    if t.st == .ready || t.st == .empty || (t.st == .filling && t.stopped.isSome) then
      .done (endResume (setTile s { t with st := .empty, stopped := none }) t)
    else .holdAll s ls

/-- R181 -/
def execTbind (f : FullWord) (s : State) : Host.Outcome State Fault Refusal :=
  .next (issueGroups (infoOf f) (tbindPre f) (tbindBody f) s)

/-- R181, R182 -/
def execTstate (f : FullWord) (s : State) : Host.Outcome State Fault Refusal :=
  .next (issueGroups (infoTo f [f.d.toNat] []) (tstatePre f) (tstateBody f) s)

/-- R181 -/
def execTfree (f : FullWord) (s : State) : Host.Outcome State Fault Refusal :=
  .next (issueGroups (infoOf f) (tfreePre f) (tfreeBody f) s)

end Sys2Proof.Machine
end

