-- ==== Sys2Proof/Machine/Matrix.lean ====
section
/-! DEFINITION. The matrix instructions mres, mrel, mfill, mma, mtrq, mdrain, mzero, mqry (R227 to R246) and the
steps of a carriage (R335 to R353). -/

namespace Sys2Proof.Machine

open Sys2Proof

/-! ### Ownership, waits -/

/-- Whether a workgroup's kernel grants an accumulator (R22). -/
def wgOwnsAcc (s : State) (wg d : Nat) : Bool :=
  ((aget s.wgs wg).bind fun W => aget s.grids W.grid).any fun k => k.kd.accmask.getLsbD d
def wgOwnsBank (s : State) (wg b : Nat) : Bool :=
  ((aget s.wgs wg).bind fun W => aget s.grids W.grid).any fun k => k.kd.cbmask.getLsbD b

def groupWg (s : State) (g : Nat) : Nat := ((getG s g).map (·.wg)).getD 0

def accTrap (s : State) (g d : Nat) : Option Trap :=
  if wgOwnsAcc s (groupWg s g) d then none else some (trapOf causeProtection)

/-- A reservation of the group's core that its workgroup holds. -/
def ownResv (s : State) (g n : Nat) : Option Resv :=
  (resvOf s (coreOf s g) n).filter fun r => r.owner == groupWg s g

def allOps (s : State) : List Op := s.carriages.flatMap carriageOps

/-- Whether an op names an accumulator of a core (R235). -/
def namesAcc (core num : Nat) (o : Op) : Bool := !o.mtrq && o.acc == num && (o.core == core || o.core + 1 == core)

/-- Ops that have not retired and name an accumulator of a core. -/
def accBusy (s : State) (core num : Nat) : Bool := (allOps s).any (namesAcc core num)

/-- Whether mfill and mrel have to wait for a reservation (R232, R233, R345). -/
def resvBusy (s : State) (core n : Nat) : Bool :=
  ((unfetched s).any fun o => (opReads s o).contains (core, n)) ||
  (allOps s).any fun o => o.mtrq && o.core == core && o.rb == n

def carriageAt (s : State) (id : Nat) : Carriage :=
  (s.carriages.find? fun c => c.id == id).getD ⟨id, [], none, [], 0, none⟩

def setCarriage (s : State) (c : Carriage) : State :=
  { s with carriages := c :: s.carriages.filter fun x => x.id != c.id }

/-- Whether a core's carriage has no place left (R240). -/
def queueFull (s : State) (core : Nat) : Bool := decide (8 ≤ (carriageOps (carriageAt s (carriageOf core))).length)

/-- A word that the lead lane's operand gives, or the trap of its poison (R228). -/
def leadWord (s : State) (g l : Nat) (r : Byte) : Except Trap W32 :=
  match getT s g l with
  | none => .error (trapOf causePoison)
  | some t =>
    let w := readV t r.toNat
    if isPoison w then .error (trapOf causePoison) else .ok w.val

def subLead (s : State) (ls : List Nat) (sub : Nat) : GroupRes :=
  .trapOne s (ls.headD 0) (trapOf causeIllegalOperand sub) .none

/-- A word whose wait makes the whole group ineligible (R232, R240, R242, R288). -/
def waiting (i : WordInfo) : WordInfo := { i with whole := true }

/-- The trap of a reservation that another workgroup holds: check 5 of R89, whatever the guard. -/
def foreignResv (s : State) (g n : Nat) : Option Trap :=
  if (resvOf s (coreOf s g) n).any fun r => r.owner != groupWg s g then some (trapOf causeProtection) else none

/-- The trap of a reservation that the workgroup does not hold (R22). -/
def resvTrap (s : State) (g n : Nat) : Option Trap :=
  if (ownResv s g n).isSome then none else some (trapOf causeProtection)

/-! ### mres, mrel, mfill (R230 to R233) -/

def mresSubs (f : FullWord) : List Nat :=
  predSubs f ++ zeroSub (decide (f.d.toNat < 32) && f.b == 0 && f.c == 0 && f.mod == 0)

def mresPre (f : FullWord) (s : State) (g _l : Nat) : Option Trap :=
  (subTrap (mresSubs f)).or (regTrap (nreqOf s g) [f.a.toNat])

/-- A record from its descriptor, and whether the descriptor is invalid (R230, R231). -/
def resvFrom (core num owner : Nat) (ws : List Word) : Resv × Bool :=
  let v (i : Nat) : Nat := (ws.getD i .zero).val.toNat
  let w1 := v 1
  let r : Resv :=
    { core, num, owner, fmt := (ws.getD 0 .zero).val, efmt := w1 / 2 ^ 27, ks := w1 / 2 ^ 24 % 8 == 1,
      sl := w1 / 2 ^ 22 % 4, sf := w1.testBit 21, cbv := w1.testBit 20, cbk := w1 / 2 ^ 16 % 16,
      cbw := w1 / 2 ^ 14 % 4, off := v 2, len := v 3, spitch := v 4 / 2 ^ 16, pitch := v 4 % 2 ^ 16, soff := v 5 }
  (r, w1 % 2 ^ 14 != 0 || v 6 != 0 || v 7 != 0 || decide (1 < w1 / 2 ^ 24 % 8) ||
    !([0x0C, 0x0D, 0x12].contains r.efmt) || (if r.efmt = 0x12 then !validRecord r.fmt else r.fmt != 0) ||
    r.cbw == 3 || (!r.cbv && (r.cbk != 0 || r.cbw != 0)) || (r.cbw == 2 && r.efmt != 0x12) ||
    r.off % 64 != 0 || r.len == 0 || r.len % 64 != 0 || r.pitch == 0 || r.pitch % 16 != 0 ||
    (if r.sl = 0 then r.spitch != 0 || r.soff != 0 else decide (r.len ≤ r.soff)))

/-- The lane whose values are used raises the sub-codes of R229; an invalid FMT record is raised in every active lane
(R52; log entry 68). -/
def mresBody (f : FullWord) (s : State) (g : Nat) (ls : List Nat) : GroupRes :=
  let lead := ls.headD 0
  let num := f.d.toNat % 32
  let core := coreOf s g
  let one (t : Trap) : GroupRes := .trapOne s lead t .none
  match leadWord s g lead f.a with
  | .error t => one t
  | .ok a =>
    let tv := a.setWidth 64
    if scratchOf s g ≤ a.toNat then one (trapAt causeProtection 0 tv)
    else if a.toNat % 32 ≠ 0 then one (trapAt causeMisaligned 0 tv)
    else if scratchOf s g < a.toNat + 32 then one (trapAt causeProtection 0 tv)
    else
      let (r, bad) := resvFrom core num (groupWg s g) (readWords s.cs (csAddr s g + a.toNat) 8)
      if r.efmt = 0x12 ∧ !validRecord r.fmt then .trapAll s ls (trapOf causeIllegalOperand 0x31) .none
      else if bad then subLead s ls 0x31
      else match resvOf s core num with
        | some x => if x.owner = r.owner then subLead s ls 0x32 else one (trapOf causeProtection)
        | none =>
          if r.ks then
            (if (gangOf s g).isNone ∨ ksmemOf s g < r.off + r.len then one (trapOf causeProtection)
             else .done { s with resvs := r :: s.resvs })
          else if 524288 < r.off + r.len then one (trapOf causeProtection)
          else if s.resvs.any fun x => x.core == core && !x.ks && decide (x.off < r.off + r.len) &&
              decide (r.off < x.off + x.len) then subLead s ls 0x32
          else .done { s with resvs := r :: s.resvs }

/-- R231 -/
def execMres (f : FullWord) (s : State) : Host.Outcome State Fault Refusal :=
  .next (issueGroups (infoOf f) (mresPre f) (mresBody f) s)

def mrelSubs (f : FullWord) : List Nat :=
  predSubs f ++ zeroSub (decide (f.d.toNat < 32) && f.a == 0 && f.b == 0 && f.c == 0 && f.mod == 0)

/-- A number that no workgroup holds is let pass (R232). -/
def mrelPre (f : FullWord) (s : State) (g _l : Nat) : Option Trap :=
  (subTrap (mrelSubs f)).or (foreignResv s g (f.d.toNat % 32))

def mrelBody (f : FullWord) (s : State) (g : Nat) (ls : List Nat) : GroupRes :=
  let num := f.d.toNat % 32
  let core := coreOf s g
  if resvBusy s core num then .holdAll s ls
  else .done { s with resvs := s.resvs.filter fun x => !(x.core == core && x.num == num) }

/-- R232 -/
def execMrel (f : FullWord) (s : State) : Host.Outcome State Fault Refusal :=
  .next (issueGroups (waiting (infoOf f)) (mrelPre f) (mrelBody f) s)

def mfillSubs (f : FullWord) : List Nat :=
  predSubs f ++ zeroSub (decide (f.d.toNat < 32) && decide (f.a.toNat < 64) && f.c == 0 && f.mod == 0)

def mfillPre (f : FullWord) (s : State) (g _l : Nat) : Option Trap :=
  (subTrap (mfillSubs f)).or ((regTrap (nreqOf s g) [f.b.toNat]).or
    ((foreignResv s g (f.d.toNat % 32)).or (tileTrap s g (f.a.toNat % 64))))

def mfillInfo (f : FullWord) : WordInfo := { infoOf f with own := fun s g => resvTrap s g (f.d.toNat % 32) }

def tileIs (st : TileSt) (s : State) (core num : Nat) : Bool := (tileOf s core num).any fun t => t.st == st

def mfillBody (f : FullWord) (s : State) (g : Nat) (ls : List Nat) : GroupRes :=
  let lead := ls.headD 0
  let core := coreOf s g
  let num := f.d.toNat % 32
  let tile := f.a.toNat % 64
  let one (t : Trap) : GroupRes := .trapOne s lead t .none
  match ownResv s g num, leadWord s g lead f.b with
  | none, _ => .done s
  | _, .error t => one t
  | some r, .ok off =>
    let len := ((tileOf s core tile).map (·.len)).getD 0
    if r.ks then subLead s ls 0x34
    else if off.toNat % 64 ≠ 0 ∨ r.len < off.toNat + len then subLead s ls 0x36
    else if !tileIs .ready s core tile || resvBusy s core num || s.mfills.any (fun m => m.grp == g) then .holdAll s ls
    else
      let s := { s with mfills := s.mfills ++ [⟨g, core, tile, num, off.toNat, laneMask ls, f.s⟩] }
      .holdAll (ls.foldl (fun s l => modT s g l fun t => { t with wait := .mfill }) s) ls

/-- R233 -/
def execMfill (f : FullWord) (s : State) : Host.Outcome State Fault Refusal :=
  .next (issueGroups (mfillInfo f) (mfillPre f) (mfillBody f) s)

/-- Storage address of byte 0 of a tile's range. -/
def tileBase (s : State) (t : Tile) : Nat :=
  match aget s.wgs t.owner with
  | none => 0
  | some W =>
    if t.ks then ((W.gang.bind fun k => aget s.gangs k).map fun K => K.quad * 2 ^ 18 + K.ksBase + t.off).getD 0
    else W.core * 2 ^ 18 + W.csBase + t.off

/-- R233: the mfill of a group has copied its tile, and the group goes on. -/
def execMfillComplete (grp : Nat) (s : State) : Host.Outcome State Fault Refusal :=
  .next (match s.mfills.find? fun m => m.grp == grp with
    | none => s
    | some m =>
      let s := { s with mfills := s.mfills.filter fun x => x.grp != grp }
      let s := match tileOf s m.core m.tile, resvOf s m.core m.resv with
        | some t, some r =>
          let ws := readWords (if t.ks then s.ks else s.cs) (tileBase s t) (t.len / 4)
          { s with ob := writeWords s.ob (resvBase s r + m.off) ws }
        | _, _ => s
      ((List.range 32).filter m.lanes.getLsbD).foldl
        (fun s l => (settleLane { s := m.last, ender := false, pred := 7 } m.grp l (.done s)).1) s)

/-! ### mma and mtrq (R234 to R240, R246) -/

/-- Cycles from the start of a fetch to its first group (R336). -/
def fetchCycles (s : State) (o : Op) : Nat :=
  let rs := [resvOf s o.core o.ra, resvOf s o.core o.rb].filterMap id
  if o.mtrq then 10
  else (if rs.any (·.ks) then 34 else 10) + if rs.any (·.cbv) then 2 else 0

/-- The op at the head of the queue begins its fetch in cycle `at_` when none is fetching (R336). -/
def startFetch (s : State) (id at_ : Nat) : State :=
  let c := carriageAt s id
  match c.fetch, c.queue with
  | none, o :: r => setCarriage s { c with fetch := some (o, at_ + fetchCycles s o), queue := r }
  | _, _ => s

/-- An op enters the carriage of its core (R240). -/
def enqueue (s : State) (o : Op) : State :=
  let c := carriageAt s (carriageOf o.core)
  let o := { o with stamp := s.uid, cycle := s.cycle, seq := c.seq, data := none }
  let s := setCarriage { s with uid := s.uid + 1 } { c with queue := c.queue ++ [o], seq := c.seq + 1 }
  startFetch s (carriageOf o.core) (s.cycle + 1)

/-- Whether rows of K elements with their scale rows lie in a reservation (R235, R246). -/
def fits (r : Resv) (rows K : Nat) : Bool :=
  decide ((rows - 1) * r.pitch + (K * storeWidth r + 7) / 8 ≤ r.len) &&
  (r.sl == 0 || decide (r.soff + (rows - 1) * r.spitch + (K + blockLen r.sl - 1) / blockLen r.sl ≤ r.len))

/-- R236. -/
def modeAccepts (mode : AccMode) (r : Resv) : Bool :=
  match mode with
  | .f64 => r.efmt != 0x12 || decide (1 ≤ (resvFmt r).ew)
  | _ => r.efmt == 0x12 && (r.sl == 0 || !r.sf)

/-- Mode and grid of an accumulator once every op in the carriage has retired. -/
def accAfter (s : State) (core num : Nat) : AccMode × Int :=
  let a := accOf s core num
  (carriageOps (carriageAt s (carriageOf core))).foldl
    (fun x o => if namesAcc core num o then (o.mode, o.grid) else x) (a.mode, a.g)

def accClash (s : State) (core num : Nat) (mode : AccMode) (grid : Int) : Bool :=
  match accAfter s core num with
  | (.none, _) => false
  | (m, g) => m != mode || (mode == .x64 && g != grid)

/-- The gang member on a core, if it still runs (R229, R235, R353). -/
def memberOn (s : State) (g core : Nat) : Option (Nat × Wg) :=
  match (wgOf s g).bind (·.gang) with
  | none => none
  | some k => s.wgs.find? fun x => x.2.gang == some k && x.2.core == core && x.2.status == .resident

def mmaModeCode (f : FullWord) : Nat := f.mod.toNat / 2 ^ 10 % 4
def mmaOvw (f : FullWord) : Bool := f.mod.getLsbD 12

def mmaSubs (f : FullWord) : List Nat :=
  predSubs f ++ zeroSub (decide (f.d.toNat < 4) && decide (f.a.toNat < 32) && decide (f.b.toNat < 32)) ++
  zeroSub (f.mod &&& ~~~ 0x1C00 == 0)

/-- Reservation A or B in the hands of another workgroup. -/
def foreignAB (f : FullWord) (s : State) (g : Nat) : Option Trap :=
  (foreignResv s g (f.a.toNat % 32)).or (foreignResv s g (f.b.toNat % 32))

def mmaPre (f : FullWord) (s : State) (g _l : Nat) : Option Trap :=
  (subTrap (mmaSubs f)).or ((regTrap (nreqOf s g) [f.c.toNat]).or
    ((foreignAB f s g).or (accTrap s g (f.d.toNat % 4))))

/-- Ownership of the two reservations A and B. -/
def ownAB (f : FullWord) (s : State) (g : Nat) : Option Trap :=
  (resvTrap s g (f.a.toNat % 32)).or (resvTrap s g (f.b.toNat % 32))

def mmaInfo (f : FullWord) : WordInfo := waiting { infoOf f with own := ownAB f }

def bankOk (s : State) (wg : Nat) (r : Resv) : Bool := !r.cbv || wgOwnsBank s wg r.cbk

/-- The conditions of R234 to R238 that an mma violates, as sub-codes. -/
def mmaBad (f : FullWord) (k : W32) (s : State) (core : Nat) (ra rb rf : Resv) : List Nat :=
  let K := k.toNat % 2 ^ 13
  let step := if ra.sl = 3 ∨ rb.sl = 3 then 64 else 32
  let mode : AccMode := if mmaModeCode f = 0 then .f64 else .x64
  let grid := opER k + gridOfFmt (resvFmt ra) + gridOfFmt (resvFmt rb)
  let d := f.d.toNat % 4
  (if k &&& 0xFF00E000 ≠ 0 ∨ K < 32 ∨ 4096 < K ∨ K % step ≠ 0 ∨ (mmaModeCode f = 0 ∧ opER k ≠ 0) then [0x33] else []) ++
  (if 2 ≤ mmaModeCode f ∨ (mmaModeCode f = 0 ∧ opER k ≠ 0) ∨ !modeAccepts mode ra ∨ !modeAccepts mode rb ∨
      (rf.efmt, rf.fmt, rf.sl, rf.sf, rf.cbv, rf.cbw) ≠ (ra.efmt, ra.fmt, ra.sl, ra.sf, ra.cbv, ra.cbw) ∨
      (!mmaOvw f && (accClash s core d mode grid || accClash s (core + 1) d mode grid)) then [0x34] else []) ++
  (if fits rb 64 K && (if ra.ks then fits ra 128 K else fits ra 64 K && fits rf 64 K) then [] else [0x35])

def newOp (s : State) (g l : Nat) (f : FullWord) (k : W32) : Op :=
  { id := s.uid, stamp := 0, cycle := s.cycle, mtrq := false, seq := 0, core := coreOf s g, wg := groupWg s g, grp := g,
    acc := f.d.toNat % 4, ra := f.a.toNat % 32, rb := f.b.toNat % 32, kw := k, mode := .f64, grid := 0,
    ovw := false, rm := 0, lanes := 0,
    pos := ⟨0, 0, 0, 0, 0, ((getT s g l).map (·.seed)).getD 0⟩, data := none }

def mmaBody (f : FullWord) (s : State) (g : Nat) (ls : List Nat) : GroupRes :=
  let lead := ls.headD 0
  let core := coreOf s g
  let one (t : Trap) : GroupRes := .trapOne s lead t .none
  if queueFull s core then .holdAll s ls
  else match ownResv s g (f.a.toNat % 32), ownResv s g (f.b.toNat % 32) with
    | some ra, some rb =>
      if !bankOk s ra.owner ra || !bankOk s rb.owner rb then one (trapOf causeProtection)
      else match leadWord s g lead f.c with
        | .error t => one t
        | .ok k => match if core % 2 = 1 then none else memberOn s g (core + 1) with
          | none => subLead s ls 0x30
          | some (m, _) =>
            let rf := if ra.ks then some ra else (resvOf s (core + 1) ra.num).filter fun r => r.owner == m
            match rf with
            | none => one (trapOf causeProtection)
            | some rf =>
              if !wgOwnsAcc s m (f.d.toNat % 4) || !bankOk s m rf then one (trapOf causeProtection)
              else
                let bad := mmaBad f k s core ra rb rf
                if !bad.isEmpty then subLead s ls (pick bad)
                else
                  let x64 := mmaModeCode f == 1
                  .done (enqueue { s with uid := s.uid + 1 } { newOp s g lead f k with
                    mode := if x64 then .x64 else .f64, ovw := mmaOvw f,
                    grid := if x64 then opER k + gridOfFmt (resvFmt ra) + gridOfFmt (resvFmt rb) else 0 })
    | _, _ => .done s

/-- R234 to R236, R353 -/
def execMma (f : FullWord) (s : State) : Host.Outcome State Fault Refusal :=
  .next (issueGroups (mmaInfo f) (mmaPre f) (mmaBody f) s)

def mtrqSubs (f : FullWord) : List Nat :=
  predSubs f ++ pairSubs f.d ++ zeroSub (decide (f.a.toNat < 32) && decide (f.b.toNat < 32)) ++
  zeroSub (f.mod &&& ~~~ 7 == 0) ++ (if 5 ≤ f.mod.toNat % 8 then [1] else [])

def mtrqPre (f : FullWord) (s : State) (g _l : Nat) : Option Trap :=
  (subTrap (mtrqSubs f)).or ((regTrap (nreqOf s g) (pairRegs f.d ++ [f.c.toNat])).or (foreignAB f s g))

def mtrqInfo (f : FullWord) : WordInfo := waiting { infoTo f (pairRegs f.d) [] with own := ownAB f }

def mtrqAccepts (r : Resv) : Bool := !r.ks && r.efmt == 0x12 && r.sl != 0 && !r.sf && !r.cbv

def mtrqBody (f : FullWord) (s : State) (g : Nat) (ls : List Nat) : GroupRes :=
  let lead := ls.headD 0
  let core := coreOf s g
  let dst := dead (pairRegs f.d)
  let one (t : Trap) : GroupRes := .trapOne s lead t dst
  if queueFull s core then .holdAll s ls
  else match ownResv s g (f.a.toNat % 32), ownResv s g (f.b.toNat % 32) with
    | some ra, some rb => match leadWord s g lead f.c with
      | .error t => one t
      | .ok k =>
        let R := k.toNat % 65536
        let KC := k.toNat / 65536
        let range := decide (1 ≤ R) && decide (R ≤ 4096) && decide (1 ≤ KC) && decide (KC ≤ 4096)
        let bad := (if mtrqAccepts ra && mtrqAccepts rb then [] else [0x34]) ++
          (if range && fits ra R KC && fits rb KC R && ra.num != rb.num then [] else [0x36])
        if !bad.isEmpty then one (trapOf causeIllegalOperand (pick bad))
        else
          let o := { newOp s g lead f k with mtrq := true, rm := f.mod.toNat % 8, lanes := laneMask ls }
          let s := if f.d = 255 then s else ls.foldl (fun s l => modT s g l fun t =>
            pending (.mtrq o.id) [(f.d.toNat, .zero), (f.d.toNat + 1, .zero)] [] [] s.cycle t) s
          .done (enqueue { s with uid := s.uid + 1 } o)
    | _, _ => .done s

/-- R246 -/
def execMtrq (f : FullWord) (s : State) : Host.Outcome State Fault Refusal :=
  .next (issueGroups (mtrqInfo f) (mtrqPre f) (mtrqBody f) s)

/-! ### The carriage at work (R335 to R337, R351, R352) -/

/-- Execution cycles of an op (R236, R246, R337). -/
def opCycles (s : State) (o : Op) : Nat :=
  if o.mtrq then (o.kw.toNat % 65536 * (o.kw.toNat / 65536) + 1023) / 1024
  else match o.mode with
    | .f64 => opK o
    | _ =>
      let w := ([resvOf s o.core o.ra, resvOf s o.core o.rb].filterMap id).foldl (fun m r => max m (elWidth r)) 0
      if w ≤ 4 then opK o / 4 else opK o / 2

/-- Whether an op still executes, its four retire cycles not counted (R336). -/
def executing (s : State) (c : Carriage) : Bool := c.exec.any fun x => decide (s.cycle + 4 ≤ x.2)

/-- R336: the op whose first group is ready begins to execute, and the next one to fetch. -/
def execMmaExecuteStart (carriage : Nat) (s : State) : Host.Outcome State Fault Refusal :=
  .next (let c := carriageAt s carriage
    match c.fetch with
    | none => s
    | some (o, ready) =>
      if s.cycle < ready || executing s c || opWaits s o then s
      else
        let s := setCarriage s { c with fetch := none, exec := c.exec ++ [(o, s.cycle + opCycles s o + 3)] }
        startFetch s carriage s.cycle)

/-- Whether an op must let an earlier transpose finish writing what it reads (R345). -/
def behindTrq (s : State) (c : Carriage) (o : Op) : Bool :=
  c.exec.any fun x => x.1.mtrq && decide (x.1.stamp < o.stamp) && (opReads s o).contains (x.1.core, x.1.rb)

def takeOperands (s : State) (c : Carriage) (o : Op) : Option OpData :=
  if o.data.isSome || o.mtrq || behindTrq s c o then o.data else some (fetchOp s o)

/-- R232, R233, R336, R349: the executing op has fetched the last group of its operands. An op that only fetches its first group
has not: the later groups stream while it executes. -/
def execOpOperandFetchComplete (carriage : Nat) (s : State) : Host.Outcome State Fault Refusal :=
  .next (let c := carriageAt s carriage
    if c.exec.any fun x => x.1.data.isNone && !x.1.mtrq then
      setCarriage s { c with exec := c.exec.map fun x => ({ x.1 with data := takeOperands s c x.1 }, x.2) }
    else s)

/-- The effect of an op's retirement (R237 to R239, R246, R338). -/
def retireOp (s : State) (o : Op) : State :=
  if o.mtrq then
    let (s, p) := trqRun o 4096 s
    let (w0, w1) := trqWords p
    modG s o.grp fun G => { G with threads := G.threads.map (landPend (.mtrq o.id) w0 w1) }
  else
    let d := o.data.getD (fetchOp s o)
    setAcc (setAcc s (opArray o (accOf s o.core o.acc) d.a0 d.b))
      (opArray o (accOf s (o.core + 1) o.acc) d.a1 d.b)

/-- R240, R336: the oldest executing op retires. -/
def execMmaOpRetire (carriage : Nat) (s : State) : Host.Outcome State Fault Refusal :=
  .next (let c := carriageAt s carriage
    match c.exec with
    | [] => s
    | (o, at_) :: r =>
      if s.cycle < at_ then s
      else
        let s := retireOp s o
        setCarriage s { c with exec := r, retired := some (o.seq, s.cycle) })

/-! ### mdrain (R242, R243, R342) -/

def drainWidth (ty : Nat) : Nat := match ty with | 0x0F | 0x01 => 8 | 0x0E | 0x04 => 4 | _ => 2

def mdrainSubs (f : FullWord) : List Nat :=
  predSubs f ++ zeroSub (decide (f.d.toNat < 4) && decide (f.a.toNat < 64) && f.c == 0) ++
  (if [0x01, 0x04, 0x0C, 0x0D, 0x0E, 0x0F].contains (tyOf f) then [] else [4]) ++
  (if 5 ≤ spaceOf f then [1] else []) ++ (if vecOf f = 3 then [1] else []) ++ zeroSub (f.mod &&& 0x1F == 0)

def mdrainPre (f : FullWord) (s : State) (g _l : Nat) : Option Trap :=
  (subTrap (mdrainSubs f)).or ((regTrap (nreqOf s g) [f.b.toNat]).or
    ((accTrap s g (f.d.toNat % 4)).or (tileTrap s g (f.a.toNat % 64))))

/-- R342: rows whose entries disagree with their residue entries are marked. -/
def drainCheck (a : Acc) : Acc :=
  let bad := (a.ents.filter fun e => entryRes a.mode e.2.1 != e.2.2).map fun e => e.1 / 64
  markChk 1 bad.eraseDups a

def rowsOf (m : W64) : List Nat := (List.range 64).filter m.getLsbD

/-- The trap that the marks call for (R243). -/
def drainTrap (a : Acc) : Option Trap :=
  if a.cix ≠ 0 then some (trapAt causePoison 1 a.cix)
  else if a.cbi ≠ 0 then some (trapAt causeCodebook 1 a.cbi)
  else if a.chk ≠ 0 then
    some (trapAt causeMatrix ((rowsOf a.chk).foldl (fun m r => min m ((aget a.kinds r).getD 3)) 3) a.chk)
  else none

/-- Whether entries leave as they are (R242). -/
def rawDrain (mode : AccMode) (ty : Nat) : Bool := ty == 0x01 || (ty == 0x0F && mode == .f64)

/-- One entry as drained: bits, flags (R242). -/
def drainEntry (a : Acc) (ty rm ob u : Nat) (v : W64) : Nat × BitVec 6 :=
  if rawDrain a.mode ty then (v.toNat, 0)
  else
    let x := if a.mode = .f64 then decode64 v.toNat else exactVal v.toInt a.g
    if ty = 0x04 then
      let e := encodeInt (-2 ^ 31) (2 ^ 31 - 1) 0 rm u x
      ((e.val.int % 2 ^ 32).toNat, e.flags)
    else
      let e := encodeFloat (floatFmt ty) rm ob u false true false x
      (e.code, e.flags)

/-- A drained row: entries with their poison, flags and seed (R242). -/
def drainRow (a : Acc) (ty rm ob r : Nat) (st : BitVec 6 × W32) : List (Nat × Bool) × BitVec 6 × W32 :=
  let spc := a.spc.getLsbD r
  let psn := a.psn.getLsbD r
  let raw := rawDrain a.mode ty
  let nan := spc && a.mode == .f64 && ty != 0x01 && ty != 0x04
  (List.range 64).foldl (fun (x : List (Nat × Bool) × BitVec 6 × W32) n =>
    let seed := if rm = 4 && !raw then seedStep x.2.2 else x.2.2
    let (bits, fl) := drainEntry a ty rm ob (seedTop seed) (accEntry a (64 * r + n)).1
    let bits := if nan then (floatFmt ty).nanCode else bits
    (x.1 ++ [(bits, psn || (spc && !nan))], x.2.1 ||| (if spc || psn then 0 else fl), seed)) ([], st.1, st.2)

/-- Words of a row: entries packed, element 0 low (R45, R242). -/
def rowWords (w : Nat) (es : List (Nat × Bool)) : List Word :=
  let v := (es.zipIdx).foldl (fun acc x => acc + x.1.1 * 2 ^ (8 * w * x.2)) 0
  let psn := es.any (·.2)
  (List.range (16 * w)).map fun i =>
    let b := BitVec.ofNat 32 (v / 2 ^ (32 * i))
    if psn then ⟨b, 0xF⟩ else gen b

def mdrainBody (f : FullWord) (s : State) (g : Nat) (ls : List Nat) : GroupRes :=
  let lead := ls.headD 0
  let core := coreOf s g
  let d := f.d.toNat % 4
  let ty := tyOf f
  let w := drainWidth ty
  let one (s : State) (t : Trap) : GroupRes := .trapOne s lead t .none
  match leadWord s g lead f.b, tileOf s core (f.a.toNat % 64) with
    | .error t, _ => one s t
    | _, none => .done s
    | .ok b, some t =>
      let pitch := b.toNat % 65536
      let toff := 64 * (b.toNat / 65536)
      if pitch % 16 ≠ 0 ∨ pitch < 64 * w ∨ t.len < toff + 63 * pitch + 64 * w then subLead s ls 0x36
      else if t.st ≠ .empty || accBusy s core d then .holdAll s ls
      else
        let a := drainCheck (accOf s core d)
        let s := if a = accOf s core d then s else setAcc s a
        if ty = 0x04 ∧ a.mode = .f64 then subLead s ls 0x04
        else match drainTrap a with
          | some t => one s t
          | none =>
            let seed := ((getT s g lead).map (·.seed)).getD 0
            let base := tileBase s t + toff
            let r := (List.range 64).foldl (fun (x : AList Word × BitVec 6 × W32) r =>
              let (es, fl, seed) := drainRow a ty (spaceOf f) (vecOf f) r x.2
              (x.1 ++ (rowWords w es).zipIdx.map (fun y => (base + r * pitch + 4 * y.2, y.1)), fl, seed))
              ([], 0, seed)
            let s := modT s g lead fun t => { t with sticky := t.sticky ||| r.2.1, seed := r.2.2 }
            let s := setTile { s with mdrains := s.mdrains ++ [⟨core, t.num, t.ks, r.1⟩] }
              { t with st := .filling, stopped := none }
            .done (if f.mod.getLsbD 5 then clearAcc s core d else s)

/-- R242, R243, R342 -/
def execMdrain (f : FullWord) (s : State) : Host.Outcome State Fault Refusal :=
  .next (issueGroups (waiting (infoOf f)) (mdrainPre f) (mdrainBody f) s)

/-- The words of a drain written to its tile, which becomes ready (R242, R318). -/
def finishDrain (s : State) (m : Mdrain) : State :=
  let put (x : Mem) : Mem := m.words.foldl (fun x w => writeWord x w.1 w.2) x
  let s := if m.ks then { s with ks := put s.ks } else { s with cs := put s.cs }
  let s := { s with mdrains := s.mdrains.filter fun x => !(x.core == m.core && x.tile == m.tile) }
  match tileOf s m.core m.tile with
  | some t => setTile s { t with st := .ready, err := false, stopped := none }
  | none => s

/-- R242 step 4 -/
def execMdrainComplete (core tile : Nat) (s : State) : Host.Outcome State Fault Refusal :=
  .next (match s.mdrains.find? fun m => m.core == core && m.tile == tile with
    | none => s
    | some m => finishDrain s m)

/-! ### mzero and mqry (R244, R245) -/

def mzeroSubs (f : FullWord) : List Nat :=
  predSubs f ++ zeroSub (decide (f.d.toNat < 4) && f.a == 0 && f.b == 0 && f.c == 0 && f.mod == 0)

def mzeroPre (f : FullWord) (s : State) (g _l : Nat) : Option Trap :=
  (subTrap (mzeroSubs f)).or (accTrap s g (f.d.toNat % 4))

def mzeroBody (f : FullWord) (s : State) (g : Nat) (ls : List Nat) : GroupRes :=
  let core := coreOf s g
  if accBusy s core (f.d.toNat % 4) then .holdAll s ls else .done (clearAcc s core (f.d.toNat % 4))

/-- R244 -/
def execMzero (f : FullWord) (s : State) : Host.Outcome State Fault Refusal :=
  .next (issueGroups (infoOf f) (mzeroPre f) (mzeroBody f) s)

def mqrySubs (f : FullWord) : List Nat :=
  predSubs f ++ (if f.d.toNat % 2 = 1 then [5] else []) ++
  zeroSub (decide (f.a.toNat < 4) && f.b == 0 && f.c == 0 && f.mod &&& ~~~ 3 == 0)

def mqryPre (f : FullWord) (s : State) (g _l : Nat) : Option Trap :=
  (subTrap (mqrySubs f)).or
    ((regTrap (nreqOf s g) [f.d.toNat, f.d.toNat + 1]).or (accTrap s g (f.a.toNat % 4)))

/-- Ops of a group that name an accumulator and have not retired. -/
def groupNames (s : State) (g core num : Nat) : Bool := (allOps s).any fun o => o.grp == g && namesAcc core num o

/-- The pair of R245; before any op has retired the sequence field is a free value (log entry 5). -/
def mqryWords (s : State) (core num kind : Nat) : W32 × W32 :=
  let a := accOf s core num
  let split (m : W64) : W32 × W32 := (m.setWidth 32, (m >>> 32).setWidth 32)
  match kind with
  | 0 =>
    let m := match a.mode with | .none => 0 | .f64 => 1 | .x64 => 2
    let n := ((allOps s).filter (namesAcc core num)).length
    let last := ((carriageAt s (carriageOf core)).retired.map (·.1.toNat)).getD
      ((Config.freeWord s.free).toNat % 65536)
    (BitVec.ofNat 32 (m * 2 ^ 28 + n % 16 * 2 ^ 24 + last), BitVec.ofInt 32 a.g)
  | 1 => split (a.spc ||| a.psn)
  | 2 => split a.sat
  | _ => split a.inx

def mqryBody (f : FullWord) (s : State) (g : Nat) (ls : List Nat) : GroupRes :=
  let core := coreOf s g
  let num := f.a.toNat % 4
  if groupNames s g core num then .holdAll s ls
  else
    let (w0, w1) := mqryWords s core num (f.mod.toNat % 4)
    .done (ls.foldl (fun s l => modT s g l (deliver (some s.cycle) [(f.d.toNat, gen w0), (f.d.toNat + 1, gen w1)] []))
      { s with free := s.free + 1 })

/-- R245 -/
def execMqry (f : FullWord) (s : State) : Host.Outcome State Fault Refusal :=
  .next (issueGroups (infoTo f [f.d.toNat, f.d.toNat + 1] []) (mqryPre f) (mqryBody f) s)

end Sys2Proof.Machine
end

