-- ==== Sys2Proof/Machine/Move.lean ====
section
/-! DEFINITION. Compare, select, move and predicate instructions, opcode group 0x2 (R119 to R122). -/

namespace Sys2Proof.Machine

open Sys2Proof

/-- setc (R119): COND and BOP, the combining predicate in C. -/
def setcSubs (f : FullWord) : List Nat :=
  let cond := (xmOf f).toNat % 8
  let bop := (xmOf f).toNat / 8 % 4
  (if 6 ≤ cond then [1] else []) ++
  (if (tyOf f = 0 ∨ tyOf f = 1) ∧ 2 ≤ cond then [0x21] else []) ++
  (if bop = 3 then [1] else []) ++
  (if bop = 0 ∧ f.c ≠ 0 then [2] else [])

def rowSetc (f : FullWord) : Row :=
  let v := Fld.v (tyOf f)
  { d := .p, a := v, b := v, c := .p, types := [0x00, 0x01, 0x02, 0x03, 0x04, 0x05, 0x06, 0x07, 0x08, 0x09],
    xm := 0x1F, cbTy := tyOf f, subs := setcSubs f,
    preds := if (xmOf f).toNat / 8 % 4 = 0 then [] else [f.c.toNat % 8] }

/-- sel (R120). -/
def rowSel (f : FullWord) : Row := { rowDAB typesB 0 f with c := .p, preds := [f.c.toNat % 8] }

/-- mov (R121): DK and SK name index registers. DK = 1 with `.b64`, which R121 excludes and R95 lists, is given 0x04
(DESIGN CHOICE, log entry 63). -/
def movSubs (f : FullWord) : List Nat :=
  let dk := (xmOf f).toNat % 4
  let sk := (xmOf f).toNat / 4 % 4
  (if 2 ≤ dk ∨ 2 ≤ sk then [1] else []) ++
  (if dk = 1 ∧ 4 ≤ f.d.toNat then [2] else []) ++
  (if dk = 1 ∧ tyOf f ≠ 0 then [4] else []) ++
  (if sk = 1 ∧ 4 ≤ f.a.toNat then [2] else []) ++
  (if sk = 1 ∧ omodeOf f ≠ 0 then [3] else [])

def rowMov (f : FullWord) : Row :=
  { rowDA typesB 0x0F f with
    d := if (xmOf f).toNat % 4 = 1 then .raw else .v (tyOf f),
    a := if (xmOf f).toNat / 4 % 4 = 1 then .raw else .v (tyOf f),
    subs := movSubs f,
    xs := (if (xmOf f).toNat % 4 = 1 then [f.d.toNat % 4] else []) ++
      if (xmOf f).toNat / 4 % 4 = 1 then [f.a.toNat % 4] else [] }

/-- R121. Under `.b64` with SK = 1 the high word is a generated 0: the zero extension goes on through the pair
(DESIGN CHOICE, log entry 63). -/
def runMov (x : Ctx) : AluOut :=
  let src := if x.xm.toNat / 4 % 4 = 1 then
      [gen ((readX x.t (x.f.a.toNat % 4)).setWidth 32)] ++ (if wide x.ty then [gen 0] else [])
    else x.a
  if x.xm.toNat % 4 = 1 then
    let w := src.headD .zero
    if isPoison w then { trap := some (trapOf causePoison) }
    else { xs := [(x.f.d.toNat % 4, w.val.setWidth 8)] }
  else aluCopy src

def rowPset (f : FullWord) : Row := { rowDA [0x00] 1 f with d := .p }

/-- Predicate instructions (R122) take no operand mode. -/
def rowPred2 (f : FullWord) : Row :=
  { d := .p, a := .p, b := .p, c := .z, types := [0x00], xm := 3, cbTy := 0,
    preds := [f.a.toNat % 8, f.b.toNat % 8] }
def rowPred1 (f : FullWord) : Row :=
  { d := .p, a := .p, b := .z, c := .z, types := [0x00], xm := 0, cbTy := 0, preds := [f.a.toNat % 8] }

def runPred2 (op : Bool → Bool → Bool) (x : Ctx) : AluOut :=
  let a := (x.p (x.f.a.toNat % 8)).t != x.xm.getLsbD 0
  let b := (x.p (x.f.b.toNat % 8)).t != x.xm.getLsbD 1
  { preds := [(x.f.d.toNat % 8, op a b)] }

/-- R119 -/
def execSetc (f : FullWord) : Exec :=
  issueR75 (rowSetc) 7 (fun x => aluSetc (x.f.d.toNat % 8) (x.xm.toNat % 8) (x.xm.toNat / 8 % 4)
    (x.p (x.f.c.toNat % 8)).t x.it x.a x.b) f

/-- R120 -/
def execSel (f : FullWord) : Exec :=
  issueR75 (rowSel) 6 (fun x => aluSel (x.p (x.f.c.toNat % 8)).t x.a x.b) f

/-- R121 -/
def execMov (f : FullWord) : Exec :=
  issueR75 (rowMov) 6 (runMov) f

/-- R122 -/
def execPset (f : FullWord) : Exec :=
  issueR75 (rowPset) 7 (fun x => aluPset (x.f.d.toNat % 8) (x.xm.getLsbD 0) x.a) f

/-- R122 -/
def execPand (f : FullWord) : Exec :=
  issueR75 (rowPred2) 7 (runPred2 and) f

/-- R122 -/
def execPor (f : FullWord) : Exec :=
  issueR75 (rowPred2) 7 (runPred2 or) f

/-- R122 -/
def execPxor (f : FullWord) : Exec :=
  issueR75 (rowPred2) 7 (runPred2 xor) f

/-- R122 -/
def execPnot (f : FullWord) : Exec :=
  issueR75 (rowPred1) 7 (fun x =>
    { preds := [(x.f.d.toNat % 8, !(x.p (x.f.a.toNat % 8)).t)] }) f

end Sys2Proof.Machine
end

