-- ==== Sys2Proof/WellFormed.lean ====
section
/-! DEFINITION. Which instructions are well formed: a step names units that the package has (R4, R403), a
message keeps the bounds of its header (R409), and an unassigned word is one that R86 and R88 leave unassigned.
An assigned word is well formed whatever its fields hold, because R89 gives every field value a meaning or a trap. -/

namespace Sys2Proof

/-- The full-form opcodes that R85 lists. -/
def assignedFull (op : Nat) : Bool :=
  op ≤ 0x013 ||
  (0x040 ≤ op && op ≤ 0x054) ||
  (0x080 ≤ op && op ≤ 0x087) ||
  (0x0C0 ≤ op && op ≤ 0x0CB) ||
  (0x100 ≤ op && op ≤ 0x10C) ||
  (0x140 ≤ op && op ≤ 0x147) ||
  (0x180 ≤ op && op ≤ 0x195) ||
  (0x1C0 ≤ op && op ≤ 0x1CC) ||
  (0x200 ≤ op && op ≤ 0x20B) ||
  (0x240 ≤ op && op ≤ 0x245) ||
  (0x280 ≤ op && op ≤ 0x287) ||
  (0x2C0 ≤ op && op ≤ 0x2C5)

/-- The restricted opcodes that R88 lists. -/
def assignedSlot (op : Nat) : Bool :=
  op ≤ 0x16 || (0x20 ≤ op && op ≤ 0x2A) || (0x40 ≤ op && op ≤ 0x45) || (0x60 ≤ op && op ≤ 0x6A)

/-- Whether a word holds an assigned opcode, or two of them in the paired form. -/
def assignedWord (w : W64) : Bool :=
  if w.getLsbD 62 then assignedSlot (w.extractLsb' 55 7).toNat && assignedSlot (w.extractLsb' 24 7).toNat
  else assignedFull (w.extractLsb' 52 10).toNat

/-- The header bounds of a request (R403, R409). -/
def Msg.wf (m : Msg) : Bool := m.vi < 64 && m.payload.length ≤ 62

def Instr.wf : Instr → Bool
  | .add _ => true
  | .sub _ => true
  | .addc _ => true
  | .subb _ => true
  | .mul _ => true
  | .mulh _ => true
  | .mulw _ => true
  | .mad _ => true
  | .madh _ => true
  | .div _ => true
  | .rem _ => true
  | .neg _ => true
  | .abs _ => true
  | .min _ => true
  | .max _ => true
  | .clamp _ => true
  | .sadd _ => true
  | .ssub _ => true
  | .dot2s _ => true
  | .sad _ => true
  | .and _ => true
  | .or _ => true
  | .xor _ => true
  | .not _ => true
  | .lop3 _ => true
  | .shl _ => true
  | .shr _ => true
  | .sar _ => true
  | .rot _ => true
  | .shf _ => true
  | .rshr _ => true
  | .bext _ => true
  | .bins _ => true
  | .bmsk _ => true
  | .brev _ => true
  | .popc _ => true
  | .clz _ => true
  | .ctz _ => true
  | .perm _ => true
  | .sext _ => true
  | .zext _ => true
  | .setc _ => true
  | .sel _ => true
  | .mov _ => true
  | .pset _ => true
  | .pand _ => true
  | .por _ => true
  | .pxor _ => true
  | .pnot _ => true
  | .fadd _ => true
  | .fsub _ => true
  | .fmul _ => true
  | .ffma _ => true
  | .fmin _ => true
  | .fmax _ => true
  | .fcmp _ => true
  | .fclass _ => true
  | .fcopysign _ => true
  | .fscale _ => true
  | .frnd _ => true
  | .fdot2 _ => true
  | .frcp _ => true
  | .frsq _ => true
  | .fsqrt _ => true
  | .fdiv _ => true
  | .fexp2 _ => true
  | .flog2 _ => true
  | .fsin _ => true
  | .fcos _ => true
  | .ftanh _ => true
  | .fsigm _ => true
  | .cvt _ => true
  | .cvti _ => true
  | .cvtx _ => true
  | .ld _ => true
  | .st _ => true
  | .ldx _ => true
  | .lda _ => true
  | .stl _ => true
  | .atom _ => true
  | .acas _ => true
  | .red _ => true
  | .tbind _ => true
  | .tstate _ => true
  | .tdrain _ => true
  | .tfree _ => true
  | .cpy _ => true
  | .cpyc _ => true
  | .gath _ => true
  | .scat _ => true
  | .cpys _ => true
  | .cpre _ => true
  | .fence _ => true
  | .sacq _ => true
  | .srel _ => true
  | .stry _ => true
  | .cinv _ => true
  | .cwb _ => true
  | .chint _ => true
  | .cbld _ => true
  | .cbst _ => true
  | .cbw _ => true
  | .cbinv _ => true
  | .cbfence _ => true
  | .bra _ => true
  | .brx _ => true
  | .call _ => true
  | .ret _ => true
  | .exit _ => true
  | .yield _ => true
  | .wait _ => true
  | .nop _ => true
  | .barArr _ => true
  | .barWait _ => true
  | .barSync _ => true
  | .barExp _ => true
  | .barStat _ => true
  | .xshf _ => true
  | .xred _ => true
  | .xscan _ => true
  | .xvote _ => true
  | .xmatch _ => true
  | .xelect _ => true
  | .xbpc _ => true
  | .qpush _ => true
  | .qpop _ => true
  | .qpeek _ => true
  | .agrow _ => true
  | .ashrink _ => true
  | .trap _ => true
  | .tret _ => true
  | .sinj _ => true
  | .srd _ => true
  | .swr _ => true
  | .gset _ => true
  | .mres _ => true
  | .mrel _ => true
  | .mfill _ => true
  | .mma _ => true
  | .mtrq _ => true
  | .mdrain _ => true
  | .mzero _ => true
  | .mqry _ => true
  | .movi _ => true
  | .addLong _ => true
  | .mulLong _ => true
  | .andLong _ => true
  | .orLong _ => true
  | .xorLong _ => true
  | .pairedAdd _ => true
  | .pairedSub _ => true
  | .pairedMul _ => true
  | .pairedMinI32 _ => true
  | .pairedMaxI32 _ => true
  | .pairedMinN32 _ => true
  | .pairedMaxN32 _ => true
  | .pairedAnd _ => true
  | .pairedOr _ => true
  | .pairedXor _ => true
  | .pairedShl _ => true
  | .pairedShr _ => true
  | .pairedSar _ => true
  | .pairedPopc _ => true
  | .pairedClz _ => true
  | .pairedMov _ => true
  | .pairedAddImm _ => true
  | .pairedAndImm _ => true
  | .pairedOrImm _ => true
  | .pairedXorImm _ => true
  | .pairedShlImm _ => true
  | .pairedShrImm _ => true
  | .pairedSarImm _ => true
  | .pairedFaddF32 _ => true
  | .pairedFsubF32 _ => true
  | .pairedFmulF32 _ => true
  | .pairedFminF32 _ => true
  | .pairedFmaxF32 _ => true
  | .pairedFaddF16x2 _ => true
  | .pairedFmulF16x2 _ => true
  | .pairedFaddBf16x2 _ => true
  | .pairedFmulBf16x2 _ => true
  | .pairedCvtF32I32 _ => true
  | .pairedCvtI32F32 _ => true
  | .pairedLdCs _ => true
  | .pairedStCs _ => true
  | .pairedLdKs _ => true
  | .pairedStKs _ => true
  | .pairedLdLp _ => true
  | .pairedStLp _ => true
  | .pairedSrd _ => true
  | .pairedPand _ => true
  | .pairedPor _ => true
  | .pairedPxor _ => true
  | .pairedPnot _ => true
  | .pairedSetcEq _ => true
  | .pairedSetcNe _ => true
  | .pairedSetcLtI32 _ => true
  | .pairedSetcLtN32 _ => true
  | .pairedSetcLeI32 _ => true
  | .pairedSetcLeN32 _ => true
  | .coachFormation core qtr => core < 512 && qtr < 4
  | .agePromotion _ lane => lane < 32
  | .variableLatencyResult _ lane => lane < 32
  | .agrowGrant core qtr => core < 512 && qtr < 4
  | .sacqGrant _ _ => true
  | .queueWaitService _ => true
  | .waitCyclesElapsed _ lane => lane < 32
  | .watchdog _ lane => lane < 32
  | .storePathFlush core _ _ => core < 512
  | .translationWalk core part _ => core < 512 && part < 64
  | .copyCompletion _ => true
  | .copyStop _ => true
  | .cpysSourceReadDone _ => true
  | .mmaExecuteStart car => car < 256
  | .mmaOpRetire car => car < 256
  | .mdrainComplete core tile => core < 512 && tile < 64
  | .exitPendingRelease _ => true
  | .dispatchBatch _ => true
  | .sqtail vi off _ => vi < 64 && off < 0x10000 && off % 16 == 0
  | .registerWrite vi off _ => vi < 64 && off < 0x20000 && off % 4 == 0
  | .pipelineStageLaunch _ stage => stage < 8
  | .pipelineReview _ => true
  | .hbmLineRead line => line < 720 * 2 ^ 24
  | .hbmLineWrite line => line < 720 * 2 ^ 24
  | .patrolScrub ctrl => ctrl < 12
  | .hostIngress vi _ _ => vi < 64
  | .hostEgress vi _ _ => vi < 64
  | .cxlMemAccess vi addr _ => vi < 64 && addr % 4 == 0
  | .podPacketReceive port pkg _ _ _ => port < 16 && pkg < 512
  | .ethernetFrameReceive port ring frame => port < 16 && ring < 8 && 64 ≤ frame.length && frame.length ≤ 9216
  | .ethernetFrameTransmit port ring => port < 16 && ring < 8
  | .meshLinkFailure link => link < 4
  | .contextSave part => part < 64
  | .securityAlarm _ => true
  | .unassignedOpcode w => !assignedWord w
  | .instructionFetchComplete _ lane => lane < 32
  | .opOperandFetchComplete car => car < 256
  | .mfillComplete _ => true
  | .bankWriteComplete core bank => core < 512 && bank < 16
  | .redPerformed _ lane => lane < 32
  | .mbrepRead vi => vi < 64
  | .placeWorkgroup => true
  | .gangHold => true
  | .placementStarvation => true
  | .latencyReservePreemption => true
  | .taskEntryFetch => true
  | .taskRename => true
  | .bufferStarvationDiscard => true
  | .tkNop => true
  | .tkRun => true
  | .tkPipe => true
  | .tkCopy => true
  | .tkFill => true
  | .tkFree => true
  | .tkBind => true
  | .tkUnbind => true
  | .tkSignal => true
  | .tkWait => true
  | .tkWaitPoll => true
  | .tkWaitTimeout => true
  | .tkLink => true
  | .tkResume => true
  | .tkSucc => true
  | .tkFence => true
  | .tkRec => true
  | .taskCompletion => true
  | .taskRetire => true
  | .takeFault => true
  | .partitionCreate => true
  | .partitionDestroy => true
  | .shrink => true
  | .grow => true
  | .halt => true
  | .resume => true
  | .checkpoint => true
  | .setroot => true
  | .tlbinv => true
  | .addbuf => true
  | .setwin => true
  | .setxs => true
  | .setresume => true
  | .setreserve => true
  | .bindvi => true
  | .streamCreate => true
  | .streamDestroy => true
  | .restart => true
  | .skip => true
  | .abort => true
  | .clear => true
  | .resetDie => true
  | .dieDrainExpiry => true
  | .linkRetrainComplete => true
  | .peek => true
  | .scrub => true
  | .inject => true
  | .getcert => true
  | .attest => true
  | .load => true
  | .grant => true
  | .revoke => true
  | .podkey => true
  | .join => true
  | .barreg => true
  | .fwimage => true
  | .coldReset => true
  | .powerLoss => true
  | .computeDieLinkFailure => true
  | .badMessage => true

end Sys2Proof
end

