-- ==== Sys2Proof/Decode.lean ====
section
/-! DEFINITION. The decoder of instruction words, total on 64 bits (R65, R67, R68, R85, R86, R88), the decoder of
a byte string, and the encoder written from the same tables. -/

namespace Sys2Proof

/-- The operand fields of a full-form word (R65). -/
def fullFields (w : W64) : FullWord :=
  ⟨w.getLsbD 63, w.extractLsb' 48 4, w.extractLsb' 40 8, w.extractLsb' 32 8, w.extractLsb' 24 8,
    w.extractLsb' 16 8, w.extractLsb' 0 16⟩

/-- The operand fields of a long-immediate word (R67). -/
def longFields (w : W64) : LongWord :=
  ⟨w.getLsbD 63, w.extractLsb' 48 4, w.extractLsb' 40 8, w.extractLsb' 32 8, w.extractLsb' 0 32⟩

/-- The restricted opcode of a 7-bit code (R88). -/
def slotOp (n : Nat) : Option SlotOp :=
  match n with
  | 0x00 => some .add
  | 0x01 => some .sub
  | 0x02 => some .mul
  | 0x03 => some .minI32
  | 0x04 => some .maxI32
  | 0x05 => some .minN32
  | 0x06 => some .maxN32
  | 0x07 => some .and
  | 0x08 => some .or
  | 0x09 => some .xor
  | 0x0A => some .shl
  | 0x0B => some .shr
  | 0x0C => some .sar
  | 0x0D => some .popc
  | 0x0E => some .clz
  | 0x0F => some .mov
  | 0x10 => some .addImm
  | 0x11 => some .andImm
  | 0x12 => some .orImm
  | 0x13 => some .xorImm
  | 0x14 => some .shlImm
  | 0x15 => some .shrImm
  | 0x16 => some .sarImm
  | 0x20 => some .faddF32
  | 0x21 => some .fsubF32
  | 0x22 => some .fmulF32
  | 0x23 => some .fminF32
  | 0x24 => some .fmaxF32
  | 0x25 => some .faddF16x2
  | 0x26 => some .fmulF16x2
  | 0x27 => some .faddBf16x2
  | 0x28 => some .fmulBf16x2
  | 0x29 => some .cvtF32I32
  | 0x2A => some .cvtI32F32
  | 0x40 => some .ldCs
  | 0x41 => some .stCs
  | 0x42 => some .ldKs
  | 0x43 => some .stKs
  | 0x44 => some .ldLp
  | 0x45 => some .stLp
  | 0x60 => some .srd
  | 0x61 => some .pand
  | 0x62 => some .por
  | 0x63 => some .pxor
  | 0x64 => some .pnot
  | 0x65 => some .setcEq
  | 0x66 => some .setcNe
  | 0x67 => some .setcLtI32
  | 0x68 => some .setcLtN32
  | 0x69 => some .setcLeI32
  | 0x6A => some .setcLeN32
  | _ => none

/-- The 7-bit code of a restricted opcode (R88). -/
def slotCode : SlotOp → BitVec 7
  | .add => 0x00
  | .sub => 0x01
  | .mul => 0x02
  | .minI32 => 0x03
  | .maxI32 => 0x04
  | .minN32 => 0x05
  | .maxN32 => 0x06
  | .and => 0x07
  | .or => 0x08
  | .xor => 0x09
  | .shl => 0x0A
  | .shr => 0x0B
  | .sar => 0x0C
  | .popc => 0x0D
  | .clz => 0x0E
  | .mov => 0x0F
  | .addImm => 0x10
  | .andImm => 0x11
  | .orImm => 0x12
  | .xorImm => 0x13
  | .shlImm => 0x14
  | .shrImm => 0x15
  | .sarImm => 0x16
  | .faddF32 => 0x20
  | .fsubF32 => 0x21
  | .fmulF32 => 0x22
  | .fminF32 => 0x23
  | .fmaxF32 => 0x24
  | .faddF16x2 => 0x25
  | .fmulF16x2 => 0x26
  | .faddBf16x2 => 0x27
  | .fmulBf16x2 => 0x28
  | .cvtF32I32 => 0x29
  | .cvtI32F32 => 0x2A
  | .ldCs => 0x40
  | .stCs => 0x41
  | .ldKs => 0x42
  | .stKs => 0x43
  | .ldLp => 0x44
  | .stLp => 0x45
  | .srd => 0x60
  | .pand => 0x61
  | .por => 0x62
  | .pxor => 0x63
  | .pnot => 0x64
  | .setcEq => 0x65
  | .setcNe => 0x66
  | .setcLtI32 => 0x67
  | .setcLtN32 => 0x68
  | .setcLeI32 => 0x69
  | .setcLeN32 => 0x6A

/-- The instruction of a paired word whose slot X holds the given opcode. -/
def pairInstr : SlotOp → PairWord → Instr
  | .add => .pairedAdd
  | .sub => .pairedSub
  | .mul => .pairedMul
  | .minI32 => .pairedMinI32
  | .maxI32 => .pairedMaxI32
  | .minN32 => .pairedMinN32
  | .maxN32 => .pairedMaxN32
  | .and => .pairedAnd
  | .or => .pairedOr
  | .xor => .pairedXor
  | .shl => .pairedShl
  | .shr => .pairedShr
  | .sar => .pairedSar
  | .popc => .pairedPopc
  | .clz => .pairedClz
  | .mov => .pairedMov
  | .addImm => .pairedAddImm
  | .andImm => .pairedAndImm
  | .orImm => .pairedOrImm
  | .xorImm => .pairedXorImm
  | .shlImm => .pairedShlImm
  | .shrImm => .pairedShrImm
  | .sarImm => .pairedSarImm
  | .faddF32 => .pairedFaddF32
  | .fsubF32 => .pairedFsubF32
  | .fmulF32 => .pairedFmulF32
  | .fminF32 => .pairedFminF32
  | .fmaxF32 => .pairedFmaxF32
  | .faddF16x2 => .pairedFaddF16x2
  | .fmulF16x2 => .pairedFmulF16x2
  | .faddBf16x2 => .pairedFaddBf16x2
  | .fmulBf16x2 => .pairedFmulBf16x2
  | .cvtF32I32 => .pairedCvtF32I32
  | .cvtI32F32 => .pairedCvtI32F32
  | .ldCs => .pairedLdCs
  | .stCs => .pairedStCs
  | .ldKs => .pairedLdKs
  | .stKs => .pairedStKs
  | .ldLp => .pairedLdLp
  | .stLp => .pairedStLp
  | .srd => .pairedSrd
  | .pand => .pairedPand
  | .por => .pairedPor
  | .pxor => .pairedPxor
  | .pnot => .pairedPnot
  | .setcEq => .pairedSetcEq
  | .setcNe => .pairedSetcNe
  | .setcLtI32 => .pairedSetcLtI32
  | .setcLtN32 => .pairedSetcLtN32
  | .setcLeI32 => .pairedSetcLeI32
  | .setcLeN32 => .pairedSetcLeN32

/-- A paired word (R68): slot X in bits 61 to 31, slot Y in bits 30 to 0. -/
def decodePair (w : W64) : Instr :=
  match slotOp (w.extractLsb' 55 7).toNat, slotOp (w.extractLsb' 24 7).toNat with
  | some x, some y =>
    pairInstr x ⟨w.getLsbD 63, ⟨w.extractLsb' 47 8, w.extractLsb' 39 8, w.extractLsb' 31 8⟩, y,
      ⟨w.extractLsb' 16 8, w.extractLsb' 8 8, w.extractLsb' 0 8⟩⟩
  | _, _ => .unassignedOpcode w

/-- The instruction of a full-form opcode (R85); every other code is unassigned (R86). -/
def decodeFull (w : W64) : Instr :=
  match (w.extractLsb' 52 10).toNat with
  | 0x000 => .add (fullFields w)
  | 0x001 => .sub (fullFields w)
  | 0x002 => .addc (fullFields w)
  | 0x003 => .subb (fullFields w)
  | 0x004 => .mul (fullFields w)
  | 0x005 => .mulh (fullFields w)
  | 0x006 => .mulw (fullFields w)
  | 0x007 => .mad (fullFields w)
  | 0x008 => .madh (fullFields w)
  | 0x009 => .div (fullFields w)
  | 0x00A => .rem (fullFields w)
  | 0x00B => .neg (fullFields w)
  | 0x00C => .abs (fullFields w)
  | 0x00D => .min (fullFields w)
  | 0x00E => .max (fullFields w)
  | 0x00F => .clamp (fullFields w)
  | 0x010 => .sadd (fullFields w)
  | 0x011 => .ssub (fullFields w)
  | 0x012 => .dot2s (fullFields w)
  | 0x013 => .sad (fullFields w)
  | 0x040 => .and (fullFields w)
  | 0x041 => .or (fullFields w)
  | 0x042 => .xor (fullFields w)
  | 0x043 => .not (fullFields w)
  | 0x044 => .lop3 (fullFields w)
  | 0x045 => .shl (fullFields w)
  | 0x046 => .shr (fullFields w)
  | 0x047 => .sar (fullFields w)
  | 0x048 => .rot (fullFields w)
  | 0x049 => .shf (fullFields w)
  | 0x04A => .rshr (fullFields w)
  | 0x04B => .bext (fullFields w)
  | 0x04C => .bins (fullFields w)
  | 0x04D => .bmsk (fullFields w)
  | 0x04E => .brev (fullFields w)
  | 0x04F => .popc (fullFields w)
  | 0x050 => .clz (fullFields w)
  | 0x051 => .ctz (fullFields w)
  | 0x052 => .perm (fullFields w)
  | 0x053 => .sext (fullFields w)
  | 0x054 => .zext (fullFields w)
  | 0x080 => .setc (fullFields w)
  | 0x081 => .sel (fullFields w)
  | 0x082 => .mov (fullFields w)
  | 0x083 => .pset (fullFields w)
  | 0x084 => .pand (fullFields w)
  | 0x085 => .por (fullFields w)
  | 0x086 => .pxor (fullFields w)
  | 0x087 => .pnot (fullFields w)
  | 0x0C0 => .fadd (fullFields w)
  | 0x0C1 => .fsub (fullFields w)
  | 0x0C2 => .fmul (fullFields w)
  | 0x0C3 => .ffma (fullFields w)
  | 0x0C4 => .fmin (fullFields w)
  | 0x0C5 => .fmax (fullFields w)
  | 0x0C6 => .fcmp (fullFields w)
  | 0x0C7 => .fclass (fullFields w)
  | 0x0C8 => .fcopysign (fullFields w)
  | 0x0C9 => .fscale (fullFields w)
  | 0x0CA => .frnd (fullFields w)
  | 0x0CB => .fdot2 (fullFields w)
  | 0x100 => .frcp (fullFields w)
  | 0x101 => .frsq (fullFields w)
  | 0x102 => .fsqrt (fullFields w)
  | 0x103 => .fdiv (fullFields w)
  | 0x104 => .fexp2 (fullFields w)
  | 0x105 => .flog2 (fullFields w)
  | 0x106 => .fsin (fullFields w)
  | 0x107 => .fcos (fullFields w)
  | 0x108 => .ftanh (fullFields w)
  | 0x109 => .fsigm (fullFields w)
  | 0x10A => .cvt (fullFields w)
  | 0x10B => .cvti (fullFields w)
  | 0x10C => .cvtx (fullFields w)
  | 0x140 => .ld (fullFields w)
  | 0x141 => .st (fullFields w)
  | 0x142 => .ldx (fullFields w)
  | 0x143 => .lda (fullFields w)
  | 0x144 => .stl (fullFields w)
  | 0x145 => .atom (fullFields w)
  | 0x146 => .acas (fullFields w)
  | 0x147 => .red (fullFields w)
  | 0x180 => .tbind (fullFields w)
  | 0x181 => .tstate (fullFields w)
  | 0x182 => .tdrain (fullFields w)
  | 0x183 => .tfree (fullFields w)
  | 0x184 => .cpy (fullFields w)
  | 0x185 => .cpyc (fullFields w)
  | 0x186 => .gath (fullFields w)
  | 0x187 => .scat (fullFields w)
  | 0x188 => .cpys (fullFields w)
  | 0x189 => .cpre (fullFields w)
  | 0x18A => .fence (fullFields w)
  | 0x18B => .sacq (fullFields w)
  | 0x18C => .srel (fullFields w)
  | 0x18D => .stry (fullFields w)
  | 0x18E => .cinv (fullFields w)
  | 0x18F => .cwb (fullFields w)
  | 0x190 => .chint (fullFields w)
  | 0x191 => .cbld (fullFields w)
  | 0x192 => .cbst (fullFields w)
  | 0x193 => .cbw (fullFields w)
  | 0x194 => .cbinv (fullFields w)
  | 0x195 => .cbfence (fullFields w)
  | 0x1C0 => .bra (longFields w)
  | 0x1C1 => .brx (fullFields w)
  | 0x1C2 => .call (longFields w)
  | 0x1C3 => .ret (fullFields w)
  | 0x1C4 => .exit (fullFields w)
  | 0x1C5 => .yield (fullFields w)
  | 0x1C6 => .wait (fullFields w)
  | 0x1C7 => .nop (fullFields w)
  | 0x1C8 => .barArr (fullFields w)
  | 0x1C9 => .barWait (fullFields w)
  | 0x1CA => .barSync (fullFields w)
  | 0x1CB => .barExp (fullFields w)
  | 0x1CC => .barStat (fullFields w)
  | 0x200 => .xshf (fullFields w)
  | 0x201 => .xred (fullFields w)
  | 0x202 => .xscan (fullFields w)
  | 0x203 => .xvote (fullFields w)
  | 0x204 => .xmatch (fullFields w)
  | 0x205 => .xelect (fullFields w)
  | 0x206 => .xbpc (fullFields w)
  | 0x207 => .qpush (fullFields w)
  | 0x208 => .qpop (fullFields w)
  | 0x209 => .qpeek (fullFields w)
  | 0x20A => .agrow (fullFields w)
  | 0x20B => .ashrink (fullFields w)
  | 0x240 => .trap (fullFields w)
  | 0x241 => .tret (fullFields w)
  | 0x242 => .sinj (fullFields w)
  | 0x243 => .srd (fullFields w)
  | 0x244 => .swr (fullFields w)
  | 0x245 => .gset (fullFields w)
  | 0x280 => .mres (fullFields w)
  | 0x281 => .mrel (fullFields w)
  | 0x282 => .mfill (fullFields w)
  | 0x283 => .mma (fullFields w)
  | 0x284 => .mtrq (fullFields w)
  | 0x285 => .mdrain (fullFields w)
  | 0x286 => .mzero (fullFields w)
  | 0x287 => .mqry (fullFields w)
  | 0x2C0 => .movi (longFields w)
  | 0x2C1 => .addLong (longFields w)
  | 0x2C2 => .mulLong (longFields w)
  | 0x2C3 => .andLong (longFields w)
  | 0x2C4 => .orLong (longFields w)
  | 0x2C5 => .xorLong (longFields w)
  | _ => .unassignedOpcode w

/-- The instruction of a 64-bit word. -/
def decodeWord (w : W64) : Instr :=
  if w.getLsbD 62 then decodePair w else decodeFull w

/-- Why a byte string holds no instruction. -/
inductive DecodeError where
  /-- Fewer than eight bytes are left (R65). -/
  | tooShort
  deriving DecidableEq, Repr

/-- The 64-bit word that eight bytes hold, the first at the lowest address (R7). -/
def wordOfBytes (bs : List Byte) : W64 :=
  bs.foldr (fun b acc => (acc <<< 8) ||| b.zeroExtend 64) 0

/-- The eight bytes of a word, lowest address first (R7). -/
def bytesOfWord (w : W64) : List Byte :=
  (List.range 8).map fun i => w.extractLsb' (8 * i) 8

/-- Reads one instruction from a byte string and gives the rest. -/
def decode (bs : List Byte) : Except DecodeError (Instr × List Byte) :=
  if bs.length < 8 then .error .tooShort else .ok (decodeWord (wordOfBytes (bs.take 8)), bs.drop 8)

/-- Packs a full-form word (R65). -/
def packFull (op : BitVec 10) (f : FullWord) : W64 :=
  BitVec.ofBool f.s ++ 0#1 ++ op ++ f.pred ++ f.d ++ f.a ++ f.b ++ f.c ++ f.mod

/-- Packs a long-immediate word (R67). -/
def packLong (op : BitVec 10) (f : LongWord) : W64 :=
  BitVec.ofBool f.s ++ 0#1 ++ op ++ f.pred ++ f.d ++ f.a ++ f.imm

/-- Packs a paired word (R68). -/
def packPair (x : SlotOp) (p : PairWord) : W64 :=
  BitVec.ofBool p.s ++ 1#1 ++ slotCode x ++ p.x.d ++ p.x.a ++ p.x.b ++ slotCode p.opY ++ p.y.d ++ p.y.a ++ p.y.b

/-- The word of an instruction; none for the steps, entries and messages, which are no instruction words. -/
def encode : Instr → Option W64
  | .add w => some (packFull 0x000 w)
  | .sub w => some (packFull 0x001 w)
  | .addc w => some (packFull 0x002 w)
  | .subb w => some (packFull 0x003 w)
  | .mul w => some (packFull 0x004 w)
  | .mulh w => some (packFull 0x005 w)
  | .mulw w => some (packFull 0x006 w)
  | .mad w => some (packFull 0x007 w)
  | .madh w => some (packFull 0x008 w)
  | .div w => some (packFull 0x009 w)
  | .rem w => some (packFull 0x00A w)
  | .neg w => some (packFull 0x00B w)
  | .abs w => some (packFull 0x00C w)
  | .min w => some (packFull 0x00D w)
  | .max w => some (packFull 0x00E w)
  | .clamp w => some (packFull 0x00F w)
  | .sadd w => some (packFull 0x010 w)
  | .ssub w => some (packFull 0x011 w)
  | .dot2s w => some (packFull 0x012 w)
  | .sad w => some (packFull 0x013 w)
  | .and w => some (packFull 0x040 w)
  | .or w => some (packFull 0x041 w)
  | .xor w => some (packFull 0x042 w)
  | .not w => some (packFull 0x043 w)
  | .lop3 w => some (packFull 0x044 w)
  | .shl w => some (packFull 0x045 w)
  | .shr w => some (packFull 0x046 w)
  | .sar w => some (packFull 0x047 w)
  | .rot w => some (packFull 0x048 w)
  | .shf w => some (packFull 0x049 w)
  | .rshr w => some (packFull 0x04A w)
  | .bext w => some (packFull 0x04B w)
  | .bins w => some (packFull 0x04C w)
  | .bmsk w => some (packFull 0x04D w)
  | .brev w => some (packFull 0x04E w)
  | .popc w => some (packFull 0x04F w)
  | .clz w => some (packFull 0x050 w)
  | .ctz w => some (packFull 0x051 w)
  | .perm w => some (packFull 0x052 w)
  | .sext w => some (packFull 0x053 w)
  | .zext w => some (packFull 0x054 w)
  | .setc w => some (packFull 0x080 w)
  | .sel w => some (packFull 0x081 w)
  | .mov w => some (packFull 0x082 w)
  | .pset w => some (packFull 0x083 w)
  | .pand w => some (packFull 0x084 w)
  | .por w => some (packFull 0x085 w)
  | .pxor w => some (packFull 0x086 w)
  | .pnot w => some (packFull 0x087 w)
  | .fadd w => some (packFull 0x0C0 w)
  | .fsub w => some (packFull 0x0C1 w)
  | .fmul w => some (packFull 0x0C2 w)
  | .ffma w => some (packFull 0x0C3 w)
  | .fmin w => some (packFull 0x0C4 w)
  | .fmax w => some (packFull 0x0C5 w)
  | .fcmp w => some (packFull 0x0C6 w)
  | .fclass w => some (packFull 0x0C7 w)
  | .fcopysign w => some (packFull 0x0C8 w)
  | .fscale w => some (packFull 0x0C9 w)
  | .frnd w => some (packFull 0x0CA w)
  | .fdot2 w => some (packFull 0x0CB w)
  | .frcp w => some (packFull 0x100 w)
  | .frsq w => some (packFull 0x101 w)
  | .fsqrt w => some (packFull 0x102 w)
  | .fdiv w => some (packFull 0x103 w)
  | .fexp2 w => some (packFull 0x104 w)
  | .flog2 w => some (packFull 0x105 w)
  | .fsin w => some (packFull 0x106 w)
  | .fcos w => some (packFull 0x107 w)
  | .ftanh w => some (packFull 0x108 w)
  | .fsigm w => some (packFull 0x109 w)
  | .cvt w => some (packFull 0x10A w)
  | .cvti w => some (packFull 0x10B w)
  | .cvtx w => some (packFull 0x10C w)
  | .ld w => some (packFull 0x140 w)
  | .st w => some (packFull 0x141 w)
  | .ldx w => some (packFull 0x142 w)
  | .lda w => some (packFull 0x143 w)
  | .stl w => some (packFull 0x144 w)
  | .atom w => some (packFull 0x145 w)
  | .acas w => some (packFull 0x146 w)
  | .red w => some (packFull 0x147 w)
  | .tbind w => some (packFull 0x180 w)
  | .tstate w => some (packFull 0x181 w)
  | .tdrain w => some (packFull 0x182 w)
  | .tfree w => some (packFull 0x183 w)
  | .cpy w => some (packFull 0x184 w)
  | .cpyc w => some (packFull 0x185 w)
  | .gath w => some (packFull 0x186 w)
  | .scat w => some (packFull 0x187 w)
  | .cpys w => some (packFull 0x188 w)
  | .cpre w => some (packFull 0x189 w)
  | .fence w => some (packFull 0x18A w)
  | .sacq w => some (packFull 0x18B w)
  | .srel w => some (packFull 0x18C w)
  | .stry w => some (packFull 0x18D w)
  | .cinv w => some (packFull 0x18E w)
  | .cwb w => some (packFull 0x18F w)
  | .chint w => some (packFull 0x190 w)
  | .cbld w => some (packFull 0x191 w)
  | .cbst w => some (packFull 0x192 w)
  | .cbw w => some (packFull 0x193 w)
  | .cbinv w => some (packFull 0x194 w)
  | .cbfence w => some (packFull 0x195 w)
  | .bra w => some (packLong 0x1C0 w)
  | .brx w => some (packFull 0x1C1 w)
  | .call w => some (packLong 0x1C2 w)
  | .ret w => some (packFull 0x1C3 w)
  | .exit w => some (packFull 0x1C4 w)
  | .yield w => some (packFull 0x1C5 w)
  | .wait w => some (packFull 0x1C6 w)
  | .nop w => some (packFull 0x1C7 w)
  | .barArr w => some (packFull 0x1C8 w)
  | .barWait w => some (packFull 0x1C9 w)
  | .barSync w => some (packFull 0x1CA w)
  | .barExp w => some (packFull 0x1CB w)
  | .barStat w => some (packFull 0x1CC w)
  | .xshf w => some (packFull 0x200 w)
  | .xred w => some (packFull 0x201 w)
  | .xscan w => some (packFull 0x202 w)
  | .xvote w => some (packFull 0x203 w)
  | .xmatch w => some (packFull 0x204 w)
  | .xelect w => some (packFull 0x205 w)
  | .xbpc w => some (packFull 0x206 w)
  | .qpush w => some (packFull 0x207 w)
  | .qpop w => some (packFull 0x208 w)
  | .qpeek w => some (packFull 0x209 w)
  | .agrow w => some (packFull 0x20A w)
  | .ashrink w => some (packFull 0x20B w)
  | .trap w => some (packFull 0x240 w)
  | .tret w => some (packFull 0x241 w)
  | .sinj w => some (packFull 0x242 w)
  | .srd w => some (packFull 0x243 w)
  | .swr w => some (packFull 0x244 w)
  | .gset w => some (packFull 0x245 w)
  | .mres w => some (packFull 0x280 w)
  | .mrel w => some (packFull 0x281 w)
  | .mfill w => some (packFull 0x282 w)
  | .mma w => some (packFull 0x283 w)
  | .mtrq w => some (packFull 0x284 w)
  | .mdrain w => some (packFull 0x285 w)
  | .mzero w => some (packFull 0x286 w)
  | .mqry w => some (packFull 0x287 w)
  | .movi w => some (packLong 0x2C0 w)
  | .addLong w => some (packLong 0x2C1 w)
  | .mulLong w => some (packLong 0x2C2 w)
  | .andLong w => some (packLong 0x2C3 w)
  | .orLong w => some (packLong 0x2C4 w)
  | .xorLong w => some (packLong 0x2C5 w)
  | .pairedAdd p => some (packPair .add p)
  | .pairedSub p => some (packPair .sub p)
  | .pairedMul p => some (packPair .mul p)
  | .pairedMinI32 p => some (packPair .minI32 p)
  | .pairedMaxI32 p => some (packPair .maxI32 p)
  | .pairedMinN32 p => some (packPair .minN32 p)
  | .pairedMaxN32 p => some (packPair .maxN32 p)
  | .pairedAnd p => some (packPair .and p)
  | .pairedOr p => some (packPair .or p)
  | .pairedXor p => some (packPair .xor p)
  | .pairedShl p => some (packPair .shl p)
  | .pairedShr p => some (packPair .shr p)
  | .pairedSar p => some (packPair .sar p)
  | .pairedPopc p => some (packPair .popc p)
  | .pairedClz p => some (packPair .clz p)
  | .pairedMov p => some (packPair .mov p)
  | .pairedAddImm p => some (packPair .addImm p)
  | .pairedAndImm p => some (packPair .andImm p)
  | .pairedOrImm p => some (packPair .orImm p)
  | .pairedXorImm p => some (packPair .xorImm p)
  | .pairedShlImm p => some (packPair .shlImm p)
  | .pairedShrImm p => some (packPair .shrImm p)
  | .pairedSarImm p => some (packPair .sarImm p)
  | .pairedFaddF32 p => some (packPair .faddF32 p)
  | .pairedFsubF32 p => some (packPair .fsubF32 p)
  | .pairedFmulF32 p => some (packPair .fmulF32 p)
  | .pairedFminF32 p => some (packPair .fminF32 p)
  | .pairedFmaxF32 p => some (packPair .fmaxF32 p)
  | .pairedFaddF16x2 p => some (packPair .faddF16x2 p)
  | .pairedFmulF16x2 p => some (packPair .fmulF16x2 p)
  | .pairedFaddBf16x2 p => some (packPair .faddBf16x2 p)
  | .pairedFmulBf16x2 p => some (packPair .fmulBf16x2 p)
  | .pairedCvtF32I32 p => some (packPair .cvtF32I32 p)
  | .pairedCvtI32F32 p => some (packPair .cvtI32F32 p)
  | .pairedLdCs p => some (packPair .ldCs p)
  | .pairedStCs p => some (packPair .stCs p)
  | .pairedLdKs p => some (packPair .ldKs p)
  | .pairedStKs p => some (packPair .stKs p)
  | .pairedLdLp p => some (packPair .ldLp p)
  | .pairedStLp p => some (packPair .stLp p)
  | .pairedSrd p => some (packPair .srd p)
  | .pairedPand p => some (packPair .pand p)
  | .pairedPor p => some (packPair .por p)
  | .pairedPxor p => some (packPair .pxor p)
  | .pairedPnot p => some (packPair .pnot p)
  | .pairedSetcEq p => some (packPair .setcEq p)
  | .pairedSetcNe p => some (packPair .setcNe p)
  | .pairedSetcLtI32 p => some (packPair .setcLtI32 p)
  | .pairedSetcLtN32 p => some (packPair .setcLtN32 p)
  | .pairedSetcLeI32 p => some (packPair .setcLeI32 p)
  | .pairedSetcLeN32 p => some (packPair .setcLeN32 p)
  | .coachFormation _ _ => none
  | .agePromotion _ _ => none
  | .variableLatencyResult _ _ => none
  | .agrowGrant _ _ => none
  | .sacqGrant _ _ => none
  | .queueWaitService _ => none
  | .waitCyclesElapsed _ _ => none
  | .watchdog _ _ => none
  | .storePathFlush _ _ _ => none
  | .translationWalk _ _ _ => none
  | .copyCompletion _ => none
  | .copyStop _ => none
  | .cpysSourceReadDone _ => none
  | .mmaExecuteStart _ => none
  | .mmaOpRetire _ => none
  | .mdrainComplete _ _ => none
  | .exitPendingRelease _ => none
  | .dispatchBatch _ => none
  | .sqtail _ _ _ => none
  | .registerWrite _ _ _ => none
  | .pipelineStageLaunch _ _ => none
  | .pipelineReview _ => none
  | .hbmLineRead _ => none
  | .hbmLineWrite _ => none
  | .patrolScrub _ => none
  | .hostIngress _ _ _ => none
  | .hostEgress _ _ _ => none
  | .cxlMemAccess _ _ _ => none
  | .podPacketReceive _ _ _ _ _ => none
  | .ethernetFrameReceive _ _ _ => none
  | .ethernetFrameTransmit _ _ => none
  | .meshLinkFailure _ => none
  | .contextSave _ => none
  | .securityAlarm _ => none
  | .unassignedOpcode w => some w
  | .instructionFetchComplete _ _ => none
  | .opOperandFetchComplete _ => none
  | .mfillComplete _ => none
  | .bankWriteComplete _ _ => none
  | .redPerformed _ _ => none
  | .mbrepRead _ => none
  | .placeWorkgroup => none
  | .gangHold => none
  | .placementStarvation => none
  | .latencyReservePreemption => none
  | .taskEntryFetch => none
  | .taskRename => none
  | .bufferStarvationDiscard => none
  | .tkNop => none
  | .tkRun => none
  | .tkPipe => none
  | .tkCopy => none
  | .tkFill => none
  | .tkFree => none
  | .tkBind => none
  | .tkUnbind => none
  | .tkSignal => none
  | .tkWait => none
  | .tkWaitPoll => none
  | .tkWaitTimeout => none
  | .tkLink => none
  | .tkResume => none
  | .tkSucc => none
  | .tkFence => none
  | .tkRec => none
  | .taskCompletion => none
  | .taskRetire => none
  | .takeFault => none
  | .partitionCreate => none
  | .partitionDestroy => none
  | .shrink => none
  | .grow => none
  | .halt => none
  | .resume => none
  | .checkpoint => none
  | .setroot => none
  | .tlbinv => none
  | .addbuf => none
  | .setwin => none
  | .setxs => none
  | .setresume => none
  | .setreserve => none
  | .bindvi => none
  | .streamCreate => none
  | .streamDestroy => none
  | .restart => none
  | .skip => none
  | .abort => none
  | .clear => none
  | .resetDie => none
  | .dieDrainExpiry => none
  | .linkRetrainComplete => none
  | .peek => none
  | .scrub => none
  | .inject => none
  | .getcert => none
  | .attest => none
  | .load => none
  | .grant => none
  | .revoke => none
  | .podkey => none
  | .join => none
  | .barreg => none
  | .fwimage => none
  | .coldReset => none
  | .powerLoss => none
  | .computeDieLinkFailure => none
  | .badMessage => none

/-- The instruction that the decoder reads from an opcode-table word: `w` holds the 64 bits of the instruction
with bit 0 its least significant, and bits from `nbits` up are 0. The eight bytes are laid out as R7 gives. -/
def decodeTableWord (nbits w : Nat) : Option Instr :=
  match decode (bytesOfWord (BitVec.ofNat 64 (w % 2 ^ min nbits 64))) with
  | .ok (i, _) => some i
  | .error _ => none

end Sys2Proof
end

