-- ==== Sys2Proof/Machine/System.lean ====
section
/-! DEFINITION. Special registers (R30 to R36), srd, swr (R223), sinj (R221), gset (R17, R224). -/

namespace Sys2Proof.Machine

open Sys2Proof

/-! ### Special registers -/

def isReserved (sel : Nat) : Bool := (decide (0x1A ≤ sel) && decide (sel ≤ 0x1F)) || decide (0x28 ≤ sel)

/-- The Access column of R30 and R31: the trap of a read or a write at a level. -/
def specialTrap (write user : Bool) (sel : Nat) : Option Trap :=
  let bad := trapOf causeIllegalOperand 0x0A
  if isReserved sel then some bad
  else if write then
    if sel = 0x17 ∨ sel = 0x18 then none
    else if sel = 0x23 ∨ sel = 0x26 ∨ sel = 0x27 then (if user then some (trapOf causePrivilege) else none)
    else if 0x20 ≤ sel ∧ user then some (trapOf causePrivilege)
    else some bad
  else if 0x20 ≤ sel ∧ user then some (trapOf causePrivilege)
  else none

def hiHalf (x : W64) : W32 := (x >>> 32).setWidth 32

/-- Value of a special register in a lane (R30). The cycle counters of all dies agree: the skew that R32 allows is fixed at
0 here, the model's choice (log entry 59). -/
def specialValue (s : State) (g l : Nat) (sel : Nat) : W32 :=
  match getG s g, getT s g l, wgOf s g with
  | some G, some t, some W =>
    let k := aget s.grids W.grid
    let n (x : Nat) : W32 := BitVec.ofNat 32 x
    let gang := W.gang.bind fun k => aget s.gangs k
    let tv : W64 := (k.map fun x => x.kd.tvec).getD 0
    match sel with
    | 0x00 => n l
    | 0x01 => n G.qtr
    | 0x02 => n (32 * G.idx + l)
    | 0x03 => n G.idx
    | 0x04 => n ((k.map (·.kd.groups)).getD 0)
    | 0x05 => n W.index
    | 0x06 => n ((k.map (·.nwg)).getD 0)
    | 0x07 => (gang.map fun K => n K.index).getD 0xFFFFFFFF
    | 0x08 => (gang.map fun _ => n (W.index % 4)).getD 0xFFFFFFFF
    | 0x09 => n W.dwg
    | 0x0A => n W.dies.toNat
    | 0x0B => n G.core
    | 0x0C => n (quadOf G.core)
    | 0x0D => n (G.core % 4)
    | 0x0E => n (dieOf G.core)
    | 0x0F => n s.pkg
    | 0x10 => n s.pod
    | 0x11 => n ((k.map (·.part)).getD 0)
    | 0x12 => n ((k.map (·.stream)).getD 0)
    | 0x13 => n ((k.map (·.seq)).getD 0)
    | 0x14 => n (clock s)
    | 0x15 => t.clockh
    | 0x16 => n G.nreq
    | 0x17 => t.sticky.setWidth 32
    | 0x18 => t.seed
    | 0x19 => n (isSuper G l).toNat
    | 0x20 => G.cause
    | 0x21 => G.tpc.setWidth 32
    | 0x22 => hiHalf G.tpc
    | 0x23 => G.tmask
    | 0x24 => t.tval.setWidth 32
    | 0x25 => hiHalf t.tval
    | 0x26 => tv.setWidth 32
    | 0x27 => hiHalf tv
    | _ => 0
  | _, _, _ => 0

/-- A read of `%clock` latches its high half (R32). -/
def latchClock (sel : Nat) (s : State) (g l : Nat) : State :=
  if sel = 0x14 then modT s g l fun t => { t with clockh := BitVec.ofNat 32 (clock s / 2 ^ 32) } else s

def isUser (s : State) (g l : Nat) : Bool := ((getG s g).map fun G => !isSuper G l).getD true

def srdSubs (f : FullWord) : List Nat := predSubs f ++ zeroSub (f.b == 0 && f.c == 0 && f.mod == 0)

/-- Privilege first, then the encoding, then the register (R89). -/
def specialPre (write : Bool) (subs : List Nat) (reg : Byte) (sel : Nat) (s : State) (g l : Nat) : Option Trap :=
  let t := specialTrap write (isUser s g l) sel
  let priv := t.filter fun t => t.cause == causePrivilege
  let sub := subs ++ if (t.map (·.cause)) == some causeIllegalOperand then [0x0A] else []
  priv.or ((subTrap sub).or (regTrap (nreqOf s g) [reg.toNat]))

def srdBody (d sel : Nat) (s : State) (g l : Nat) : LaneRes :=
  .done (modT (latchClock sel s g l) g l fun t => writeV t d (gen (specialValue s g l sel)))

/-- R223 -/
def execSrd (f : FullWord) (s : State) : Host.Outcome State Fault Refusal :=
  .next (issueLanes (infoTo f [f.d.toNat] []) (specialPre false (srdSubs f) f.d f.a.toNat) (srdBody f.d.toNat f.a.toNat) s)

/-- A write of a special register (R30, R33, R220, R223). -/
def specialWrite (s : State) (g l sel : Nat) (v : W32) : State :=
  let tvec (f : W64 → W64) : State := match wgOf s g with
    | some W => modGrid s W.grid fun k => { k with kd := { k.kd with tvec := f k.kd.tvec } }
    | none => s
  match sel with
  | 0x17 => modT s g l fun t => { t with sticky := v.setWidth 6 }
  | 0x18 => modT s g l fun t => { t with seed := v }
  | 0x23 => modG s g fun G => { G with tmask := v &&& ((G.trap.map (·.entry)).getD 0) }
  | 0x26 => tvec fun x => (x &&& 0xFFFFFFFF00000000) ||| v.setWidth 64
  | 0x27 => tvec fun x => (x &&& 0xFFFFFFFF) ||| (v.setWidth 64 <<< 32)
  | _ => s

def swrSubs (f : FullWord) : List Nat := predSubs f ++ zeroSub (f.d == 0 && f.c == 0 && f.mod == 0)

def swrBody (f : FullWord) (s : State) (g l : Nat) : LaneRes :=
  match getT s g l with
  | none => .hold s
  | some t =>
    let b := readV t f.b.toNat
    if isPoison b then .trap s (trapOf causePoison) .none
    else .done (specialWrite s g l f.a.toNat b.val)

/-- R223 -/
def execSwr (f : FullWord) (s : State) : Host.Outcome State Fault Refusal :=
  .next (issueLanes (infoOf f) (specialPre true (swrSubs f) f.b f.a.toNat) (swrBody f) s)

/-! ### sinj (R221) -/

def sinjSubs (f : FullWord) : List Nat :=
  predSubs f ++ zeroSub (f.d == 0 && f.b == 0 && f.c == 0 && f.mod == 0)

def sinjPre (f : FullWord) (s : State) (g l : Nat) : Option Trap :=
  (privTrap s g l).or ((subTrap (sinjSubs f)).or (regTrap (nreqOf s g) [f.a.toNat]))

def sinjBody (f : FullWord) (s : State) (g : Nat) (ls : List Nat) : GroupRes :=
  let lead := ls.headD 0
  match getT s g lead with
  | none => .done s
  | some t =>
    let w := readV t f.a.toNat
    let one (t : Trap) : GroupRes := .trapOne s lead t .none
    if isPoison w then one (trapOf causePoison)
    else if !w.val.getLsbD 31 then .done (modG s g fun G => { G with inj := none })
    else if w.val &&& 0x38E0C0FF ≠ 0 then one (trapOf causeIllegalOperand 0x2C)
    else if w.val.toNat / 2 ^ 24 % 8 = 7 ∨ (w.val.getLsbD 30 ∧ 4 ≤ w.val.toNat / 256 % 64) then
      one (trapOf causeIllegalOperand 1)
    else .done (modG s g fun G => { G with inj := some w.val })

/-- R221 -/
def execSinj (f : FullWord) (s : State) : Host.Outcome State Fault Refusal :=
  .next (issueGroups (infoOf f) (sinjPre f) (sinjBody f) s)

/-! ### gset (R224) -/

def gsetSubs (f : FullWord) : List Nat :=
  noGuard f ++ zeroSub (decide (f.d.toNat < 32) && f.b == 0 && f.c == 0 && f.mod == 0)

def gsetPre (f : FullWord) (s : State) (g _l : Nat) : Option Trap :=
  (subTrap (gsetSubs f)).or (regTrap (nreqOf s g) [f.a.toNat])

/-- The groups of a group's workgroup that have a thread left. -/
def liveGroups (s : State) (g : Nat) : AList Group :=
  (groupsOf s (((getG s g).map (·.wg)).getD 0)).filter fun x => !(liveLanes x.2).isEmpty

/-- Whether the gset that a lane stands at has completed, and the lane has only to pass it. -/
def gsetPassed (s : State) (g l : Nat) : Bool := (getT s g l).any fun t => t.wait == .gset

/-- Whether every group of the workgroup has reached the gset that a lane stands at, none of them still about to pass the one
that completed there before. -/
def gsetReady (s : State) (g l : Nat) : Bool :=
  (liveGroups s g).all fun x => (liveLanes x.2).all fun k =>
    (lanesAt s x.1 (pcOf s g l)).contains k && !gsetPassed s x.1 k

/-- The group of least index in a workgroup. -/
def lowestGroup (gs : AList Group) : Option (Nat × Group) :=
  gs.foldl (fun m x => match m with
    | none => some x
    | some y => if x.2.idx < y.2.idx then some x else m) none

/-- The gset completes in the first group that issues it when all have reached it; the other groups then pass it, each in a
coach of its own. A value that fails its comparison is found by the group it comes from (R270). -/
def gsetBody (f : FullWord) (s : State) (g : Nat) (ls : List Nat) : GroupRes :=
  if gsetPassed s g (ls.headD 0) then .done s
  else if !gsetReady s g (ls.headD 0) then .holdAll s ls
  else match lowestGroup (liveGroups s g) with
    | none => .done s
    | some (k, K) =>
      let l0 := (liveLanes K).headD 0
      let w := ((getT s k l0).map fun t => readV t f.a.toNat).getD .zero
      if mismatch w then (if k = g then .trapOne s l0 (trapOf causeCheck) .none else .holdAll s ls)
      else
        let s' := modWg s K.wg fun W => { W with g := W.g.set (f.d.toNat % 32) w }
        .done ((liveGroups s g).foldl (fun s x =>
          if x.1 == g then s
          else (liveLanes x.2).foldl (fun s l => modT s x.1 l fun t => { t with wait := .gset }) s) s')

/-- R17, R224 -/
def execGset (f : FullWord) (s : State) : Host.Outcome State Fault Refusal :=
  .next (issueGroups (infoOf f) (gsetPre f) (gsetBody f) s)

end Sys2Proof.Machine
end

