-- ==== Sys2Proof/Machine/Paired.lean ====
section
/-! DEFINITION. Paired words (R68, R81 to R84, R88) and the unassigned words (R86, R88). -/

namespace Sys2Proof.Machine

open Sys2Proof

/-! ### Classes, ports, destinations (R81 to R83) -/

inductive SlotClass where
  | i | f | m | l
  deriving DecidableEq, Repr

/-- The class of a restricted opcode (R88). -/
def slotClass (o : SlotOp) : SlotClass :=
  let n := (slotCode o).toNat
  if n < 0x20 then .i else if n < 0x40 then .f else if n < 0x60 then .m else .l

/-- What a slot's fields name. -/
inductive SlotKind where
  | two | one | imm | shift | load | store | srd | pred2 | pred1 | setc
  deriving DecidableEq, Repr

def slotKind (o : SlotOp) : SlotKind :=
  match o with
  | .popc | .clz | .mov | .cvtF32I32 | .cvtI32F32 => .one
  | .addImm | .andImm | .orImm | .xorImm => .imm
  | .shlImm | .shrImm | .sarImm => .shift
  | .ldCs | .ldKs | .ldLp => .load
  | .stCs | .stKs | .stLp => .store
  | .srd => .srd
  | .pand | .por | .pxor => .pred2
  | .pnot => .pred1
  | .setcEq | .setcNe | .setcLtI32 | .setcLtN32 | .setcLeI32 | .setcLeN32 => .setc
  | .add | .sub | .mul | .minI32 | .maxI32 | .minN32 | .maxN32 | .and | .or | .xor | .shl | .shr | .sar
  | .faddF32 | .fsubF32 | .fmulF32 | .fminF32 | .fmaxF32 | .faddF16x2 | .fmulF16x2 | .faddBf16x2
  | .fmulBf16x2 => .two

/-- Vector registers that a slot reads. -/
def slotReads (o : SlotOp) (x : Slot) : List Nat :=
  match slotKind o with
  | .two | .setc => [x.a.toNat, x.b.toNat]
  | .one | .imm | .shift | .load => [x.a.toNat]
  | .store => [x.a.toNat, x.d.toNat]
  | _ => []

/-- Destination of a slot: a predicate (true) or a vector register. -/
def slotDest (o : SlotOp) (x : Slot) : Option (Bool × Nat) :=
  match slotKind o with
  | .store => none
  | .pred2 | .pred1 | .setc => some (true, x.d.toNat)
  | _ => some (false, x.d.toNat)

/-- Vector registers that a slot names, for the check of R14. -/
def slotRegs (o : SlotOp) (x : Slot) : List Nat :=
  (match slotDest o x with
   | some (false, d) => [d]
   | _ => []) ++ slotReads o x

/-- Field conditions of a slot (R88). -/
def slotSubs (o : SlotOp) (x : Slot) : List Nat :=
  let p (b : Byte) : List Nat := zeroSub (decide (b.toNat < 8))
  match slotKind o with
  | .one => zeroSub (x.b == 0)
  | .shift => if x.b.toNat < 32 then [] else [0x0B]
  | .srd => zeroSub (x.b == 0) ++ (if isReserved x.a.toNat then [0x0A] else [])
  | .pred2 => p x.d ++ p x.a ++ p x.b
  | .pred1 => p x.d ++ p x.a ++ zeroSub (x.b == 0)
  | .setc => p x.d
  | _ => []

/-- Distinct registers read in a bank (R82). -/
def portUse (rs : List Nat) (bank : Nat) : Nat := (rs.filter fun r => r != 255 && r % 4 == bank).eraseDups.length

/-- Conditions on the pair (R82, R83). -/
def pairSubsOf (ox : SlotOp) (p : PairWord) : List Nat :=
  let rs := slotReads ox p.x ++ slotReads p.opY p.y
  let dx := slotDest ox p.x
  slotSubs ox p.x ++ slotSubs p.opY p.y ++
  (if (List.range 4).any fun b => decide (2 < portUse rs b) then [0x06] else []) ++
  (if (dx.isSome && dx == slotDest p.opY p.y) ||
      (slotKind ox == .load && (slotReads p.opY p.y).contains p.x.d.toNat) then [0x07] else [])

/-- Checks 1 to 4 of a paired word. -/
def pairPre (ox : SlotOp) (p : PairWord) (s : State) (g l : Nat) : Option Trap :=
  let priv (o : SlotOp) (x : Slot) : Option Trap :=
    if o = .srd then (specialTrap false (isUser s g l) x.a.toNat).filter (fun t => t.cause == causePrivilege) else none
  if slotClass ox = slotClass p.opY ∧ slotClass ox ≠ .i then some (trapOf causeIllegalOpcode 3)
  else (priv ox p.x).or ((priv p.opY p.y).or ((subTrap (pairSubsOf ox p)).or
    (regTrap (nreqOf s g) (slotRegs ox p.x ++ slotRegs p.opY p.y))))

/-! ### One slot -/

/-- Class of a slot for injection (R221). -/
def slotInject (o : SlotOp) : Nat :=
  match o with
  | .add | .sub | .mul | .minI32 | .maxI32 | .minN32 | .maxN32 | .addImm => 0
  | .and | .or | .xor | .shl | .shr | .sar | .popc | .clz | .andImm | .orImm | .xorImm | .shlImm | .shrImm
  | .sarImm => 1
  | .faddF32 | .fsubF32 | .fmulF32 | .fminF32 | .fmaxF32 | .faddF16x2 | .fmulF16x2 | .faddBf16x2 | .fmulBf16x2 => 2
  | .cvtF32I32 | .cvtI32F32 => 3
  | .mov => 6
  | _ => 7

/-- The arithmetic of a slot (R84, R88). -/
def slotAlu (o : SlotOp) (d : Nat) (a b : List Word) (pa pb : Bool) : AluOut :=
  match o with
  | .add | .addImm => aluAdd (intTy 0x04) a b
  | .sub => aluSub (intTy 0x04) a b
  | .mul => aluMul (intTy 0x04) a b
  | .minI32 => aluMin (intTy 0x04) a b
  | .maxI32 => aluMax (intTy 0x04) a b
  | .minN32 => aluMin (intTy 0x08) a b
  | .maxN32 => aluMax (intTy 0x08) a b
  | .and | .andImm => aluAnd a b
  | .or | .orImm => aluOr a b
  | .xor | .xorImm => aluXor a b
  | .shl | .shlImm => aluShl (intTy 0x00) a b
  | .shr | .shrImm => aluShr (intTy 0x00) a b
  | .sar | .sarImm => aluSar (intTy 0x04) a b
  | .popc => aluPopc (intTy 0x00) a
  | .clz => aluClz (intTy 0x00) a
  | .mov => aluCopy a
  | .faddF32 => aluFadd 0x0E 0 0 a b
  | .fsubF32 => aluFsub 0x0E 0 0 a b
  | .fmulF32 => aluFmul 0x0E 0 0 a b
  | .fminF32 => aluMinMax false 0x0E 0 a b
  | .fmaxF32 => aluMinMax true 0x0E 0 a b
  | .faddF16x2 => aluFadd 0x10 0 0 a b
  | .fmulF16x2 => aluFmul 0x10 0 0 a b
  | .faddBf16x2 => aluFadd 0x11 0 0 a b
  | .fmulBf16x2 => aluFmul 0x11 0 0 a b
  | .cvtF32I32 => aluCvt 0x0E 0x04 0 0 a
  | .cvtI32F32 => aluCvt 0x04 0x0E 1 0 a
  | .pand => { preds := [(d, pa && pb)] }
  | .por => { preds := [(d, pa || pb)] }
  | .pxor => { preds := [(d, xor pa pb)] }
  | .pnot => { preds := [(d, !pa)] }
  | .setcEq => aluSetc d 0 0 true (intTy 0x00) a b
  | .setcNe => aluSetc d 1 0 true (intTy 0x00) a b
  | .setcLtI32 => aluSetc d 2 0 true (intTy 0x04) a b
  | .setcLtN32 => aluSetc d 2 0 true (intTy 0x08) a b
  | .setcLeI32 => aluSetc d 3 0 true (intTy 0x04) a b
  | .setcLeN32 => aluSetc d 3 0 true (intTy 0x08) a b
  | .ldCs | .stCs | .ldKs | .stKs | .ldLp | .stLp | .srd => {}

/-- Space of a memory slot. -/
def slotSpace (o : SlotOp) : Nat :=
  match o with
  | .ldCs | .stCs => 1
  | .ldKs | .stKs => 2
  | _ => 0

/-- One slot in a lane, as its full-form equivalent executed unguarded (R84). -/
def slotRun (o : SlotOp) (x : Slot) (s : State) (g l : Nat) : LaneRes :=
  match getT s g l with
  | none => .hold s
  | some t =>
    let a := readV t x.a.toNat
    let addr : Int := (a.val.toNat : Int) + 4 * x.b.toNat
    let pa := readP t (x.a.toNat % 8)
    let pb := readP t (x.b.toNat % 8)
    match slotKind o with
    | .load => memLoad s g l (slotSpace o) 0 0 0 x.d.toNat (isPoison a) addr
    | .store => memStore s g l (slotSpace o) 0 0 0 [readV t x.d.toNat] (isPoison a) addr
    | .srd => srdBody x.d.toNat x.a.toNat s g l
    | .pred2 => writeBack s g l 7 false (pa.psn || pb.psn) [] (slotAlu o (x.d.toNat % 8) [] [] pa.t pb.t)
    | .pred1 => writeBack s g l 7 false pa.psn [] (slotAlu o (x.d.toNat % 8) [] [] pa.t true)
    | .one => writeBack s g l (slotInject o) false (isPoison a) [x.d.toNat] (slotAlu o 0 [a] [] true true)
    | .imm => writeBack s g l (slotInject o) false (isPoison a) [x.d.toNat]
        (slotAlu o 0 [a] [gen (x.b.signExtend 32)] true true)
    | .shift => writeBack s g l (slotInject o) false (isPoison a) [x.d.toNat]
        (slotAlu o 0 [a] [gen (x.b.setWidth 32)] true true)
    | .setc =>
      let b := readV t x.b.toNat
      writeBack s g l 7 false (isPoison a || isPoison b) [] (slotAlu o (x.d.toNat % 8) [a] [b] true true)
    | .two =>
      let b := readV t x.b.toNat
      writeBack s g l (slotInject o) false (isPoison a || isPoison b) [x.d.toNat] (slotAlu o 0 [a] [b] true true)

/-- State and trap of a slot's outcome. -/
def outcomeOf : LaneRes → State × Option (Trap × Ign)
  | .done s => (s, none)
  | .park s _ _ => (s, none)
  | .jump s _ => (s, none)
  | .hold s => (s, none)
  | .trap s t ign => (s, some (t, ign))

/-- The lower cause of two traps; equal causes leave the sub-code open between theirs. -/
def lowerTrap (a b : Trap) : Trap :=
  if a.cause < b.cause then a else if b.cause < a.cause then b
  else if pick [a.sub, b.sub] = a.sub then a else b

/-- The destination of a slot that completed, with its value, for the policy ignore (R299). -/
def slotIgn (o : SlotOp) (x : Slot) (s : State) (g l : Nat) : Ign :=
  match slotDest o x, getT s g l with
  | some (true, d), _ => ⟨[], [d % 8], false, []⟩
  | some (false, d), some t =>
    let w := if slotKind o = .load then (t.pend.getLast?.bind fun p => aget p.v d).getD .zero else t.v.getD d .zero
    ⟨[(d, w.val)], [], false, []⟩
  | _, _ => .none

/-- Both slots in a lane: they succeed or fail together (R84). Only an injection used up stays used up. -/
def pairBody (ox : SlotOp) (p : PairWord) (s : State) (g l : Nat) : LaneRes :=
  let (s1, tx) := outcomeOf (slotRun ox p.x s g l)
  let (s2, ty) := outcomeOf (slotRun p.opY p.y s1 g l)
  let back : State := modG s g fun G => { G with inj := (getG s2 g).bind (·.inj) }
  match tx, ty with
  | none, none => .done s2
  | some (t, i), none =>
    let j := slotIgn p.opY p.y s2 g l
    .trap back t ⟨i.v ++ j.v, i.p ++ j.p, false, []⟩
  | none, some (t, j) =>
    let i := slotIgn ox p.x s1 g l
    .trap back t ⟨i.v ++ j.v, i.p ++ j.p, false, []⟩
  | some (t, i), some (u, j) => .trap back (lowerTrap t u) ⟨i.v ++ j.v, i.p ++ j.p, false, []⟩

/-- The destinations of both slots. -/
def pairDest (ox : SlotOp) (p : PairWord) : Ign :=
  [slotDest ox p.x, slotDest p.opY p.y].foldl (fun i d => match d with
    | some (true, n) => ⟨i.v, i.p ++ [n % 8], false, []⟩
    | some (false, n) => ⟨i.v ++ [(n, 0)], i.p, false, []⟩
    | none => i) .none

def issuePair (ox : SlotOp) (p : PairWord) (s : State) : Host.Outcome State Fault Refusal :=
  .next (issueLanes { s := p.s, ender := false, pred := 7, dest := fun _ _ _ => pairDest ox p } (pairPre ox p) (pairBody ox p) s)

/-- R84, R88 -/
def execPairedAdd (p : PairWord) : Exec := issuePair .add p

/-- R84, R88 -/
def execPairedSub (p : PairWord) : Exec := issuePair .sub p

/-- R84, R88 -/
def execPairedMul (p : PairWord) : Exec := issuePair .mul p

/-- R84, R88 -/
def execPairedMinI32 (p : PairWord) : Exec := issuePair .minI32 p

/-- R84, R88 -/
def execPairedMaxI32 (p : PairWord) : Exec := issuePair .maxI32 p

/-- R84, R88 -/
def execPairedMinN32 (p : PairWord) : Exec := issuePair .minN32 p

/-- R84, R88 -/
def execPairedMaxN32 (p : PairWord) : Exec := issuePair .maxN32 p

/-- R84, R88 -/
def execPairedAnd (p : PairWord) : Exec := issuePair .and p

/-- R84, R88 -/
def execPairedOr (p : PairWord) : Exec := issuePair .or p

/-- R84, R88 -/
def execPairedXor (p : PairWord) : Exec := issuePair .xor p

/-- R84, R88 -/
def execPairedShl (p : PairWord) : Exec := issuePair .shl p

/-- R84, R88 -/
def execPairedShr (p : PairWord) : Exec := issuePair .shr p

/-- R84, R88 -/
def execPairedSar (p : PairWord) : Exec := issuePair .sar p

/-- R84, R88 -/
def execPairedPopc (p : PairWord) : Exec := issuePair .popc p

/-- R84, R88 -/
def execPairedClz (p : PairWord) : Exec := issuePair .clz p

/-- R84, R88 -/
def execPairedMov (p : PairWord) : Exec := issuePair .mov p

/-- R84, R88 -/
def execPairedAddImm (p : PairWord) : Exec := issuePair .addImm p

/-- R84, R88 -/
def execPairedAndImm (p : PairWord) : Exec := issuePair .andImm p

/-- R84, R88 -/
def execPairedOrImm (p : PairWord) : Exec := issuePair .orImm p

/-- R84, R88 -/
def execPairedXorImm (p : PairWord) : Exec := issuePair .xorImm p

/-- R84, R88 -/
def execPairedShlImm (p : PairWord) : Exec := issuePair .shlImm p

/-- R84, R88 -/
def execPairedShrImm (p : PairWord) : Exec := issuePair .shrImm p

/-- R84, R88 -/
def execPairedSarImm (p : PairWord) : Exec := issuePair .sarImm p

/-- R84, R88 -/
def execPairedFaddF32 (p : PairWord) : Exec := issuePair .faddF32 p

/-- R84, R88 -/
def execPairedFsubF32 (p : PairWord) : Exec := issuePair .fsubF32 p

/-- R84, R88 -/
def execPairedFmulF32 (p : PairWord) : Exec := issuePair .fmulF32 p

/-- R84, R88 -/
def execPairedFminF32 (p : PairWord) : Exec := issuePair .fminF32 p

/-- R84, R88 -/
def execPairedFmaxF32 (p : PairWord) : Exec := issuePair .fmaxF32 p

/-- R84, R88 -/
def execPairedFaddF16x2 (p : PairWord) : Exec := issuePair .faddF16x2 p

/-- R84, R88 -/
def execPairedFmulF16x2 (p : PairWord) : Exec := issuePair .fmulF16x2 p

/-- R84, R88 -/
def execPairedFaddBf16x2 (p : PairWord) : Exec := issuePair .faddBf16x2 p

/-- R84, R88 -/
def execPairedFmulBf16x2 (p : PairWord) : Exec := issuePair .fmulBf16x2 p

/-- R84, R88 -/
def execPairedCvtF32I32 (p : PairWord) : Exec := issuePair .cvtF32I32 p

/-- R84, R88 -/
def execPairedCvtI32F32 (p : PairWord) : Exec := issuePair .cvtI32F32 p

/-- R84, R88 -/
def execPairedLdCs (p : PairWord) : Exec := issuePair .ldCs p

/-- R84, R88 -/
def execPairedStCs (p : PairWord) : Exec := issuePair .stCs p

/-- R84, R88 -/
def execPairedLdKs (p : PairWord) : Exec := issuePair .ldKs p

/-- R84, R88 -/
def execPairedStKs (p : PairWord) : Exec := issuePair .stKs p

/-- R84, R88 -/
def execPairedLdLp (p : PairWord) : Exec := issuePair .ldLp p

/-- R84, R88 -/
def execPairedStLp (p : PairWord) : Exec := issuePair .stLp p

/-- R84, R88 -/
def execPairedSrd (p : PairWord) : Exec := issuePair .srd p

/-- R84, R88 -/
def execPairedPand (p : PairWord) : Exec := issuePair .pand p

/-- R84, R88 -/
def execPairedPor (p : PairWord) : Exec := issuePair .por p

/-- R84, R88 -/
def execPairedPxor (p : PairWord) : Exec := issuePair .pxor p

/-- R84, R88 -/
def execPairedPnot (p : PairWord) : Exec := issuePair .pnot p

/-- R84, R88 -/
def execPairedSetcEq (p : PairWord) : Exec := issuePair .setcEq p

/-- R84, R88 -/
def execPairedSetcNe (p : PairWord) : Exec := issuePair .setcNe p

/-- R84, R88 -/
def execPairedSetcLtI32 (p : PairWord) : Exec := issuePair .setcLtI32 p

/-- R84, R88 -/
def execPairedSetcLtN32 (p : PairWord) : Exec := issuePair .setcLtN32 p

/-- R84, R88 -/
def execPairedSetcLeI32 (p : PairWord) : Exec := issuePair .setcLeI32 p

/-- R84, R88 -/
def execPairedSetcLeN32 (p : PairWord) : Exec := issuePair .setcLeN32 p

/-- R86, R88: an unassigned full-form opcode has sub-code 0x01, an unassigned paired one 0x02. -/
def execUnassignedOpcode (w : W64) (s : State) : Host.Outcome State Fault Refusal :=
  .next (issueLanes { s := w.getLsbD 63, ender := false, pred := 7 }
    (fun _ _ _ => some (trapOf causeIllegalOpcode (if w.getLsbD 62 then 2 else 1))) (fun s _ _ => .done s) s)

end Sys2Proof.Machine
end

