-- ==== Sys2Proof/Machine/QueueOps.lean ====
section
/-! DEFINITION. The queue instructions qpush, qpop, qpeek (R213 to R215). -/

namespace Sys2Proof.Machine

open Sys2Proof

/-- Conditions of a queue word; `peek` needs NB (R194). -/
def qSubs (peek : Bool) (unused : Bool) (f : FullWord) : List Nat :=
  predSubs f ++ zeroSub (unused && f.c == 0 && f.mod &&& 0x7FF == 0) ++ (if tyOf f = 0 then [] else [4]) ++
  (if peek then (if qNB f.b then [] else [0x2D])
   else if !qNB f.b && qPred f.b != 0 then [0x2D] else [])

def qPre (push peek : Bool) (f : FullWord) (s : State) (g _l : Nat) : Option Trap :=
  (subTrap (qSubs peek (if push then f.d == 0 else f.a == 0) f)).or
    ((regTrap (nreqOf s g) [(if push then f.a else f.d).toNat]).or (qCheck s g (qNum f.b) push))

/-- The predicate that a non-blocking queue word writes. -/
def qFlags (f : FullWord) : List Nat := if qNB f.b then [qPred f.b] else []

/-- Address at which a push would place its element. -/
def qTail (s : State) (g : Nat) (x : Byte) : W64 :=
  match qOf s g (qNum x) with
  | none => 0
  | some (_, q) => BitVec.ofNat 64 (qAddr q (q.head + q.count))

def qpushBody (f : FullWord) (s : State) (g l : Nat) : LaneRes :=
  match getT s g l with
  | none => .hold s
  | some t =>
    let a := readV t f.a.toNat
    if isPoison a then .trap s (trapOf causePoison) .none
    else if mismatch a then .trap s (trapAt causeCheck 4 (qTail s g f.b)) .none
    else if qRoom s g f.b then .done (qFlag (qPushLane s g l f.b a) g l f.b false)
    else if qNB f.b then .done (qFlag s g l f.b true)
    else .hold (qWaitPush s g l f.b)

/-- R214 -/
def execQpush (f : FullWord) (s : State) : Host.Outcome State Fault Refusal :=
  .next (issueLanes (infoTo f [] (qFlags f)) (qPre true false f) (qpushBody f) s)

/-- An element received in a lane, with the flag of a non-blocking form. -/
def qLand (cls : Nat) (f : FullWord) (s : State) (g l : Nat) (w : Word) (a : W64) (empty : Bool) : LaneRes :=
  match landWords s g l cls false 1 (fun _ => some a) [f.d.toNat] [w] with
  | .done s => .done (qFlag s g l f.b empty)
  | x => x

def qpopBody (f : FullWord) (s : State) (g l : Nat) : LaneRes :=
  match qPopLane s g l f.b with
  | .trap s t => .trap s t (dead [f.d.toNat])
  | .wait s => .hold s
  | .dry s => qLand 4 f s g l .zero 0 true
  | .got w a s' => (qLand 4 f s' g l w a false).taking (qTaken s g f.b)

/-- R215 -/
def execQpop (f : FullWord) (s : State) : Host.Outcome State Fault Refusal :=
  .next (issueLanes (infoTo f [f.d.toNat] (qFlags f)) (qPre false false f) (qpopBody f) s)

/-- How many lanes of the coach before a lane peek at the same queue: those that a `qpop` there would give an element (R215),
which neither a check nor the guard stops. -/
def peekRank (f : FullWord) (s0 : State) (g l : Nat) : Nat :=
  let key (g : Nat) : Option Nat := (qOf s0 g (qNum f.b)).map (·.1)
  let pops (x : Nat × Nat) : Bool := (getT s0 x.1 x.2).any fun t =>
    (headTrap (infoOf f) (qPre false true f) s0 x.1 x.2 t).isNone && guardOf f.pred t == some true
  let lanes := ((s0.coach.map (·.lanes)).getD []).takeWhile fun x => x != (g, l)
  (lanes.filter fun x => key x.1 == key g && pops x).length

/-- A peek is in no class of R221: class 8 stands for none. -/
def qpeekBody (f : FullWord) (s0 : State) (s : State) (g l : Nat) : LaneRes :=
  match qOf s g (qNum f.b) with
  | none => .trap s (trapOf causeQueue 1) (dead [f.d.toNat])
  | some (_, q) =>
    let i := peekRank f s0 g l
    if i < q.count then qLand 8 f s g l (qElem s q (q.head + i)) (BitVec.ofNat 64 (qAddr q (q.head + i))) false
    else qLand 8 f s g l .zero 0 true

/-- R215 -/
def execQpeek (f : FullWord) (s : State) : Host.Outcome State Fault Refusal :=
  .next (issueLanes (infoTo f [f.d.toNat] (qFlags f)) (qPre false true f) (qpeekBody f s) s)

/-- Queue waiters take their turns in arrival order (R213, R214, R215): the wait of the next one that can proceed is over,
so that its lane is eligible from the next cycle and issues its word in a coach (R288, R290). -/
def execQueueWaitService (queue : Nat) (s : State) : Host.Outcome State Fault Refusal :=
  .next (match (aget s.queues queue).bind (qTurn s) with
    | none => s
    | some w => modQ s queue fun q => { q with
        waiters := q.waiters.map fun x => if x.is w.grp w.lane then { x with granted := true } else x })

end Sys2Proof.Machine
end

