-- ==== Sys2Proof/Machine/Sync.lean ====
section
/-! DEFINITION. Fences, sync objects and cache maintenance: fence, sacq, srel, stry, cinv, cwb, chint
(R183 to R188, R324, R330). -/

namespace Sys2Proof.Machine

open Sys2Proof

/-! ### fence (R183) -/

def fenceSubs (f : FullWord) : List Nat :=
  predSubs f ++ zeroSub (f.d == 0 && f.a == 0 && f.b == 0 && f.c == 0) ++
  (if vecOf f = 3 then [1] else []) ++ scopeSubs (spaceOf f) ++ zeroSub (f.mod &&& ~~~ 0x07C0 == 0)

def fenceBody (f : FullWord) (s : State) (g _l : Nat) : LaneRes :=
  let core := coreOf s g
  let s := if vecOf f = 1 then s else releaseAt s core (spaceOf f)
  .done (if vecOf f = 2 then s else acquireAt s core (spaceOf f))

/-- R183 -/
def execFence (f : FullWord) (s : State) : Host.Outcome State Fault Refusal :=
  .next (issueLanes (infoOf f) (fun _ _ _ => subTrap (fenceSubs f)) (fenceBody f) s)

/-! ### Sync objects -/

/-- Space and mode of a sync word (R185). -/
def syncSpace (f : FullWord) : Nat := f.mod.toNat / 8 % 8

def syncSubs (mn : Nat) (f : FullWord) : List Nat :=
  predSubs f ++ zeroSub ((if mn = 2 then decide (f.d.toNat < 8) else f.d == 0) && f.b == 0 && f.c == 0) ++
  scopeSubs (spaceOf f) ++
  (if mn = 1 then zeroSub (vecOf f == 0) else if vecOf f = 3 then [1] else []) ++
  spaceSubs [3, 4] (syncSpace f) ++ zeroSub (f.mod &&& ~~~ 0x07F8 == 0) ++ baseSubs (syncSpace f) false f.a

def syncPre (mn : Nat) (f : FullWord) (s : State) (g _l : Nat) : Option Trap :=
  (subTrap (syncSubs mn f)).or (regTrap (nreqOf s g) (baseRegs (syncSpace f) false f.a))

/-- Number of a core's unit at a scope (R330). -/
def unitOf (core scope : Nat) : Nat :=
  match scope with | 1 => core | 2 => quadOf core | 3 => dieOf core | _ => 0

/-- Base die that keeps the record of a line (R306, R330). -/
def recordDie (xs : Bool) (line : Nat) : Nat :=
  if xs then line / 2 ^ 20 % 4 else if windowOf (64 * line) = 0 then baseOf_ (64 * line) else 0
where baseOf_ (pa : Nat) : Nat := stackOf pa / 3

def findRec (s : State) (xs : Bool) (line : Nat) : Option SyncRec :=
  s.syncRecs.find? fun r => r.xs == xs && r.line == line

/-- Whether a core lies in the recorded unit at the recorded scope (R187). -/
def inRecord (s : State) (core : Nat) (xs : Bool) (line : Nat) : Bool :=
  match findRec s xs line with
  | none => true
  | some r => unitOf core r.scope == r.unit

/-- Records scope and unit of a release; each base die keeps 65,536 (R330). -/
def putRec_ (s : State) (core scope : Nat) (xs : Bool) (line : Nat) : State :=
  let die := recordDie xs line
  let rest := s.syncRecs.filter fun r => !(r.xs == xs && r.line == line)
  let mine := rest.filter fun r => recordDie r.xs r.line == die
  { s with syncRecs := ⟨xs, line, scope, unitOf core scope⟩ :: mine.take 65535 ++
      rest.filter fun r => recordDie r.xs r.line != die }

/-- Whether the state word lets an acquire of a mode through, and the word after (R184, R186). -/
def syncGrant (excl : Bool) (v : W32) : Option W32 :=
  let v := v &&& 0x80FFFFFF
  let sh := v.toNat / 2 ^ 16 % 256
  if v.getLsbD 31 then none
  else if excl then (if sh = 0 then some (v ||| 0x80000000) else none)
  else if sh < 255 then some (v + 0x10000) else none

/-- The state word after a release (R186). -/
def syncRelease (v : W32) : W32 :=
  let v := v &&& 0x80FFFFFF
  let sh := v.toNat / 2 ^ 16 % 256
  let v := if v.getLsbD 31 then v &&& 0x7FFFFFFF else if 0 < sh then v - 0x10000 else v
  (v &&& 0xFFFF0000) ||| ((v + 1) &&& 0xFFFF)

/-- Waiters of an object that still wait in their sacq, in arrival order. -/
def waiters (s : State) (xs : Bool) (line : Nat) : List SyncWait :=
  s.syncWaits.filter fun w => w.xs == xs && w.line == line && (getT s w.grp w.lane).any fun t => t.wait == .sacq

/-- Whether an entry is that of a lane. -/
def SyncWait.is (g l : Nat) (w : SyncWait) : Bool := w.grp == g && w.lane == l

/-- A lane begins to wait at an object, behind the others; a waiting lane keeps its place (R186). -/
def syncWait (s : State) (g l : Nat) (w : SyncWait) : State :=
  if (waiters s w.xs w.line).any (SyncWait.is g l) then
    { s with syncWaits := s.syncWaits.map fun x => if x.is g l then w else x }
  else
    modT { s with syncWaits := (s.syncWaits.filter fun x => !x.is g l) ++ [w] } g l fun t => { t with wait := .sacq }

/-- Whether a lane stands before every other waiter of an object (R186: arrival order). -/
def isFirst (s : State) (xs : Bool) (line g l : Nat) : Bool :=
  match waiters s xs line with
  | [] => true
  | w :: _ => w.grp == g && w.lane == l

def dropWait (s : State) (g l : Nat) : State :=
  modT { s with syncWaits := s.syncWaits.filter fun w => !w.is g l } g l
    fun t => { t with wait := .none }

/-- The checks of R154 and R187 and the place of the object. -/
def syncPlace (rel : Bool) (f : FullWord) (s : State) (g l : Nat) (t : Thread) : Except Trap Loc × State :=
  let (bad, addr) := baseIn s g t (syncSpace f) false f.a
  let tv := BitVec.ofNat 64 addr
  if bad then (.error (trapAt causePoison 0 tv), s)
  else
    let user := ((getG s g).map fun G => !isSuper G l).getD true
    match locate s g (syncSpace f) 64 ⟨true, true, false, user⟩ addr with
    | (.error e, s) => (.error e, s)
    | (.ok p, s) =>
      if !rel && !inRecord s (coreOf s g) (p.space == 3) (p.at_ / 64) then (.error (trapAt causeScope 0 tv), s)
      else (.ok p, s)

def putState (s : State) (core : Nat) (p : Loc) (v : W32) : State :=
  homePut s core p [(p.at_ / 4 % 16, wholePatch (gen v))]

/-- sacq and stry in a lane (R186). -/
def sacqBody (try_ : Bool) (f : FullWord) (s : State) (g l : Nat) : LaneRes :=
  match getT s g l with
  | none => .hold s
  | some t => match syncPlace false f s g l t with
    | (.error e, s) => .trap s e ⟨[], if try_ then [f.d.toNat] else [], false, []⟩
    | (.ok p, s) =>
      let core := coreOf s g
      let xs := p.space == 3
      let line := p.at_ / 64
      let (w, s) := homeWord s core p
      let new := if vecOf f = 0 then some w.val
        else if isFirst s xs line g l then syncGrant (vecOf f == 2) w.val else none
      let flag (b : Bool) (s : State) : State :=
        if try_ then modT s g l fun t => writeP t f.d.toNat ⟨b, false⟩ else s
      match new with
      | some v =>
        let s := if vecOf f = 0 then s else putState s core p v
        .done (flag true (acquireAt (dropWait s g l) core (spaceOf f)))
      | none =>
        if try_ then .done (flag false s)
        else .hold (syncWait s g l ⟨xs, line, g, l, vecOf f == 2, spaceOf f, p.attr.cl, p.attr.key, false⟩)

def srelBody (f : FullWord) (s : State) (g l : Nat) : LaneRes :=
  match getT s g l with
  | none => .hold s
  | some t => match syncPlace true f s g l t with
    | (.error e, s) => .trap s e .none
    | (.ok p, s) =>
      let core := coreOf s g
      let s := releaseAt s core (spaceOf f)
      let (w, s) := homeWord s core p
      .done (putRec_ (putState s core p (syncRelease w.val)) core (spaceOf f) (p.space == 3) (p.at_ / 64))

/-- R186, R187 -/
def execSacq (f : FullWord) (s : State) : Host.Outcome State Fault Refusal :=
  .next (issueLanes (infoOf f) (syncPre 0 f) (sacqBody false f) s)

/-- R186, R324, R330 -/
def execSrel (f : FullWord) (s : State) : Host.Outcome State Fault Refusal :=
  .next (issueLanes (infoOf f) (syncPre 1 f) (srelBody f) s)

/-- R186, R187 -/
def execStry (f : FullWord) (s : State) : Host.Outcome State Fault Refusal :=
  .next (issueLanes (infoTo f [] [f.d.toNat % 8]) (syncPre 2 f) (sacqBody true f) s)

/-- The state word of a waiter's object as its home holds it, under the waiter's leaf. -/
def objectWord (s : State) (w : SyncWait) : W32 :=
  if w.xs then (readWord s.xs (64 * w.line)).val
  else ((homeRead s (64 * w.line) ⟨w.cl, false, 0, w.key⟩).1.getD 0 .zero).val

/-- R186: the turn of the first waiter of an object comes once the state word allows it. Its wait is then over, so that the
lane is eligible from the next cycle and issues its word in a coach (R288, R290). -/
def execSacqGrant (xs : Bool) (line : Nat) (s : State) : Host.Outcome State Fault Refusal :=
  .next (match waiters s xs line with
    | [] => s
    | w :: _ =>
      if (syncGrant w.excl (objectWord s w)).isSome then
        { s with syncWaits := s.syncWaits.map fun x => if x.is w.grp w.lane then { x with granted := true } else x }
      else s)

/-! ### Cache maintenance (R188) -/

def cacheSubs (hint : Bool) (f : FullWord) : List Nat :=
  predSubs f ++ zeroSub (f.d == 0 && f.c == 0) ++ spaceSubs [3, 4] (spaceOf f) ++
  (if vecOf f = 3 then [1] else []) ++
  zeroSub (f.mod &&& ~~~ (if hint then 0x07F8 else 0x07C0) == 0) ++ baseSubs (spaceOf f) false f.a

def cachePre (hint : Bool) (f : FullWord) (s : State) (g _l : Nat) : Option Trap :=
  (subTrap (cacheSubs hint f)).or (regTrap (nreqOf s g) (baseRegs (spaceOf f) false f.a ++ [f.b.toNat]))

/-- One line of the operation `op` (0 cinv, 1 cwb, 2 chint) at a level; the core's buffer of the line is sent first
(R307). Local lines and lines of the host window have a place in an L2. -/
def cacheLine (op : Nat) (f : FullWord) (core : Nat) (at_ : LineAttr) (line : Nat) (s : State) : State :=
  let pa := 64 * line
  let inL1 := vecOf f != 1
  let inL2 := vecOf f != 0 && at_.cl != 2 && (windowOf pa == 0 || windowOf pa == 2)
  let at2 := if windowOf pa = 2 then hostL2Line (hostLine pa) else line
  let prio := f.mod.toNat / 16 % 4
  let pf := f.mod.getLsbD 3
  let s := flushLine s core false line
  match op with
  | 0 =>
    let s := if inL1 then dcDrop s core line else s
    if inL2 then l2Drop (l2Clean s at2) at2 else s
  | 1 => if inL2 then l2Clean s at2 else s
  | _ =>
    let s := if pf && inL1 then (gmLoad s core pa at_ 0).2 else s
    let s := if pf && inL2 then (homeRead s pa at_).2 else s
    { s with
      dcache := if inL1 then s.dcache.map fun c => if c.core == core && c.line == line then { c with prio } else c else s.dcache,
      l2 := if inL2 then s.l2.map fun c => if c.line == at2 then { c with prio } else c else s.l2 }

/-- Check 2 of R154 for the address that a range starts at (R188, R279; log entry 37). -/
def cacheTrap (f : FullWord) (s : State) (g a : Nat) : Option Trap :=
  let tv := BitVec.ofNat 64 a
  if spaceOf f = 3 then
    (if (partIx s (partOf s g)).any fun p => inXs p a 1 then none else some (trapAt causeProtection 0 tv))
  else if canonical a then none else some (trapAt causeXlate 1 tv)

/-- The lines of a byte range, each translated with read permission or in the allotment; others are skipped silently. -/
def cacheLines (op : Nat) (f : FullWord) (core part : Nat) (user : Bool) (a n : Nat) (s : State) : State :=
  let first := a / 64
  let count := (a + n - 1) / 64 - first + 1
  (List.range count).foldl (fun s i =>
    let va := 64 * (first + i)
    if spaceOf f = 3 then
      (if (partIx s part).any fun p => inXs p (va + if i = 0 then a % 64 else 0) 1 then flushLine s core true (first + i) else s)
    else match resolve s core part ⟨true, false, false, user⟩ (va % 2 ^ 64) with
      | (.ok (pa, e), s) => cacheLine op f core (lineAttr e) (pa / 64) s
      | (.error _, s) => s) s

/-- One lane's range: its address is consumed first, then its length is judged, then check 2 of R154 (R188 gives no order:
DESIGN CHOICE, log entry 39). -/
def cacheBody (op : Nat) (f : FullWord) (s : State) (g l : Nat) : LaneRes :=
  match getT s g l with
  | none => .hold s
  | some t =>
    let (bad, addr) := baseIn s g t (spaceOf f) false f.a
    let n := (readV t f.b.toNat).val.toNat
    let user := ((getG s g).map fun G => !isSuper G l).getD true
    if bad then .trap s (trapAt causePoison 0 (BitVec.ofNat 64 addr)) .none
    else if 2 ^ 24 < n then .trap s (trapOf causeIllegalOperand 0x29) .none
    else match cacheTrap f s g addr with
      | some t => .trap s t .none
      | none => .done (cacheLines op f (coreOf s g) (partOf s g) user addr (max n 1) s)

def issueCache (op : Nat) (f : FullWord) (s : State) : Host.Outcome State Fault Refusal :=
  .next (issueLanes (infoOf f) (cachePre (op == 2) f) (cacheBody op f) s)

/-- R188 -/
def execCinv (f : FullWord) : Exec := issueCache 0 f

/-- R188 -/
def execCwb (f : FullWord) : Exec := issueCache 1 f

/-- R188 -/
def execChint (f : FullWord) : Exec := issueCache 2 f

end Sys2Proof.Machine
end

