-- ==== Sys2Proof/Machine/Uses.lean ====
section
/-! DEFINITION. The vector registers and predicates that a word reads or writes, which the scoreboard compares with
the results still to land (R16, R72, R288). -/

namespace Sys2Proof.Machine

open Sys2Proof

/-- Registers, predicates and index registers that a word reads or writes. -/
structure Uses where
  v : List Nat
  p : List Nat
  x : List Nat := []
  deriving DecidableEq, Repr

def useF (f : FullWord) (v p : List Nat) : Uses := { v, p := f.pred.toNat % 8 :: p }
def useL (f : LongWord) (v : List Nat) : Uses := { v, p := [f.pred.toNat % 8] }

/-- The predicate of a non-blocking queue operand. -/
def nbPred (x : Byte) : List Nat := if qNB x then [qPred x] else []

/-- A word of opcode groups 0x0 to 0x4: direct and indirect registers, predicate fields, a queue operand's flag. -/
def useR75 (r : Row) (f : FullWord) (nreq : Nat) (t : Thread) : Uses :=
  let fields := [0, 1, 2, 3]
  let ind := fields.flatMap fun i => match r.at_ i with
    | .v ty =>
      if isDirect f i || omodeOf f != 1 then []
      else match indirect t nreq ty (fieldAt f i) with
        | .ok n => (List.range (nRegs ty)).map (n + ·)
        | .error _ => []
    | _ => []
  let ps := fields.flatMap fun i => match r.at_ i with
    | .p => [(fieldAt f i).toNat % 8]
    | _ => []
  { useF f (r75Regs r f ++ ind)
      (ps ++ r.preds ++ if omodeOf f = 4 then nbPred (fieldAt f (oselOf f)) else []) with
    x := r.xs ++ if omodeOf f = 1 then [(fieldAt f (oselOf f)).toNat / 64] else [] }

/-- Predicates of a cross-lane word (R208). -/
def xUseP (k : XOp) (f : FullWord) : List Nat :=
  (if xPredD k f then [f.d.toNat % 8] else []) ++ (if xPredA k then [f.a.toNat % 8] else []) ++
  (if pvOf f then [pnOf f] else [])

/-- Predicates of a slot. -/
def slotPreds (o : SlotOp) (x : Slot) : List Nat :=
  match slotKind o with
  | .pred2 => [x.d.toNat % 8, x.a.toNat % 8, x.b.toNat % 8]
  | .pred1 => [x.d.toNat % 8, x.a.toNat % 8]
  | .setc => [x.d.toNat % 8]
  | _ => []

def useP (ox : SlotOp) (p : PairWord) : Uses :=
  { v := slotRegs ox p.x ++ slotRegs p.opY p.y, p := slotPreds ox p.x ++ slotPreds p.opY p.y }

/-- What a word names, in a thread whose group holds n registers a lane. -/
def usesOf (n : Nat) (t : Thread) : Instr → Uses
  | .add f => useR75 (rowDAB typesI 0 f) f n t
  | .sub f => useR75 (rowDAB typesI 0 f) f n t
  | .addc f => useR75 (rowCarry f) f n t
  | .subb f => useR75 (rowCarry f) f n t
  | .mul f => useR75 (rowDAB typesI 0 f) f n t
  | .mulh f => useR75 (rowDAB [0x04, 0x08, 0x0A, 0x0B] 0 f) f n t
  | .mulw f => useR75 (rowMulw f) f n t
  | .mad f => useR75 (rowDABC [0x04, 0x08, 0x05, 0x09, 0x0A, 0x0B] 0 f) f n t
  | .madh f => useR75 (rowDABC typesW 0 f) f n t
  | .div f => useR75 (rowDAB [0x04, 0x08, 0x05, 0x09] 0 f) f n t
  | .rem f => useR75 (rowDAB [0x04, 0x08, 0x05, 0x09] 0 f) f n t
  | .neg f => useR75 (rowDA typesS 1 f) f n t
  | .abs f => useR75 (rowDA typesS 1 f) f n t
  | .min f => useR75 (rowDAB typesI 0 f) f n t
  | .max f => useR75 (rowDAB typesI 0 f) f n t
  | .clamp f => useR75 (rowDABC typesI 0 f) f n t
  | .sadd f => useR75 (rowDAB typesI 0 f) f n t
  | .ssub f => useR75 (rowDAB typesI 0 f) f n t
  | .dot2s f => useR75 (rowAcc [0x0A, 0x0B] 0 [] f) f n t
  | .sad f => useR75 (rowAcc [0x04, 0x08, 0x0A, 0x0B] 1 (sadSubs f) f) f n t
  | .and f => useR75 (rowDAB typesB 0 f) f n t
  | .or f => useR75 (rowDAB typesB 0 f) f n t
  | .xor f => useR75 (rowDAB typesB 0 f) f n t
  | .not f => useR75 (rowDA typesB 0 f) f n t
  | .lop3 f => useR75 (rowLop3 f) f n t
  | .shl f => useR75 (rowShift [0x00, 0x01, 0x0B] f) f n t
  | .shr f => useR75 (rowShift [0x00, 0x01, 0x0B] f) f n t
  | .sar f => useR75 (rowShift [0x04, 0x05, 0x0A] f) f n t
  | .rot f => useR75 (rowDAB [0x00] 1 f) f n t
  | .shf f => useR75 (rowDABC [0x00] 3 f) f n t
  | .rshr f => useR75 (rowRshr f) f n t
  | .bext f => useR75 (rowDAB typesW 0 f) f n t
  | .bins f => useR75 (rowDABC [0x00] 0 f) f n t
  | .bmsk f => useR75 (rowDA [0x00] 0 f) f n t
  | .brev f => useR75 (rowDA typesB 0 f) f n t
  | .popc f => useR75 (rowCount f) f n t
  | .clz f => useR75 (rowCount f) f n t
  | .ctz f => useR75 (rowCount f) f n t
  | .perm f => useR75 (rowDABC [0x00] 0 f) f n t
  | .sext f => useR75 (rowDAB [0x00] 0 f) f n t
  | .zext f => useR75 (rowDAB [0x00] 0 f) f n t
  | .setc f => useR75 (rowSetc f) f n t
  | .sel f => useR75 (rowSel f) f n t
  | .mov f => useR75 (rowMov f) f n t
  | .pset f => useR75 (rowPset f) f n t
  | .pand f => useR75 (rowPred2 f) f n t
  | .por f => useR75 (rowPred2 f) f n t
  | .pxor f => useR75 (rowPred2 f) f n t
  | .pnot f => useR75 (rowPred1 f) f n t
  | .fadd f => useR75 (rowF2 f) f n t
  | .fsub f => useR75 (rowF2 f) f n t
  | .fmul f => useR75 (rowF2 f) f n t
  | .ffma f => useR75 (rowF3 f) f n t
  | .fmin f => useR75 (rowDAB typesFA 8 f) f n t
  | .fmax f => useR75 (rowDAB typesFA 8 f) f n t
  | .fcmp f => useR75 (rowFcmp f) f n t
  | .fclass f => useR75 (rowFclass f) f n t
  | .fcopysign f => useR75 (rowFcopysign f) f n t
  | .fscale f => useR75 (rowFscale f) f n t
  | .frnd f => useR75 (rowF1 f) f n t
  | .fdot2 f => useR75 (rowFdot2 f) f n t
  | .frcp f => useR75 (rowF1 f) f n t
  | .frsq f => useR75 (rowFun f) f n t
  | .fsqrt f => useR75 (rowF1 f) f n t
  | .fdiv f => useR75 (rowF2 f) f n t
  | .fexp2 f => useR75 (rowFun f) f n t
  | .flog2 f => useR75 (rowFun f) f n t
  | .fsin f => useR75 (rowFun f) f n t
  | .fcos f => useR75 (rowFun f) f n t
  | .ftanh f => useR75 (rowFun f) f n t
  | .fsigm f => useR75 (rowFun f) f n t
  | .cvt f => useR75 (rowCvt f) f n t
  | .cvti f => useR75 (rowCvti f) f n t
  | .cvtx f => useR75 (rowCvtx f) f n t
  | .ld f => useF f (memRegs false f) []
  | .st f => useF f (memRegs false f) []
  | .ldx f => useF f (memRegs true f) []
  | .lda f => useF f (memRegs false f) []
  | .stl f => useF f (memRegs false f) []
  | .atom f => useF f (atomRegs false false f) []
  | .acas f => useF f (atomRegs true false f) []
  | .red f => useF f (atomRegs false true f) []
  | .tbind f => useF f [f.a.toNat, f.b.toNat] []
  | .tstate f => useF f [f.d.toNat] []
  | .tdrain f => useF f (copyRegs .tdrain f) []
  | .tfree f => useF f [] []
  | .cpy f => useF f (copyRegs .cpy f) []
  | .cpyc f => useF f (copyRegs .cpyc f) []
  | .gath f => useF f (copyRegs .gath f) []
  | .scat f => useF f (copyRegs .scat f) []
  | .cpys f => useF f (copyRegs .cpys f) []
  | .cpre f => useF f [f.a.toNat] []
  | .fence f => useF f [] []
  | .sacq f => useF f (baseRegs (syncSpace f) false f.a) []
  | .srel f => useF f (baseRegs (syncSpace f) false f.a) []
  | .stry f => useF f (baseRegs (syncSpace f) false f.a) [f.d.toNat % 8]
  | .cinv f => useF f (baseRegs (spaceOf f) false f.a ++ [f.b.toNat]) []
  | .cwb f => useF f (baseRegs (spaceOf f) false f.a ++ [f.b.toNat]) []
  | .chint f => useF f (baseRegs (spaceOf f) false f.a ++ [f.b.toNat]) []
  | .cbld f => useF f (baseRegs (spaceOf f) false f.a ++ [f.b.toNat]) []
  | .cbst f => useF f (baseRegs (spaceOf f) false f.a ++ [f.b.toNat]) []
  | .cbw f => useF f [f.a.toNat, f.b.toNat] []
  | .cbinv f => useF f [f.b.toNat] []
  | .cbfence f => useF f [] []
  | .bra f => useL f []
  | .brx f => useF f (if brxRel f then [f.a.toNat] else [f.a.toNat, f.a.toNat + 1]) []
  | .call f => useL f (pairRegs f.d)
  | .ret f => useF f [f.a.toNat, f.a.toNat + 1] []
  | .exit f => useF f [] []
  | .yield f => useF f [] []
  | .wait f => useF f (if f.mod.getLsbD 3 then [f.a.toNat] else []) []
  | .nop f => useF f [] []
  | .barArr f => useF f [] []
  | .barWait f => useF f [f.d.toNat] []
  | .barSync f => useF f [f.d.toNat] []
  | .barExp f => useF f [f.a.toNat] []
  | .barStat f => useF f ((List.range 4).map (f.d.toNat + ·)) []
  | .xshf f => useF f (xRegs .shf f) (xUseP .shf f)
  | .xred f => useF f (xRegs .red f) (xUseP .red f)
  | .xscan f => useF f (xRegs .scan f) (xUseP .scan f)
  | .xvote f => useF f (xRegs .vote f) (xUseP .vote f)
  | .xmatch f => useF f (xRegs .match_ f) (xUseP .match_ f)
  | .xelect f => useF f (xRegs .elect f) (xUseP .elect f)
  | .xbpc f => useF f (xRegs .bpc f) (xUseP .bpc f)
  | .qpush f => useF f [f.a.toNat] (nbPred f.b)
  | .qpop f => useF f [f.d.toNat] (nbPred f.b)
  | .qpeek f => useF f [f.d.toNat] (nbPred f.b)
  | .agrow f => useF f [] [f.d.toNat % 8]
  | .ashrink f => useF f [] []
  | .trap f => useF f [] []
  | .tret f => useF f [] []
  | .sinj f => useF f [f.a.toNat] []
  | .srd f => useF f [f.d.toNat] []
  | .swr f => useF f [f.b.toNat] []
  | .gset f => useF f [f.a.toNat] []
  | .mres f => useF f [f.a.toNat] []
  | .mrel f => useF f [] []
  | .mfill f => useF f [f.b.toNat] []
  | .mma f => useF f [f.c.toNat] []
  | .mtrq f => useF f (pairRegs f.d ++ [f.c.toNat]) []
  | .mdrain f => useF f [f.b.toNat] []
  | .mzero f => useF f [] []
  | .mqry f => useF f [f.d.toNat, f.d.toNat + 1] []
  | .movi f => useL f [f.d.toNat]
  | .addLong f => useL f [f.d.toNat, f.a.toNat]
  | .mulLong f => useL f [f.d.toNat, f.a.toNat]
  | .andLong f => useL f [f.d.toNat, f.a.toNat]
  | .orLong f => useL f [f.d.toNat, f.a.toNat]
  | .xorLong f => useL f [f.d.toNat, f.a.toNat]
  | .pairedAdd p => useP .add p
  | .pairedSub p => useP .sub p
  | .pairedMul p => useP .mul p
  | .pairedMinI32 p => useP .minI32 p
  | .pairedMaxI32 p => useP .maxI32 p
  | .pairedMinN32 p => useP .minN32 p
  | .pairedMaxN32 p => useP .maxN32 p
  | .pairedAnd p => useP .and p
  | .pairedOr p => useP .or p
  | .pairedXor p => useP .xor p
  | .pairedShl p => useP .shl p
  | .pairedShr p => useP .shr p
  | .pairedSar p => useP .sar p
  | .pairedPopc p => useP .popc p
  | .pairedClz p => useP .clz p
  | .pairedMov p => useP .mov p
  | .pairedAddImm p => useP .addImm p
  | .pairedAndImm p => useP .andImm p
  | .pairedOrImm p => useP .orImm p
  | .pairedXorImm p => useP .xorImm p
  | .pairedShlImm p => useP .shlImm p
  | .pairedShrImm p => useP .shrImm p
  | .pairedSarImm p => useP .sarImm p
  | .pairedFaddF32 p => useP .faddF32 p
  | .pairedFsubF32 p => useP .fsubF32 p
  | .pairedFmulF32 p => useP .fmulF32 p
  | .pairedFminF32 p => useP .fminF32 p
  | .pairedFmaxF32 p => useP .fmaxF32 p
  | .pairedFaddF16x2 p => useP .faddF16x2 p
  | .pairedFmulF16x2 p => useP .fmulF16x2 p
  | .pairedFaddBf16x2 p => useP .faddBf16x2 p
  | .pairedFmulBf16x2 p => useP .fmulBf16x2 p
  | .pairedCvtF32I32 p => useP .cvtF32I32 p
  | .pairedCvtI32F32 p => useP .cvtI32F32 p
  | .pairedLdCs p => useP .ldCs p
  | .pairedStCs p => useP .stCs p
  | .pairedLdKs p => useP .ldKs p
  | .pairedStKs p => useP .stKs p
  | .pairedLdLp p => useP .ldLp p
  | .pairedStLp p => useP .stLp p
  | .pairedSrd p => useP .srd p
  | .pairedPand p => useP .pand p
  | .pairedPor p => useP .por p
  | .pairedPxor p => useP .pxor p
  | .pairedPnot p => useP .pnot p
  | .pairedSetcEq p => useP .setcEq p
  | .pairedSetcNe p => useP .setcNe p
  | .pairedSetcLtI32 p => useP .setcLtI32 p
  | .pairedSetcLtN32 p => useP .setcLtN32 p
  | .pairedSetcLeI32 p => useP .setcLeI32 p
  | .pairedSetcLeN32 p => useP .setcLeN32 p
  | .coachFormation _ _ | .agePromotion _ _ | .variableLatencyResult _ _ | .agrowGrant _ _ | .sacqGrant _ _ |
    .queueWaitService _ | .waitCyclesElapsed _ _ | .watchdog _ _ | .storePathFlush _ _ _ | .translationWalk _ _ _ |
    .copyCompletion _ | .copyStop _ | .cpysSourceReadDone _ | .mmaExecuteStart _ | .mmaOpRetire _ |
    .mdrainComplete _ _ | .exitPendingRelease _ | .dispatchBatch _ | .sqtail _ _ _ | .registerWrite _ _ _ |
    .pipelineStageLaunch _ _ | .pipelineReview _ | .hbmLineRead _ | .hbmLineWrite _ | .patrolScrub _ |
    .hostIngress _ _ _ | .hostEgress _ _ _ | .cxlMemAccess _ _ _ | .podPacketReceive _ _ _ _ _ |
    .ethernetFrameReceive _ _ _ | .ethernetFrameTransmit _ _ | .meshLinkFailure _ | .contextSave _ |
    .securityAlarm _ | .unassignedOpcode _ | .instructionFetchComplete _ _ | .opOperandFetchComplete _ |
    .mfillComplete _ | .bankWriteComplete _ _ | .redPerformed _ _ | .mbrepRead _ | .placeWorkgroup | .gangHold |
    .placementStarvation | .latencyReservePreemption | .taskEntryFetch | .taskRename | .bufferStarvationDiscard |
    .tkNop | .tkRun | .tkPipe | .tkCopy | .tkFill | .tkFree | .tkBind | .tkUnbind | .tkSignal | .tkWait |
    .tkWaitPoll | .tkWaitTimeout | .tkLink | .tkResume | .tkSucc | .tkFence | .tkRec | .taskCompletion |
    .taskRetire | .takeFault | .partitionCreate | .partitionDestroy | .shrink | .grow | .halt | .resume |
    .checkpoint | .setroot | .tlbinv | .addbuf | .setwin | .setxs | .setresume | .setreserve | .bindvi |
    .streamCreate | .streamDestroy | .restart | .skip | .abort | .clear | .resetDie | .dieDrainExpiry |
    .linkRetrainComplete | .peek | .scrub | .inject | .getcert | .attest | .load | .grant | .revoke | .podkey |
    .join | .barreg | .fwimage | .coldReset | .powerLoss | .computeDieLinkFailure | .badMessage => { v := [], p := [] }

end Sys2Proof.Machine
end

