-- ==== Sys2Proof/Machine/Sched.lean ====
section
/-! DEFINITION. The quarters' schedulers: eligibility (R288), participations (R289), the coach (R290), instruction
fetch (R38, R69, R317), the landing of results, age, growth grants (R217, R297) and the watchdog (R225). -/

namespace Sys2Proof.Machine

open Sys2Proof

/-! ### Eligibility -/

/-- How a thread stands: ready alone, ready to join the members of a participation, or ineligible; `watched` tells
the waits that the watchdog counts (R225). -/
inductive Stand where
  | free
  | join (ms : List Nat)
  | stop (watched : Bool)
  deriving DecidableEq, Repr

def fetchedWord (f : Fetched) : W64 := f.hi.val ++ f.lo.val

/-- The results still to land that a word has to wait for (R16, R72). -/
def stalls (t : Thread) (u : Uses) : List PendSrc :=
  (t.pend.filter fun p =>
    p.v.any (fun x => x.1 != 255 && u.v.contains x.1) || p.p.any (fun x => x.1 != 7 && u.p.contains x.1) ||
      p.x.any fun x => u.x.contains x.1).map (·.src)

/-- A handler in progress leaves only its own lanes, until their `tret`, to run (R220). -/
def parked (G : Group) (l : Nat) : Bool :=
  match G.trap with
  | some c => !c.entry.getLsbD l || c.atTret.getLsbD l
  | none => false

/-- Whether a wait that stands in a thread is over (R186, R204, R213, R224). -/
def waitOver (s : State) (g : Nat) (G : Group) (l : Nat) (t : Thread) : Bool :=
  match t.wait with
  | .none => true
  | .bar lvl num => (getRec G lvl num).any (·.done)
  | .gset => true
  | .sacq => s.syncWaits.any fun w => w.is g l && w.granted
  | .queue => s.queues.any fun q => q.2.waiters.any fun w => w.is g l && w.granted
  | .cond _ _ _ | .mfill | .cbfence => false

def watchedWait (w : Wait) : Bool :=
  match w with
  | .bar _ _ | .sacq | .queue => true
  | .none | .gset | .cond _ _ _ | .mfill | .cbfence => false

/-- What holds a thread whatever its word is: fetch, waits, its group's `mfill` (R233), handlers, pending results (R288). -/
def baseStand (s : State) (g : Nat) (G : Group) (l : Nat) (t : Thread) : Stand :=
  if !t.live || G.halted || parked G l || s.mfills.any (fun m => m.grp == g) then .stop false
  else if !waitOver s g G l t then .stop (watchedWait t.wait)
  else match t.ibuf with
    | none => .stop false
    | some f =>
      if (fetchTrap t).isSome then .free
      else match stalls t (usesOf G.nreq t (decodeWord (fetchedWord f))) with
        | [] => .free
        | ps => .stop (ps.contains .agrow)

/-- Lanes of a group at a lane's word with a true guard. -/
def activeAt (pred : BitVec 4) (s : State) (g l : Nat) : List Nat :=
  (lanesAt s g (pcOf s g l)).filter fun k => ((getT s g k).bind (guardOf pred)) == some true

/-- Whether a group word, issued now, would hold its lanes. -/
def wouldHold (i : WordInfo) (pre : State → Nat → Nat → Option Trap) (body : State → Nat → List Nat → GroupRes)
    (s : State) (g l : Nat) : Bool :=
  match getT s g l with
  | none => false
  | some t => (headTrap i pre s g l t).isNone && guardOf i.pred t == some true && (i.own s g).isNone &&
      !(body s g (activeAt i.pred s g l)).held.isEmpty

def allLanes (s : State) (g : Nat) : List Nat := ((getG s g).map liveLanes).getD []

/-- A group word that all live threads of the group reach together (R201, R216, R174); `watched` tells whether what then holds
it is a wait of R225. -/
def together (s : State) (g l : Nat) (held watched : Bool) : Stand :=
  let all := allLanes s g
  if all.all (lanesAt s g (pcOf s g l)).contains then (if held then .stop watched else .join all) else .stop true

/-- gset: every group of the workgroup has reached it, with its word and the value's result there, or it has completed (R224). -/
def gsetStand (s : State) (g l : Nat) : Stand :=
  let there (x : Nat × Group) : Bool := (liveLanes x.2).all fun k =>
    (x.2.threads[k]?).any fun t => baseStand s x.1 x.2 k t == .free
  together s g l (!gsetPassed s g l && !(gsetReady s g l && (liveGroups s g).all there)) true

def alone (held watched : Bool) : Stand := if held then .stop watched else .free

/-- The lanes that run a handler (R221). -/
def handlerLanes (G : Group) : List Nat :=
  match G.trap with
  | some c => (liveLanes G).filter fun l => c.entry.getLsbD l && !c.atTret.getLsbD l
  | none => []

/-- sinj in a handler waits for the handler's lanes (R221); outside it raises PRIVILEGE lane by lane. -/
def sinjStand (s : State) (g l : Nat) : Stand :=
  match (getG s g).map handlerLanes with
  | some (k :: ks) => if (k :: ks).all (lanesAt s g (pcOf s g l)).contains then .join (k :: ks) else .stop true
  | _ => .free

def crossStand (f : FullWord) (s : State) (g l : Nat) : Stand :=
  match partyOf f s g l with
  | .bad _ => .free
  | .wait => .stop true
  | .members ms | .clash ms => .join ms

/-- The waits that make the whole group ineligible: `mrel` for the ops that read its reservation, `mma` and `mtrq` for a place
in the queue, `mdrain` for the ops that name its accumulator (R232, R240, R242). -/
def groupWaits (s : State) (g l : Nat) (i : Instr) : Bool :=
  match i with
  | .mrel f => wouldHold (infoOf f) (mrelPre f) (mrelBody f) s g l
  | .mma f => queueFull s (coreOf s g) && wouldHold (mmaInfo f) (mmaPre f) (mmaBody f) s g l
  | .mtrq f => queueFull s (coreOf s g) && wouldHold (mtrqInfo f) (mtrqPre f) (mtrqBody f) s g l
  | .mdrain f => tileIs .empty s (coreOf s g) (f.a.toNat % 64) &&
      wouldHold (infoOf f) (mdrainPre f) (mdrainBody f) s g l
  | _ => false

/-- Whether a lane of a group stands at a word whose wait makes the whole group ineligible; their opcodes are those of
group 0xA. -/
def groupHeld (s : State) (g : Nat) (G : Group) : Bool :=
  (liveLanes G).any fun l => (G.threads[l]?).any fun t => t.ibuf.any fun f =>
    (fetchedWord f).extractLsb' 58 4 == 0xA && baseStand s g G l t == .free &&
      groupWaits s g l (decodeWord (fetchedWord f))

/-- What the word itself has to wait for (R288). -/
def wordStand (s : State) (g l : Nat) (i : Instr) : Stand :=
  let copy (k : CopyKind) (f : FullWord) : Bool := wouldHold (copyInfo k f) (copyPre k f) (copyBody k f) s g l
  match i with
  | .barArr _ | .barWait _ | .barSync _ | .barExp _ => together s g l false true
  | .gset _ => gsetStand s g l
  | .agrow f => together s g l
      (wouldHold (infoOf f) (fun _ _ _ => subTrap (allotSubs true f)) (agrowBody f) s g l) true
  | .ashrink f => together s g l
      (wouldHold (infoOf f) (fun _ _ _ => subTrap (allotSubs false f)) (ashrinkBody f) s g l) true
  | .cpy f => together s g l (copy .cpy f) (tileWaits .cpy f s g)
  | .cpyc f => together s g l (copy .cpyc f) (tileWaits .cpyc f s g)
  | .cpys f => together s g l (copy .cpys f) (tileWaits .cpys f s g)
  | .gath f => alone (copy .gath f) false
  | .scat f => alone (copy .scat f) false
  | .tdrain f => alone (copy .tdrain f) (tileWaits .tdrain f s g)
  | .cpre f => alone (wouldHold (infoOf f) (cprePre f) (cpreBody f) s g l) false
  | .tbind f => alone (wouldHold (infoOf f) (tbindPre f) (tbindBody f) s g l) true
  | .tfree f => alone (wouldHold (infoOf f) (tfreePre f) (tfreeBody f) s g l) true
  | .xshf f | .xred f | .xscan f | .xvote f | .xmatch f | .xelect f | .xbpc f => crossStand f s g l
  | .sinj _ => sinjStand s g l
  | .mfill f => alone (wouldHold (mfillInfo f) (mfillPre f)
      (fun s g ls => if tileIs .ready s (coreOf s g) (f.a.toNat % 64) && !resvBusy s (coreOf s g) (f.d.toNat % 32) &&
          !s.mfills.any (fun m => m.grp == g) then .done s else mfillBody f s g ls) s g l)
      (!tileIs .ready s (coreOf s g) (f.a.toNat % 64))
  | .mdrain f => alone (wouldHold (infoOf f) (mdrainPre f) (mdrainBody f) s g l)
      (!tileIs .empty s (coreOf s g) (f.a.toNat % 64))
  | .mzero f => alone (wouldHold (infoOf f) (mzeroPre f) (mzeroBody f) s g l) false
  | .mqry f => alone (wouldHold (infoOf f) (mqryPre f) (mqryBody f) s g l) false
  | _ => .free

/-- How a thread stands now. -/
def standOf (s : State) (g : Nat) (G : Group) (l : Nat) (t : Thread) : Stand :=
  match baseStand s g G l t with
  | .free =>
    if groupHeld s g G then .stop false
    else if (fetchTrap t).isSome then .free
    else match t.ibuf with
      | none => .stop false
      | some f => match wordStand s g l (decodeWord (fetchedWord f)) with
        | .join ms =>
          if ms.all fun k => (G.threads[k]?).any fun u => baseStand s g G k u == .free then .join ms else .stop true
        | x => x
  | x => x

def eligible (s : State) (g : Nat) (G : Group) (l : Nat) (t : Thread) : Bool :=
  match standOf s g G l t with
  | .stop _ => false
  | _ => true

/-! ### The cycle -/

/-- The wait count at the start of the next cycle, before eligibility is judged (R287). -/
def ageThread (issued : Bool) (t : Thread) : Thread := { t with w := if issued then 0 else min 4096 (t.w + 1) }

/-- ELG and the count of the cycles in which the thread has stayed ineligible at its word, which freezes in a halted group
(R225, R288, R390). -/
def judgeThread (s : State) (g : Nat) (G : Group) (l : Nat) (t : Thread) : Thread :=
  if G.halted then { t with elg := false }
  else match standOf s g G l t with
  | .stop _ => { t with elg := false, stuck := t.stuck + 1 }
  | _ => { t with elg := true, stuck := 0 }

def mapThreads (f : Nat → Group → Nat → Thread → Thread) (gs : AList Group) : AList Group :=
  gs.map fun x => (x.1, { x.2 with threads := x.2.threads.zipIdx.map fun y => f x.1 x.2 y.2 y.1 })

/-- The next cycle begins: the barriers are tested (R202), counts advance and every thread's eligibility is judged. -/
def tick (s : State) : State :=
  let s := noteBars (testBars s)
  let s := { s with
    cycle := s.cycle + 1, turn := 0, issued := [],
    groups := mapThreads (fun g _ l => ageThread (s.issued.contains (g, l))) s.groups }
  { s with groups := mapThreads (judgeThread s) s.groups }

/-! ### Coach formation (R290) -/

/-- An entry of the sorted PC table, or a participation. -/
structure Entry where
  cls : Nat
  pc : W64
  party : Bool
  w : Nat
  slot : Nat
  lanes : List (Nat × Nat)
  word : Option Fetched
  deriving DecidableEq, Repr

def clsCode (c : AgeClass) : Nat := match c with | .promoted => 0 | .normal => 1 | .yielded => 2

/-- Whether entry a stands strictly ahead of b. -/
def ahead (a b : Entry) : Bool :=
  if a.cls ≠ b.cls then decide (a.cls < b.cls)
  else if a.pc ≠ b.pc then decide (a.pc.toNat < b.pc.toNat)
  else if a.party ≠ b.party then a.party
  else if a.w ≠ b.w then decide (b.w < a.w)
  else decide (a.slot < b.slot)

/-- The entries of one group. -/
def groupEntries (s : State) (g : Nat) (G : Group) : List Entry :=
  ((liveLanes G).filterMap fun l => (G.threads[l]?).bind fun t =>
    if !t.elg then none
    else match standOf s g G l t with
      | .stop _ => none
      | .free => some ⟨clsCode t.cls, t.pc, false, t.w, G.slot, [(g, l)], t.ibuf⟩
      | .join ms =>
        if ms.headD 32 ≠ l then none
        else
          let ts := ms.filterMap fun k => G.threads[k]?
          some ⟨ts.foldl (fun m u => min m (clsCode u.cls)) 2, t.pc, true, ts.foldl (fun m u => max m u.w) 0, G.slot,
            ms.map fun k => (g, k), t.ibuf⟩)

def quarterEntries (s : State) (core qtr : Nat) : List Entry :=
  (s.groups.filter fun x => x.2.core == core && x.2.qtr == qtr).flatMap fun x => groupEntries s x.1 x.2

/-- The head of the table; two participations of one group that agree in every key are not ordered by R290. -/
def headEntry (free : Nat) (es : List Entry) : Option Entry :=
  match es.filter fun e => !es.any fun x => ahead x e with
  | [] => none
  | [e] => some e
  | e :: r => (e :: r)[Config.order free % (r.length + 1)]?

/-- The best thread of a lane column at the head's word. -/
def columnBest (h : Entry) (es : List Entry) (c : Nat) : Option (Nat × Nat) :=
  let cand := es.filter fun e => !e.party && e.pc == h.pc && e.word == h.word && (e.lanes.headD (0, 32)).2 == c
  (cand.find? fun e => !cand.any fun x => ahead x e).bind fun e => e.lanes.head?

/-- The coach of a quarter in this cycle. -/
def coachOf (s : State) (core qtr : Nat) : Option Coach :=
  let es := quarterEntries s core qtr
  (headEntry s.free es).map fun h =>
    ⟨core, qtr, if h.party then h.lanes else (List.range 32).filterMap (columnBest h es)⟩

/-- R290 -/
def execCoachFormation (core qtr : Nat) (s : State) : Host.Outcome State Fault Refusal :=
  .next (if s.coach.isSome then s
    else match coachOf s core qtr with
      | none => s
      | some c => { s with coach := some c, issued := s.issued ++ c.lanes, free := s.free + 1 })

/-! ### Ages, results, waits -/

/-- R287 -/
def execAgePromotion (grp lane : Nat) (s : State) : Host.Outcome State Fault Refusal :=
  .next (match getT s grp lane with
    | none => s
    | some t => if 4096 ≤ t.w ∧ t.live then modT s grp lane fun t => { t with cls := .promoted } else s)

/-- The cycle of issue of the oldest result of its own that a thread waits for. -/
def oldestPend (t : Thread) : Option Nat := (t.pend.find? fun p => p.src == .direct).map (·.cycle)

/-- A result that a word of its own delivers, issued in a cycle. -/
def issuedIn (c : Nat) (p : Pend) : Bool := p.src == .direct && p.cycle == c

/-- R72: the results that one coach left pending in a group land together, in all its lanes: the program of R264 to R267
relies on it, since its lanes stay in step past their loads (log entry 9). -/
def execVariableLatencyResult (grp lane : Nat) (s : State) : Host.Outcome State Fault Refusal :=
  .next (match (getT s grp lane).bind oldestPend with
    | none => s
    | some c => modG s grp fun G => { G with threads := G.threads.map (landThose (issuedIn c)) })

/-- R198: a red is performed at its home. -/
def execRedPerformed (grp lane : Nat) (s : State) : Host.Outcome State Fault Refusal :=
  .next (modT s grp lane fun t => { t with reds := t.reds - 1 })

/-- R352 -/
def execExitPendingRelease (wg : Nat) (s : State) : Host.Outcome State Fault Refusal :=
  .next (match aget s.wgs wg with
    | none => s
    | some W => if W.status = .exitPending ∧ !wgBusy s wg W then wgRelease s wg else s)

/-- R307 -/
def execStorePathFlush (core : Nat) (xs : Bool) (line : Nat) (s : State) : Host.Outcome State Fault Refusal :=
  .next (flushLine s core xs line)

/-- R311, R315: the leaf that a walk finds enters the core's TLB; a fault is left to the access itself. -/
def execTranslationWalk (core part va : Nat) (s : State) : Host.Outcome State Fault Refusal :=
  .next (translate s core part va).2

/-! ### Growth (R216, R217, R297) -/

/-- Whether a thread waits at a queue, or at a barrier: in its wait, or at a word of one that its group has not reached
together (R201, R204, R297). -/
def waitsElsewhere (t : Thread) : Bool :=
  match t.wait with
  | .bar _ _ | .queue => true
  | _ => t.ibuf.any fun f => match decodeWord (fetchedWord f) with
    | .barWait _ | .barSync _ => true
    | _ => false

/-- Whether a group waits in agrow. -/
def waitsInAgrow (s : State) (g : Nat) (G : Group) : Bool :=
  G.agrow.isSome && (liveLanes G).all fun l => (G.threads[l]?).any fun t => !eligible s g G l t && !waitsElsewhere t

/-- The group of a quarter that was placed on it last. -/
def youngest (gs : AList Group) : Option Nat :=
  (gs.foldl (fun (m : Option (Nat × Group)) x => match m with
    | none => some x
    | some y => if y.2.placed < x.2.placed then some x else m) none).map (·.1)

/-- R216, R217: the oldest request is granted, or the youngest one fails. -/
def execAgrowGrant (core qtr : Nat) (s : State) : Host.Outcome State Fault Refusal :=
  .next (match grantable s core qtr with
    | some (g, n) => modG s g fun G => answerGrow true (resize n G)
    | none =>
      let gs := s.groups.filter fun x => x.2.core == core && x.2.qtr == qtr
      if gs.all fun x => waitsInAgrow s x.1 x.2 then
        match youngest gs with
        | some g => modG s g (answerGrow false)
        | none => s
      else s)

/-! ### The watchdog (R225) -/

/-- Waiters that have left their wait leave the lists of waiters; those of a saved group keep their turn (R226). -/
def dropStale (s : State) : State :=
  { s with
    syncWaits := s.syncWaits.filter fun x => (getT s x.grp x.lane).any fun t => t.wait == .sacq,
    queues := s.queues.map fun q =>
      (q.1, { q.2 with waiters := q.2.waiters.filter fun w => atQueue s w.grp w.lane || (getG s w.grp).isNone }) }

/-- Lanes at a lane's word that have been ineligible there beyond the limit, in a wait that R225 names. -/
def overdue (s : State) (g l : Nat) : List Nat :=
  let limit := ((gridOf s g).map (·.kd.wdog)).getD 0
  if limit = 0 then []
  else (lanesAt s g (pcOf s g l)).filter fun k => (getT s g k).any fun t =>
    decide (limit < t.stuck) && (getG s g).any fun G => !parked G k && standOf s g G k t == .stop true

/-- R225 -/
def execWatchdog (grp lane : Nat) (s : State) : Host.Outcome State Fault Refusal :=
  .next (let ls := overdue s grp lane
    if ls.contains lane then
      dropStale (takeTrap s grp (pcOf s grp lane) (ls.map fun l => (l, trapAt causeWatchdog 0 0, .none)))
    else s)

/-! ### Instruction fetch (R38, R69, R317) -/

/-- A line in a core's instruction cache, filled from its home; the cache holds 1,024 lines, none of a page with CL = 2 and
none of the pod's or the host's (R307). -/
def icLine (s : State) (core pa : Nat) (at_ : LineAttr) : List Word × State :=
  let kept := at_.cl != 2 && windowOf pa == 0
  match if kept then s.icache.find? fun c => c.core == core && c.line == pa / 64 else none with
  | some c => (c.words, s)
  | none =>
    let (ws, s) := homeRead s pa at_
    let mine := s.icache.filter fun c => c.core == core
    if !kept then (ws, s) else
    (ws, { s with icache := ⟨core, pa / 64, ws, false, 0, 0⟩ :: mine.take 1023 ++
      s.icache.filter fun c => c.core != core })

/-- Every line of a core's instruction cache dropped: a task's launch, a translation invalidation (R317). -/
def icDrop (s : State) (core : Nat) : State := { s with icache := s.icache.filter fun c => c.core != core }

/-- One half of a fetched word: the word, or cause and sub-code of the failure. -/
def fetchHalf (s : State) (core part : Nat) (sup : Bool) (va : Nat) : Except (Nat × Nat) Word × State :=
  match resolve s core part ⟨false, false, true, !sup⟩ va with
  | (.error e, s) => (.error e, s)
  | (.ok (pa, e), s) =>
    let (ws, s) := icLine s core pa (lineAttr e)
    (.ok (ws.getD (pa / 4 % 16) .zero), s)

/-- Waits whose word is issued again when they are over. -/
def reissues (w : Wait) : Bool :=
  match w with
  | .none | .bar _ _ | .gset | .sacq | .queue => true
  | .cond _ _ _ | .mfill | .cbfence => false

/-- Lanes of a group that still need the word at their PC. -/
def fetchers (s : State) (g : Nat) : List Nat :=
  match getG s g with
  | none => []
  | some G => (liveLanes G).filter fun k =>
      !parked G k && (G.threads[k]?).any fun t => t.ibuf.isNone && reissues t.wait

/-- Those at a lane's word. -/
def fetchLanes (s : State) (g l : Nat) : List Nat := (fetchers s g).filter fun k => pcOf s g k == pcOf s g l

/-- A page that a core fetches a kernel's code from joins those of its grid (R419). -/
def notePage (s : State) (g page : Nat) (sup : Bool) : State :=
  match wgOf s g with
  | none => s
  | some W => modGrid s W.grid fun k =>
    if k.pages.any fun x => x.1 == page then k else { k with pages := (page, coreOf s g, sup) :: k.pages }

/-- The word at a lane's PC arrives for the group's lanes there, or fails translation or permission. -/
def fetchGroup (s : State) (g l : Nat) : State :=
  let ls := fetchLanes s g l
  match getG s g with
  | none => s
  | some G =>
    let pc := pcOf s g l
    let trap (s : State) (e : Nat × Nat) : State :=
      takeTrap s g pc (ls.map fun k => (k, trapAt e.1 e.2 pc, .none))
    if !ls.contains l then s
    else match fetchHalf s G.core (partOf s g) (isSuper G l) pc.toNat with
      | (.error e, s) => trap s e
      | (.ok lo, s) => match fetchHalf s G.core (partOf s g) (isSuper G l) (pc + 4).toNat with
        | (.error e, s) => trap s e
        | (.ok hi, s) =>
          ls.foldl (fun s k => modT s g k fun t => { t with ibuf := some ⟨lo, hi⟩ }) (notePage s g (pc.toNat / 65536) (isSuper G l))

/-- The lanes of a group that wait for words in the 64-byte line of a lane's PC, at that lane's privilege. -/
def lineMates (s : State) (g l : Nat) : List Nat :=
  (fetchers s g).filter fun k => pcOf s g k / 64 == pcOf s g l / 64 && inHandler s g k == inHandler s g l

/-- R69, R317: a line that arrives serves all the lanes of the group that wait for a word in it (log entry 9). -/
def execInstructionFetchComplete (grp lane : Nat) (s : State) : Host.Outcome State Fault Refusal :=
  .next ((lineMates s grp lane).foldl (fun s k => if (lineMates s grp lane).contains k then fetchGroup s grp k else s)
    (fetchGroup s grp lane))

end Sys2Proof.Machine
end

