-- ==== Sys2Proof/Machine/Room.lean ====
section
/-! DEFINITION. Room on the cores of a die: what a workgroup needs, what a core has left, and the place that a
workgroup or gang takes (R286, R294 to R296). -/

namespace Sys2Proof.Machine

open Sys2Proof

/-- Lists compared place by place. -/
def lexLe : List Nat → List Nat → Bool
  | [], _ => true
  | _ :: _, [] => false
  | a :: x, b :: y => if a = b then lexLe x y else decide (a < b)

def insertBy {α : Type} (key : α → List Nat) (a : α) : List α → List α
  | [] => [a]
  | b :: r => if lexLe (key b) (key a) then b :: insertBy key a r else a :: b :: r

/-- Stable sort by a key. -/
def sortBy {α : Type} (key : α → List Nat) (l : List α) : List α := l.foldl (fun acc a => insertBy key a acc) []

/-- What a workgroup takes of a core: words of the register file group by group, scratchpad bytes, masks. -/
structure Want where
  words : List Nat
  scratch : Nat
  cb : W16
  acc : BitVec 4
  bc : W16
  deriving DecidableEq, Repr

/-- A quarter's free slots, its free words and the need of its oldest growth request. -/
structure QtrRoom where
  slots : Nat
  words : Nat
  need : Nat
  deriving DecidableEq, Repr

/-- What a core has left. `busy` tells a core that holds a workgroup, `shut` one that may not be used. -/
structure Room where
  core : Nat
  qtrs : List QtrRoom
  used : List (Nat × Nat)
  cb : W16
  acc : BitVec 4
  bc : W16
  busy : Bool
  shut : Bool
  deriving DecidableEq, Repr

/-- The cores of a partition on a die, and the `.ks` ranges in use by quad. -/
structure Yard where
  rooms : List Room
  ks : AList (List (Nat × Nat))
  deriving DecidableEq, Repr

/-- A place on a core: the quarters of the groups in order and the base of the `.cs` region. -/
structure Spot where
  core : Nat
  qtrs : List Nat
  csBase : Nat
  deriving DecidableEq, Repr

def wantOf (k : KDesc) : Want :=
  ⟨List.replicate k.groups (32 * allot k.nreq), k.scratch, k.cbmask, k.accmask, k.bcmask⟩

/-- The need of a quarter's oldest pending growth request (R286). -/
def growNeed (s : State) (core qtr : Nat) : Nat :=
  match growers s core qtr with
  | [] => 0
  | (_, G) :: _ => 32 * (allot ((G.agrow.map (·.n)).getD 0) - allot G.nreq)

def quarterRoom (s : State) (core qtr : Nat) : QtrRoom :=
  ⟨16 - (s.groups.filter fun x => x.2.core == core && x.2.qtr == qtr).length, freeWords s core qtr, growNeed s core qtr⟩

def wgsOn (s : State) (core : Nat) : AList Wg := s.wgs.filter fun x => x.2.core == core

def gridKd (s : State) (k : Nat) : KDesc := ((aget s.grids k).map (·.kd)).getD ⟨0, 0, false, 0, 0, 0, 0, 0, 0, 0, 0, 0, []⟩

/-- A core as it stands. -/
def roomOf (s : State) (shut : Bool) (core : Nat) : Room :=
  let ws := wgsOn s core
  let kds := ws.map fun x => (x.2.csBase, gridKd s x.2.grid)
  { core, qtrs := (List.range 4).map (quarterRoom s core), used := kds.map fun x => (x.1, x.2.scratch),
    cb := kds.foldl (fun m x => m ||| x.2.cbmask) 0, acc := kds.foldl (fun m x => m ||| x.2.accmask) 0,
    bc := kds.foldl (fun m x => m ||| x.2.bcmask) 0, busy := !ws.isEmpty, shut }

/-- The lowest base at which a range fits. -/
def firstFit (used : List (Nat × Nat)) (len limit : Nat) : Option Nat :=
  let free (b : Nat) : Bool :=
    decide (b + len ≤ limit) && used.all fun u => decide (b + len ≤ u.1) || decide (u.1 + u.2 ≤ b)
  ((0 :: used.map fun u => u.1 + u.2).filter free).min?

/-- The quarter a group goes to: of those that it fits, the one with the most free words, then the lowest. -/
def bestQuarter (qs : List QtrRoom) (a : Nat) : Option Nat :=
  (qs.zipIdx.foldl (fun (best : Option (Nat × Nat)) x =>
    if x.1.slots = 0 ∨ x.1.words < a + x.1.need then best
    else match best with
      | none => some (x.1.words, x.2)
      | some b => if b.1 < x.1.words then some (x.1.words, x.2) else best) none).map (·.2)

/-- Groups assigned in ascending index (R294). -/
def assignQuarters : List Nat → List QtrRoom → Option (List Nat × List QtrRoom)
  | [], qs => some ([], qs)
  | a :: r, qs =>
    (bestQuarter qs a).bind fun i =>
      (assignQuarters r (lmod qs i fun q => { q with slots := q.slots - 1, words := q.words - a })).map fun x =>
        (i :: x.1, x.2)

/-- A workgroup taken in by a core, if it fits (R294). -/
def Room.take (r : Room) (w : Want) : Option (Spot × Room) :=
  if r.shut || r.cb &&& w.cb != 0 || r.acc &&& w.acc != 0 || r.bc &&& w.bc != 0 then none
  else (firstFit r.used w.scratch (2 ^ 18)).bind fun base => (assignQuarters w.words r.qtrs).map fun x =>
    (⟨r.core, x.1, base⟩, { r with
      qtrs := x.2, used := (base, w.scratch) :: r.used, cb := r.cb ||| w.cb, acc := r.acc ||| w.acc,
      bc := r.bc ||| w.bc, busy := true })

def putRoom (y : Yard) (r : Room) : Yard := { y with rooms := y.rooms.map fun x => if x.core == r.core then r else x }

/-- Cores in the order in which a workgroup of a class takes them (R294, R296). -/
def coreOrder (y : Yard) (reserve : W16) (latency : Bool) : List Room :=
  if latency then y.rooms
  else
    let held (r : Room) : Bool := reserve.getLsbD (r.core / 4 % 16)
    let lively (r : Room) : Bool := y.rooms.any fun x => x.busy && quadOf x.core == quadOf r.core
    let out := y.rooms.filter fun r => !held r
    out.filter lively ++ out.filter (fun r => !lively r) ++ y.rooms.filter held

/-- The first of some rooms that takes a workgroup. -/
def firstRoom (w : Want) : List Room → Option (Spot × Room)
  | [] => none
  | r :: rs => (r.take w).or (firstRoom w rs)

/-- Gang members taken in, position p by core position p of a quad. -/
def takeGang (y : Yard) (quad : Nat) : List (Nat × Want) → Option (List Spot × Yard)
  | [] => some ([], y)
  | (p, w) :: rest =>
    (y.rooms.find? fun r => r.core == 4 * quad + p).bind fun r => (r.take w).bind fun x =>
      (takeGang (putRoom y x.2) quad rest).map fun z => (x.1 :: z.1, z.2)

/-- The place of a gang on a quad, and the base of its `.ks` region. -/
def quadTake (y : Yard) (ws : List (Nat × Want)) (ksmem quad : Nat) : Option (List Spot × Nat × Yard) :=
  let used := (aget y.ks quad).getD []
  (firstFit used ksmem (2 ^ 18)).bind fun base => (takeGang y quad ws).map fun x =>
    (x.1, base, { x.2 with ks := aset x.2.ks quad ((base, ksmem) :: used) })

def firstQuad (y : Yard) (ws : List (Nat × Want)) (ksmem : Nat) : List Nat → Option (List Spot × Nat × Yard)
  | [] => none
  | q :: qs => (quadTake y ws ksmem q).or (firstQuad y ws ksmem qs)

/-- What is to be placed at one time: a workgroup, or the members of a gang with their positions. -/
structure UnitWant where
  latency : Bool
  gang : Bool
  members : List (Nat × Want)
  ksmem : Nat
  deriving DecidableEq, Repr

/-- The place of a unit: a spot for each member and the base of the `.ks` region (R294). -/
def placeUnit (y : Yard) (reserve : W16) (u : UnitWant) : Option (List Spot × Nat × Yard) :=
  if u.gang then firstQuad y u.members u.ksmem (y.rooms.map fun r => quadOf r.core).eraseDups
  else match u.members with
    | (_, w) :: _ => (firstRoom w (coreOrder y reserve u.latency)).map fun x => ([x.1], 0, putRoom y x.2)
    | [] => none

/-- How many units of one kind can be placed one after the other. -/
def countFits (reserve : W16) (u : UnitWant) : Nat → Yard → Nat
  | 0, _ => 0
  | fuel + 1, y => match placeUnit y reserve u with
    | none => 0
    | some (_, _, y) => countFits reserve u fuel y + 1

/-! ### A die -/

def getDie (s : State) (d : Nat) : Die := s.dies.getD d (Die.initial d)
def modDie (s : State) (d : Nat) (f : Die → Die) : State := { s with dies := lmod s.dies d f }

/-- Whether a partition runs: neither halting, halted nor stopped by an alarm (R390, R420). -/
def partRuns (s : State) (part : Nat) : Bool :=
  (partIx s part).any fun p => p.halt == .running && !p.stopped

/-- Cores of a partition on a die. -/
def coresOn (p : Part) (d : Nat) : List Nat :=
  ((List.range 64).map (64 * d + ·)).filter fun c => p.quads.getLsbD (quadOf c)

/-- Cores that serve pipelines (R387). -/
def pipeCores (s : State) : List Nat := s.pipes.flatMap fun p => p.2.stages.flatMap (·.cores)

/-- Cores that serve pipelines and are closed to a unit: latency work takes the reserve cores of a bulk pipeline (R385). -/
def pipeShut (s : State) (D : Die) (latency : Bool) : List Nat :=
  s.pipes.flatMap fun p =>
    let bulk := (p.2.stages.head?.bind fun st => aget s.grids st.grid).any fun K => !K.latency
    (p.2.stages.flatMap (·.cores)).filter fun c => !(latency && bulk && D.reserve.getLsbD (c / 4 % 16))

/-- `.ks` ranges of a quad that gangs and queue rings hold. -/
def ksUsed (s : State) (quad : Nat) : List (Nat × Nat) :=
  ((s.gangs.filter fun k => k.2.placed && k.2.quad == quad).map fun k => (k.2.ksBase, (gridKd s k.2.grid).ksmem)) ++
  ((s.queues.filter fun q => !q.2.xs && q.2.base / 2 ^ 18 == quad).map fun q => (q.2.base % 2 ^ 18, 4 * q.2.cap))

/-- The hold of a die's dispatcher while the gang it is for is still pending (R295). -/
def holdOf (D : Die) : Option (Nat × Nat × Nat) :=
  D.hold.filter fun h => D.pending.any fun p => p.grid == h.1 && p.wg == h.2.1

/-- The cores that a unit may be placed on; under a gang hold another unit finds only empty quads (R295). -/
def yardOf (s : State) (d part : Nat) (unit : Nat × Nat) (latency : Bool) : Yard :=
  match partIx s part with
  | none => ⟨[], []⟩
  | some p =>
    let D := getDie s d
    let taken := pipeShut s D latency
    let held := (holdOf D).any fun h => (h.1, h.2.1) != unit
    let full (c : Nat) : Bool := s.wgs.any fun x => quadOf x.2.core == quadOf c
    let cores := if D.st = .up then coresOn p d else []
    ⟨cores.map fun c => roomOf s (taken.contains c || (held && full c)) c,
     ((cores.map quadOf).eraseDups).map fun q => (q, ksUsed s q)⟩

/-- A grid's workgroups as units. -/
def gridUnit (k : Grid) : UnitWant :=
  ⟨k.latency, k.kd.gang, (List.range (if k.kd.gang then 4 else 1)).map fun p => (p, wantOf k.kd), k.kd.ksmem⟩

/-- Workgroups of a grid that fit a die at once under R294, whether or not they are on their way. -/
def dieRoom (s : State) (k : Grid) (d : Nat) : Nat :=
  let u := gridUnit k
  countFits (getDie s d).reserve u 4096 (yardOf s d k.part (s.uid, 0) k.latency) * u.members.length

/-- Workgroups of a grid that are pending at a die. -/
def pendingAt (s : State) (grid d : Nat) : Nat := ((getDie s d).pending.filter fun p => p.grid == grid).length

/-- A bulk workgroup that borrows a reserve core of a die and may be pre-empted for latency work (R385). -/
def borrows (s : State) (D : Die) (W : Wg) : Bool :=
  dieOf W.core == D.id && D.reserve.getLsbD (W.core / 4 % 16) &&
  (aget s.grids W.grid).any fun K => !K.latency

/-- The cores without the units that R385 may take off a die. -/
def withoutBorrowers (s : State) (d : Nat) : State :=
  let hit := s.wgs.filter fun x => borrows s (getDie s d) x.2
  let gangs := hit.filterMap fun x => x.2.gang
  let out := s.wgs.filter fun x => (hit.map (·.1)).contains x.1 || x.2.gang.any gangs.contains
  let ids := out.map (·.1)
  { s with wgs := s.wgs.filter fun x => !ids.contains x.1, groups := s.groups.filter fun x => !ids.contains x.2.wg,
           gangs := s.gangs.filter fun x => !gangs.contains x.1 }

/-- The report of a die for a grid (R293): workgroups it could place now, for a latency grid with the room that R385
makes. How many of those pending there it has already taken off is open (log entry 47). -/
def dieReport (s : State) (grid : Nat) (k : Grid) (d : Nat) : Nat :=
  dieRoom (if k.latency then withoutBorrowers s d else s) k d -
    Config.order (s.free + d) % (pendingAt s grid d + 1)

end Sys2Proof.Machine
end

