-- ==== Sys2Proof/Machine/Image.lean ====
section
/-! DEFINITION. The image of a saved workgroup: its sections and words (R350, R392), the shadow storage that holds it with
what spills to the save area (R391), and the comparison of its words on restore (R278, R394). -/

namespace Sys2Proof.Machine

open Sys2Proof

/-! ### Regions -/

/-- The words of a region that are not 0 [0], by offset in words. -/
def sliceOf (m : Mem) (a n : Nat) : AList Word :=
  let lo := a / 4
  let at_ : List Nat := (m.data.map (fun (c : Host.Cell) => c.1 / 4) ++ m.side.map (fun (c : Host.Cell) => c.1)).filter fun i => decide (lo ≤ i) && decide (i < lo + n)
  at_.eraseDups.map fun i => (i - lo, readWord m (4 * i))

def putSlice (m : Mem) (a n : Nat) (ws : AList Word) : Mem :=
  ws.foldl (fun m w => writeWord m (a + 4 * w.1) w.2) (clearWords m a n)

/-- A word as restored: a mismatch becomes poison. -/
def mend (w : Word) : Word := if mismatch w then ⟨w.val, 0xF⟩ else w

def mendAll (ws : AList Word) : AList Word := ws.map fun w => (w.1, mend w.2)

/-- Words counted in order until the sum of n. -/
def sumOf {α : Type} (f : α → Nat) (l : List α) : Nat := (l.map f).sum

/-! ### The words of an image (R350, R392)

R392 gives the sections, what each holds and its words, and no order within. The model places lane after lane, each with its
registers in order, and regions by address; where a section's words do not hold all that the state keeps, the rest has none
(DESIGN CHOICE, log entry 51). A word is `none` where its bits are open: the data of a codebook entry that nothing has
written. -/

/-- Words of a section of n, the rest zero. -/
def padTo (n : Nat) (l : List (Option Word)) : List (Option Word) := l.take n ++ List.replicate (n - l.length) (some Word.zero)

def numCell (n : Nat) : Option Word := some (gen (BitVec.ofNat 32 n))

/-- Fields of given widths, the first lowest. -/
def packFields (l : List (Nat × Nat)) : Nat := l.foldr (fun x acc => x.2 % 2 ^ x.1 + 2 ^ x.1 * acc) 0

def flagBits (l : List Bool) : Nat × Nat := (l.length, l.foldr (fun b n => b.toNat + 2 * n) 0)

def split64 (x : W64) : List (Option Word) := [some (gen (x.setWidth 32)), some (gen ((x >>> 32).setWidth 32))]

/-- The vector registers of a group: 32 · A words (R13). -/
def vecCells (G : Group) : List (Option Word) :=
  G.threads.flatMap fun t => t.v.map some ++ (List.replicate (allot G.nreq - t.v.length) (some Word.zero))

/-- The header: kernel descriptor, launch indices, placement, GROUPS and the groups' allotments, four to a word. -/
def headerCells (v : Saved) : List (Option Word) :=
  let n (i : Nat) : Nat := ((v.groups.map (·.2.nreq))[i]?).getD 0
  padTo 32 (split64 (BitVec.ofNat 64 v.kdAddr) ++
    [v.wg.index, v.wg.dwg, v.wg.share, v.wg.core, v.wg.csBase, v.groups.length].map numCell ++
    (List.range ((v.groups.length + 3) / 4)).map fun j => numCell (packFields ((List.range 4).map fun k => (8, n (4 * j + k)))))

/-- Where the saved results of a run begin among the words of a lane, and how many of them fit. -/
def runAt : Nat := 8
def runFit : Nat := 7

/-- The words of a lane: PC, predicates with `%sticky` and the run position, index registers, `%seed`, `%clockh`, `%tval`,
the run's saved values, and a word of the group's handler state. -/
def laneCells (G : Group) (l : Nat) (t : Thread) : List (Option Word) :=
  padTo 15 (split64 t.pc ++
    [numCell (packFields [flagBits (t.p.map (·.t)), flagBits (t.p.map (·.psn)), (6, t.sticky.toNat), (4, t.run.len)]),
     numCell (packFields (t.x.map fun x => (8, x.toNat))), some (gen t.seed), some (gen t.clockh)] ++ split64 t.tval ++
    t.run.v.map fun x => some x.2) ++
  [(([some (gen G.cause)] ++ split64 G.tpc ++ [some (gen G.tmask)])[l]?).getD (some .zero)]

/-- The words of a group: m registers, arrival records, the armed injection, the growth request. -/
def groupCells (G : Group) : List (Option Word) :=
  padTo 64 (G.m.flatMap (fun m => [some m.1, some m.2]) ++
    G.bars.map (fun b => numCell (packFields [(3, b.lvl), (8, b.num), (16, b.ap.toNat), flagBits [b.done, b.err, b.noarr]])) ++
    [some (gen (G.inj.getD 0)), numCell ((G.agrow.map (·.n)).getD 0)])

/-- A region of n words. -/
def regionCells (n : Nat) (ws : AList Word) : List (Option Word) :=
  (List.range n).map fun i => some ((aget ws i).getD .zero)

/-- The banks of a mask. -/
def bankNums (kd : KDesc) : List Nat := (List.range 16).filter kd.cbmask.getLsbD

def accNums (kd : KDesc) : List Nat := (List.range 4).filter kd.accmask.getLsbD

/-- A bank in the image layout of R189; entries that nothing has written are invalid. -/
def bankCells (v : Saved) (b : Nat) : List (Option Word) :=
  (List.range 256).flatMap fun i => match v.banks.find? fun x => x.1 == b && x.2.1 == i with
    | some x => (imageOf x.2.2).map some
    | none => [none, some (gen 0xFF)]

def modeCode (m : AccMode) : Nat := match m with | .none => 0 | .f64 => 1 | .x64 => 2

/-- An accumulator tile: values, residue entries, marks (R350). -/
def accCells (a : Acc) : List (Option Word) :=
  (List.range 4096).flatMap (fun i => split64 (accEntry a i).1) ++
  (List.range 512).map (fun j => some (gen (BitVec.ofNat 32
    ((List.range 8).foldl (fun n k => n + (accEntry a (8 * j + k)).2.toNat * 16 ^ k) 0)))) ++
  [a.spc, a.psn, a.cix, a.cbi, a.sat, a.inx, a.chk].flatMap split64 ++
  (List.range 4).map (fun j => some (gen (BitVec.ofNat 32
    ((List.range 16).foldl (fun n k => n + (aget a.kinds (16 * j + k)).getD 0 * 4 ^ k) 0)))) ++
  [some (gen (BitVec.ofNat 32 (modeCode a.mode))), some (gen ((BitVec.ofInt 16 a.g).setWidth 32))]

/-- The tiles of accumulators of a mask; one that is not listed is clear. -/
def savedAcc (v : Saved) (n : Nat) : Acc := (v.accs.find? fun a => a.num == n).getD (Acc.clear v.wg.core n)

/-- The reservations with contents in the operand buffer. -/
def obResvs (v : Saved) : List Resv := v.resvs.filter fun r => !r.ks

/-- A reservation record, in the layout of its descriptor (R230) with its number behind it. -/
def recordCells (r : Resv) : List (Option Word) :=
  [some (gen r.fmt), numCell (packFields [(14, 0), (2, r.cbw), (4, r.cbk), flagBits [r.cbv, r.sf], (2, r.sl), flagBits [r.ks],
      (2, 0), (5, r.efmt)]), numCell r.off, numCell r.len, numCell (packFields [(16, r.pitch), (16, r.spitch)]), numCell r.soff,
   numCell r.num, some .zero]

/-- A queued op: K or dimension word, lanes, what it names and how it runs, grid or seed. -/
def opCells (o : Op) : List (Option Word) :=
  [some (gen o.kw), some (gen o.lanes), numCell (packFields [flagBits [o.mtrq, o.ovw, o.mode == .x64], (2, o.acc), (5, o.ra),
      (5, o.rb), (3, o.rm), (13, o.pos.row)]), some (gen (if o.mtrq then o.pos.seed else BitVec.ofInt 32 o.grid))]

/-- A tile entry. -/
def tileCells (t : Tile) : List (Option Word) :=
  let st := match t.st with | .empty => 0 | .filling => 1 | .ready => 2 | .draining => 3
  [numCell (packFields [(6, t.num), flagBits [t.ks, t.err], (2, st)]), numCell t.off, numCell t.len, some .zero]

/-- A copy in flight: what it is, and the descriptor words of its first cart. -/
def copyCells (c : Copy) : List (Option Word) :=
  let kind := match c.kind with | .cpy => 0 | .cpyc => 1 | .gath => 2 | .scat => 3 | .cpys => 4 | .tdrain => 5
  padTo 32 (padTo 16 [numCell (packFields [(3, kind), flagBits [c.sup, c.forming, c.srcDone], (8, c.carts.length)]),
      numCell (packFields [(8, c.bar.toNat), (8, c.tile.toNat), (16, c.mod.toNat)])] ++
    ((c.carts.head?.map (·.desc)).getD []).map some)

def resvCells (v : Saved) (r : Resv) : List (Option Word) :=
  (List.range (r.len / 4)).map fun i => some ((aget v.ob (r.off / 4 + i)).getD .zero)

/-- Words of the `.ks` region that an image carries: that of gang position 0. -/
def ksWords (kd : KDesc) (v : Saved) : Nat := if v.wg.gang.isSome && v.wg.index % 4 == 0 then kd.ksmem / 4 else 0

/-- R392: the sections of an image in their order. -/
def imageCells (kd : KDesc) (v : Saved) : List (Option Word) :=
  headerCells v ++
  v.groups.flatMap (fun x => vecCells x.2) ++
  v.groups.flatMap (fun x => x.2.threads.zipIdx.flatMap fun t => laneCells x.2 t.2 t.1) ++
  v.groups.flatMap (fun x => groupCells x.2) ++
  v.groups.flatMap (fun x => x.2.threads.flatMap fun t => t.lp.map some) ++
  regionCells (kd.scratch / 4) v.cs ++
  (bankNums kd).flatMap (bankCells v) ++ (accNums kd).flatMap (fun n => accCells (savedAcc v n)) ++
    v.resvs.flatMap recordCells ++ (obResvs v).flatMap (resvCells v) ++ v.ops.flatMap opCells ++
  v.tiles.flatMap tileCells ++ v.copies.flatMap copyCells ++
  regionCells (ksWords kd v) v.ks

/-- The number of words of an image. -/
def imageSize (kd : KDesc) (v : Saved) : Nat :=
  32 + sumOf (fun x : Nat × Group => 32 * allot x.2.nreq) v.groups + (512 + 64 + 1024) * v.groups.length + kd.scratch / 4 +
  512 * (bankNums kd).length + 8724 * (accNums kd).length + 8 * v.resvs.length +
  sumOf (fun r : Resv => r.len / 4) (obResvs v) + 4 * v.ops.length + 4 * v.tiles.length + 32 * v.copies.length + ksWords kd v

/-- The words as they are written: open ones at a free value. -/
def fillCells (seed : Nat) (cs : List (Option Word)) : List Word :=
  cs.zipIdx.map fun x => x.1.getD (gen (Config.imageWord seed x.2))

/-! ### Words read back (R278, R350) -/

/-- The words that are restored as poison and were not saved so. -/
def hurtCells (old new : List (Option Word)) : List Nat :=
  ((old.zip new).zipIdx.filter fun x => match x.1.1, x.1.2 with
    | some a, some b => !isPoison a && (isPoison b || mismatch b)
    | _, _ => false).map (·.2)

/-- Where the sections whose words a restore takes up begin. -/
structure Starts where
  vec : Nat
  lane : Nat
  grp : Nat
  lp : Nat
  cs : Nat
  bank : Nat
  acc : Nat
  ob : Nat
  copy : Nat
  ks : Nat
  deriving DecidableEq, Repr

def startsOf (kd : KDesc) (v : Saved) : Starts :=
  let lane := 32 + sumOf (fun x : Nat × Group => 32 * allot x.2.nreq) v.groups
  let lp := lane + 576 * v.groups.length
  let cs := lp + 1024 * v.groups.length
  let bank := cs + kd.scratch / 4
  let acc := bank + 512 * (bankNums kd).length
  let ob := acc + 8724 * (accNums kd).length + 8 * v.resvs.length
  let ks := imageSize kd v - ksWords kd v
  ⟨32, lane, lane + 512 * v.groups.length, lp, cs, bank, acc, ob, ks - 32 * v.copies.length, ks⟩

/-- Rows of an accumulator whose values or residue entries are among the words of its section restored as poison. -/
def hurtRows (at_ : Nat) (hurt : List Nat) : List Nat :=
  ((hurt.filter fun i => decide (at_ ≤ i) && decide (i < at_ + 8704)).map fun i =>
    if i < at_ + 8192 then (i - at_) / 128 else (i - at_ - 8192) / 8).eraseDups

/-- The context that the words of an image give: each word that stands in the context with a residue as it was read, poison where
it fails. A failing word of fields that have no residue is counted, and the fields stay as saved (log entry 51). -/
def reread (kd : KDesc) (v : Saved) (new : List (Option Word)) : Saved :=
  let hurt := hurtCells (imageCells kd v) new
  if hurt.isEmpty && new == imageCells kd v then v
  else
    let a := new.toArray
    let w (i : Nat) (old : Word) : Word := ((a.getD i none).map mend).getD old
    let p := startsOf kd v
    let region (at_ n : Nat) : AList Word :=
      ((List.range n).map fun i => (i, w (at_ + i) .zero)).filter fun x => x.2 != .zero
    let thread (vec lane lp A l : Nat) (t : Thread) : Thread := { t with
      v := t.v.zipIdx.map fun x => w (vec + l * A + x.2) x.1,
      run := { t.run with v := t.run.v.zipIdx.map fun x =>
        (x.1.1, if x.2 < runFit then w (lane + 16 * l + runAt + x.2) x.1.2 else x.1.2) },
      lp := t.lp.zipIdx.map fun x => w (lp + 32 * l + x.2) x.1 }
    let group (x : (Nat × Group) × Nat) : Nat × Group :=
      let G := x.1.2
      let vec := p.vec + sumOf (fun y : Nat × Group => 32 * allot y.2.nreq) (v.groups.take x.2)
      (x.1.1, { G with
        m := G.m.zipIdx.map fun m => (w (p.grp + 64 * x.2 + 2 * m.2) m.1.1, w (p.grp + 64 * x.2 + 2 * m.2 + 1) m.1.2),
        threads := G.threads.zipIdx.map fun t =>
          thread vec (p.lane + 512 * x.2) (p.lp + 1024 * x.2) (allot G.nreq) t.2 t.1 })
    let bank (x : Nat × Nat × CbEntry) : Nat × Nat × CbEntry :=
      let at_ := p.bank + 512 * (bankNums kd).idxOf x.1 + 2 * x.2.1
      match a.getD at_ none, a.getD (at_ + 1) none with
      | some lo, some hi => (x.1, x.2.1, entryOf lo hi)
      | _, _ => x
    let acc (A : Acc) : Acc :=
      let at_ := p.acc + 8724 * (accNums kd).idxOf A.num
      let word (i : Nat) : W32 := ((a.getD (at_ + i) none).getD .zero).val
      let ent (i : Nat) : W64 × BitVec 4 :=
        (word (2 * i + 1) ++ word (2 * i), BitVec.ofNat 4 ((word (8192 + i / 8)).toNat / 16 ^ (i % 8)))
      markChk 1 (hurtRows at_ hurt) { A with ents := ((List.range 4096).map fun i => (i, ent i)).filter fun e => e.2 != (0, 0) }
    let ob := ((obResvs v).foldl (fun (x : AList Word × Nat) r =>
      (x.1 ++ (region x.2 (r.len / 4)).map fun y => (r.off / 4 + y.1, y.2), x.2 + r.len / 4)) ([], p.ob)).1
    let copy (c : Copy × Nat) : Copy := match c.1.carts with
      | [] => c.1
      | k :: r => { c.1 with carts := { k with
          desc := k.desc.zipIdx.map fun x => if x.2 < 16 then w (p.copy + 32 * c.2 + 16 + x.2) x.1 else x.1 } :: r }
    { v with
      groups := v.groups.zipIdx.map group, copies := v.copies.zipIdx.map copy, cs := region p.cs (kd.scratch / 4), banks := v.banks.map bank,
      accs := (accNums kd).map fun n => acc (savedAcc v n), ob, ks := region p.ks (ksWords kd v) }

/-! ### Shadow storage and the save area (R391) -/

/-- The words that a base die's shadow storage holds: 80 MiB. -/
def shadowWords : Nat := 80 * 2 ^ 20 / 4

def savedSize (s : State) (v : Saved) : Nat := imageSize (gridKd s v.wg.grid) v

/-- The words of a context that are in shadow storage. -/
def heldWords (s : State) (v : Saved) : Nat := (v.spill.map (·.1)).getD (savedSize s v)

/-- The words left in the shadow storage of a core's base die. -/
def shadowRoom (s : State) (core : Nat) : Nat :=
  shadowWords - sumOf (heldWords s) (s.shadow.filter fun v => baseOf (dieOf v.wg.core) == baseOf (dieOf core))

def savedPart (s : State) (v : Saved) : Nat := ((aget s.grids v.wg.grid).map (·.part)).getD 0

/-- The first line of a partition's save area behind what has spilled there. -/
def spillPlace (s : State) (part : Nat) (w : Window) : Nat :=
  (s.shadow.filter fun v => savedPart s v == part).foldl (fun a v => match v.spill with
    | some (h, pa) => max a ((pa + 4 * (savedSize s v - h) + 63) / 64 * 64)
    | none => a) w.base

/-- How the save area's lines are held: at HBM4 itself, with key slot 0. -/
def saveAttr : LineAttr := ⟨2, false, 0, 0⟩

/-- Words written line by line from a line's address. -/
def putLines : Nat → State → Nat → List Word → State
  | 0, s, _, _ => s
  | fuel + 1, s, pa, ws =>
    if ws.isEmpty then s
    else putLines fuel (homeWrite s pa saveAttr ((ws.take 16).zipIdx.map fun x => (x.2, wholePatch x.1))) (pa + 64) (ws.drop 16)

/-- Words read line by line. -/
def getLines : Nat → State → Nat → List Word × State
  | 0, s, _ => ([], s)
  | fuel + 1, s, pa =>
    let (ws, s) := homeRead s pa saveAttr
    let (r, s) := getLines fuel s (pa + 64)
    (ws ++ r, s)

/-- R391: a context takes what is left of its base die's shadow storage; the rest goes to its partition's save area. Where the
partition has none, or it is full, shadow storage keeps it whole (log entry 48). -/
def stow (s : State) (v : Saved) : State :=
  let n := savedSize s v
  let room := shadowRoom s v.wg.core
  let whole := { s with shadow := s.shadow ++ [v] }
  if n ≤ room then whole
  else match (partIx s (savedPart s v)).bind (·.save) with
    | none => whole
    | some w =>
      let pa := spillPlace s (savedPart s v) w
      if w.base + w.len < pa + 4 * (n - room) then whole
      else
        let ws := (fillCells s.free (imageCells (gridKd s v.wg.grid) v)).drop room
        putLines n { s with free := s.free + 1, shadow := s.shadow ++ [{ v with spill := some (room, pa) }] } pa ws

/-- What a restore found (R394): words restored as poison, entries made invalid, rows marked, and where the first such word
was saved. -/
structure Tally where
  psn : Nat
  cbi : Nat
  chk : Nat
  first : Option Nat
  deriving DecidableEq, Repr

def Tally.none : Tally := ⟨0, 0, 0, Option.none⟩

def Tally.add (a b : Tally) : Tally := ⟨a.psn + b.psn, a.cbi + b.cbi, a.chk + b.chk, a.first.or b.first⟩

/-- Where a word of a context stands: in shadow storage, whose addresses are open, or in the save area. -/
def wordPlace (v : Saved) (i : Nat) : Nat :=
  match v.spill with
  | some (h, pa) => if i < h then Config.shadowPlace v.uid + 4 * i else pa + 4 * (i - h)
  | Option.none => Config.shadowPlace v.uid + 4 * i

/-- Words of a context that no section of the image has a place for: the g registers, what a lane's words and a copy's do not
hold. -/
def otherWords (v : Saved) : List Word :=
  v.wg.g ++ v.groups.flatMap (fun x => x.2.threads.flatMap fun t => (t.run.v.drop runFit).map (·.2)) ++
  v.copies.flatMap fun c => c.carts.flatMap (fun k => k.rows.map (·.2)) ++ c.carts.tail.flatMap (·.desc)

/-- Whether a half-residue of an entry fails its half. -/
def halfFails (h : BitVec 4) (v : Nat) : Bool := h != 0xF && h.toNat != v % 15

def entryFails (e : CbEntry) : Bool := halfFails e.h0 (e.val.toNat % 65536) || halfFails e.h1 (e.val.toNat / 65536)

/-- Rows of an accumulator with a word or residue entry that fails (R350). -/
def badRows (a : Acc) : List Nat :=
  ((a.ents.filter fun e => entryRes a.mode e.2.1 != e.2.2).map fun e => e.1 / 64).eraseDups

/-- The tally of a context restored from the words `new` of its image, which stood at `place`. -/
def tallyOf (kd : KDesc) (v : Saved) (new : List (Option Word)) (place : Nat → Nat) : Tally :=
  let hurt := hurtCells (imageCells kd v) new
  let back := reread kd v new
  let lost (x : (Nat × Nat × CbEntry) × (Nat × Nat × CbEntry)) : Bool :=
    let valid (e : CbEntry) : Bool := e.h0 != 0xF && e.h1 != 0xF
    valid x.1.2.2 && (entryFails x.2.2.2 || !valid x.2.2.2)
  let others := (otherWords v).filter mismatch
  let half (e : CbEntry) : Bool := e.h0 != 0xF && e.h1 != 0xF && entryFails e
  { psn := others.length + hurt.length,
    cbi := ((v.banks.zip back.banks).filter lost).length + sumOf (fun w => (w.ents.filter fun e => half e.2).length) v.writes,
    chk := sumOf (fun n => (badRows (savedAcc back n) ++
      hurtRows ((startsOf kd v).acc + 8724 * (accNums kd).idxOf n) hurt).eraseDups.length) (accNums kd),
    first := if others.isEmpty then hurt.head?.map place else some (Config.shadowPlace v.uid) }

/-- The words of an image as they are read back. -/
def recallCells (s : State) (v : Saved) : List (Option Word) × State :=
  let cs := imageCells (gridKd s v.wg.grid) v
  match v.spill with
  | Option.none => (cs, s)
  | some (h, pa) =>
    let (ws, s) := getLines ((cs.length - h + 15) / 16) s pa
    (cs.take h ++ (cs.drop h).zipIdx.map fun c => c.1.map fun w => (ws[c.2]?).getD w, s)

/-- A context as it comes back from shadow storage and the save area, and what its comparison found. -/
def recallImage (s : State) (v : Saved) : (Saved × Tally) × State :=
  let (new, s) := recallCells s v
  let kd := gridKd s v.wg.grid
  (({ reread kd v new with spill := Option.none }, tallyOf kd v new (wordPlace v)), s)

end Sys2Proof.Machine
end

