-- ==== Sys2Proof/Machine/Preempt.lean ====
section
/-! DEFINITION. Pre-emption of workgroups: drains, the saved context, and its restoration on the cores where the
workgroup resumes (R74, R226, R278, R350, R351, R386, R390 to R392). -/

namespace Sys2Proof.Machine

open Sys2Proof

/-! ### Draining (R390 phase 2) -/

/-- Results in flight land, performed reds are counted, and waits that are not saved begin again at their word; those at
collectives, queues and barriers are saved as they stand (R226). -/
def calmThread (t : Thread) : Thread :=
  let t := landThose (fun p => p.src == .direct) t
  { t with reds := 0, wait := match t.wait with
    | .sacq | .mfill => .none
    | w => w }

def calmGroup (G : Group) : Group := { G with threads := G.threads.map calmThread }

/-- A transpose stops at the end of an output row; which row is open. -/
def stopTrq (s : State) (o : Op) : State × Op :=
  let left := o.kw.toNat / 65536 - o.pos.row
  let (s, p) := trqRun o (o.pos.row + 1 + Config.order s.free % max 1 left) { s with free := s.free + 1 }
  (s, { o with pos := p })

/-- An op in execution retires; a transpose that still executes stops at a row and has the rest of its rows left, one that is
past its last execution cycle ends (R345, R351). -/
def haltOp (s : State) (x : Op × Nat) : State × List Op :=
  if x.1.mtrq && decide (s.cycle + 4 ≤ x.2) then
    let (s, o) := stopTrq s x.1
    if o.pos.row < o.kw.toNat / 65536 then (s, [o]) else (retireOp s o, [])
  else (retireOp s x.1, [])

/-- The executing ops of a unit in one carriage end in their order, those of both members together. A stopped transpose stands
first in the queue, and the op that fetches for the unit, now abandoned, next (R351). -/
def haltCarriage (ws : List Nat) (s : State) (id : Nat) : State :=
  let c := carriageAt s id
  let run := c.exec.filter fun x => ws.contains x.1.wg
  let fetching := c.fetch.filter fun x => ws.contains x.1.wg
  if run.isEmpty && fetching.isNone then s
  else
    let r := run.foldl (fun (x : State × List Op) o =>
      let (s, os) := haltOp x.1 o
      (s, x.2 ++ os)) (s, [])
    let last := ((run.map (·.1)).filter fun o => !r.2.any fun x => x.id == o.id).getLast?
    setCarriage r.1 { c with
      exec := c.exec.filter fun x => !ws.contains x.1.wg, fetch := if fetching.isSome then none else c.fetch,
      queue := r.2 ++ (fetching.map (·.1)).toList ++ c.queue,
      retired := (last.map fun o => (o.seq, s.cycle)).or c.retired }

/-- The ops of a workgroup leave its carriage as queued ones, in queue order; one that fetches is abandoned (R350, R351). -/
def takeOps (s : State) (wg core : Nat) : State × List Op :=
  let id := carriageOf core
  let c := carriageAt s id
  let mine (o : Op) : Bool := o.wg == wg
  let queued := ((c.fetch.map (·.1)).toList ++ c.queue).filter mine
  if queued.isEmpty then (s, [])
  else (startFetch (setCarriage s { c with fetch := c.fetch.filter (fun x => !mine x.1), queue := c.queue.filter fun o => !mine o })
    id (s.cycle + 1), queued)

/-- Everything in flight for a workgroup ends or stops (R390 phase 2), its stores leave the core. -/
def drainWg (s : State) (wg : Nat) (W : Wg) : State :=
  let gs := (groupsOf s wg).map (·.1)
  let s := (s.mdrains.filter fun m => m.core == W.core && (tileOf s m.core m.tile).any fun t => t.owner == wg).foldl
    finishDrain s
  let s := { s with
    groups := s.groups.map fun x => if x.2.wg == wg then (x.1, calmGroup x.2) else x,
    mfills := s.mfills.filter fun m => !gs.contains m.grp,
    syncWaits := s.syncWaits.filter fun w => !gs.contains w.grp }
  flushCore s W.core

/-! ### Saving (R350, R392) -/

def resvSlice (s : State) (r : Resv) : AList Word :=
  if r.ks then [] else (sliceOf s.ob (resvBase s r) (r.len / 4)).map fun w => (r.off / 4 + w.1, w.2)

def ksmemGang (s : State) (K : Gang) : Nat := (gridKd s K.grid).ksmem / 4

/-- The context of a workgroup; position 0 of a gang carries the `.ks` region. -/
def contextOf (s : State) (wg : Nat) (W : Wg) (ops : List Op) : Saved :=
  let kd := gridKd s W.grid
  let rs := s.resvs.filter fun r => r.owner == wg
  { uid := wg, wg := W, groups := groupsOf s wg,
    cs := sliceOf s.cs (W.core * 2 ^ 18 + W.csBase) (kd.scratch / 4),
    ks := match W.gang.bind fun k => aget s.gangs k with
      | some K => if W.index % 4 = 0 then sliceOf s.ks (K.quad * 2 ^ 18 + K.ksBase) (ksmemGang s K) else []
      | none => [],
    banks := (s.banks.filter fun b => b.1 == W.core && kd.cbmask.getLsbD b.2.1).map fun b => (b.2.1, b.2.2.1, b.2.2.2),
    accs := s.accs.filter fun a => a.core == W.core && kd.accmask.getLsbD a.num,
    resvs := rs, ob := rs.flatMap (resvSlice s),
    tiles := s.tiles.filter fun t => t.owner == wg,
    copies := s.copies.filter fun c => c.wg == wg,
    ops, writes := s.bankWrites.filter (bankWriteOf s W),
    kdAddr := ((aget s.grids W.grid).map (·.kdAddr)).getD 0, spill := none }

/-- A workgroup leaves its core for shadow storage (R386). -/
def saveWg (s : State) (wg : Nat) : State :=
  match aget s.wgs wg with
  | none => s
  | some W =>
    let s := drainWg s wg W
    let (s, ops) := takeOps s wg W.core
    let s := stow s (contextOf s wg W ops)
    { s with
      wgs := adel s.wgs wg,
      groups := s.groups.filter fun x => x.2.wg != wg,
      tiles := s.tiles.filter fun t => t.owner != wg,
      resvs := s.resvs.filter fun r => r.owner != wg,
      copies := s.copies.filter fun c => c.wg != wg,
      bankWrites := s.bankWrites.filter fun w => !bankWriteOf s W w,
      cs := clearWords s.cs (W.core * 2 ^ 18 + W.csBase) ((gridKd s W.grid).scratch / 4) }

/-- A gang whose members are saved leaves its quad. -/
def saveGang (s : State) (k : Nat) : State :=
  match aget s.gangs k with
  | none => s
  | some K => { s with
      gangs := aset s.gangs k { K with placed := false },
      ks := clearWords s.ks (K.quad * 2 ^ 18 + K.ksBase) (ksmemGang s K) }

/-- The resident workgroups that move together with one: its gang, or itself (R385, R386). -/
def unitOfWg (s : State) (wg : Nat) : List Nat :=
  match (aget s.wgs wg).bind (·.gang) with
  | none => [wg]
  | some k => (s.wgs.filter fun x => x.2.gang == some k).map (·.1)

/-- Pre-empts a unit. The drains of all its members come before the first context. -/
def saveUnit (s : State) (wg : Nat) : State :=
  let ws := unitOfWg s wg
  let gang := (aget s.wgs wg).bind (·.gang)
  let s := ws.foldl (fun s w => match aget s.wgs w with
    | some W => drainWg s w W
    | none => s) s
  let ids := ws.filterMap fun w => (aget s.wgs w).map fun W => carriageOf W.core
  let s := ids.eraseDups.foldl (haltCarriage ws) s
  let s := ws.foldl saveWg s
  match gang with
  | some k => saveGang s k
  | none => s

/-! ### Restoring (R278, R350) -/

def mendEntry (e : CbEntry) : CbEntry :=
  { e with h0 := if halfFails e.h0 (e.val.toNat % 65536) then 0xF else e.h0,
           h1 := if halfFails e.h1 (e.val.toNat / 65536) then 0xF else e.h1 }

def mendThread (t : Thread) : Thread :=
  { t with v := t.v.map mend, lp := t.lp.map mend, run := { t.run with v := mendAll t.run.v } }

/-- A thread re-enters the sorted PC table (R287). -/
def rejoin (t : Thread) : Thread := { t with cls := .normal, w := 0, elg := false, ibuf := none }

/-- The lowest free group slot of a quarter (R285). -/
def freeSlot (s : State) (core qtr : Nat) : Nat :=
  let used := (s.groups.filter fun x => x.2.core == core && x.2.qtr == qtr).map (·.2.slot)
  ((List.range 16).find? fun i => !used.contains i).getD 0

/-- A copy's words and those of a waiting bank write as restored (R278, R350). -/
def mendCart (k : Cart) : Cart := { k with desc := k.desc.map mend, rows := mendAll k.rows }
def mendCopy (c : Copy) : Copy := { c with carts := c.carts.map mendCart }
def mendWrite (w : BankWrite) : BankWrite := { w with ents := w.ents.map fun e => (e.1, mendEntry e.2) }

/-- A saved group on its new quarter, the youngest there, its growth request behind those pending (R297). -/
def restoreGroup (core : Nat) (s : State) (x : (Nat × Group) × Nat) : State :=
  let G := x.1.2
  let G := { G with
    core, qtr := x.2, slot := freeSlot s core x.2, placed := s.uid, halted := false,
    agrow := G.agrow.map fun r => { r with seq := s.uid },
    m := G.m.map fun m => (mend m.1, mend m.2),
    threads := G.threads.map fun t => rejoin (mendThread t) }
  { s with groups := aset s.groups x.1.1 G, uid := s.uid + 1 }

/-- A saved op enters the carriage of its core under a new sequence number (R351). -/
def requeue (core : Nat) (s : State) (o : Op) : State :=
  let c := carriageAt s (carriageOf core)
  startFetch (setCarriage s { c with queue := c.queue ++ [{ o with core, seq := c.seq }], seq := c.seq + 1 })
    (carriageOf core) (s.cycle + 1)

/-- The ops of contexts that resume together, each on its core, in the order in which they had stood in their queues: those of
both members of a carriage in one order (R351). -/
def requeueAll (s : State) (vs : List (Saved × Nat)) : State :=
  (sortBy (fun x : Nat × Op => [x.2.id]) (vs.flatMap fun v => v.1.ops.map fun o => (v.2, o))).foldl
    (fun s x => requeue x.1 s x.2) s

/-- The core takes up a grid: an acquire, and a fresh instruction cache when the grid first comes to it (R317, R322). -/
def meetGrid (s : State) (grid core : Nat) (K : Grid) : State :=
  let s := dcDropAll s core
  if K.cores.contains core then s
  else icDrop (modGrid s grid fun k => { k with cores := core :: k.cores }) core

/-- A workgroup resumes at a spot (R350, R386); its gang, if any, already has its quad. Its ops follow with those of its unit. -/
def restoreWg (s : State) (v : Saved) (sp : Spot) : State :=
  let ((v, _), s) := recallImage s v
  let core := sp.core
  let W := { v.wg with core, csBase := sp.csBase, g := v.wg.g.map mend }
  let kd := gridKd s W.grid
  let part := ((aget s.grids W.grid).map (·.part)).getD 0
  let s := { s with
    shadow := s.shadow.filter fun x => x.uid != v.uid,
    wgs := aset s.wgs v.uid W,
    cs := putSlice s.cs (core * 2 ^ 18 + sp.csBase) (kd.scratch / 4) (mendAll v.cs),
    ob := (mendAll v.ob).foldl (fun m w => writeWord m (core * 2 ^ 19 + 4 * w.1) w.2) s.ob,
    tiles := v.tiles.map (fun t => { t with core }) ++ s.tiles,
    resvs := v.resvs.map (fun r => { r with core }) ++ s.resvs,
    copies := s.copies ++ v.copies.map fun c => { mendCopy c with core },
    bankWrites := s.bankWrites ++ v.writes.map fun w => { mendWrite w with core },
    banks := (s.banks.filter fun b => !(b.1 == core && kd.cbmask.getLsbD b.2.1)) ++
      v.banks.map fun b => (core, b.1, b.2.1, mendEntry b.2.2),
    accs := (s.accs.filter fun a => !(a.core == core && kd.accmask.getLsbD a.num)) ++
      v.accs.map fun a => markChk 1 (badRows a) { a with core },
    bankPart := (s.bankPart.filter fun b => !(b.1 == core && kd.cbmask.getLsbD b.2.1)) ++
      ((List.range 16).filter kd.cbmask.getLsbD).map fun b => (core, b, part),
    accPart := (s.accPart.filter fun a => !(a.1 == core && kd.accmask.getLsbD a.2.1)) ++
      ((List.range 4).filter kd.accmask.getLsbD).map fun a => (core, a, part) }
  let s := match W.gang with
    | some k => match aget s.gangs k with
      | some K => if W.index % 4 = 0 then
          { s with ks := putSlice s.ks (K.quad * 2 ^ 18 + K.ksBase) (ksmemGang s K) (mendAll v.ks) }
        else s
      | none => s
    | none => s
  let s := (v.groups.zip sp.qtrs).foldl (restoreGroup core) s
  match aget s.grids W.grid with
  | some K => meetGrid s W.grid core K
  | none => dcDropAll s core

/-- The place a saved workgroup held. -/
def oldSpot (v : Saved) : Spot := ⟨v.wg.core, v.groups.map (·.2.qtr), v.wg.csBase⟩

end Sys2Proof.Machine
end

