-- ==== Sys2Proof/Machine/Place.lean ====
section
/-! DEFINITION. From grid to core: batches of the global dispatcher (R293), placement by the die dispatchers
(R294 to R296, R34, R252), gang hold, placement starvation (R295) and pre-emption for latency work (R385). -/

namespace Sys2Proof.Machine

open Sys2Proof

/-! ### Launch of a workgroup -/

/-- Banks and accumulators that another partition owned last are cleared (R11, R347). -/
def inherit (s : State) (core part : Nat) (kd : KDesc) : State :=
  let bs := (List.range 16).filter kd.cbmask.getLsbD
  let accs := (List.range 4).filter kd.accmask.getLsbD
  let keeps (l : List (Nat × Nat × Nat)) (n : Nat) : Bool := l.contains (core, n, part)
  { s with
    banks := s.banks.filter fun b => !(b.1 == core && bs.contains b.2.1) || keeps s.bankPart b.2.1,
    accs := s.accs.filter fun a => !(a.core == core && accs.contains a.num) || keeps s.accPart a.num,
    bankPart := (s.bankPart.filter fun b => !(b.1 == core && bs.contains b.2.1)) ++ bs.map fun b => (core, b, part),
    accPart := (s.accPart.filter fun a => !(a.1 == core && accs.contains a.2.1)) ++ accs.map fun a => (core, a, part) }

/-- A group at the kernel's first word (R11, R34). -/
def newGroup (K : Grid) (wg idx core qtr slot placed : Nat) : Group :=
  { wg, idx, core, qtr, slot, placed, nreq := K.kd.nreq,
    threads := (List.range 32).map fun l =>
      Thread.initial K.kd.code K.kd.nreq (K.seed ^^^ BitVec.ofNat 32 (32 * idx + l)),
    m := List.replicate 8 (.zero, .zero), bars := [], inj := none, agrow := none, cause := 0, tpc := 0, tmask := 0,
    trap := none, halted := false }

/-- A new barrier with a target (R200). -/
def newBar (lvl owner target num : Nat) : Barrier := ⟨lvl, owner, num, target, target, 0, 0, false, false⟩

/-- Where a workgroup stands in its grid and how it came to its core. -/
structure Birth where
  grid : Nat
  index : Nat
  dwg : Nat
  share : Nat
  gang : Option Nat
  q : AList QBind
  deriving DecidableEq, Repr

/-- A workgroup starts at a spot (R11, R252, R285, R304). -/
def launchWg (s : State) (b : Birth) (sp : Spot) : State :=
  match aget s.grids b.grid with
  | none => s
  | some K =>
    let wg := s.uid
    let W : Wg :=
      { grid := b.grid, index := b.index, gang := b.gang, core := sp.core, csBase := sp.csBase, dwg := b.dwg,
        share := b.share, dies := K.shares, g := (K.argv ++ List.replicate (32 - K.argv.length) Word.zero).take 32,
        q := b.q, status := .resident }
    let s := inherit s sp.core K.part K.kd
    let s := { s with
      uid := wg + 1, wgs := aset s.wgs wg W,
      cs := clearWords s.cs (sp.core * 2 ^ 18 + sp.csBase) (K.kd.scratch / 4),
      bars := s.bars ++ ((List.range 16).filter K.kd.bcmask.getLsbD).map (newBar 1 wg K.kd.groups) }
    let s := sp.qtrs.zipIdx.foldl (fun s x =>
      { s with groups := aset s.groups s.uid (newGroup K wg x.2 sp.core x.1 (freeSlot s sp.core x.1) s.uid),
               uid := s.uid + 1 }) s
    meetGrid s b.grid sp.core K

/-- A gang takes its quad, its window and its barriers (R199, R293, R304). -/
def launchGang (s : State) (grid index quad ksBase : Nat) (K : Grid) : Nat × State :=
  (s.uid, { s with
    uid := s.uid + 1,
    gangs := aset s.gangs s.uid ⟨grid, index, quad, ksBase, true⟩,
    ks := clearWords s.ks (quad * 2 ^ 18 + ksBase) (K.kd.ksmem / 4),
    bars := s.bars ++ (List.range 8).map (newBar 2 s.uid (4 * K.kd.groups)) })

/-! ### Pending order (R294, R385) -/

/-- Orders pending workgroups within their grid: pre-empted ones first, as they were pre-empted, then `%wg`. -/
def inGrid (p : PendWg) : List Nat := if p.saved then [0, p.order, p.wg] else [1, p.wg]

/-- The key of a grid's first pending workgroup among all grids: class, pre-empted units, order of arrival. -/
def amongGrids (ps : List PendWg) (p : PendWg) : List Nat :=
  let order := if p.saved then p.order
    else (ps.filter fun x => x.grid == p.grid && !x.saved).foldl (fun m x => min m x.order) p.order
  [if p.latency then 0 else 1, if p.saved then 0 else 1, order]

/-- The first pending workgroup of each grid, in the order in which the die serves them. -/
def heads (ps : List PendWg) : List PendWg :=
  let first (k : Nat) : Option PendWg := (sortBy inGrid (ps.filter fun p => p.grid == k)).head?
  sortBy (amongGrids ps) ((ps.map (·.grid)).eraseDups.filterMap first)

def isGang (s : State) (p : PendWg) : Bool := (gridKd s p.grid).gang

/-- The pending workgroups that are placed together with one. -/
def pendUnit (s : State) (D : Die) (p : PendWg) : List PendWg :=
  if isGang s p then sortBy (fun x => [x.wg]) (D.pending.filter fun x => x.grid == p.grid && x.wg / 4 == p.wg / 4) else [p]

def savedOf (s : State) (grid wg : Nat) : Option Saved :=
  s.shadow.find? fun v => v.wg.grid == grid && v.wg.index == wg

def memberWant (s : State) (p : PendWg) : Want :=
  let w := wantOf (gridKd s p.grid)
  match if p.saved then savedOf s p.grid p.wg else none with
  | some v => { w with words := v.groups.map fun x => 32 * allot x.2.nreq }
  | none => w

def pendWant (s : State) (D : Die) (p : PendWg) : UnitWant :=
  ⟨p.latency, isGang s p, (pendUnit s D p).map fun x => (x.wg % 4, memberWant s x), (gridKd s p.grid).ksmem⟩

def gridPart (s : State) (k : Nat) : Nat := ((aget s.grids k).map (·.part)).getD 0

/-- Where a pending unit fits now: a spot for each member and the `.ks` base. -/
def fitOf (s : State) (D : Die) (p : PendWg) : Option (List Spot × Nat) :=
  (placeUnit (yardOf s D.id (gridPart s p.grid) (p.grid, p.wg) p.latency) D.reserve (pendWant s D p)).map fun x => (x.1, x.2.1)

/-- Where a pending unit is placed: where it fits, unless its partition is halted (R390). -/
def placeOf (s : State) (D : Die) (p : PendWg) : Option (List Spot × Nat) :=
  if partRuns s (gridPart s p.grid) then fitOf s D p else none

/-! ### Placement -/

/-- One member starts, or resumes. -/
def placeMember (d : Nat) (gang : Option Nat) (s : State) (x : PendWg × Spot) : State :=
  match if x.1.saved then savedOf s x.1.grid x.1.wg else none with
  | some v => restoreWg s v x.2
  | none => launchWg s ⟨x.1.grid, x.1.wg, x.1.dwg, d, gang, []⟩ x.2

/-- The gang of a unit on its quad: a saved one again, or a new one. -/
def seatGang (s : State) (p : PendWg) (quad ksBase : Nat) : Option Nat × State :=
  match aget s.grids p.grid with
  | none => (none, s)
  | some K =>
    if !K.kd.gang then (none, s)
    else match if p.saved then (savedOf s p.grid p.wg).bind (·.wg.gang) else none with
      | some k => (some k, { s with gangs := amod s.gangs k fun g => { g with quad, ksBase, placed := true } })
      | none =>
        let (k, s) := launchGang s p.grid (p.wg / 4) quad ksBase K
        (some k, s)

/-- A unit leaves the pending list for its cores. -/
def seat (s : State) (D : Die) (p : PendWg) (spots : List Spot) (ksBase : Nat) : State :=
  let unit := pendUnit s D p
  let (gang, s) := seatGang s p (quadOf ((spots.head?.map (·.core)).getD 0)) ksBase
  let back := (unit.zip spots).filterMap fun x =>
    (if x.1.saved then savedOf s x.1.grid x.1.wg else none).map fun v => (v, x.2.core)
  let s := requeueAll ((unit.zip spots).foldl (placeMember D.id gang) s) back
  modDie s D.id fun E => { E with
    pending := E.pending.filter fun x => !unit.contains x,
    hold := if E.hold.any fun h => h.1 == p.grid && h.2.1 == p.wg then none else E.hold }

/-- The first pending unit that fits is placed (R294). -/
def placeNext (s : State) (d : Nat) : State :=
  let D := getDie s d
  if D.st ≠ .up then s
  else match (heads D.pending).findSome? fun p => (placeOf s D p).map fun x => (p, x) with
    | some (p, spots, base) => seat s D p spots base
    | none => s

/-- R294 -/
def execPlaceWorkgroup (s : State) : Host.Outcome State Fault Refusal := .next (placeNext s s.subj.die)

/-! ### Batches (R293) -/

/-- Whether a grid has workgroups that the global dispatcher still holds. -/
def undispatched (K : Grid) : Bool := !K.returned.isEmpty || decide (K.nextWg < K.nwg)

/-- The dies a batch may go to now. -/
def openDies (s : State) (K : Grid) : List Nat :=
  (List.range 8).filter fun d => (allowedDies s K).getLsbD d && (getDie s d).st == .up

/-- The allowed die with the largest report, the lowest of equals. -/
def bestDie (report : Nat → Nat) (s : State) (K : Grid) : Option (Nat × Nat) :=
  (openDies s K).foldl (fun best d =>
    let r := report d
    match best with
    | none => if r = 0 then none else some (d, r)
    | some b => if b.2 < r then some (d, r) else best) none

/-- Workgroups of a grid that have come back from a die under reset and wait until it has been emptied (R397). -/
def heldBack (s : State) (grid : Nat) : List Nat :=
  s.dies.flatMap fun D => ((D.reset.map (·.back)).getD []).filterMap fun x => if x.1 == grid then some x.2 else none

/-- The next workgroups in order, at most n and gangs whole: those that came back and are not `held`, then the undispatched. -/
def nextBatch (held : List Nat) (K : Grid) (n : Nat) : List Nat × Grid :=
  let ready := K.returned.filter fun w => !held.contains w
  let t := ready.take n
  let t := match K.kd.gang, (ready.drop n).head? with
    | true, some w => t.filter fun x => x / 4 != w / 4
    | _, _ => t
  let more := if (ready.drop t.length).isEmpty then min (n - t.length) (K.nwg - K.nextWg) else 0
  let more := if K.kd.gang then more / 4 * 4 else more
  (t ++ (List.range more).map (K.nextWg + ·),
    { K with returned := K.returned.filter fun w => !t.contains w, nextWg := K.nextWg + more })

/-- A die receives a batch: its share and its barriers with it (R199, R293). A workgroup that another die received first
keeps the number it had there (R36). -/
def receive (s : State) (grid d : Nat) (K : Grid) (ws : List Nat) : State :=
  let fresh := ws.filter fun w => (savedOf s grid w).isNone
  let new := fresh.filter fun w => (aget K.dwgs w).isNone
  let base := (aget K.arrivals d).getD 0
  let s := if s.bars.any fun b => b.lvl == 3 && b.owner == grid * 8 + d then s
    else { s with bars := s.bars ++ (List.range 8).map (newBar 3 (grid * 8 + d) 0) }
  let s := barRaise s 3 (grid * 8 + d) (fresh.length * K.kd.groups)
  let pend (w : Nat) : PendWg :=
    { grid, wg := w, latency := K.latency, order := s.uid, dwg := (aget K.dwgs w).getD (base + new.idxOf w),
      saved := !fresh.contains w }
  let s := { s with
    uid := s.uid + 1,
    grids := aset s.grids grid { K with
      shares := K.shares ||| BitVec.ofNat 8 (2 ^ d), arrivals := aset K.arrivals d (base + new.length) } }
  modDie s d fun D => { D with pending := D.pending ++ ws.map pend }

/-- The next batch of a grid goes to the die with the largest report. -/
def dispatchNext (report : Nat → Nat) (s : State) (grid : Nat) (K : Grid) : State :=
  match bestDie report s K with
  | none => s
  | some (d, r) =>
    let (ws, K) := nextBatch (heldBack s grid) K (min 64 r)
    if ws.isEmpty then s else receive { s with free := s.free + 8 } grid d K ws

/-- Workgroups of a grid that all its dies together could place. -/
def roomFor (s : State) (K : Grid) : Nat := ((openDies s K).map (dieRoom s K)).sum

/-- Workgroups of a grid that the global dispatcher holds and that have not started. -/
def unstarted (s : State) (grid : Nat) (K : Grid) : Nat :=
  (K.returned.filter fun w => (savedOf s grid w).isNone).length + (K.nwg - K.nextWg)

/-- The pending workgroups of one grid are placed where they fit. -/
def placeGrid (grid : Nat) (s : State) : State :=
  (List.range 8).foldl (fun s d =>
    ((getDie s d).pending.filter fun p => p.grid == grid).foldl (fun s p =>
      let D := getDie s d
      if D.pending.contains p then match placeOf s D p with
        | some (spots, base) => seat s D p spots base
        | none => s
      else s) s) s

/-- Whether a die of a grid has a pending unit that fits and that it serves before a new workgroup of the grid (R294). -/
def servedFirst (s : State) (K : Grid) : Bool :=
  (openDies s K).any fun d => (heads (getDie s d).pending).any fun p =>
    (p.latency || !K.latency) && (placeOf s (getDie s d) p).isSome

/-- A grid with COR = 1 is handed out and placed whole, once every workgroup of it fits at once (R253, R296) and no pending
unit that fits stands before it (R294): each batch goes where there is room for it as the cores stand. -/
def dispatchWhole (s : State) (grid : Nat) (K : Grid) : State :=
  if unstarted s grid K ≤ roomFor s K && !servedFirst s K then
    (List.range K.nwg).foldl (fun s _ => match aget s.grids grid with
      | some K => if undispatched K then placeGrid grid (dispatchNext (dieRoom s K) s grid K) else s
      | none => s) s
  else s

/-- R293, R296: the next batch of a grid. -/
def execDispatchBatch (grid : Nat) (s : State) : Host.Outcome State Fault Refusal :=
  .next (match aget s.grids grid with
    | none => s
    | some K =>
      if K.pipe.isSome || !undispatched K || !partRuns s K.part then s
      else if K.cor && unstarted s grid K != 0 then dispatchWhole s grid K
      else dispatchNext (dieReport s grid K) s grid K)

/-! ### Gang hold and starvation (R295) -/

/-- The unit that stands first at a die, noted with the cycle since when it has stood there without fitting. -/
def watchHead (s : State) (D : Die) : Die :=
  match (heads D.pending).head? with
  | none => { D with headSince := none, hold := none }
  | some p =>
    let D := { D with hold := holdOf D }
    match D.headSince with
    | some h => if h.1 = p.grid ∧ h.2.1 = p.wg ∧ (fitOf s D p).isNone then D else { D with headSince := some (p.grid, p.wg, s.cycle) }
    | none => { D with headSince := some (p.grid, p.wg, s.cycle) }

def watchHeads (s : State) : State := { s with dies := s.dies.map (watchHead s) }

/-- The gang that has waited first at a die for 65,536 cycles without fitting. -/
def holdDue (s : State) (d : Nat) : Option PendWg :=
  let D := getDie s d
  if (holdOf D).isSome || D.st != .up then none
  else match (heads D.pending).head?, D.headSince with
    | some p, some h =>
      if isGang s p ∧ h.1 = p.grid ∧ h.2.1 = p.wg ∧ h.2.2 + 65536 ≤ s.cycle ∧ (fitOf s D p).isNone then some p else none
    | _, _ => none

/-- R295 -/
def execGangHold (s : State) : Host.Outcome State Fault Refusal :=
  .next (match holdDue s s.subj.die with
    | some p => modDie s s.subj.die fun D => { D with hold := some (p.grid, p.wg, s.cycle), starved := false }
    | none => s)

def starveDue (s : State) (d : Nat) : Bool :=
  let D := getDie s d
  !D.starved && (holdOf D).any fun h => decide (h.2.2 + 2 ^ 20 ≤ s.cycle)

/-- R295: the kernel of the base die is told once of a hold. -/
def execPlacementStarvation (s : State) : Host.Outcome State Fault Refusal :=
  .next (let d := s.subj.die
    match if starveDue s d then (holdOf (getDie s d)) else none with
    | none => s
    | some h =>
      let K := aget s.grids h.1
      let stream := (K.map (·.stream)).getD 0
      let seq := (K.map (·.seq)).getD 0
      let s := modDie s d fun D => { D with starved := true }
      notify s 0 4 0x82 0 (baseOf d)
        [BitVec.ofNat 32 (d + 65536 * stream), BitVec.ofNat 32 seq, BitVec.ofNat 32 (seq / 2 ^ 32),
         BitVec.ofNat 32 (h.2.1 / 4)])

/-! ### Pre-emption for latency work (R385) -/

/-- Bulk workgroups of a partition on the reserve cores of a die that may be pre-empted, lowest core first; those on the
cores of other partitions make no room. -/
def reserveBulk (s : State) (D : Die) (part : Nat) : List Nat :=
  let mine := s.wgs.filter fun x => borrows s D x.2 && gridPart s x.2.grid == part
  (sortBy (fun x => [x.2.core, x.1]) mine).map (·.1)

/-- A pre-empted unit re-enters the pending order of its die (R385). -/
def repend (s : State) (d : Nat) (ws : List Wg) : State :=
  let lat (W : Wg) : Bool := (aget s.grids W.grid).any (·.latency)
  modDie { s with uid := s.uid + 1 } d fun D => { D with
    pending := D.pending ++ ws.map fun W => ⟨W.grid, W.index, lat W, s.uid, W.dwg, true⟩ }

/-- Pre-empts a unit that resumes on the same die. -/
def evict (s : State) (d wg : Nat) : State :=
  let ws := (unitOfWg s wg).filterMap fun w => aget s.wgs w
  repend (saveUnit s wg) d ws

/-- Units pre-empted one after the other. -/
def evictAll (s : State) (d : Nat) (ws : List Nat) : State :=
  ws.foldl (fun s w => if (aget s.wgs w).isSome then evict s d w else s) s

/-- The units to pre-empt so that a pending unit fits: lowest core first until it does, then without those that are not
needed; none if it never fits. -/
def roomMakers (s : State) (D : Die) (p : PendWg) (ws : List Nat) : Option (List Nat) :=
  let fits (ws : List Nat) : Bool := (placeOf (evictAll s D.id ws) D p).isSome
  (((List.range (ws.length + 1)).map ws.take).find? fits).map fun ws =>
    ws.foldl (fun left w => if fits (left.filter (· != w)) then left.filter (· != w) else left) ws

/-- The first pending latency unit of a die that does not fit. -/
def latencyStuck (s : State) (D : Die) : Option PendWg :=
  match (heads D.pending).head? with
  | some p => if p.latency && partRuns s (gridPart s p.grid) && (placeOf s D p).isNone then some p else none
  | none => none

/-- R385 -/
def execLatencyReservePreemption (s : State) : Host.Outcome State Fault Refusal :=
  .next (let D := getDie s s.subj.die
    if D.st ≠ .up then s
    else match latencyStuck s D with
      | none => s
      | some p => ((roomMakers s D p (reserveBulk s D (gridPart s p.grid))).map (evictAll s D.id)).getD s)

end Sys2Proof.Machine
end

