-- ==== Sys2Proof/Machine/Window.lean ====
section
/-! DEFINITION. What a task window reads: its accesses to memory (R360, R423), task entries and their checks (R247
to R249), kernel descriptors, launch records and pipeline records (R250, R251, R254), and stream fetch (R361, R368). -/

namespace Sys2Proof.Machine

open Sys2Proof

/-! ### Accesses (R313, R360) -/

/-- The place of a word that a window reads or writes for a partition, with US = 1. -/
def winLoc (s : State) (part va : Nat) (wr : Bool) : Except (Nat × Nat) (Nat × LineAttr) × State :=
  match partIx s part with
  | none => (.error (causeXlate, 2), s)
  | some p => match walk s p.home p va with
    | (.fault c sub, s) => (.error (c, sub), s)
    | (.ok pa e _, s) => match permit ⟨!wr, wr, false, true⟩ e with
      | some sub => (.error (causeProtection, sub), s)
      | none =>
        let (pa, e) := ownLeaf s pa e
        (.ok (pa, lineAttr e), s)

def winRead (s : State) (part va : Nat) : Except (Nat × Nat) Word × State :=
  match winLoc s part va false with
  | (.error e, s) => (.error e, s)
  | (.ok (pa, at_), s) =>
    let (ws, s) := homeRead s pa at_
    (.ok (ws.getD (pa / 4 % 16) .zero), s)

def winReads (s : State) (part va : Nat) : Nat → Except (Nat × Nat) (List Word) × State
  | 0 => (.ok [], s)
  | n + 1 => match winReads s part va n with
    | (.error e, s) => (.error e, s)
    | (.ok ws, s) => match winRead s part (va + 4 * n) with
      | (.error e, s) => (.error e, s)
      | (.ok w, s) => (.ok (ws ++ [w]), s)

def winPut (s : State) (pa : Nat) (at_ : LineAttr) (w : Word) : State :=
  homeWrite s pa at_ [(pa / 4 % 16, wholePatch w)]

def winWrite (s : State) (part va : Nat) (w : Word) : Option (Nat × Nat) × State :=
  match winLoc s part va true with
  | (.error e, s) => (some e, s)
  | (.ok (pa, at_), s) => (none, winPut s pa at_ w)

/-- Bytes of a word written, as a sub-word store does (R157). -/
def winPatch (s : State) (part va : Nat) (p : Patch) : State :=
  match winLoc s part va true with
  | (.error _, s) => s
  | (.ok (pa, at_), s) => homeWrite s pa at_ [(pa / 4 % 16, p)]

/-- The first of n words that a window may not write, with its cause. -/
def winRefused (s : State) (part va : Nat) : Nat → Option (Nat × Nat × Nat) × State
  | 0 => (none, s)
  | n + 1 => match winRefused s part va n with
    | (some e, s) => (some e, s)
    | (none, s) => match winLoc s part (va + 4 * n) true with
      | (.error (c, sub), s) => (some (c, sub, va + 4 * n), s)
      | (.ok _, s) => (none, s)

/-- Words written whole or, where any of them may not be, not at all (R423). -/
def winWrites (s : State) (part va : Nat) (ws : List Word) : Option (Nat × Nat × Nat) × State :=
  match winRefused s part va ws.length with
  | (some e, s) => (some e, s)
  | (none, s) => (none, (ws.zipIdx.foldl (fun s w => (winWrite s part (va + 4 * w.2) w.1).2) s))

/-- A record of the window: written, or dropped and reported by the member (R423). Kinds are those of R411. -/
def winRecord (s : State) (stream part member kind va : Nat) (ws : List W32) : State :=
  match winWrites s part va (ws.map gen) with
  | (none, s) => s
  | (some (c, sub, a), s) =>
    notify s 0 4 0x85 0 member
      [BitVec.ofNat 32 (stream + 2 ^ 16 * part + 2 ^ 24 * kind), BitVec.ofNat 32 (c + 256 * sub),
       BitVec.ofNat 32 a, BitVec.ofNat 32 (a / 2 ^ 32)]

/-! ### Task entries (R247 to R249) -/

def eW (e : List Word) (i : Nat) : Nat := (e.getD i .zero).val.toNat
def eD (e : List Word) (i : Nat) : Nat := eW e i + 2 ^ 32 * eW e (i + 1)
def topOf (e : List Word) : Nat := eW e 0 % 256
def loOf (e : List Word) (i : Nat) : Nat := eW e 0 / 2 ^ (8 + 8 * i) % 256
def liOf (e : List Word) (j : Nat) : Nat := eW e 1 / 2 ^ (8 * j) % 256
def rscopeOf (e : List Word) : Nat := eW e 0 / 2 ^ 24 % 8
def chkOf (e : List Word) : Bool := (eW e 0).testBit 27
def corOf (e : List Word) : Bool := (eW e 0).testBit 28
def szOf (e : List Word) (i : Nat) : Nat := eW e 7 / 2 ^ (16 + 5 * i) % 32
def lenOf (e : List Word) : Nat := eW e 6 + 2 ^ 32 * (eW e 7 % 65536)
def classBytes (c : Nat) : Nat := 65536 * 2 ^ c

def logical (top : Nat) : Bool := decide (1 ≤ top) && decide (top ≤ 4)
def usesScope (top : Nat) : Bool := [1, 2, 3, 4, 8, 9, 0x0D].contains top

/-- The bits that an entry of a type may use, word by word (R247, R248); RSCOPE is judged apart. -/
def usedBits (top : Nat) : List Nat :=
  let all := 0xFFFFFFFF
  match top with
  | 0x01 => [0x1FFFFFFF, all, all, all, all, all, all, 0x0FFF0000]
  | 0x02 => [0x1FFFFFFF, all, all, all, all, all, all, 0x03FF0007]
  | 0x03 => [0x0FFFFFFF, all, all, all, all, all, all, 0x03FFFFFF]
  | 0x04 => [0x0FFFFFFF, all, all, 0, all, all, all, 0x03FFFFFF]
  | 0x05 => [0x0700FFFF, 0, 0, 0, 0, 0, 0, 0]
  | 0x06 => [0x070000FF, 0x3FF, all, all, all, 0xFFFF, all, all]
  | 0x07 => [0x070000FF, 0x3FF, 0, 0, 0, 0, 0, 0]
  | 0x08 => [0x070000FF, 0, all, all, all, 3, 0, 0]
  | 0x09 => [0x070000FF, 0, all, all, all, 3, all, 0]
  | 0x0A | 0x0B | 0x0E => [0x070000FF, 0, all, all, 0, 0, 0, 0]
  | 0x0C => [0x070F00FF, 0, all, all, 0, 0, 0, 0]
  | _ => [0x070000FF, 0, 0, 0, 0, 0, 0, 0]

def strayBits (e : List Word) : Bool :=
  (usedBits (topOf e)).zipIdx.any fun m => eW e m.2 &&& m.1 != eW e m.2

/-- The addresses of an entry with their alignments. -/
def entryAddrs (e : List Word) : List (Nat × Nat) :=
  match topOf e with
  | 0x01 | 0x02 => [(eD e 2, 64), (eD e 4, 64)]
  | 0x03 => (if liOf e 0 = 255 then [(eD e 2, 4)] else []) ++ (if loOf e 0 = 255 then [(eD e 4, 4)] else [])
  | 0x04 => if loOf e 0 = 255 then [(eD e 4, 4)] else []
  | 0x06 => [(eD e 2, 1), (eD e 6, 64)]
  | 0x08 | 0x09 => [(eD e 2, 4)]
  | 0x0A | 0x0C => [(eD e 2, 32)]
  | 0x0B => [(eD e 2, 4096)]
  | 0x0E => [(eD e 2, 64)]
  | _ => []

/-- Reason 0x04: addresses, offsets and lengths. -/
def misplaced (e : List Word) : Bool :=
  (entryAddrs e).any (fun a => a.1 % a.2 != 0 || !canonical a.1) ||
  (topOf e == 3 && (eD e 2 % 4 != 0 || eD e 4 % 4 != 0 || lenOf e % 4 != 0 || lenOf e == 0)) ||
  (topOf e == 4 && (eD e 4 % 4 != 0 || lenOf e % 4 != 0 || lenOf e == 0))

/-- Reason 0x08: outputs. -/
def badOutput (e : List Word) : Bool :=
  logical (topOf e) && ((loOf e 0 == loOf e 1 && loOf e 0 != 255) ||
    ((topOf e == 3 || topOf e == 4) && loOf e 0 != 255 && decide (classBytes (szOf e 0) < eD e 4 + lenOf e)))

/-- Whether a reserved size class or a reserved OP or CMP stands in an entry. -/
def reservedCode (e : List Word) : Bool :=
  (logical (topOf e) && (decide (17 < szOf e 0) || decide (17 < szOf e 1))) ||
  ((topOf e == 8 || topOf e == 9) && eW e 5 % 4 == 3)

/-- How the entry came into the stream: a firmware stream, a successor slot, directly after a run or pipe. -/
structure EntryCtx where
  firmware : Bool
  slot : Bool
  afterRun : Bool
  deriving DecidableEq, Repr

/-- The reasons that an entry's own words give (R249); a tk.succ count out of range has no stated reason. -/
def entryReasons (x : EntryCtx) (e : List Word) : List Nat :=
  let top := topOf e
  let n := eW e 0 / 2 ^ 16 % 16
  if 0x0F ≤ top then [1]
  else
    (if strayBits e || reservedCode e then [2] else []) ++
    (if usesScope top then (if rscopeOf e = 0 ∨ 5 < rscopeOf e then [3] else [])
     else if rscopeOf e = 0 then [] else [3]) ++
    (if misplaced e then [4] else []) ++
    (if top = 0x0B ∧ !x.firmware then [5] else []) ++
    (if badOutput e then [8] else []) ++
    (if top = 0x0C ∧ (n = 0 ∨ 8 < n) then [pick [2, 4]] else []) ++
    (if (top = 0x0C ∧ (!x.afterRun || x.slot)) ∨ (x.slot ∧ (top = 0x0A ∨ top = 0x0B)) then [9] else [])

/-- Step 1 of the order of R249. -/
def entryReason (x : EntryCtx) (e : List Word) : Option Nat :=
  if e.any fun w => isPoison w || mismatch w then some 0x0A else (entryReasons x e).min?

/-! ### Records -/

/-- A record's words, or reason 0x0B or 0x0A. -/
def readRecord (s : State) (part addr n : Nat) : Except Nat (List Word) × State :=
  match winReads s part addr n with
  | (.error _, s) => (.error 0x0B, s)
  | (.ok ws, s) => if ws.any fun w => isPoison w || mismatch w then (.error 0x0A, s) else (.ok ws, s)

/-- R250 -/
def kdescOf (ws : List Word) : Option KDesc :=
  let w := eW ws
  let g := w 4
  let groups := g / 256 % 64
  let nreq := g % 256
  let gang := g.testBit 14
  if w 0 % 8 ≠ 0 ∨ 2 ^ 15 ≤ g ∨ groups = 0 ∨ 32 < groups ∨ nreq = 0 ∨ 262144 < w 5 ∨ w 5 % 64 ≠ 0 ∨
      (w 6 ≠ 0 ∧ !gang) ∨ 2 ^ 20 ≤ w 8 ∨ 2 ^ 16 ≤ w 9 ∨ 2 ^ 10 ≤ w 10 ∨ (ws.drop 11).any fun x => x.val != 0 then none
  else some
    { code := BitVec.ofNat 64 (eD ws 0), tvec := BitVec.ofNat 64 (eD ws 2), gang, groups, nreq,
      scratch := w 5, ksmem := w 6, wdog := w 7, accmask := BitVec.ofNat 4 (w 8 / 65536),
      cbmask := BitVec.ofNat 16 (w 8), bcmask := BitVec.ofNat 16 (w 9), cpol := BitVec.ofNat 10 (w 10), raw := ws }

def readKdesc (s : State) (part addr : Nat) : Except Nat KDesc × State :=
  match readRecord s part addr 16 with
  | (.error r, s) => (.error r, s)
  | (.ok ws, s) => match kdescOf ws with
    | none => (.error 6, s)
    | some k => (.ok k, s)

/-- Region j of a launch record: base, length and whether the task writes it. -/
def regionOf (ws : List Word) (j : Nat) : Nat × Nat × Bool :=
  (eD ws (4 + 4 * j), eD ws (6 + 4 * j) % 2 ^ 48, (eW ws (7 + 4 * j)).testBit 30)

def regionValid (ws : List Word) (j : Nat) : Bool := (eW ws (7 + 4 * j)).testBit 31

/-- The fixed part of a launch record breaks no rule of R251. -/
def lrecOk (gang : Bool) (ws : List Word) : Bool :=
  let w := eW ws
  let nwg := w 0
  decide (1 ≤ nwg) && decide (nwg < 2 ^ 24) && decide (w 1 < 2 ^ 21) && w 1 / 256 % 256 == 0 &&
  decide (w 1 / 65536 ≤ 20) && w 2 == 0 && w 3 == 0 && (ws.drop 20).all (fun x => x.val == 0) &&
  (List.range 4).all (fun j => w (7 + 4 * j) / 65536 % 2 ^ 14 == 0 &&
    (!regionValid ws j || (regionOf ws j).2.1 != 0)) &&
  (!gang || nwg % 4 == 0)

def readLrec (s : State) (part addr : Nat) (gang : Bool) : Except Nat LRec × State :=
  match readRecord s part addr 32 with
  | (.error r, s) => (.error r, s)
  | (.ok ws, s) =>
    if !lrecOk gang ws then (.error 7, s)
    else match winReads s part (addr + 128) (eW ws 1 / 65536) with
      | (.error _, s) => (.error 0x0B, s)
      | (.ok args, s) =>
        (.ok ⟨eW ws 0, BitVec.ofNat 8 (eW ws 1), args,
          ((List.range 4).filter (regionValid ws)).map (regionOf ws)⟩, s)

/-- A stage's slot of a pipeline record, its kernel not yet read; none where a field breaks R254. -/
def stageSlot (ws : List Word) (i : Nat) : Option (Nat × Nat × Nat × W16 × W16) :=
  let b := 8 * i
  let kd := eD ws b
  let minc := eW ws (b + 2) % 65536
  let maxc := eW ws (b + 2) / 65536
  if minc = 0 ∨ maxc < minc ∨ kd % 64 ≠ 0 ∨ canonical kd = false ∨
      ((List.range 4).any fun j => eW ws (b + 4 + j) != 0) then none
  else some (kd, minc, maxc, BitVec.ofNat 16 (eW ws (b + 3) / 65536), BitVec.ofNat 16 (eW ws (b + 3)))

/-- The kernels that a pipeline record's stages name, as far as their addresses can be read. -/
def stageKernels (nst : Nat) (ws : List Word) : List Nat :=
  ((List.range nst).map fun i => eD ws (8 * i)).filter fun a => a % 64 == 0 && canonical a

def isPow2 (n : Nat) : Bool := (List.range 21).any fun k => n == 2 ^ k

/-- Queue n of a pipeline record: some record where it is used and well formed, none where it breaks R254. -/
def queueSlot (p : Part) (ws : List Word) (push pop : W16) (n : Nat) : Option (List PQueueRec) :=
  let b := 64 + 4 * n
  let w1 := eW ws (b + 1)
  let cap := w1 / 256
  let base := eW ws b
  let xs := w1 % 8 == 3
  if !push.getLsbD n && !pop.getLsbD n then
    (if (List.range 4).all fun j => eW ws (b + j) == 0 then some [] else none)
  else if !push.getLsbD n || !pop.getLsbD n || !(w1 % 8 == 2 || xs) || w1 / 8 % 32 != 0 || cap == 1 || !isPow2 cap ||
      eW ws (b + 2) != 0 || eW ws (b + 3) != 0 || base % 4 != 0 ||
      !(if xs then inXs p base (4 * cap) else decide (base + 4 * cap ≤ 2 ^ 18)) then none
  else some [⟨n, xs, base, cap⟩]

/-- Stages and queues of a pipeline record (R254, R387). -/
def precOf (p : Part) (nst : Nat) (ws : List Word) :
    Option (List (Nat × Nat × Nat × W16 × W16) × List PQueueRec) :=
  let st := (List.range nst).map (stageSlot ws)
  if st.any (·.isNone) then none
  else
    let st := st.filterMap id
    let pop := st.foldl (fun m x => m ||| x.2.2.2.1) 0
    let push := st.foldl (fun m x => m ||| x.2.2.2.2) 0
    let qs := (List.range 16).map (queueSlot p ws push pop)
    if qs.any (·.isNone) then none
    else
      let qs := (qs.filterMap id).flatten
      if qs.any (fun q => !q.xs) && decide (4 < (st.map (·.2.2.1)).sum) then none else some (st, qs)

/-- Kernel descriptors in order, up to the first that fails. -/
def readKdescs (s : State) (part : Nat) : List Nat → Except Nat (List KDesc) × State
  | [] => (.ok [], s)
  | a :: r => match readKdesc s part a with
    | (.error e, s) => (.error e, s)
    | (.ok kd, s) => match readKdescs s part r with
      | (.error e, s) => (.error e, s)
      | (.ok l, s) => (.ok (kd :: l), s)

/-- The stages with their kernels. -/
def stageRecs (st : List (Nat × Nat × Nat × W16 × W16)) (ks : List KDesc) : List PStageRec :=
  (st.zip ks).map fun x => ⟨x.1.1, x.2, x.1.2.1, x.1.2.2.1, x.1.2.2.2.1, x.1.2.2.2.2⟩

/-! ### Decoding (R249) -/

/-- What decoding an entry found. -/
structure Decoded where
  reason : Option Nat
  kd : Option KDesc
  lr : Option LRec
  stages : List PStageRec
  queues : List PQueueRec
  deriving DecidableEq, Repr

def Decoded.plain (r : Option Nat) : Decoded := ⟨r, none, none, [], []⟩

def errOf {α : Type} (x : Except Nat α) : Option Nat :=
  match x with
  | .error r => some r
  | .ok _ => none

def okOf {α : Type} (x : Except Nat α) : Option α :=
  match x with
  | .ok a => some a
  | .error _ => none

def decodeRun (s : State) (part : Nat) (e : List Word) : Decoded × State :=
  let (k, s) := readKdesc s part (eD e 2)
  let (l, s) := readLrec s part (eD e 4) (((okOf k).map (·.gang)).getD false)
  (⟨(errOf k).or (errOf l), okOf k, okOf l, [], []⟩, s)

/-- The kernel descriptors, which only the pipeline record names, the launch record, then the pipeline record's own fields
(R249). -/
def decodePipe (s : State) (part : Nat) (e : List Word) : Decoded × State :=
  match partIx s part with
  | none => (.plain (some 0x0B), s)
  | some p =>
    let nst := eW e 7 % 8 + 1
    let (r, s) := readRecord s part (eD e 2) 128
    let (k, s) := readKdescs s part (((okOf r).map (stageKernels nst)).getD [])
    let (l, s) := readLrec s part (eD e 4) (((okOf k).map fun x => x.any (·.gang)).getD false)
    let prec := (okOf r).bind (precOf p nst)
    let stages := match prec, okOf k with
      | some (st, _), some ks => stageRecs st ks
      | _, _ => []
    (⟨((errOf k).or (errOf l)).or ((errOf r).or (if prec.isNone then some 7 else none)), none, okOf l, stages,
      (prec.map (·.2)).getD []⟩, s)

/-- The checks of R249 in their order. -/
def decodeEntry (s : State) (part : Nat) (x : EntryCtx) (e : List Word) : Decoded × State :=
  match entryReason x e with
  | some r => (.plain (some r), s)
  | none =>
    if topOf e = 1 then decodeRun s part e
    else if topOf e = 2 then decodePipe s part e
    else (.plain none, s)

/-! ### Streams and windows -/

def getStream (s : State) (i : Nat) : Option Stream := s.streams.find? fun x => x.id == i
def modStream (s : State) (i : Nat) (f : Stream → Stream) : State :=
  { s with streams := s.streams.map fun x => if x.id == i then f x else x }

/-- Tasks of a stream in the window, oldest first. -/
def streamTasks (s : State) (i : Nat) : List Task := sortBy (fun t => [t.seq]) (s.tasks.filter fun t => t.stream == i)

def getTask (s : State) (i seq : Nat) : Option Task := s.tasks.find? fun t => t.stream == i && t.seq == seq
def modTask (s : State) (i seq : Nat) (f : Task → Task) : State :=
  { s with tasks := s.tasks.map fun t => if t.stream == i && t.seq == seq then f t else t }

def modWindow (s : State) (w : Nat) (f : WinTurn → WinTurn) : State := { s with windows := lmod s.windows w f }
def getWindow (s : State) (w : Nat) : WinTurn := s.windows.getD w ⟨none, none, 0, 0⟩

/-- Whether a stream may fetch (R361, R365, R368, R378). -/
def mayFetch (s : State) (x : Stream) : Bool :=
  x.st == .run && x.hold.isNone && partRuns s x.part && (!x.slots.isEmpty || x.fetched != x.tail) &&
  decide ((s.tasks.filter fun t => t.stream == x.id).length < 128) &&
  decide ((s.tasks.filter fun t => t.win == x.win).length < 1024)

/-- Round robin among streams: the next number after the last one served. -/
def nextRound (last : Nat) (l : List Nat) : Option Nat :=
  ((l.filter fun i => decide (last < i)).min?).or l.min?

/-- The stream that a window serves next: latency streams first (R368). -/
def servedNext (s : State) (w : Nat) : Option Nat :=
  let W := getWindow s w
  let ready (c : Bool) : List Nat := (s.streams.filter fun x => x.win == w && x.cls == c && mayFetch s x).map (·.id)
  if (ready true).isEmpty then nextRound W.bulk (ready false) else nextRound W.lat (ready true)

/-- Whether it is a stream's turn to fetch in this cycle. -/
def fetchTurn (s : State) (x : Stream) : Bool :=
  servedNext s x.win == some x.id && (getWindow s x.win).fetchAt != some s.cycle

def noteFetch (s : State) (x : Stream) : State :=
  modWindow s x.win fun W =>
    if x.cls then { W with fetchAt := some s.cycle, lat := x.id } else { W with fetchAt := some s.cycle, bulk := x.id }

/-- The entry address after one (R361). -/
def entryAfter (x : Stream) (fp : Nat) : Nat :=
  if x.ring ≤ fp ∧ fp < x.ring + 32 * x.rsz ∧ fp + 32 = x.ring + 32 * x.rsz then x.ring else fp + 32

/-- The address of the entry that a stream fetches next. -/
def nextAddr (x : Stream) : Nat := x.slots.headD x.fp

/-- The words of the next entry; unreadable ones are open and poisoned. -/
def entryWords (s : State) (x : Stream) (a : Nat) : Bool × List Word × State :=
  match winReads s x.part a 8 with
  | (.ok ws, s) => (true, ws, s)
  | (.error _, s) => (false, (List.range 8).map fun i => ⟨Config.freeWord (s.free + i), 0xF⟩, { s with free := s.free + 8 })

def ctxOf (x : Stream) (slot : Bool) : EntryCtx := ⟨x.firmware, slot, x.last == 1 || x.last == 2⟩

/-- A stream whose work is all done falls idle (R365). -/
def settleIdle (s : State) (i : Nat) : State :=
  modStream s i fun x =>
    if x.st = .run ∧ x.fetched = x.tail ∧ x.slots.isEmpty ∧ x.hold.isNone ∧ !(s.tasks.any fun t => t.stream == i) then { x with st := .idle }
    else x

/-- A new window entry. -/
def newTask (s : State) (x : Stream) (seq : Nat) (slot : Bool) (addr : Nat) (e : List Word) (d : Decoded) : Task :=
  { stream := x.id, seq, win := x.win, part := x.part, entry := e, addr, after := entryAfter x addr, fetchNo := x.fetched,
    age := (aget x.refetch seq).getD s.cycle,
    st := if d.reason.isSome then .complete else .decoded,
    fault := d.reason.map fun r =>
      ⟨r, if r = 5 then causePrivilege else 0, 0, 0, false, 0, 0, 0xFFFF, 0⟩,
    reads := [], ins := [], outs := [], drawn := [], kd := d.kd, lr := d.lr, stages := d.stages, queues := d.queues,
    grid := none, pipe := none, chunks := 0, tested := none, pollBy := 0, events := none, wrote := false, slot, restored := [] }

/-- An entry becomes a task under the next sequence number (R364, R369). -/
def addTask (s : State) (i : Nat) (slot : Bool) (addr : Nat) (e : List Word) (d : Decoded) : State :=
  match getStream s i with
  | none => s
  | some x =>
    let t := newTask s x x.nextSeq slot addr e d
    modStream { s with tasks := s.tasks ++ [t] } i fun x =>
      { x with nextSeq := x.nextSeq + 1, refetch := adel x.refetch x.nextSeq, last := topOf e }

/-- The fetch pointer passes an entry: of the ring or a link's chain, or of a slot that is fetched again. -/
def passEntry (s : State) (i : Nat) : State :=
  modStream s i fun x => match x.slots with
    | _ :: r => { x with slots := r }
    | [] => { x with fp := entryAfter x x.fp, fetched := x.fetched + 1 }

/-- Entries that are retired at decode: no-ops, links and successor entries (R259, R260, R368). -/
def fleeting (top : Nat) : Bool := top == 0 || top == 0x0A || top == 0x0C

/-- R368, R249: the next entry of a stream becomes a task. Well-formed no-ops, links and successor entries are
steps of their own. -/
def execTaskEntryFetch (s : State) : Host.Outcome State Fault Refusal :=
  .next (match getStream s s.subj.stream with
    | none => s
    | some x =>
      if !fetchTurn s x then s
      else
        let slot := !x.slots.isEmpty
        let a := nextAddr x
        let (ok, e, s) := entryWords s x a
        if ok && fleeting (topOf e) && (entryReason (ctxOf x slot) e).isNone then s
        else
          let (d, s) := if ok then decodeEntry s x.part (ctxOf x slot) e else (.plain (some 0x0B), s)
          passEntry (addTask (noteFetch s x) x.id slot a e d) x.id)

/-- A fleeting entry of a type at a stream's fetch pointer, at the stream's turn. -/
def fleetingAt (s : State) (i top : Nat) : Option (Stream × List Word × State) :=
  (getStream s i).bind fun x =>
    if !fetchTurn s x then none
    else
      let (ok, e, s) := entryWords s x (nextAddr x)
      if ok && topOf e == top && (entryReason (ctxOf x (!x.slots.isEmpty)) e).isNone then some (x, e, s) else none

/-- R259 -/
def execTkNop (s : State) : Host.Outcome State Fault Refusal :=
  .next (match fleetingAt s s.subj.stream 0x00 with
    | none => s
    | some (x, _, s) =>
      settleIdle (modStream (passEntry (noteFetch s x) x.id) x.id fun x => { x with last := 0 }) x.id)

/-- R259, R361: the stream continues at NEXT. -/
def execTkLink (s : State) : Host.Outcome State Fault Refusal :=
  .next (match fleetingAt s s.subj.stream 0x0A with
    | none => s
    | some (x, e, s) =>
      settleIdle (modStream (noteFetch s x) x.id fun x =>
        { x with fp := eD e 2, fetched := x.fetched + 1, last := 0x0A }) x.id)

/-- Slots overwritten with no-ops (R260). A write that fails translation or permission is dropped without a fault or a
notification, the model's choice, since the manual names neither (log entry 21). -/
def clearSlots (s : State) (part n a : Nat) : State :=
  (winWrites s part a (List.replicate (8 * n) (gen 0))).2

/-- Slot entries join the stream after the task before them (R260, R378). -/
def insertSlots (s : State) (i a n : Nat) : State :=
  let s := (List.range n).foldl (fun s j => match getStream s i with
    | none => s
    | some x =>
      let (ok, e, s) := entryWords s x (a + 32 * j)
      let x' : EntryCtx := ⟨x.firmware, true, false⟩
      if ok && topOf e == 0 && (entryReason x' e).isNone then s
      else
        let (d, s) := if ok then decodeEntry s x.part x' e else (.plain (some 0x0B), s)
        addTask s i true (a + 32 * j) e d) s
  settleIdle (modStream s i fun x => { x with hold := none }) i

/-- Whether stream and window have room for the entries of n slots (R368). -/
def slotRoom (s : State) (x : Stream) (n : Nat) : Bool :=
  decide ((s.tasks.filter fun t => t.stream == x.id).length + n ≤ 128) &&
  decide ((s.tasks.filter fun t => t.win == x.win).length + n ≤ 1024)

/-- The slots of a stream's successor hold are read once the task before them has ended and there is room (R260, R378). -/
def readSlots (s : State) (i : Nat) : State :=
  match getStream s i with
  | none => s
  | some x => match x.hold with
    | none => s
    | some (seq, n, a) =>
      if (getTask s i seq).all (·.st == .complete) && slotRoom s x n then insertSlots s i a n else s

/-- R260, R378: a successor entry stops its stream until the task before it has ended and the window has read the slots.
The no-ops are written when that task issues, or now where it has issued but not ended (log entry 21). -/
def execTkSucc (s : State) : Host.Outcome State Fault Refusal :=
  .next (match fleetingAt s s.subj.stream 0x0C with
    | none => s
    | some (x, e, s) =>
      let n := eW e 0 / 2 ^ 16 % 16
      let a := eD e 2
      let seq := x.nextSeq - 1
      let s := modStream (passEntry (noteFetch s x) x.id) x.id fun x => { x with last := 0x0C }
      let held (s : State) : State := modStream s x.id fun x => { x with hold := some (seq, n, a) }
      match getTask s x.id seq with
      | none => held s
      | some t =>
        if t.st = .complete ∧ t.grid.isNone ∧ t.pipe.isNone then s
        else if t.st = .issued then clearSlots (held s) x.part n a
        else held s)

end Sys2Proof.Machine
end

