-- ==== Sys2Proof/Machine/Tasks.lean ====
section
/-! DEFINITION. Tasks from rename to the end of their work: toRename and buffers (R370 to R373), dependences and
issue (R374 to R377), and the tasks that the window performs itself (R255 to R263). -/

namespace Sys2Proof.Machine

open Sys2Proof

/-! ### Free lists (R370) -/

def freeList (s : State) (part win c : Nat) : FreeList :=
  (((partIx s part).bind fun p => p.free.find? fun f => f.win == win && f.cls == c)).getD ⟨win, c, [], []⟩

def setFree (s : State) (part : Nat) (f : FreeList) : State :=
  { s with parts := s.parts.map fun p =>
      if p.id == part then
        { p with free := f :: p.free.filter fun x => !(x.win == f.win && x.cls == f.cls) }
      else p }

/-- A buffer returns to the head of its list, or to the tail. -/
def giveBack (s : State) (part win c b : Nat) (tail : Bool) : State :=
  let f := freeList s part win c
  setFree s part { f with bufs := if tail then f.bufs ++ [b] else b :: f.bufs }

/-- The class of a buffer that a partition holds on a window. -/
def classOf (s : State) (part win b : Nat) : Nat :=
  ((List.range 18).find? fun c => (freeList s part win c).own.contains b).getD 0

/-! ### Faults of tasks and their successor holds -/

/-- The hold of a task that will not run on is given up (R378). -/
def dropHold (s : State) (i seq : Nat) : State :=
  modStream s i fun x => if x.hold.any fun h => h.1 == seq then { x with hold := none } else x

/-- A task completes, with a fault if there is one; every tk.wait of the partition has its word read again (R376). -/
def endTask (s : State) (t : Task) (f : Option TaskFault) : State :=
  let s := modTask s t.stream t.seq fun t => { t with st := .complete, fault := f.or t.fault }
  { s with tasks := s.tasks.map fun u =>
      if u.part == t.part && topOf u.entry == 9 then { u with pollBy := min u.pollBy s.cycle } else u }

/-- A task that faults without running completes with its fault (R369). -/
def failTask (s : State) (t : Task) (f : TaskFault) : State := dropHold (endTask s t (some f)) t.stream t.seq

def descFault (r : Nat) : TaskFault := ⟨r, 0, 0, 0, false, 0, 0, 0xFFFF, 0⟩

/-- A fault that the window detects: cause, sub-code and the address or count in TVAL (R384). -/
def windowFault (cause sub tval : Nat) : TaskFault := ⟨0, cause, sub, 0, false, 0, BitVec.ofNat 64 tval, 0xFFFF, 0⟩

/-! ### Renaming (R371, R372) -/

/-- Outputs of an entry that are still to be drawn, with their size classes. -/
def outsLeft (t : Task) : List (Nat × Nat) :=
  if logical (topOf t.entry) then
    (([0, 1].map fun i => (loOf t.entry i, szOf t.entry i)).filter fun x => x.1 != 255).drop t.drawn.length
  else []

/-- The oldest task of a stream that has still to be renamed. -/
def toRename (s : State) (i : Nat) : Option Task := (streamTasks s i).find? fun t => t.st == .decoded

/-- Ages in order, those of one cycle by stream and sequence number. -/
def ageKey (t : Task) : List Nat := [t.age, t.stream, t.seq]
def olderThan (a b : Task) : Bool := ageKey a != ageKey b && lexLe (ageKey a) (ageKey b)

/-- The class that a task waits for, once its inputs are read. -/
def wantsClass (t : Task) : Option Nat := if t.st = .decoded ∧ t.ins ≠ [] then (outsLeft t).head?.map (·.2) else none

/-- Whether an older task waits on the same list. -/
def listTaken (s : State) (t : Task) (c : Nat) : Bool :=
  s.tasks.any fun u => u.part == t.part && u.win == t.win && olderThan u t && wantsClass u == some c &&
    toRename s u.stream == some u

/-- Inputs looked up in the map before any output is drawn; a name without a buffer is reason 0x08. -/
def readInputs (x : Stream) (t : Task) : Task :=
  let ins := if logical (topOf t.entry) then (List.range 4).map fun j =>
      if liOf t.entry j = 255 then none else some (aget x.map (liOf t.entry j)) else List.replicate 4 none
  { t with
    ins := ins.map fun b => ((b.getD none).getD 0),
    reads := ins.filterMap fun b => b.getD none,
    fault := if ins.any (fun b => b == some none) then some (descFault 8) else t.fault }

/-- The name that a tk.free ends (R256). -/
def freedName (t : Task) : Option Nat := if topOf t.entry = 5 then some (loOf t.entry 0) else none

/-- Draws the outputs that the lists can give, in order. -/
def drawOuts : Nat → State → Task → State
  | 0, s, _ => s
  | fuel + 1, s, t =>
    match outsLeft t with
    | [] => s
    | (lb, c) :: _ =>
      let f := freeList s t.part t.win c
      match f.bufs with
      | [] => s
      | b :: r =>
        if listTaken s t c then s
        else
          let old := (getStream s t.stream).bind fun x => aget x.map lb
          let t := { t with drawn := t.drawn ++ [⟨lb, some b, c, old⟩] }
          let s := setFree s t.part { f with bufs := r }
          let s := modStream s t.stream fun x => { x with map := aset x.map lb b }
          drawOuts fuel (modTask s t.stream t.seq fun _ => t) t

/-- Output bases in the order of R252. -/
def outBases (t : Task) : List Nat :=
  [0, 1].map fun i => if logical (topOf t.entry) ∧ loOf t.entry i ≠ 255 then
    (((t.drawn.find? fun d => d.lb == loOf t.entry i).bind (·.buf)).getD 0) else 0

/-- Once every output is drawn, the task is renamed, or complete with its fault. -/
def settleRename (s : State) (i seq : Nat) : State :=
  match getTask s i seq with
  | none => s
  | some t =>
    if !(outsLeft t).isEmpty then s
    else
      let s := match freedName t with
        | some lb =>
          let old := (getStream s i).bind fun x => aget x.map lb
          modStream (modTask s i seq fun t => { t with drawn := [⟨lb, none, 0, old⟩] }) i fun x =>
            { x with map := adel x.map lb }
        | none => s
      match t.fault with
      | some f => failTask s t f
      | none => modTask s i seq fun t => { t with st := .renamed, outs := outBases t }

/-- Whether a task is the oldest of its stream (R373). -/
def isOldest (s : State) (t : Task) : Bool := (streamTasks s t.stream).head? == some t

/-- R371, R372, and the empty class of R373 -/
def execTaskRename (s : State) : Host.Outcome State Fault Refusal :=
  .next (match getStream s s.subj.stream, toRename s s.subj.stream with
    | some x, some t =>
      let s := if t.ins = [] then modTask s x.id t.seq fun _ => readInputs x t else s
      match getTask s x.id t.seq with
      | none => s
      | some t =>
        let s := settleRename (drawOuts 2 s t) x.id t.seq
        match getTask s x.id t.seq with
        | none => s
        | some t => match wantsClass t with
          | some c =>
            if (freeList s t.part t.win c).own = [] then failTask s t (descFault 8) else s
          | none => s
    | _, _ => s)

/-! ### Stopping and discarding (R369, R373, R382) -/

def gridOver (K : Grid) : Bool := decide (K.nwg ≤ K.ended)

/-- The grids of a task: its own, or the stages of its pipeline. -/
def gridsOf (s : State) (t : Task) : AList Grid :=
  s.grids.filter fun x => t.grid == some x.1 || (t.pipe.isSome && (x.2.pipe.map (·.1)) == t.pipe)

/-- The work of an issued task is stopped. -/
def stopWork (s : State) (t : Task) : State :=
  let s := match t.grid with
    | some k => stopGrid s k
    | none => s
  match t.pipe with
  | some p =>
    let ks := (s.grids.filter fun x => (x.2.pipe.map (·.1)) == some p).map (·.1)
    { ks.foldl stopGrid s with
      pipes := adel s.pipes p, queues := s.queues.filter fun q => q.2.pipe != p }
  | none => s

/-- A drawn output is given up: the map entry is as before, the buffer at the head of its list. -/
def undoDraw (i part win : Nat) (s : State) (d : Drawn) : State :=
  let s := modStream s i fun x => { x with map := match d.old with
    | some b => aset x.map d.lb b
    | none => adel x.map d.lb }
  match d.buf with
  | some b => giveBack s part win d.cls b false
  | none => s

/-- A launch as the next job record covers it (R419). -/
def launchOf (g : Nat × Grid) : RecKernel := ⟨g.1, g.2.kdAddr, g.2.kd.raw, g.2.pages, g.2.seen⟩

/-- The launches of a task that is discarded stay with its stream: they may be the first of their kernels in the range of a
job record (R419). -/
def noteLaunches (s : State) (t : Task) : State :=
  modStream s t.stream fun x => { x with early := x.early ++ (gridsOf s t).map fun g => (t.seq, launchOf g) }

/-- One task leaves the window without retiring. -/
def discardTask (s : State) (t : Task) : State :=
  let s := stopWork (noteLaunches s t) t
  let s := t.drawn.reverse.foldl (undoDraw t.stream t.part t.win) s
  dropHold { s with tasks := s.tasks.filter fun u => !(u.stream == t.stream && u.seq == t.seq) } t.stream t.seq

/-- The stream stands again before the oldest of the tasks it lost (given oldest first). -/
def rewind (s : State) (i : Nat) (ts : List Task) : State :=
  match ts with
  | [] => s
  | t0 :: _ =>
    let slots := (ts.takeWhile (·.slot)).map (·.addr)
    modStream s i fun x =>
      let x := { x with
        hiFp := if x.hiSeq < x.nextSeq then x.fp else x.hiFp, hiSeq := max x.hiSeq (x.nextSeq - 1),
        nextSeq := t0.seq, last := 0,
        refetch := ts.foldl (fun (m : AList Nat) (t : Task) => aset m t.seq t.age) x.refetch }
      match ts.dropWhile (·.slot) with
      | [] => { x with slots := slots ++ x.slots }
      | t :: _ => { x with slots, fp := t.addr, fetched := t.fetchNo }

/-- A task and every younger one of its stream are discarded, youngest first, to be fetched again. -/
def discardFrom (s : State) (i seq : Nat) : State :=
  let ts := (streamTasks s i).filter fun t => decide (seq ≤ t.seq)
  rewind (ts.reverse.foldl discardTask s) i ts

/-- Completed as R374 to R376 mean it: R369 keeps apart a task that is complete with a fault. -/
def completed (t : Task) : Bool := t.st == .complete && t.fault.isNone

/-- Regions that a task names raw: base, length, written (R374, R255). -/
def rawRegions (t : Task) : List (Nat × Nat × Bool) :=
  let e := t.entry
  match topOf e with
  | 1 | 2 => (t.lr.map (·.regions)).getD []
  | 3 => (if liOf e 0 = 255 then [(eD e 2, lenOf e, false)] else []) ++ (if loOf e 0 = 255 then [(eD e 4, lenOf e, true)] else [])
  | 4 => if loOf e 0 = 255 then [(eD e 4, lenOf e, true)] else []
  | _ => []

def writesRaw (t : Task) : Bool := (rawRegions t).any (·.2.2)

/-- A task that has not issued: one that is complete with a fault found before its issue included (R369). -/
def unissued (t : Task) : Bool :=
  match t.st with
  | .decoded | .renamed => true
  | .issued => false
  | .complete => t.fault.any fun f => (f.reason != 0 && topOf t.entry != 6) || topOf t.entry == 9

/-- A task that R373 lets be a candidate. -/
def discardable (t : Task) : Bool := unissued t || (!writesRaw t && [1, 2, 3].contains (topOf t.entry))

def holdsClass (c : Nat) (t : Task) : Bool := t.drawn.any fun d => d.buf.isSome && d.cls == c

/-- The candidates of R373 for a class, for a waiting task. -/
def candidates (s : State) (w : Task) (c : Nat) : List Task :=
  s.tasks.filter fun t => t.part == w.part && t.win == w.win && olderThan w t &&
    (holdsClass c t || s.tasks.any fun u => u.stream == t.stream && decide (u.seq < t.seq) && olderThan w u && holdsClass c u) &&
    discardable t

/-- Whether every buffer of a class is drawn by tasks younger than one. -/
def starved (s : State) (w : Task) (c : Nat) : Bool :=
  let f := freeList s w.part w.win c
  let drawn := (s.tasks.filter fun t => t.part == w.part && t.win == w.win && olderThan w t).flatMap fun t =>
    t.drawn.filter fun d => d.buf.isSome && d.cls == c
  f.bufs.isEmpty && !f.own.isEmpty && drawn.length == f.own.length

/-- R373: the youngest candidate is discarded. -/
def execBufferStarvationDiscard (s : State) : Host.Outcome State Fault Refusal :=
  .next (match toRename s s.subj.stream with
    | none => s
    | some w => match wantsClass w with
      | none => s
      | some c =>
        if isOldest s w && starved s w c then
          let cs := candidates s w c
          match cs.find? fun t => !cs.any fun u => olderThan t u with
          | some t => discardFrom s t.stream t.seq
          | none => s
        else s)

/-! ### Dependences (R374, R375) -/

def overlaps (a b : Nat × Nat × Bool) : Bool :=
  decide (a.1 / 64 * 64 < b.1 + b.2.1) && decide (b.1 / 64 * 64 < a.1 + a.2.1) && (a.2.2 || b.2.2)

def conflicts (t e : Task) : Bool := (rawRegions t).any fun a => (rawRegions e).any (overlaps a)

def waitsFor (t e : Task) : Bool :=
  e.part == t.part && e.win == t.win && !completed e && olderThan e t && conflicts t e

/-- A producer of a buffer that a task reads has not completed (R375). -/
def producerBusy (s : State) (t : Task) : Bool :=
  t.reads.any fun b => s.tasks.any fun e =>
    e.stream == t.stream && decide (e.seq < t.seq) && !completed e && e.drawn.any fun d => d.buf == some b

/-- Older tasks of the stream that hold younger ones from issue (R376 condition 2). -/
def holdsYounger (e : Task) : Bool :=
  [0x0D, 0x06, 0x07, 0x0B].contains (topOf e.entry) || (topOf e.entry == 9 && !completed e)

def olderIn (s : State) (t : Task) : List Task := s.tasks.filter fun e => e.stream == t.stream && decide (e.seq < t.seq)

/-- Conditions 1 to 3 and 6 of R376, and that of tk.resume (R393). -/
def freeToIssue (s : State) (t : Task) : Bool :=
  t.st == .renamed && partRuns s t.part && !(s.tasks.any (waitsFor t)) && !producerBusy s t &&
  !(olderIn s t).any holdsYounger &&
  (topOf t.entry != 8 || (olderIn s t).all completed) &&
  (topOf t.entry != 0x0B || (olderIn s t).isEmpty)

/-! ### tk.wait (R258, R376) -/

/-- The word of a tk.wait, or the fault of its read. -/
def waitWord (s : State) (t : Task) : Except TaskFault W32 × State :=
  match winRead s t.part (eD t.entry 2) with
  | (.error (c, sub), s) => (.error (windowFault c sub (eD t.entry 2)), s)
  | (.ok w, s) => (.ok w.val, s)

def waitTest (t : Task) (w : W32) : Bool :=
  let v := BitVec.ofNat 32 (eW t.entry 4)
  match eW t.entry 5 % 4 with
  | 0 => decide (0 ≤ (w - v).toInt)
  | 1 => w == v
  | _ => w != v

/-- A tk.wait's word is tested: a failing read faults it; one that does not let it issue is made again within 1,024 cycles
(R376). -/
def testWait (s : State) (t : Task) : Bool × State :=
  match waitWord s t with
  | (.error f, s) => (false, failTask s t f)
  | (.ok w, s) =>
    let ok := waitTest t w
    (ok, modTask s t.stream t.seq fun t => { t with pollBy := s.cycle + if ok then 1 else 1024 })

/-- Whether a tk.wait would issue now. -/
def waitReady (s : State) (t : Task) : Bool :=
  match waitWord s t with
  | (.ok w, _) => waitTest t w
  | (.error _, _) => true

/-! ### Cores for grids and pipelines (R253, R387) -/

/-- Memory as it stands. -/
def viewOf (s : State) : MemView := ⟨s.hbm, s.parity, s.lineKeys, s.podMem, s.hostMem, s.l2, s.keySlots⟩

/-- What is to be launched of a run: the grid as tk.run would make it. -/
def runGrid (s : State) (t : Task) (kd : KDesc) (lr : LRec) (x : Stream) : Grid :=
  let w64 (b : Nat) : List Word := [gen (BitVec.ofNat 32 b), gen (BitVec.ofNat 32 (b / 2 ^ 32))]
  { stream := t.stream, seq := t.seq, part := t.part, latency := x.cls, kd, kdAddr := eD t.entry 2, nwg := lr.nwg,
    dies := lr.dies, banned := 0,
    argv := (lr.args ++ List.replicate (20 - lr.args.length) Word.zero) ++ t.ins.flatMap w64 ++ t.outs.flatMap w64,
    seed := BitVec.ofNat 32 (eW t.entry 6), pbm := BitVec.ofNat 2 (eW t.entry 7 / 2 ^ 26), pipe := none, cor := corOf t.entry, nextWg := 0,
    returned := [], shares := 0, arrivals := [], dwgs := [], ended := 0, done := [], cancelled := false, counts := [],
    first := none, fault := none, abortStream := false, cores := [], pages := [], seen := viewOf s }

/-- The same machine with no workgroup on any core: what a grid finds at best. -/
def emptied (s : State) : State := { s with wgs := [], groups := [], gangs := [], pipes := [], queues := [] }

/-- The grid of an ordinary launch: a run's, or that of a pipeline of one stage without queues, whose cores are chosen as a
run's are (R254). -/
def taskRun (s : State) (t : Task) : Option Grid :=
  match t.lr, getStream s t.stream with
  | some lr, some x => match t.kd, t.stages, t.queues with
    | some kd, _, _ => some (runGrid s t kd lr x)
    | none, [p], [] => some { runGrid s t p.kd lr x with kdAddr := p.kdAddr, pbm := 0 }
    | none, _, _ => none
  | _, _ => none

/-- Whether a COR grid fits at once now. -/
def corMet (s : State) (t : Task) : Bool :=
  !corOf t.entry || (taskRun s t).any fun K => decide (K.nwg ≤ roomFor s K)

/-- Whether a COR grid could never fit. -/
def corHopeless (s : State) (t : Task) : Bool :=
  corOf t.entry && (taskRun s t).any fun K => decide (roomFor (emptied s) K < K.nwg)

/-- Cores that a pipeline may take: on its allowed dies, of no workgroup and of no pipeline. -/
def freeCores (s : State) (part : Nat) (dies : Byte) : List Nat :=
  match partIx s part with
  | none => []
  | some p =>
    let taken := pipeCores s
    ((List.range 8).filter fun d => (dies = 0 ∨ dies.getLsbD d) ∧ (getDie s d).st = .up).flatMap fun d =>
      (coresOn p d).filter fun c => (wgsOn s c).isEmpty && !taken.contains c

/-- Cores given round robin, stage 0 first, until every stage has its most or none is left (R387). -/
def dealCores : Nat → Nat → List (Nat × List Nat) → List Nat → List (List Nat)
  | 0, _, st, _ => st.map (·.2)
  | fuel + 1, i, st, free =>
    match free with
    | [] => st.map (·.2)
    | c :: r =>
      if st.all fun x => decide (x.1 ≤ x.2.length) then st.map (·.2)
      else
        let full := (st[i % st.length]?).any fun x => decide (x.1 ≤ x.2.length)
        if full then dealCores fuel (i + 1) st free
        else dealCores fuel (i + 1) (lmod st (i % st.length) fun x => (x.1, x.2 ++ [c])) r

/-- MINC cores for every stage in turn. -/
def firstCores : List (Nat × Nat) → List Nat → Option (List (List Nat) × List Nat)
  | [], free => some ([], free)
  | p :: r, free =>
    if free.length < p.1 then none
    else (firstCores r (free.drop p.1)).map fun x => (free.take p.1 :: x.1, x.2)

/-- The cores of each stage, given as MINC and MAXC, if every stage can have its MINC. -/
def stageCores (ps : List (Nat × Nat)) (free : List Nat) : Option (List (List Nat)) :=
  (firstCores ps free).map fun x =>
    dealCores (ps.length * (x.2.length + (ps.map (·.2)).sum + 1)) 0
      ((ps.zip x.1).map fun y => (y.1.2, y.2)) x.2

/-- The first quad whose free cores serve every stage. -/
def quadCores (ps : List (Nat × Nat)) (free : List Nat) : Option (List (List Nat)) :=
  ((free.map quadOf).eraseDups).findSome? fun q => stageCores ps (free.filter fun c => quadOf c == q)

/-- A pipeline with a `.ks` queue takes the lowest quad that can serve it; another one any free cores. -/
def pipeCoresFor (s : State) (t : Task) : Option (List (List Nat)) :=
  let free := freeCores s t.part ((t.lr.map (·.dies)).getD 0)
  let ps := t.stages.map fun p => (p.minc, p.maxc)
  if t.queues.any fun q => !q.xs then quadCores ps free else stageCores ps free

/-- Whether every workgroup of the source stages could have a core at once (R253 for tk.pipe). A pipeline of several stages
that never can waits for ever: R254 gives reason 0x07 for a grid only, and the wait is the model's choice (log entry 49). -/
def pipeCorMet (t : Task) (cs : List (List Nat)) : Bool :=
  !corOf t.entry || (t.stages.zip cs).all fun x => x.1.pop != 0 || decide (((t.lr.map (·.nwg)).getD 0) ≤ x.2.length)

/-- Condition 5 of R376. -/
def coresMet (s : State) (t : Task) : Bool :=
  match topOf t.entry with
  | 1 => corMet s t || corHopeless s t
  | 2 => if (taskRun s t).isSome then corMet s t || corHopeless s t else (pipeCoresFor s t).any (pipeCorMet t)
  | _ => true

/-! ### The order of issue (R376) -/

def ready (s : State) (t : Task) : Bool :=
  freeToIssue s t && coresMet s t && (topOf t.entry != 9 || waitReady s t)

/-- The task that a window issues next: latency streams first, then the oldest. -/
def issueNext (s : State) (w : Nat) : Option Task :=
  let cls (t : Task) : Nat := if (getStream s t.stream).any (·.cls) then 0 else 1
  (sortBy (fun t => cls t :: ageKey t) (s.tasks.filter fun t => t.win == w && ready s t)).head?

/-- The task that a step names, if it is of a type and its window issues it now. -/
def issuing (s : State) (top : Nat) : Option Task :=
  (getTask s s.subj.stream s.subj.seq).filter fun t =>
    topOf t.entry == top && issueNext s t.win == some t && (getWindow s t.win).issueAt != some s.cycle

def noteIssue (s : State) (t : Task) (st : TaskSt) : State :=
  let s := modTask (modWindow s t.win fun W => { W with issueAt := some s.cycle }) t.stream t.seq fun t => { t with st }
  if st = .complete then endTask s t none else s

/-- The slots of a task's successor entry are cleared when it issues (R260). -/
def issueSlots (s : State) (t : Task) : State :=
  match (getStream s t.stream).bind (·.hold) with
  | some (seq, n, a) => if seq = t.seq then clearSlots s t.part n a else s
  | none => s

/-- A grid's package barriers at launch (R199). -/
def gridBars (k target : Nat) : List Barrier := (List.range 4).map (newBar 4 k target)

/-- One grid is launched; a grid that can never fit at once faults its task (R253). -/
def launchGrid (s : State) (t : Task) (K : Grid) : State :=
  if corHopeless s t then failTask s t (descFault 7)
  else
    let k := s.uid
    let s := issueSlots (noteIssue s t .issued) t
    modTask { s with
      uid := s.uid + 1, grids := aset s.grids k K,
      bars := s.bars ++ gridBars k (K.nwg * K.kd.groups) } t.stream t.seq fun t => { t with grid := some k }

/-- R253 -/
def execTkRun (s : State) : Host.Outcome State Fault Refusal :=
  .next (match issuing s 1 with
    | none => s
    | some t => ((taskRun s t).map (launchGrid s t)).getD s)

/-- A stage's grid; a stage that pops counts its launches and has no end of its own (R387). -/
def stageGrid (s : State) (t : Task) (lr : LRec) (x : Stream) (p : PStageRec) (pipe i : Nat) : Grid :=
  { runGrid s t p.kd lr x with
    kdAddr := p.kdAddr, pbm := 0, cor := false, pipe := some (pipe, i), nwg := if p.pop = 0 then lr.nwg else 0xFFFFFFFF }

/-- Quad of a pipeline's `.ks` queues. -/
def pipeQuad (cs : List (List Nat)) : Nat := ((cs.flatten.head?).map quadOf).getD 0

/-- R254, R387 -/
def execTkPipe (s : State) : Host.Outcome State Fault Refusal :=
  .next (match issuing s 2 with
    | none => s
    | some t => match taskRun s t, pipeCoresFor s t, t.lr, getStream s t.stream with
      | some K, _, _, _ => launchGrid s t K
      | none, some cs, some lr, some x =>
        let pipe := s.uid
        let ks := (List.range t.stages.length).map (pipe + 1 + ·)
        let qk := pipe + 1 + t.stages.length
        let quad := pipeQuad cs
        let grid (y : (Nat × PStageRec) × Nat) : Nat × Grid := (y.1.1, stageGrid s t lr x y.1.2 pipe y.2)
        let queue (y : PQueueRec × Nat) : Nat × Queue :=
          (qk + y.2, ⟨pipe, y.1.num, y.1.xs, if y.1.xs then y.1.base else quad * 2 ^ 18 + y.1.base, y.1.cap, 0, 0, []⟩)
        let stage (y : (Nat × PStageRec) × List Nat) : PStage :=
          ⟨y.1.1, y.1.2.minc, y.1.2.maxc, y.1.2.pop, y.1.2.push, y.2, 0, false, 0, 0⟩
        let bars (y : Nat × PStageRec) : List Barrier :=
          gridBars y.1 (if y.2.pop = 0 then lr.nwg * y.2.kd.groups else 0)
        let s := issueSlots (noteIssue s t .issued) t
        modTask { s with
          uid := qk + t.queues.length,
          grids := s.grids ++ ((ks.zip t.stages).zipIdx.map grid),
          queues := s.queues ++ t.queues.zipIdx.map queue,
          bars := s.bars ++ (ks.zip t.stages).flatMap bars,
          pipes := s.pipes ++ [(pipe, ⟨pipe, t.stream, t.seq, ((ks.zip t.stages).zip cs).map stage, 0, []⟩)] }
          t.stream t.seq fun t => { t with pipe := some pipe }
      | none, _, _, _ => s)

/-- A task that has no work of its own once issued, or whose work goes on in the window. -/
def issueAs (top : Nat) (st : TaskSt) (s : State) : Host.Outcome State Fault Refusal :=
  .next (match issuing s top with
    | none => s
    | some t => noteIssue s t st)

/-- R255, R377: the copy begins; its words move until its completion. -/
def execTkCopy (s : State) : Host.Outcome State Fault Refusal := issueAs 3 .issued s

/-- R255, R377 -/
def execTkFill (s : State) : Host.Outcome State Fault Refusal := issueAs 4 .issued s

/-- R256, R376 -/
def execTkFree (s : State) : Host.Outcome State Fault Refusal := issueAs 5 .complete s

/-- R257, R376 -/
def execTkBind (s : State) : Host.Outcome State Fault Refusal := issueAs 6 .complete s

/-- R257, R376 -/
def execTkUnbind (s : State) : Host.Outcome State Fault Refusal := issueAs 7 .complete s

/-- R261, R376 -/
def execTkFence (s : State) : Host.Outcome State Fault Refusal := issueAs 0x0D .complete s

/-- R262, R376 -/
def execTkRec (s : State) : Host.Outcome State Fault Refusal := issueAs 0x0E .complete s

/-- The word that a tk.signal leaves: VALUE, or the sum or maximum with its predicted residue (R258). -/
def signalWord (op : Nat) (v : W32) (old : Word) : Word :=
  let t := intTy 8
  match op with
  | 0 => gen v
  | _ =>
    let o := if op = 1 then aluAdd t [old] [gen v] else aluMax t [old] [gen v]
    match o.words with
    | c :: _ => ⟨c.bits, if isPoison old then 0xF else BitVec.ofNat 4 c.pred⟩
    | [] => old

/-- The transmit rings whose doorbell a partition's word is have a frame to send (R406). -/
def ringBells (s : State) (part a : Nat) : State :=
  let hits := s.ports.flatMap fun p => (p.tx.filter fun r => r.part == part && r.bell == a).map fun r => (p.id, r.num)
  { s with agenda := s.agenda ++ hits.map fun h => (Subject.none, .ethernetFrameTransmit h.1 h.2) }

/-- R258: after a release the word is written; a write that may not be made faults the task. -/
def execTkSignal (s : State) : Host.Outcome State Fault Refusal :=
  .next (match issuing s 8 with
    | none => s
    | some t =>
      let a := eD t.entry 2
      let fail (s : State) (e : Nat × Nat) : State := failTask s t (windowFault e.1 e.2 a)
      match winLoc s t.part a true with
      | (.error e, s) => fail s e
      | (.ok (pa, at_), s) =>
        let (ws, s) := homeRead s pa at_
        let w := signalWord (eW t.entry 5 % 4) (BitVec.ofNat 32 (eW t.entry 4)) (ws.getD (pa / 4 % 16) .zero)
        let s := ringBells (winPut (noteIssue s t .issued) pa at_ w) t.part a
        modTask s t.stream t.seq fun t => { t with wrote := true })

/-- R258: the test that lets a tk.wait issue; its acquire is the window's. -/
def execTkWait (s : State) : Host.Outcome State Fault Refusal :=
  .next (match issuing s 9 with
    | none => s
    | some t =>
      let (ok, s) := testWait s t
      if ok then noteIssue s t .issued else s)

/-- A tk.wait whose other conditions hold is tested, and issues if it is its window's turn to issue it. -/
def pollWait (s : State) (t : Task) : Bool × State :=
  let (ok, s') := testWait s t
  if ok && (issueNext s t.win).map (·.seq) == some t.seq && (issueNext s t.win).map (·.stream) == some t.stream &&
      (getWindow s t.win).issueAt != some s.cycle then (true, noteIssue s' t .issued)
  else (ok, s')

/-- Whether a test of a tk.wait is due (R376). -/
def pollDue (s : State) (t : Task) : Bool :=
  topOf t.entry == 9 && freeToIssue s t && decide (t.pollBy ≤ s.cycle)

/-- R376: another test of a tk.wait whose other conditions hold. -/
def execTkWaitPoll (s : State) : Host.Outcome State Fault Refusal :=
  .next (match getTask s s.subj.stream s.subj.seq with
    | none => s
    | some t => if topOf t.entry = 9 ∧ freeToIssue s t then (pollWait s t).2 else s)

/-- Whether a tk.wait's timeout is over (R258). -/
def waitExpired (t : Task) : Bool :=
  topOf t.entry == 9 && t.st == .renamed && eW t.entry 6 != 0 && t.tested.any fun n => decide (1024 * eW t.entry 6 ≤ n)

/-- R258: the word is read once more; only a wait that it still holds faults. -/
def execTkWaitTimeout (s : State) : Host.Outcome State Fault Refusal :=
  .next (match getTask s s.subj.stream s.subj.seq with
    | none => s
    | some t =>
      if waitExpired t && partRuns s t.part then match pollWait s t with
        | (true, s) => s
        | (false, s) => if (getTask s t.stream t.seq).any (·.st == .renamed) then
            failTask s t (windowFault causeWatchdog 0 (1024 * eW t.entry 6)) else s
      else s)

end Sys2Proof.Machine
end

