-- ==== Sys2Proof/Machine/Mail.lean ====
section
/-! DEFINITION. Replies of members to requests (R403, R409), and the status of a stream (R363). -/

namespace Sys2Proof.Machine

open Sys2Proof

/-- Status codes of R409. -/
def stOK : Nat := 0
def stAccepted : Nat := 1
def stBusy : Nat := 2
def stBadMessage : Nat := 3
def stDenied : Nat := 4
def stState : Nat := 5
def stDieOffline : Nat := 6
def stNoResource : Nat := 7

def modIface (s : State) (vi : Nat) (f : Iface → Iface) : State := { s with ifaces := lmod s.ifaces vi f }

/-- Header words of a message (R409). -/
def header (type op tag member status nw : Nat) : List W32 :=
  [BitVec.ofNat 32 (type * 2 ^ 24 + op * 2 ^ 16 + tag * 2 ^ 8 + member), BitVec.ofNat 32 (status * 2 ^ 24 + nw)]

/-- The reply to a message that a member has sent for the warm reset of a die, which its tag names (R396). -/
def answered (s : State) (d : Nat) : State :=
  modDie s d fun D => { D with reset := D.reset.map fun c => { c with waits := c.waits - 1 } }

/-- A reply stands in MBREP, and the interface may take another request; it raises MSI-X vector 0 (R403). A message that no
interface sent came from a member. -/
def reply (s : State) (m : Msg) (type op status : Nat) (payload : List W32) : State :=
  if 64 ≤ m.vi then answered s m.tag.toNat else
  let ws := header type op m.tag.toNat m.member.toNat status payload.length ++ payload
  modIface s m.vi fun f => { f with
    mbrep := ws ++ List.replicate (64 - ws.length) 0, busy := false, done := true, vec0 := f.vec0 + 1 }

/-- Replies that waited for an operation's end (R366). -/
def answerPending (s : State) (sel : PendReply → Bool) (status : Nat) (payload : List W32) : State :=
  let hit := s.replies.filter sel
  hit.foldl (fun s r => reply s r.msg r.type.toNat r.op.toNat status payload)
    { s with replies := s.replies.filter fun r => !sel r }

/-- SQSTAT (R363). -/
def sqstat (s : State) (x : Stream) : W32 :=
  let st := match x.st with | .idle => 0 | .run => 1 | .faulted => 2 | .halted => 3 | .aborting => 4
  BitVec.ofNat 32 (st * 2 ^ 29 + x.ovr.toNat * 2 ^ 28 + x.cls.toNat * 2 ^ 27 + x.hold.isSome.toNat * 2 ^ 26 +
    (s.tasks.filter fun t => t.stream == x.id).length * 2 ^ 16)

def streamStat (s : State) (i : Nat) : W32 := ((getStream s i).map (sqstat s)).getD 0

/-- The firmware measurement (R417): the digest of the image in flash. -/
def measurement (s : State) : List Byte := sha384 (s.flash.getD Config.shippedImage)

/-! ### Bytes and words -/

def wordBytes (w : W32) : List Byte := bytesLE 4 w.toNat
def bytesOf (ws : List W32) : List Byte := ws.flatMap wordBytes

/-- Bytes taken four at a time. -/
def wordsOf : Nat → List Byte → List W32
  | 0, _ => []
  | n + 1, bs => if bs.isEmpty then [] else BitVec.ofNat 32 (natLE (bs.take 4)) :: wordsOf n (bs.drop 4)

def asWords (bs : List Byte) : List W32 := wordsOf bs.length bs

def lohi (n : Nat) : List W32 := [BitVec.ofNat 32 n, BitVec.ofNat 32 (n / 2 ^ 32)]

/-- Signing keys: the identity key, and the job key of a generation (R416). -/
def identityKey : Nat := 0
def jobKeyNumber (gen : Nat) : Nat := gen + 1

end Sys2Proof.Machine
end

