-- ==== Sys2Proof/Machine/Retire.lean ====
section
/-! DEFINITION. The end of tasks: completion (R377 to R379), retirement with the records of the window (R380, R381,
R419), faults (R382 to R384) and the end of an abort (R365). -/

namespace Sys2Proof.Machine

open Sys2Proof

/-! ### Copies and fills of the window (R255, R377) -/

/-- n words moved in ascending order: how many were moved, and the access that failed. -/
def moveWords (part src dst : Nat) : Nat → State → Nat × Option (Nat × Nat × Nat) × State
  | 0, s => (0, none, s)
  | n + 1, s => match moveWords part src dst n s with
    | (k, some e, s) => (k, some e, s)
    | (_, none, s) => match winRead s part (src + 4 * n) with
      | (.error (c, sub), s) => (n, some (c, sub, src + 4 * n), s)
      | (.ok w, s) => match winWrite s part (dst + 4 * n) w with
        | (some (c, sub), s) => (n, some (c, sub, dst + 4 * n), s)
        | (none, s) => (n + 1, none, s)

def fillWords (part dst : Nat) (w : Word) : Nat → State → Nat × Option (Nat × Nat × Nat) × State
  | 0, s => (0, none, s)
  | n + 1, s => match fillWords part dst w n s with
    | (k, some e, s) => (k, some e, s)
    | (_, none, s) => match winWrite s part (dst + 4 * n) w with
      | (some (c, sub), s) => (n, some (c, sub, dst + 4 * n), s)
      | (none, s) => (n + 1, none, s)

/-- The first n words of a copy's or fill's work. -/
def engine (s : State) (t : Task) (n : Nat) : Nat × Option (Nat × Nat × Nat) × State :=
  let e := t.entry
  let dst := eD e 4 + if loOf e 0 = 255 then 0 else t.outs.getD 0 0
  if topOf e = 3 then moveWords t.part (eD e 2 + if liOf e 0 = 255 then 0 else t.ins.getD 0 0) dst n s
  else fillWords t.part dst (gen (BitVec.ofNat 32 (eW e 2))) n s

/-- Bytes of a chunk (R377). -/
def chunkSpan (len : Nat) : Nat := ((len + 63) / 64 + 3) / 4 * 4

/-- Chunks completed once some words are moved; a chunk that covers no byte counts (R383). -/
def chunkMap (len words : Nat) : W64 :=
  let c := chunkSpan len
  (List.range 64).foldl (fun m b =>
    if len ≤ b * c ∨ min len ((b + 1) * c) ≤ 4 * words then m ||| BitVec.ofNat 64 (2 ^ b) else m) 0

/-- The copy or fill done whole, or as far as it goes. -/
def runEngine (s : State) (t : Task) (n : Nat) : State :=
  let (k, err, s) := engine s t n
  modTask s t.stream t.seq fun t => { t with
    chunks := chunkMap (lenOf t.entry) k,
    fault := err.elim t.fault fun e => some (windowFault e.1 e.2.1 e.2.2) }

/-- A copy or fill stopped at some element boundary (R382). -/
def stopEngine (s : State) (t : Task) : State :=
  runEngine { s with free := s.free + 1 } t (Config.order s.free % (lenOf t.entry / 4 + 1))

/-! ### Completion (R378, R379) -/

/-- Whether a task's work has ended (R379, R387, R388). -/
def workEnded (s : State) (t : Task) : Bool :=
  match topOf t.entry with
  | 1 => (gridsOf s t).all fun k => gridOver k.2
  | 2 => match t.pipe.bind fun p => aget s.pipes p with
    | some p => p.stages.all (·.done)
    | none => true
  | 0x0B => (t.restored.drop 4).all fun w => !s.shadow.any fun v => v.uid == w
  | _ => true

/-- The fault that a kill `e` of the task gives: its cause and disposition (R299), with the place, detail and lanes of the first
contained event (R384). -/
def faultOfEvent (abt : Bool) (first e : Event) : TaskFault :=
  ⟨0, e.cause, e.sub, e.disp, abt, first.pc, first.tval, first.core, first.lanes⟩

/-- The fault of a contained task kill (R299). -/
def containedFault (s : State) (t : Task) : Option TaskFault :=
  (gridsOf s t).findSome? fun k => k.2.fault.map fun e => faultOfEvent k.2.abortStream (k.2.first.getD e) e

/-- The barriers of a grid and of its shares end with it. -/
def dropGridBars (s : State) (k : Nat) : State :=
  { s with bars := s.bars.filter fun b => !((b.lvl == 4 && b.owner == k) || (b.lvl == 3 && b.owner / 8 == k)) }

/-- A run or pipeline completes: its cores' store paths are sent first (R253, R307). -/
def completeRun (s : State) (t : Task) : State :=
  let gs := gridsOf s t
  let s := (gs.flatMap fun k => k.2.cores).eraseDups.foldl flushCore s
  let f := containedFault s t
  let s := (gs.map (·.1)).foldl dropGridBars s
  let s := match t.pipe with
    | some p => { s with pipes := adel s.pipes p, queues := s.queues.filter fun q => q.2.pipe != p }
    | none => s
  let s := endTask s t f
  match (getStream s t.stream).bind (·.hold) with
  | some (seq, _, _) => if seq = t.seq then readSlots s t.stream else s
  | none => s

/-- The resume record of a partition (R394, R423): its source, and what the restore found. -/
def resumeRecord (s : State) (part member src : Nat) (t : Tally) : State :=
  match partIx s part with
  | none => s
  | some p => match p.resumeRec with
    | none => s
    | some a =>
      let w (n : Nat) : W32 := BitVec.ofNat 32 n
      winRecord { s with free := s.free + 1 } ((Config.freeWord s.free).toNat % 4096) part member 3 a
        ([w src, w (min t.psn 0xFFFFFFFF)] ++ lohi (t.first.getD 0) ++ [w t.cbi, w t.chk] ++ List.replicate 10 0)

def complete (s : State) (t : Task) : State :=
  match topOf t.entry with
  | 1 | 2 => completeRun s t
  | 3 | 4 => endTask (runEngine s t (lenOf t.entry / 4)) t none
  | 0x0B =>
    let n (i : Nat) : Nat := t.restored.getD i 0
    endTask (resumeRecord s t.part t.win 1 ⟨n 0, n 1, n 2, some (n 3)⟩) t none
  | _ => endTask s t none

/-- Whether stopped work of a stream is still on the cores, or saved with copies and ops left. -/
def streamBusy (s : State) (i : Nat) : Bool :=
  let mine (g : Nat) : Bool := (aget s.grids g).any fun k => k.stream == i && k.cancelled
  (s.wgs.any fun x => mine x.2.grid) || s.shadow.any fun v => mine v.wg.grid

/-- Grids that no task refers to and that have nothing left on a core. -/
def sweepGrids (s : State) : State :=
  let used (x : Nat × Grid) : Bool :=
    s.tasks.any (fun t => t.grid == some x.1 || (t.pipe.isSome && (x.2.pipe.map (·.1)) == t.pipe)) ||
    s.wgs.any (fun w => w.2.grid == x.1) || s.shadow.any fun v => v.wg.grid == x.1
  let dead := (s.grids.filter fun x => !used x).map (·.1)
  dead.foldl dropGridBars { s with grids := s.grids.filter used }

/-- The end of an abort: the stream is idle behind the last entry fetched (R365). -/
def finishAbort (s : State) (i : Nat) : State :=
  match getStream s i with
  | none => s
  | some x =>
    if x.st ≠ .aborting ∨ streamBusy s i then s
    else
      let last := max x.hiSeq (x.nextSeq - 1)
      let s := modStream s i fun x => { x with
        st := .idle, fetched := x.tail, fp := if x.nextSeq ≤ x.hiSeq then x.hiFp else x.fp, nextSeq := last + 1,
        hold := none, slots := [], word := none, refetch := [], faulted := [] }
      let s := winRecord s i x.part x.win 0 x.cword (lohi (last + 2 ^ 63))
      answerPending (sweepGrids s) (fun r => r.type == 2 && r.op == 5 && r.key == i) stOK [streamStat s i]

/-- Every task of a stream is discarded, issued ones stopped (R365). -/
def beginAbort (s : State) (i : Nat) : State :=
  let ts := streamTasks s i
  let s := ts.reverse.foldl (fun s t =>
    discardTask (if t.st == .issued && (topOf t.entry == 3 || topOf t.entry == 4) then stopEngine s t else s) t) s
  modStream s i fun x => { x with st := .aborting, hold := none, slots := [] }

/-- Whether the task of a stream's successor hold has ended: its slots are still to be read (R378). -/
def slotsLeft (s : State) (x : Stream) : Bool :=
  x.st == .run && x.hold.any fun h => (getTask s x.id h.1).all (·.st == .complete)

/-- R379: the work of a task, or the stopped work of an aborting stream, has ended; or slots of an ended task are read. -/
def execTaskCompletion (s : State) : Host.Outcome State Fault Refusal :=
  .next (match getStream s s.subj.stream with
    | none => s
    | some x =>
      if x.st = .aborting then finishAbort s x.id
      else if slotsLeft s x && partRuns s x.part then readSlots s x.id
      else match getTask s x.id s.subj.seq with
        | none => s
        | some t => if t.st = .issued ∧ partRuns s t.part ∧ workEnded s t then complete s t else s)

/-! ### The job record (R262, R419) -/

/-- The machine with memory as a view has it; translations are walked afresh. -/
def withView (s : State) (v : MemView) : State :=
  { s with hbm := v.hbm, parity := v.parity, lineKeys := v.lineKeys, podMem := v.podMem, hostMem := v.hostMem, l2 := v.l2,
           keySlots := v.keySlots, tlb := [], walks := [] }

/-- The words of a 64 KiB page of code; those that cannot be read are open, from the `n`th free value on. -/
def codePage (s : State) (core part : Nat) (sup : Bool) (page n : Nat) : List W32 :=
  (List.range 1024).flatMap fun i =>
    match resolve s core part ⟨false, false, true, !sup⟩ (65536 * page + 64 * i) with
    | (.ok (pa, e), s) => (homeRead s pa (lineAttr e)).1.map (·.val)
    | (.error _, _) => (List.range 16).map fun j => Config.freeWord (n + 16 * i + j)

/-- A kernel code hash: the descriptor, then the pages in ascending order as they stood when the range's first task launched
the kernel (log entry 23). -/
def kernelHash (s : State) (part n : Nat) (k : RecKernel) : List Byte :=
  sha384 (bytesOf (k.desc.map (·.val)) ++ (sortBy (fun (p : Nat × Nat × Bool) => [p.1]) k.pages).zipIdx.flatMap fun p =>
    bytesOf (codePage (withView s k.seen) p.1.2.1 part p.1.2.2 p.1.1 (n + 16384 * p.2)))

/-- The hashes of kernels, one after the other; open words are taken from the `n`th free value on. -/
def kernelHashes (s : State) (part n : Nat) : List RecKernel → List Byte
  | [] => []
  | k :: ks => kernelHash s part n k ++ kernelHashes s part (n + 16384 * k.pages.length) ks

/-- Two launches of one kernel as one: the pages of both, and the rest from the one launched first. -/
def joinKernels (a b : RecKernel) : RecKernel :=
  let pages := a.pages ++ b.pages.filter fun p => !a.pages.any fun q => q.1 == p.1
  { (if b.stamp < a.stamp then b else a) with pages }

/-- A launch joins the kernels of a job record: those of one descriptor, at one address and with one content, are one. -/
def noteKernel (ks : List RecKernel) (new : RecKernel) : List RecKernel :=
  let same (k : RecKernel) : Bool := k.addr == new.addr && k.desc == new.desc
  if ks.any same then ks.map fun k => if same k then joinKernels k new else k else ks ++ [new]

/-- The kernels that the record of a tk.rec covers, in order of first launch: those of the tasks that retired since the last
record, and those that older tasks than the tk.rec had launched when they were discarded. -/
def rangeKernels (x : Stream) (seq : Nat) : List RecKernel :=
  sortBy (fun k => [k.stamp]) (((x.early.filter fun e => decide (e.1 < seq)).map (·.2)).foldl noteKernel x.recKernels)

/-- FLAGS[1] for a task that retires now. -/
def restartFlag (x : Stream) : Nat := if x.restarted then 2 else 0

/-- The job record at the retire of a tk.rec, which is the range's last task itself. -/
def jobRecord (s : State) (x : Stream) (seq : Nat) : List W32 :=
  let ks := rangeKernels x seq
  let hs := kernelHashes s x.part s.free ks
  let w (n : Nat) : W32 := BitVec.ofNat 32 n
  let head := [w 0x5A394A52, w (x.part * 256 + 1), w x.id, 0] ++ lohi x.recFirst ++ lohi seq ++ lohi (clock s) ++
    [w (x.recTasks + 1), w ks.length] ++ asWords (measurement s) ++ asWords (sha384 hs) ++
    [w x.recFaults.length, w (x.recFlags ||| restartFlag x)] ++ List.replicate 10 0
  head ++ asWords (signed (jobKeyNumber (s.jobKey.getD 0)) (bytesOf head))


/-! ### Retirement (R380, R381) -/

/-- Whether one of n words is poisoned; words that cannot be read are passed over. -/
def anyPoison (part a : Nat) : Nat → State → Bool × State
  | 0, s => (false, s)
  | n + 1, s => match anyPoison part a n s with
    | (true, s) => (true, s)
    | (false, s) => match winRead s part (a + 4 * n) with
      | (.ok w, s) => (isPoison w, s)
      | (.error _, s) => (false, s)

/-- The outputs of a checked task: drawn buffers and raw regions it writes (R253). -/
def checkedRanges (t : Task) : List (Nat × Nat) :=
  t.drawn.filterMap (fun d => d.buf.map fun b => (b, classBytes d.cls)) ++
  ((rawRegions t).filter (·.2.2)).map fun r => (r.1, r.2.1)

def chkFails (s : State) (t : Task) : Bool × State :=
  if chkOf t.entry then
    (checkedRanges t).foldl (fun (x : Bool × State) r =>
      if x.1 then x
      else anyPoison t.part (r.1 / 4 * 4) ((r.1 % 4 + r.2 + 3) / 4) x.2) (false, s)
  else (false, s)

def bindIndex (t : Task) : Nat := eW t.entry 1 % 1024
def bindRange (t : Task) : Binding := ⟨eD t.entry 2, eD t.entry 4 % 2 ^ 48, eD t.entry 6⟩

/-- A binding that overlaps another live entry (R257). -/
def bindClash (s : State) (t : Task) : Bool :=
  let b := bindRange t
  topOf t.entry == 6 && (partIx s t.part).any fun p => p.binds.any fun x =>
    x.1 != bindIndex t && decide (x.2.base < b.base + b.len) && decide (b.base < x.2.base + x.2.len)

def applyBind (s : State) (t : Task) : State :=
  let upd (f : AList Binding → AList Binding) : State :=
    { s with parts := s.parts.map fun p => if p.id == t.part then { p with binds := f p.binds } else p }
  match topOf t.entry with
  | 6 => upd fun b => aset b (bindIndex t) (bindRange t)
  | 7 => upd fun b => adel b (bindIndex t)
  | _ => s

/-- Displaced buffers go to the tails of their lists, in the order drawn. -/
def returnDisplaced (s : State) (t : Task) : State :=
  t.drawn.foldl (fun s d => match d.old with
    | some b => giveBack s t.part t.win (classOf s t.part t.win b) b true
    | none => s) s

/-- The containment events of a task: how many of each kind, and the first. -/
def eventsOf (s : State) (t : Task) : Option (AList Nat × Event) :=
  t.events.or ((gridsOf s t).findSome? fun k => k.2.first.map fun e => (k.2.counts, e))

/-- The retire record of a task with a containment event (R381). -/
def retireRecord (s : State) (x : Stream) (t : Task) : State :=
  match eventsOf s t with
  | none => s
  | some (counts, e) =>
    if x.rlog = 0 then s
    else
      let n (d : Nat) : Nat := (aget counts d).getD 0
      let ws := lohi t.seq ++
        [BitVec.ofNat 32 (e.disp * 2 ^ 24 + e.sub % 256 * 2 ^ 16 + e.cause * 2 ^ 8 + topOf t.entry),
         BitVec.ofNat 32 (n 4 * 2 ^ 24 + n 3 * 2 ^ 16 + n 2 * 2 ^ 8 + n 1), BitVec.ofNat 32 (n 5), 0] ++ lohi e.pc.toNat
      modStream (winRecord s x.id x.part x.win 2 (x.rlog + 32 * (x.recs % max 1 x.rlogn)) ws) x.id fun x =>
        { x with recs := x.recs + 1 }

def setFault (s : State) (t : Task) (f : TaskFault) : State := modTask s t.stream t.seq fun t => { t with fault := some f }

/-- The record of a tk.rec, or the access that failed. -/
def writeJob (s : State) (x : Stream) (t : Task) : Option (Nat × Nat × Nat) × State :=
  if topOf t.entry = 0x0E then
    let open_ := 16384 * ((rangeKernels x t.seq).map (·.pages.length)).sum
    winWrites { s with free := s.free + open_ } x.part (eD t.entry 2) ((jobRecord s x t.seq).map gen)
  else (none, s)

/-- What the next job record covers once a task has retired (R419). -/
def countRetired (s : State) (x : Stream) (t : Task) : State :=
  let gs := gridsOf s t
  modStream s x.id fun x =>
    if topOf t.entry = 0x0E then
      { x with recFirst := t.seq + 1, recTasks := 0, recFaults := [], recFlags := 0, recKernels := [],
               early := x.early.filter (fun e => decide (t.seq < e.1)), restarted := false }
    else { x with
      recTasks := x.recTasks + 1, recFlags := x.recFlags ||| restartFlag x,
      recKernels := (gs.map launchOf).foldl noteKernel x.recKernels }

/-- A task leaves its stream as the last retired one. -/
def leaveStream (s : State) (i seq : Nat) : State :=
  settleIdle (sweepGrids { modStream s i fun x => { x with retired := seq } with
    tasks := s.tasks.filter fun u => !(u.stream == i && u.seq == seq) }) i

/-- The completion word of a stream is written with the number of the youngest task that has retired (R364, R380, R423). -/
def writeSeq (s : State) (i : Nat) : State :=
  match getStream s i with
  | none => s
  | some x => match x.word with
    | none => s
    | some n => winRecord (modStream s i fun x => { x with word := none }) i x.part x.win 0 x.cword (lohi n)

/-- The end of a cycle: one write a stream for all its tasks that retired in it (R380). -/
def writeSeqs (s : State) : State := (s.streams.map (·.id)).foldl writeSeq s

/-- R380: steps 2 to 6 for a task that passed its tests; the completion word is written at the end of the cycle, once for
the tasks that retire in it. -/
def retire (s : State) (x : Stream) (t : Task) : State :=
  let s := applyBind (returnDisplaced s t) t
  match writeJob s x t with
  | (some (c, sub, a), s) => setFault s t (windowFault c sub a)
  | (none, s) =>
    let s := retireRecord s x t
    let s := modStream s x.id fun x => { x with word := some t.seq }
    leaveStream (countRetired s x t) x.id t.seq

/-- R380 -/
def execTaskRetire (s : State) : Host.Outcome State Fault Refusal :=
  .next (match getStream s s.subj.stream, (streamTasks s s.subj.stream).head? with
    | some x, some t =>
      if x.st ≠ .run ∨ t.st ≠ .complete ∨ t.fault.isSome then s
      else match chkFails s t with
        | (true, s) => setFault s t ⟨0, causePoison, 0, 0, false, 0, 0, 0xFFFF, 0⟩
        | (false, s) => if bindClash s t then setFault s t (descFault 7) else retire s x t
    | _, _ => s)

/-! ### Taking a fault (R382 to R384) -/

/-- Whether a younger task is listed as partial work. -/
def listed (t : Task) : Bool :=
  let ran := t.st == .issued || (t.st == .complete && (t.grid.isSome || t.pipe.isSome ||
    ((topOf t.entry == 3 || topOf t.entry == 4) && t.fault.all fun f => f.reason == 0)))
  ran && writesRaw t || t.wrote

/-- The bitmap of a run: workgroups that have ended without being stopped (R383). -/
def runBits (K : Grid) : W64 :=
  let h := (K.nwg + 63) / 64
  (List.range 64).foldl (fun m b =>
    if (List.range h).all fun j => decide (K.nwg ≤ b * h + j) || K.done.contains (b * h + j) then
      m ||| BitVec.ofNat 64 (2 ^ b)
    else m) 0

/-- Whether a younger task's work had ended when it was stopped (R383). -/
def workDone (s : State) (t : Task) : Bool :=
  t.st == .complete || match topOf t.entry with
    | 3 | 4 => t.chunks == BitVec.allOnes 64
    | _ => workEnded s t

/-- One entry of the partial-work list. -/
def partialWords (s : State) (t : Task) : List W32 :=
  let (chunk, bits) : Nat × W64 := match topOf t.entry with
    | 1 => match (gridsOf s t).head? with
      | some k => ((k.2.nwg + 63) / 64, runBits k.2)
      | none => (0, 0)
    | 3 | 4 => (chunkSpan (lenOf t.entry), t.chunks)
    | _ => (0, 0)
  lohi t.seq ++ [BitVec.ofNat 32 ((if workDone s t then 2 else 1) * 256 + topOf t.entry), 0] ++ lohi chunk ++
    lohi bits.toNat

def faultWords (t : Task) (f : TaskFault) (parts : List (List W32)) (ndis : Nat) : List W32 :=
  lohi t.seq ++
    [BitVec.ofNat 32 (f.reason * 2 ^ 24 + f.sub % 256 * 2 ^ 16 + f.cause * 2 ^ 8 + topOf t.entry),
     BitVec.ofNat 32 (parts.length * 256 + f.abt.toNat * 16 + f.disp)] ++
    lohi f.pc.toNat ++ lohi f.tval.toNat ++ [BitVec.ofNat 32 f.core, f.lanes, BitVec.ofNat 32 ndis] ++
    List.replicate 5 0 ++ parts.flatten

/-- Younger copies and fills stop where they are. -/
def stopEngines (s : State) (ts : List Task) : State :=
  ts.foldl (fun s t => if t.st == .issued && (topOf t.entry == 3 || topOf t.entry == 4) then stopEngine s t else s) s

/-- R382 for the oldest task of a stream, which is complete with a fault. -/
def takeFault (s : State) (x : Stream) (t : Task) (f : TaskFault) : State :=
  let young (s : State) : List Task := (streamTasks s x.id).filter fun u => decide (t.seq < u.seq)
  let s := stopEngines s (young s).reverse
  let ys := young s
  let parts := (ys.filter listed).map (partialWords s)
  let words := faultWords t f parts (ys.length - parts.length)
  let t := { t with events := eventsOf s t }
  let s := (t :: ys).reverse.foldl discardTask s
  let s := winRecord s x.id x.part x.win 1 x.frec words
  let s := modStream s x.id fun x =>
    { x with st := .faulted, faulted := t :: ys, recFaults := if x.recFaults.contains t.seq then x.recFaults else t.seq :: x.recFaults,
             hold := none }
  sweepGrids (if f.abt then finishAbort (beginAbort s x.id) x.id else s)

/-- R382 -/
def execTakeFault (s : State) : Host.Outcome State Fault Refusal :=
  .next (match getStream s s.subj.stream, (streamTasks s s.subj.stream).head? with
    | some x, some t => match t.fault with
      | some f => if x.st = .run ∧ t.st = .complete then takeFault s x t f else s
      | none => s
    | _, _ => s)

end Sys2Proof.Machine
end

