-- ==== Sys2Proof/Machine/Pipes.lean ====
section
/-! DEFINITION. Pipelines at work: stage launches, the end of stages, and the review that moves cores (R387 to
R389). -/

namespace Sys2Proof.Machine

open Sys2Proof

def modPipe (s : State) (p : Nat) (f : Pipe → Pipe) : State := { s with pipes := amod s.pipes p f }

/-- Queues of a pipeline named by a mask. -/
def maskQueues (s : State) (pipe : Nat) (m : W16) : AList Queue :=
  s.queues.filter fun q => q.2.pipe == pipe && m.getLsbD q.2.num

/-- Workgroups of a pipeline that a core holds. -/
def pipeBusy (s : State) (pipe core : Nat) : Bool :=
  s.wgs.any fun x => x.2.core == core && (aget s.grids x.2.grid).any fun k => (k.pipe.map (·.1)) == some pipe

/-- Whether a stage has a workgroup to launch (R387). -/
def stageHas (s : State) (p : Pipe) (st : PStage) (K : Grid) : Bool :=
  if st.pop = 0 then undispatched K
  else !K.cancelled && (maskQueues s p.id st.pop).any fun q => decide (0 < q.2.count)

/-- The lowest idle core of a stage that its kernel fits. -/
def stageSpot (s : State) (p : Pipe) (st : PStage) (K : Grid) : Option Spot :=
  (sortBy (fun c => [c]) st.cores).findSome? fun c =>
    if pipeBusy s p.id c || K.banned.getLsbD (dieOf c) || (getDie s (dieOf c)).st != .up then none
    else ((roomOf s false c).take (wantOf K.kd)).map (·.1)

/-- The queue bindings of a stage (R387). -/
def stageBinds (s : State) (p : Pipe) (st : PStage) : AList QBind :=
  (s.queues.filter fun q => q.2.pipe == p.id && (st.pop ||| st.push).getLsbD q.2.num).foldl
    (fun m q => aset m q.2.num ⟨q.1, st.push.getLsbD q.2.num, st.pop.getLsbD q.2.num⟩) []

/-- A grid's share on a die grows by a workgroup launched straight onto a core. -/
def growShare (s : State) (grid d : Nat) (K : Grid) : State :=
  let s := if s.bars.any fun b => b.lvl == 3 && b.owner == grid * 8 + d then s
    else { s with bars := s.bars ++ (List.range 8).map (newBar 3 (grid * 8 + d) 0) }
  let s := barRaise s 3 (grid * 8 + d) K.kd.groups
  let s := if K.nwg = 0xFFFFFFFF then barRaise s 4 grid K.kd.groups else s
  modGrid s grid fun k => { k with
    shares := k.shares ||| BitVec.ofNat 8 (2 ^ d), arrivals := aset k.arrivals d ((aget k.arrivals d).getD 0 + 1) }

/-- A workgroup that came back is handed out again. -/
def takeBack (s : State) (grid index : Nat) : State :=
  modGrid s grid fun k => { k with returned := k.returned.filter fun w => w != index }

/-- A stage starts a workgroup, or one that came back from pre-emption, on an idle core of its own. -/
def stageLaunch (s : State) (p : Pipe) (i : Nat) (st : PStage) (K : Grid) (sp : Spot) : State :=
  match (s.shadow.find? fun v => v.wg.grid == st.grid && K.returned.contains v.wg.index) with
  | some v =>
    let needs := v.groups.map fun x => 32 * allot x.2.nreq
    let qtrs := ((assignQuarters needs (roomOf s false sp.core).qtrs).map (·.1)).getD sp.qtrs
    requeueAll (restoreWg (takeBack s st.grid v.wg.index) v ⟨sp.core, qtrs, sp.csBase⟩) [(v, sp.core)]
  | none =>
    let index := if st.pop = 0 then K.returned.headD K.nextWg else st.launched
    let d := dieOf sp.core
    let dwg := (aget K.arrivals d).getD 0
    let s := growShare s st.grid d K
    let s := modGrid s st.grid fun k =>
      if st.pop = 0 then (match k.returned with
        | _ :: r => { k with returned := r }
        | [] => { k with nextWg := k.nextWg + 1 })
      else k
    let s := modPipe s p.id fun p => { p with stages := lmod p.stages i fun x => { x with launched := x.launched + 1 } }
    launchWg s ⟨st.grid, index, dwg, d, none, stageBinds s p st⟩ sp

/-- R387 -/
def execPipelineStageLaunch (pipe stage : Nat) (s : State) : Host.Outcome State Fault Refusal :=
  .next (match aget s.pipes pipe with
    | none => s
    | some p => match p.stages[stage]? with
      | none => s
      | some st => match aget s.grids st.grid with
        | none => s
        | some K =>
          if st.done || !partRuns s K.part || (!stageHas s p st K && K.returned.isEmpty) then s
          else match stageSpot s p st K with
            | none => s
            | some sp => stageLaunch s p stage st K sp)

/-! ### The end of stages (R388) -/

/-- Whether nothing of a stage's grid is on a core or saved. -/
def stageEmpty (s : State) (st : PStage) : Bool :=
  !(s.wgs.any fun x => x.2.grid == st.grid) && !(s.shadow.any fun v => v.wg.grid == st.grid)

def stageDone (s : State) (p : Pipe) (st : PStage) : Bool :=
  match aget s.grids st.grid with
  | none => true
  | some K =>
    if st.pop = 0 then gridOver K || (K.cancelled && stageEmpty s st)
    else
      (p.stages.all fun x => x.push &&& st.pop == 0 || x.done) &&
      (K.cancelled || (maskQueues s p.id st.pop).all fun q => q.2.count == 0) && stageEmpty s st

/-- Stages that have become done are marked, producers before consumers. -/
def settlePipe (s : State) (p : Pipe) : Pipe :=
  let once (p : Pipe) : Pipe := { p with stages := p.stages.map fun st => { st with done := st.done || stageDone s p st } }
  p.stages.foldl (fun p _ => once p) p

/-- The queues whose occupancy tells how a stage keeps up: its pop queues, or a source's push queues (R389). -/
def gaugeQueues (s : State) (p : Pipe) (st : PStage) : AList Queue :=
  maskQueues s p.id (if st.pop = 0 then st.push else st.pop)

/-- Whether a push of a stage waits on a full queue. -/
def pushWaits (s : State) (p : Pipe) (st : PStage) : Bool :=
  (maskQueues s p.id st.push).any fun q => q.2.count == q.2.cap && q.2.waiters.any fun w =>
    w.push && (wgOf s w.grp).any fun W => W.grid == st.grid

/-- One cycle of a pipeline: its interval's sums, which freeze while the partition is halted (R389, R390). -/
def agePipe (s : State) (x : Nat × Pipe) : Nat × Pipe :=
  let p := settlePipe s x.2
  let run := (p.stages.head?.bind fun st => aget s.grids st.grid).any fun K => partRuns s K.part
  if !run then (x.1, p)
  else (x.1, { p with since := p.since + 1, stages := p.stages.map fun st => { st with
    occ := st.occ + ((gaugeQueues s p st).map fun q => q.2.count).sum,
    waits := st.waits + (pushWaits s p st).toNat } })

def agePipes (s : State) : State := { s with pipes := s.pipes.map (agePipe s) }

/-! ### The review (R389) -/

def capSum (s : State) (p : Pipe) (st : PStage) : Nat := ((gaugeQueues s p st).map fun q => q.2.cap).sum

def behind (s : State) (p : Pipe) (st : PStage) : Bool :=
  if st.pop = 0 then !st.done && decide (8 * st.occ < capSum s p st * p.since)
  else decide (capSum s p st * p.since ≤ 2 * st.occ)

def aheadOf (s : State) (p : Pipe) (st : PStage) : Bool :=
  decide (p.since ≤ 2 * st.waits) || (st.pop != 0 && decide (8 * st.occ < capSum s p st * p.since))

/-- The stage to give to: the highest occupancy, the lowest of equals. -/
def neediest (s : State) (p : Pipe) : Option Nat :=
  (p.stages.zipIdx.filter fun x => behind s p x.1 && decide (x.1.cores.length < x.1.maxc)).foldl
    (fun (best : Option (Nat × Nat)) x => match best with
      | some b => if b.2 < x.1.occ then some (x.2, x.1.occ) else best
      | none => some (x.2, x.1.occ)) none |>.map (·.1)

/-- The stage to take from: the most cores, the lowest of equals. -/
def richest (s : State) (p : Pipe) : Option Nat :=
  (p.stages.zipIdx.filter fun x => aheadOf s p x.1 && decide (x.1.minc < x.1.cores.length)).foldl
    (fun (best : Option (Nat × Nat)) x => match best with
      | some b => if b.2 < x.1.cores.length then some (x.2, x.1.cores.length) else best
      | none => some (x.2, x.1.cores.length)) none |>.map (·.1)

/-- One core moves between two stages; which of the giver's is open. -/
def moveCore (s : State) (p : Pipe) : State × Pipe :=
  match neediest s p, richest s p with
  | some b, some a =>
    let cs := (p.stages[a]?.map (·.cores)).getD []
    match cs[Config.order s.free % max 1 cs.length]? with
    | some c =>
      ({ s with free := s.free + 1 },
       { p with stages := lmod (lmod p.stages a fun st => { st with cores := st.cores.filter (· != c) }) b fun st =>
           { st with cores := st.cores ++ [c] } })
    | none => (s, p)
  | _, _ => (s, p)

/-- R389 -/
def execPipelineReview (pipe : Nat) (s : State) : Host.Outcome State Fault Refusal :=
  .next (match aget s.pipes pipe with
    | none => s
    | some p =>
      if p.since < 16384 then s
      else
        let (s, p) := moveCore s p
        modPipe s pipe fun _ => { p with since := 0, stages := p.stages.map fun st => { st with occ := 0, waits := 0 } })

end Sys2Proof.Machine
end

