-- ==== Sys2Proof/Machine/Message.lean ====
section
/-! DEFINITION. Requests at the members: arrival through the registers of an interface (R403), the judgement of a
request (R409 to R411), and the stream registers (R362). -/

namespace Sys2Proof.Machine

open Sys2Proof

/-! ### The registers of an interface (R403) -/

def getIface (s : State) (vi : Nat) : Iface := s.ifaces.getD vi (Iface.initial vi)

/-- Whether an interface's registers answer: a virtual function's only once it is assigned (R402). -/
def ifaceOpen (s : State) (vi : Nat) : Bool :=
  vi == 0 && s.power != .off || ((getIface s vi).part.isSome && s.power != .off && s.power != .recovery)

/-- The offsets of the mailbox, which are all that answers in recovery (R421). -/
def mailbox (s : State) (offset : Nat) : Bool :=
  s.power != .recovery || (decide (0x10000 ≤ offset) && decide (offset < 0x10208))

/-- The stream that a register offset reaches (R362). -/
def streamAt (s : State) (vi offset : Nat) : Option Nat :=
  if vi = 0 then (if offset / 16 < 4096 then some (offset / 16) else none)
  else
    let f := getIface s vi
    if offset / 16 < f.count then some (f.first + offset / 16) else none

/-- R362: a tail that is written. -/
def writeTail (s : State) (x : Stream) (n : W32) : State :=
  let a := (n - x.tail).toNat
  modStream s x.id fun x =>
    if x.ovr ∨ a = 0 then x
    else if x.rsz < a then { x with ovr := true }
    else match x.st with
      | .idle => { x with tail := n, st := .run }
      | .halted => { x with tail := n, prior := if x.prior = .idle then .run else x.prior }
      | _ => { x with tail := n }

/-- R362 -/
def execSqtail (vi offset : Nat) (value : W32) (s : State) : Host.Outcome State Fault Refusal :=
  .next (if !ifaceOpen s vi || !mailbox s offset || offset % 16 != 0 then s
    else match (streamAt s vi offset).bind (getStream s) with
      | some x => writeTail s x value
      | none => s)

/-- The message that stands in MBREQ. -/
def requestOf (f : Iface) : Request :=
  let w (i : Nat) : W32 := (aget f.mbreq i).getD 0
  let h := (w 0).toNat
  { type := BitVec.ofNat 8 (h / 2 ^ 24), op := BitVec.ofNat 8 (h / 2 ^ 16), nw := (w 1).toNat % 65536,
    resv := (w 1).toNat / 65536 != 0,
    msg := ⟨f.vi, BitVec.ofNat 8 (h / 256), BitVec.ofNat 8 h, (List.range 62).map fun i => w (i + 2)⟩ }

/-- The member at which a request waits; one that names no member waits at the first. -/
def memberOf (m : Msg) : Nat := if m.member.toNat < 4 then m.member.toNat else 0

/-- MBREQ is submitted (R403). -/
def submit (s : State) (vi : Nat) : State :=
  let f := getIface s vi
  if f.busy then s
  else
    let r := requestOf f
    { modIface s vi fun f => { f with busy := true, done := false } with
      inboxes := lmod s.inboxes (memberOf r.msg) fun q => q ++ [r] }

/-- R403: writes of MBREQ, MBDB and the notification ring's registers; every other offset ignores writes. -/
def execRegisterWrite (vi offset : Nat) (value : W32) (s : State) : Host.Outcome State Fault Refusal :=
  let low (x : W64) : W64 := x &&& 0xFFFFFFFF00000000 ||| value.setWidth 64
  let high (x : W64) : W64 := x &&& 0x00000000FFFFFFFF ||| value.setWidth 64 <<< 32
  .next (if !ifaceOpen s vi || !mailbox s offset || offset % 4 != 0 then s
    else if 0x10000 ≤ offset ∧ offset < 0x10100 then
      modIface s vi fun f => { f with mbreq := aset f.mbreq ((offset - 0x10000) / 4) value }
    else match offset with
      | 0x10200 => if value = 1 then submit s vi else s
      | 0x10208 => modIface s vi fun f => { f with nqbase := low f.nqbase }
      | 0x1020C => modIface s vi fun f => { f with nqbase := high f.nqbase }
      | 0x10210 => modIface s vi fun f => { f with nqsize := value }
      | 0x10214 => modIface s vi fun f => { f with nqhead := value }
      | _ => s)

/-- R403: once MBREP is read, MBST reads 0. -/
def execMbrepRead (vi : Nat) (s : State) : Host.Outcome State Fault Refusal :=
  .next (if ifaceOpen s vi then modIface s vi fun f => { f with done := false } else s)

/-- What a read of a register gives (R362, R403). -/
def registerRead (s : State) (vi offset : Nat) : W32 :=
  let f := getIface s vi
  if !ifaceOpen s vi || !mailbox s offset then 0
  else if offset < 0x10000 then
    match (streamAt s vi offset).bind (getStream s) with
    | none => 0
    | some x => match offset % 16 with
      | 0 => x.tail
      | 4 => sqstat s x
      | 8 => x.fetched
      | _ => 0
  else if 0x10100 ≤ offset ∧ offset < 0x10200 then f.mbrep.getD ((offset - 0x10100) / 4) 0
  else match offset with
    | 0x10204 => BitVec.ofNat 32 (f.busy.toNat + 2 * f.done.toNat)
    | 0x10208 => f.nqbase.setWidth 32
    | 0x1020C => (f.nqbase >>> 32).setWidth 32
    | 0x10210 => f.nqsize
    | 0x10214 => f.nqhead
    | 0x10218 => f.nqtail
    | _ => 0

/-! ### Judgement (R409 to R411) -/

/-- Payload word i of a request, words being numbered as in the message. -/
def pw (r : Request) (i : Nat) : Nat := (r.msg.payload.getD (i - 2) 0).toNat
def pd (r : Request) (i : Nat) : Nat := pw r i + 2 ^ 32 * pw r (i + 1)

/-- A request of n payload words whose first words keep within the bits of their fields. -/
def shaped (n : Nat) (masks : List Nat) (r : Request) : Bool :=
  r.nw == n && masks.zipIdx.all fun m => pw r (2 + m.2) &&& m.1 == pw r (2 + m.2)

/-- The partition that w2 names, and the quad mask of w3 to w6. -/
def partNo (r : Request) : Nat := pw r 2 % 64
def quadMask (r : Request) : BitVec 128 := BitVec.ofNat 128 (pd r 3 + 2 ^ 64 * pd r 5)

/-- The request at the head of its member's inbox that a step serves: none while an operation of the member goes on. A
SHRINK is carried out in one step, so that no message finds it in progress (R412). -/
def atHead (s : State) (type op : Nat) : Option Request :=
  ((s.inboxes.getD (memberOf s.subj.msg) []).head?).filter fun r =>
    r.msg == s.subj.msg && r.type.toNat == type && r.op.toNat == op &&
    !(s.replies.any fun p => p.member == memberOf r.msg)

/-- The answer to a request. -/
def say (r : Request) (status : Nat) (payload : List W32) (s : State) : State :=
  reply s r.msg r.type.toNat r.op.toNat status payload

/-- Whether a message comes from another member, for a warm reset (R396). -/
def fromMember (r : Request) : Bool := decide (64 ≤ r.msg.vi)

/-- The request leaves the inbox. -/
def takeHead (s : State) (r : Request) : State :=
  { s with inboxes := lmod s.inboxes (memberOf r.msg) fun q => q.drop 1 }

/-- Whether an operation is for the physical function only (R410). -/
def pfOnly (type op : Nat) : Bool :=
  match type with
  | 1 => !([5, 6, 7, 9].contains op)
  | 2 => op == 1 || op == 2
  | 4 => op == 2 || op == 3
  | 5 => false
  | _ => true

/-- A request of a member: taken from its inbox and judged; `well` tells that it is well formed, `own` that what it
names belongs to the virtual function that sends it. -/
def serve (type op : Nat) (well : Request → Bool) (own : State → Request → Bool) (act : Request → State → State)
    (s : State) : Host.Outcome State Fault Refusal :=
  .next (match atHead s type op with
    | none => s
    | some r =>
      let s := takeHead s r
      if s.power = .recovery ∧ type ≠ 8 then say r stState [] s
      else if r.resv ∨ 3 < r.msg.member.toNat ∨ well r = false then say r stBadMessage [] s
      else if r.msg.vi ≠ 0 ∧ r.msg.vi < 64 ∧ (pfOnly type op ∨ own s r = false) then say r stDenied [] s
      else act r s)

/-- Operations that messages of a type may name (R410). -/
def opsOf (type : Nat) : Nat :=
  match type with | 1 => 15 | 2 => 6 | 3 => 1 | 4 => 3 | 5 => 2 | 6 => 4 | 7 => 2 | 8 => 1 | _ => 0

def known (r : Request) : Bool := decide (1 ≤ r.op.toNat) && decide (r.op.toNat ≤ opsOf r.type.toNat)

/-- R409, R410: a request of no known type, operation or member. -/
def execBadMessage (s : State) : Host.Outcome State Fault Refusal :=
  .next (match (s.inboxes.getD (memberOf s.subj.msg) []).head? with
    | none => s
    | some r =>
      if r.msg ≠ s.subj.msg ∨ (known r ∧ r.msg.member.toNat < 4) ∨ (s.replies.any fun p => p.member == memberOf r.msg) then s
      else say r (if s.power = .recovery then stState else stBadMessage) [] (takeHead s r))

/-- A partition that a virtual function sends for is its own. -/
def ownPart (s : State) (r : Request) : Bool := (getIface s r.msg.vi).part == some (partNo r)

/-- A partition operation: on a partition that exists, else STATE. -/
def onPart (act : Request → Part → State → State) (r : Request) (s : State) : State :=
  match partIx s (partNo r) with
  | none => say r stState [] s
  | some p => act r p s

def modPart (s : State) (i : Nat) (f : Part → Part) : State :=
  { s with parts := s.parts.map fun p => if p.id == i then f p else p }

end Sys2Proof.Machine
end

