-- ==== Sys2Proof/Machine/Reshape.lean ====
section
/-! DEFINITION. Quads taken from a partition and given to it: pre-emption of what runs there, the return to the global
dispatcher, and the cores of pipelines (R293, R386, R412, R413). -/

namespace Sys2Proof.Machine

open Sys2Proof

/-! ### Workgroups leave -/

/-- Units with a workgroup that a predicate selects leave for shadow storage, lowest core first; the grid and index
of each workgroup in the order in which it left. -/
def clearWgs (s : State) (sel : Wg → Bool) : List (Nat × Nat) × State :=
  let ws := sortBy (fun (x : Nat × Wg) => [x.2.core, x.1]) (s.wgs.filter fun x => sel x.2)
  ws.foldl (fun (a : List (Nat × Nat) × State) (x : Nat × Wg) =>
    if (aget a.2.wgs x.1).isNone then a
    else
      let u := (unitOfWg a.2 x.1).filterMap fun w => (aget a.2.wgs w).map fun W => (W.grid, W.index)
      (a.1 ++ u, saveUnit a.2 x.1)) ([], s)

/-- Pre-empted workgroups re-enter the global order ahead of every other workgroup of their grids. -/
def sendBack (s : State) (ws : List (Nat × Nat)) : State :=
  ((ws.map (·.1)).eraseDups).foldl (fun s k =>
    modGrid s k fun K => { K with returned := (ws.filter fun x => x.1 == k).map (·.2) ++ K.returned }) s

/-- A grid's workgroups pending at a die go back to the global dispatcher, behind those that came back before; each keeps
the arrival number it had there (R36). -/
def unpendGrid (s : State) (d grid : Nat) : State :=
  let mine := (getDie s d).pending.filter fun p => p.grid == grid
  let saved := (mine.filter (·.saved)).map (·.wg)
  let (fresh, s) := unpend s grid d
  let s := modDie s d fun D => { D with pending := D.pending.filter fun p => p.grid != grid }
  modGrid s grid fun K => { K with
    returned := K.returned ++ sortBy (fun w => [w]) saved ++ sortBy (fun w => [w]) fresh,
    dwgs := (mine.filter fun p => !p.saved).foldl (fun m p => aset m p.wg p.dwg) K.dwgs }

/-- All that is pending at a die for a partition goes back; how many workgroups that is. -/
def unpendPart (s : State) (d part : Nat) : Nat × State :=
  let mine := (getDie s d).pending.filter fun p => gridPart s p.grid == part
  (mine.length, ((mine.map (·.grid)).eraseDups).foldl (fun s k => unpendGrid s d k) s)

/-! ### Pipelines (R387, R413) -/

/-- The `.ks` queues of a pipeline, with their keys. -/
def ksRings (s : State) (pipe : Nat) : AList Queue := s.queues.filter fun q => q.2.pipe == pipe && !q.2.xs

/-- The quad number that stands for none. -/
def noQuad : Nat := 128

/-- A pipeline's `.ks` queues leave their quad with their contents. -/
def liftRings (s : State) (pipe : Nat) : State :=
  let qs := (ksRings s pipe).filter fun q => q.2.base / 2 ^ 18 != noQuad
  let s' := modPipe s pipe fun p => { p with rings := qs.map fun q => (q.1, sliceOf s.ks q.2.base q.2.cap) }
  if qs.isEmpty then s
  else { s' with
    ks := qs.foldl (fun m q => clearWords m q.2.base q.2.cap) s.ks,
    queues := s.queues.map fun q =>
      if qs.any fun x => x.1 == q.1 then (q.1, { q.2 with base := noQuad * 2 ^ 18 + q.2.base % 2 ^ 18 }) else q }

/-- Stages lose the cores of a set; a pipeline whose quad is among them loses its queues too. -/
def unseat (s : State) (gone : Nat → Bool) : State :=
  s.pipes.foldl (fun s x =>
    let lost := (ksRings s x.1).any fun q => gone (4 * (q.2.base / 2 ^ 18))
    let s := if lost then liftRings s x.1 else s
    modPipe s x.1 fun p => { p with stages := p.stages.map fun st => { st with cores := st.cores.filter fun c => !gone c } }) s

/-- The dies on which a pipeline may have cores. -/
def pipeDies (s : State) (p : Pipe) : Nat × Byte :=
  match p.stages.head?.bind fun st => aget s.grids st.grid with
  | none => (0, 0xFF)
  | some K => (K.part, K.dies)

/-- A pipeline without its quad takes another with its queues, whose elements are compared as they come back (R278). -/
def seatRings (s : State) (p : Pipe) (free : List Nat) : State :=
  match quadCores (p.stages.map fun st => (st.minc, st.maxc)) free with
  | none => s
  | some cs =>
    let quad := pipeQuad cs
    let home (q : Queue) : Nat := quad * 2 ^ 18 + q.base % 2 ^ 18
    let s' := modPipe s p.id fun p => { p with
      rings := [], stages := (p.stages.zip cs).map fun x => { x.1 with cores := x.2 } }
    { s' with
      ks := (ksRings s p.id).foldl (fun m q => putSlice m (home q.2) q.2.cap (mendAll ((aget p.rings q.1).getD []))) s.ks,
      queues := s.queues.map fun q =>
        if q.2.pipe == p.id && !q.2.xs then (q.1, { q.2 with base := home q.2 }) else q }

/-- Stages in order take free cores until each has the number wanted of it. -/
def dealMissing : List (Nat × PStage) → List Nat → List PStage
  | [], _ => []
  | (n, st) :: r, free =>
    let k := n - st.cores.length
    { st with cores := st.cores ++ free.take k } :: dealMissing r (free.drop k)

/-- A pipeline that lacks cores is given some: `want` tells how many each stage should have. -/
def reseat (s : State) (pipe : Nat) (want : PStage → Nat) : State :=
  match aget s.pipes pipe with
  | none => s
  | some p =>
    let (part, dies) := pipeDies s p
    let free := freeCores s part dies
    if (ksRings s pipe).any fun q => q.2.base / 2 ^ 18 == noQuad then seatRings s p free
    else modPipe s pipe fun p => { p with stages := dealMissing (p.stages.map fun st => (want st, st)) free }

/-- Pipelines short of cores take those that have become free. -/
def seatPipes (s : State) : State :=
  (s.pipes.filter fun x => x.2.stages.any fun st => decide (st.cores.length < st.minc)).foldl
    (fun s x => reseat s x.1 fun st => max st.minc st.cores.length) s

/-- After a loss of cores each stage is given as many elsewhere (R413). -/
def refill (s0 s : State) : State :=
  s0.pipes.foldl (fun s x => if (x.2.stages.map fun st => st.cores.length).sum = 0 then s
    else match aget s.pipes x.1 with
      | none => s
      | some p =>
        let had := x.2.stages.map fun st => (st.grid, st.cores.length)
        if (p.stages.map fun st => st.cores.length) == had.map (·.2) then s
        else reseat s x.1 fun st => (aget had st.grid).getD st.minc) s

/-! ### Quads leave and join (R412) -/

def coresOf (q : BitVec 128) (core : Nat) : Bool := q.getLsbD (quadOf core)

/-- What runs on some cores is pre-empted and goes back to the global dispatcher; the number of workgroups. -/
def vacate (s : State) (gone : Nat → Bool) : Nat × State :=
  let (ws, s1) := clearWgs s fun W => gone W.core
  (ws.length, refill s (unseat (sendBack s1 ws) gone))

/-- Dies on which a partition has no quad left. -/
def lostDies (p : Part) (q : BitVec 128) : List Nat :=
  (List.range 8).filter fun d => (partDies p).getLsbD d && !(partDies { p with quads := p.quads &&& ~~~ q }).getLsbD d

/-- R412: quads leave a partition once what runs there is pre-empted. -/
def shrinkPart (s : State) (p : Part) (q : BitVec 128) : State :=
  let s := modPart s p.id fun p => { p with quads := p.quads &&& ~~~ q }
  let s := (vacate s (coresOf q)).2
  (lostDies p q).foldl (fun s d => (unpendPart s d p.id).2) s

/-- What is pending at a die under reset for a partition returns to the global dispatcher, which hands it out again only when
the die has been emptied (R397, R413). -/
def holdBack (part : Nat) (s : State) (d : Nat) : State :=
  let mine := ((getDie s d).pending.filter fun p => gridPart s p.grid == part).map fun p => (p.grid, p.wg)
  modDie (unpendPart s d part).2 d fun D => { D with reset := D.reset.map fun c => { c with back := c.back ++ mine } }

/-- R413 step 1: a partition loses the quads of dies that are to be reset; what was handed to them and not placed returns,
and what runs there goes on until the drain ends. -/
def leaveDies (s : State) (p : Part) (q : BitVec 128) : State :=
  ((List.range 8).filter fun d => (q.extractLsb' (16 * d) 16) != 0).foldl (holdBack p.id)
    (modPart s p.id fun p => { p with quads := p.quads &&& ~~~ q })

/-- Quads that can be given: of no partition, on a die that is up (R412, R413). -/
def quadsFree (s : State) (q : BitVec 128) : Bool :=
  (s.parts.all fun p => p.quads &&& q == 0) &&
  (List.range 8).all fun d => q.extractLsb' (16 * d) 16 == 0 || (getDie s d).st == .up

def growPart (s : State) (part : Nat) (q : BitVec 128) : State := modPart s part fun p => { p with quads := p.quads ||| q }

end Sys2Proof.Machine
end

