-- ==== Sys2Proof/Machine/Partition.lean ====
section
/-! DEFINITION. Partition messages that are answered at once (R306, R309, R316, R370, R394, R296, R402, R411, R412). -/

namespace Sys2Proof.Machine

open Sys2Proof

/-! ### CREATE, DESTROY, SHRINK, GROW (R412) -/

/-- A new partition: its quads and home member, nothing granted. -/
def newPart (s : State) (id home : Nat) (q : BitVec 128) : Part :=
  { id, home, quads := q, loc := none, pods := [], host := none, save := none, xs := [], root := 0, keys := [], free := [],
    binds := [], halt := .running, stopped := s.alarm != 0 || s.power == .meshFault, resumeRec := none }

def execPartitionCreate (s : State) : Host.Outcome State Fault Refusal :=
  serve 1 0x01 (shaped 5 [0x33F]) (fun _ _ => false) (fun r s =>
    if (partIx s (partNo r)).isSome then say r stState [] s
    else if !quadsFree s (quadMask r) then say r stNoResource [] s
    else say r stOK [] { s with parts := s.parts ++ [newPart s (partNo r) (pw r 2 / 256 % 4) (quadMask r)] }) s

/-- Storage address of an allotment's bytes on a base die (R153). -/
def xsBase (die : Nat) (w : Window) : Nat := die * 2 ^ 26 + w.base

/-- A partition is gone, with what names it. -/
def dropPart (s : State) (p : Part) : State :=
  { s with
    parts := s.parts.filter fun x => x.id != p.id,
    xs := p.xs.foldl (fun m w => clearWords m (xsBase w.1 w.2) (w.2.len / 4)) s.xs,
    streams := s.streams.filter fun x => x.part != p.id,
    ifaces := s.ifaces.map fun f => if f.part == some p.id then { f with part := none, first := 0, count := 0 } else f,
    tlb := s.tlb.filter fun t => t.part != p.id, walks := s.walks.filter fun w => w.part != p.id,
    podKeys := adel s.podKeys p.id,
    bankPart := s.bankPart.filter fun b => b.2.2 != p.id, accPart := s.accPart.filter fun a => a.2.2 != p.id,
    podBars := s.podBars.filter fun x => x.part != p.id,
    bars := s.bars.filter fun b => !(b.lvl == 5 && b.owner == p.id) }

/-- R412: every stream of the partition must be IDLE. -/
def execPartitionDestroy (s : State) : Host.Outcome State Fault Refusal :=
  serve 1 0x02 (shaped 1 [0x3F]) (fun _ _ => false) (onPart fun r p s =>
    if p.halt == .halting || s.streams.any fun x => x.part == p.id && x.st != .idle then say r stState [] s
    else say r stOK [] (dropPart s p)) s

def execShrink (s : State) : Host.Outcome State Fault Refusal :=
  serve 1 0x03 (fun r => shaped 5 [0x3F] r && quadMask r != 0) (fun _ _ => false) (onPart fun r p s =>
    if quadMask r &&& ~~~ p.quads != 0 then say r stBadMessage [] s
    else if fromMember r then say r stOK [] (leaveDies s p (quadMask r))
    else say r stOK [] (shrinkPart s p (quadMask r))) s

def execGrow (s : State) : Host.Outcome State Fault Refusal :=
  serve 1 0x04 (fun r => shaped 5 [0x3F] r && quadMask r != 0) (fun _ _ => false) (onPart fun r p s =>
    if quadsFree s (quadMask r) then say r stOK [] (growPart s p.id (quadMask r)) else say r stNoResource [] s) s

/-! ### Translation (R309, R316) -/

/-- A root's own form: PA bits and V. -/
def rootOk (p : Part) (w : Nat) : Bool :=
  decide (w < 2 ^ 52) && w % 2 ^ 16 / 2 == 0 && (w % 2 == 0 || inLocal p (w / 2 ^ 16 * 2 ^ 16))

def execSetroot (s : State) : Host.Outcome State Fault Refusal :=
  serve 1 0x08 (shaped 3 [0x3F]) (fun _ _ => false) (onPart fun r p s =>
    if rootOk p (pd r 3) then
      say r stOK [] { modPart s p.id fun p => { p with root := BitVec.ofNat 64 (pd r 3) } with
        walks := s.walks.filter fun w => w.part != p.id }
    else say r stBadMessage [] s) s

/-- Cores of a partition. -/
def partCores (p : Part) : List Nat := (List.range 512).filter (coresOf p.quads)

/-- Leaves and table entries of a partition removed; accesses that used one are performed, and its cores fetch afresh
(R316, R317). -/
def invalidate (s : State) (p : Part) (sel : Tlb → Bool) (selW : WalkEnt → Bool) : State :=
  (partCores p).foldl (fun s c => icDrop (flushCore s c) c)
    { s with
      tlb := s.tlb.filter fun t => !(t.part == p.id && sel t),
      walks := s.walks.filter fun w => !(w.part == p.id && selW w) }

/-- Whether a leaf covers an address of a range. -/
def leafMeets (base len : Nat) (t : Tlb) : Bool :=
  decide (t.base * 2 ^ leafBits t.level < base + len) && decide (base < (t.base + 1) * 2 ^ leafBits t.level)

/-- Whether a table entry lies on the way to an address of a range. -/
def entryMeets (base len : Nat) (w : WalkEnt) : Bool :=
  let n := 2 ^ (55 - 13 * w.level)
  decide (w.pre * n < base % 2 ^ 55 + len) && decide (base % 2 ^ 55 < (w.pre + 1) * n)

def execTlbinv (s : State) : Host.Outcome State Fault Refusal :=
  serve 1 0x09 (shaped 5 [0x13F]) ownPart (onPart fun r p s =>
    say r stOK [] (invalidate s p (fun t => (pw r 2).testBit 8 || leafMeets (pd r 3) (pd r 5) t)
      fun w => (pw r 2).testBit 8 || entryMeets (pd r 3) (pd r 5) w)) s

/-! ### Grants (R306, R370, R411) -/

/-- Buffers that a window holds over all its lists. -/
def windowBuffers (s : State) (w : Nat) : Nat :=
  (s.parts.map fun p => ((p.free.filter fun f => f.win == w).map fun f => f.own.length).sum).sum

def bufferAddrs (r : Request) : List Nat := (List.range (pw r 2 / 2 ^ 24 % 32)).map fun i => pd r (3 + 2 * i)

/-- N buffers of a class that exists, each aligned to its length. -/
def bufferForm (r : Request) : Bool :=
  let n := pw r 2 / 2 ^ 24 % 32
  let c := pw r 2 / 256 % 32
  shaped (1 + 2 * n) [0x1F031F3F] r && decide (1 ≤ n) && decide (n ≤ 29) && decide (c ≤ 17) &&
  (bufferAddrs r).all fun a => a % classBytes c == 0

/-- R370 -/
def execAddbuf (s : State) : Host.Outcome State Fault Refusal :=
  serve 1 0x0A bufferForm (fun _ _ => false) (onPart fun r p s =>
    let bs := bufferAddrs r
    let w := pw r 2 / 2 ^ 16 % 4
    let f := freeList s p.id w (pw r 2 / 256 % 32)
    if 65536 < windowBuffers s w + bs.length then say r stNoResource [] s
    else say r stOK [BitVec.ofNat 32 (f.own.length + bs.length)]
      (setFree s p.id { f with own := f.own ++ bs, bufs := f.bufs ++ bs })) s

def hbmBytes : Nat := 720 * 2 ^ 30

/-- The limits of R306 for a window of a kind. -/
def windowOk (kind index base len : Nat) : Bool :=
  let grain := if kind = 0 then 512 * 2 ^ 20 else 65536
  decide (base < 2 ^ 52) && base % grain == 0 && len % grain == 0 &&
  (match kind with
    | 0 | 3 => index == 0 && windowOf base == 0 && decide (base + len ≤ hbmBytes)
    | 1 => windowOf base == 1 && base % 2 ^ 50 / 2 ^ 49 == 0 && decide (base % 2 ^ 40 + len ≤ hbmBytes)
    | _ => index == 0 && windowOf base == 2 && decide (base % 2 ^ 50 + len ≤ 2 ^ 50))

def kindOf (r : Request) : Nat := pw r 2 / 256 % 4
def indexOf (r : Request) : Nat := pw r 2 / 2 ^ 16 % 16

def execSetwin (s : State) : Host.Outcome State Fault Refusal :=
  serve 1 0x0B (fun r => shaped 5 [0xF033F] r && windowOk (kindOf r) (indexOf r) (pd r 3) (pd r 5)) (fun _ _ => false)
    (onPart fun r p s =>
      let w : Option Window := if pd r 5 = 0 then none else some ⟨pd r 3, pd r 5⟩
      say r stOK [] (modPart s p.id fun p => match kindOf r with
        | 0 => { p with loc := w }
        | 1 => { p with pods := match w with
            | some x => aset p.pods (indexOf r) x
            | none => adel p.pods (indexOf r) }
        | 2 => { p with host := w }
        | _ => { p with save := w })) s

/-- The allotments that a SETXS names, by base die. -/
def xsWanted (r : Request) : AList Window := (List.range 4).map fun i => (i, ⟨pw r (3 + 2 * i), pw r (4 + 2 * i)⟩)

def xsForm (r : Request) : Bool :=
  shaped 9 [0x3F] r && (xsWanted r).all fun w =>
    w.2.base % 65536 == 0 && w.2.len % 65536 == 0 && decide (w.2.base + w.2.len ≤ 2 ^ 26)

def meets (a b : Window) : Bool := decide (a.base < b.base + b.len) && decide (b.base < a.base + a.len)

/-- Bytes that an allotment gains are zeroed; those it had before stay (R304). -/
def clearGained (m : Mem) (die : Nat) (old : Option Window) (w : Window) : Mem :=
  let zero (m : Mem) (a b : Nat) : Mem := clearWords m (die * 2 ^ 26 + a) ((b - a) / 4)
  match old.filter (meets w) with
  | none => zero m w.base (w.base + w.len)
  | some o => zero (zero m w.base o.base) (max w.base (o.base + o.len)) (w.base + w.len)

def execSetxs (s : State) : Host.Outcome State Fault Refusal :=
  serve 1 0x0C xsForm (fun _ _ => false) (onPart fun r p s =>
    let ws := xsWanted r
    if s.parts.any fun o => o.id != p.id && ws.any fun w => (aget o.xs w.1).any (meets w.2) then say r stNoResource [] s
    else say r stOK [] (modPart { s with xs := ws.foldl (fun m w => clearGained m w.1 (aget p.xs w.1) w.2) s.xs } p.id
      fun p => { p with xs := ws })) s

def execSetresume (s : State) : Host.Outcome State Fault Refusal :=
  serve 1 0x0D (fun r => shaped 3 [0x3F] r && pd r 3 % 64 == 0) (fun _ _ => false) (onPart fun r p s =>
    say r stOK [] (modPart s p.id fun p => { p with resumeRec := some (pd r 3) })) s

/-- R296 -/
def execSetreserve (s : State) : Host.Outcome State Fault Refusal :=
  serve 1 0x0E (shaped 2 [7, 0xFFFF]) (fun _ _ => false) (fun r s =>
    say r stOK [] (modDie s (pw r 2) fun D => { D with reserve := BitVec.ofNat 16 (pw r 3) })) s

/-- R402, R411 -/
def execBindvi (s : State) : Host.Outcome State Fault Refusal :=
  serve 1 0x0F (fun r => shaped 2 [0x3F3F, 0x1FFF0FFF] r && pw r 2 / 256 != 0 &&
      decide (pw r 3 % 4096 + pw r 3 / 65536 ≤ 4096)) (fun _ _ => false)
    (onPart fun r p s => say r stOK [] (modIface s (pw r 2 / 256) fun f =>
      { f with part := some p.id, first := pw r 3 % 4096, count := pw r 3 / 65536 })) s

end Sys2Proof.Machine
end

