-- ==== Sys2Proof/Machine/StreamOps.lean ====
section
/-! DEFINITION. Stream messages (R360, R365 to R367). -/

namespace Sys2Proof.Machine

open Sys2Proof

def streamNo (r : Request) : Nat := pw r 2 % 4096

/-- A stream of the virtual function's range. -/
def ownStream (s : State) (r : Request) : Bool :=
  let f := getIface s r.msg.vi
  f.part.isSome && decide (f.first ≤ streamNo r) && decide (streamNo r < f.first + f.count)

def isPow (n lo hi : Nat) : Bool := (List.range 17).any fun k => n == 2 ^ k && decide (lo ≤ n) && decide (n ≤ hi)

/-- The field rules of R360. -/
def streamForm (r : Request) : Bool :=
  let rsz := pw r 5
  shaped 11 [0x0D3F0FFF] r && isPow rsz 16 65536 && pd r 3 % max 4096 (32 * rsz) == 0 && pd r 6 % 8 == 0 &&
  pd r 8 % 64 == 0 && pd r 10 % 64 == 0 && (pd r 10 == 0 || isPow (pw r 12) 16 4096)

/-- A new stream (R360 to R364, R370); that of a halted partition begins HALTED. -/
def newStream (r : Request) (halted : Bool) : Stream :=
  { id := streamNo r, part := pw r 2 / 2 ^ 16 % 64, cls := (pw r 2).testBit 24, win := pw r 2 / 2 ^ 26 % 4,
    firmware := Config.firmwareStream (streamNo r), ring := pd r 3, rsz := pw r 5, cword := pd r 6, frec := pd r 8,
    rlog := pd r 10, rlogn := pw r 12, fp := pd r 3, fetched := 0, tail := 0, ovr := false,
    st := if halted then .halted else .idle, prior := .idle, map := [], nextSeq := 1, retired := 0, hiSeq := 0,
    hiFp := pd r 3, recs := 0, last := 0, hold := none, slots := [], word := none, refetch := [], faulted := [], deferred := [],
    recFirst := 1, recTasks := 0, recFaults := [], recFlags := 0, recKernels := [], early := [], restarted := false }

/-- R360, R412 -/
def execStreamCreate (s : State) : Host.Outcome State Fault Refusal :=
  serve 2 0x01 streamForm (fun _ _ => false) (fun r s =>
    match partIx s (pw r 2 / 2 ^ 16 % 64) with
    | none => say r stState [] s
    | some p =>
      if (getStream s (streamNo r)).isSome then say r stState [] s
      else say r stOK [] { s with streams := s.streams ++ [newStream r (p.halt == .halted)] }) s

/-- An operation on a stream that exists, else STATE. -/
def onStream (act : Request → Stream → State → State) (r : Request) (s : State) : State :=
  match getStream s (streamNo r) with
  | none => say r stState [] s
  | some x => act r x s

/-- The answer with SQSTAT as it then stands (R365, R411). -/
def sayStat (r : Request) (status : Nat) (s : State) : State := say r status [streamStat s (streamNo r)] s

/-- R410: an idle stream ends. -/
def execStreamDestroy (s : State) : Host.Outcome State Fault Refusal :=
  serve 2 0x02 (shaped 1 [0xFFF]) (fun _ _ => false) (onStream fun r x s =>
    if x.st = .idle then
      let s := writeSeq s x.id
      sayStat r stOK { s with streams := s.streams.filter fun y => y.id != x.id }
    else say r stState [] s) s

/-- The stream runs again from the entry of the faulting task (R365, R382). -/
def restartStream (s : State) (i : Nat) : State :=
  match getStream s i with
  | none => s
  | some x => modStream (rewind s i x.faulted) i fun x => { x with st := .run, faulted := [], restarted := true }

/-- R367: the faulting task retires as skipped, with its retire record where it had containment events (R381). -/
def skipTask (s : State) (x : Stream) (t : Task) : State :=
  let s := retireRecord (writeSeq (rewind s x.id x.faulted) x.id) x t
  let s := winRecord s x.id x.part x.win 0 x.cword (lohi t.seq)
  settleIdle (modStream s x.id fun x =>
    let x := { x with
      st := .run, faulted := [], nextSeq := t.seq + 1, retired := t.seq, refetch := adel x.refetch t.seq,
      last := topOf t.entry, recTasks := x.recTasks + 1,
      recFlags := x.recFlags ||| 1 ||| (if x.restarted then 2 else 0) }
    if t.slot then { x with slots := x.slots.drop 1 } else { x with fp := t.after, fetched := t.fetchNo + 1 }) x.id

/-- A RESTART, SKIP or ABORT in the state to which a stream returns (R365): the new state, where there is a change. -/
def streamAct (s : State) (i : Nat) (d : Deferred) : Option State :=
  (getStream s i).bind fun x => match d, x.st with
    | .restart, .faulted => some (restartStream s i)
    | .skip, .faulted => x.faulted.head?.map (skipTask s x)
    | .abort, .run | .abort, .faulted => some (beginAbort s i)
    | _, _ => none

/-- RESTART, SKIP and ABORT: in HALTED put off until the partition resumes. -/
def streamOp (d : Deferred) (r : Request) (x : Stream) (s : State) : State :=
  if x.st = .halted then
    sayStat r stAccepted (modStream s x.id fun x => { x with deferred := x.deferred ++ [d] })
  else match streamAct s x.id d with
    | none => say r stState [] s
    | some s =>
      if d = .abort then
        finishAbort { s with replies := s.replies ++ [⟨memberOf r.msg, 2, 5, r.msg, x.id⟩] } x.id
      else sayStat r stOK s

def execRestart (s : State) : Host.Outcome State Fault Refusal :=
  serve 2 0x03 (shaped 1 [0xFFF]) ownStream (onStream (streamOp .restart)) s

def execSkip (s : State) : Host.Outcome State Fault Refusal :=
  serve 2 0x04 (shaped 1 [0xFFF]) ownStream (onStream (streamOp .skip)) s

def execAbort (s : State) : Host.Outcome State Fault Refusal :=
  serve 2 0x05 (shaped 1 [0xFFF]) ownStream (onStream (streamOp .abort)) s

/-- R362, R365: OVR is reset in any state. -/
def execClear (s : State) : Host.Outcome State Fault Refusal :=
  serve 2 0x06 (shaped 1 [0xFFF]) ownStream (onStream fun r x s =>
    sayStat r stOK (modStream s x.id fun x => { x with ovr := false })) s

/-- Deferred operations of a stream act in their order; those with no effect are dropped. -/
def runDeferred (s : State) (i : Nat) : State :=
  match getStream s i with
  | none => s
  | some x =>
    let s := modStream s i fun x => { x with deferred := [] }
    x.deferred.foldl (fun s d => match streamAct s i d with
      | some s => if d = .abort then finishAbort s i else s
      | none => s) s

end Sys2Proof.Machine
end

