-- ==== Sys2Proof/Machine/Halt.lean ====
section
/-! DEFINITION. Halt and resume of a partition (R390, R394), checkpoint images and tk.resume (R263, R393). -/

namespace Sys2Proof.Machine

open Sys2Proof

/-- Whether a grid belongs to a partition. -/
def ofPart (s : State) (part grid : Nat) : Bool := (aget s.grids grid).any fun K => K.part == part

/-! ### HALT -/

/-- R390 phase 1: issue, placement and coaches stop; the answer comes when the partition is HALTED. -/
def execHalt (s : State) : Host.Outcome State Fault Refusal :=
  serve 1 0x05 (shaped 1 [0x3F]) ownPart (onPart fun r p s =>
    if p.halt ≠ .running ∨ p.stopped then say r stState [] s
    else
      let mine (G : Group) : Bool := (aget s.wgs G.wg).any fun W => ofPart s p.id W.grid
      let s' := modPart s p.id fun p => { p with halt := .halting }
      { s' with
        groups := s.groups.map fun x => if mine x.2 then (x.1, { x.2 with halted := true }) else x,
        replies := s.replies ++ [⟨memberOf r.msg, 1, 5, r.msg, p.id⟩] }) s

/-- A stream as the halt of its partition leaves it (R365). -/
def haltStream (x : Stream) : Stream :=
  match x.st with
  | .idle | .run | .faulted => { x with st := .halted, prior := x.st }
  | _ => x

/-- R390 phases 2 to 4, R391: what is in flight ends, the contexts move to shadow storage, the partition is HALTED. -/
def execContextSave (part : Nat) (s : State) : Host.Outcome State Fault Refusal :=
  .next (match partIx s part with
    | none => s
    | some p =>
      if p.halt ≠ .halting ∨ p.stopped then s
      else
        let (_, s) := clearWgs s fun W => ofPart s part W.grid
        let s := modPart s part fun p => { p with halt := .halted }
        let s := { s with streams := s.streams.map fun x => if x.part == part then haltStream x else x }
        answerPending s (fun r => r.type == 1 && r.op == 5 && r.key == part) stOK [])

/-! ### RESUME -/

/-- Contexts of a partition that its halt took off the cores. -/
def haltedUnits (s : State) (part : Nat) : List Saved :=
  s.shadow.filter fun v =>
    ofPart s part v.wg.grid &&
    !((aget s.grids v.wg.grid).any fun K => K.returned.contains v.wg.index) &&
    !(s.dies.any fun D => D.pending.any fun p => p.saved && p.grid == v.wg.grid && p.wg == v.wg.index)

/-- Whether the place that a context left, with that of its whole gang, still belongs to the partition. -/
def placeKept (p : Part) (v : Saved) : Bool := coresOf p.quads v.wg.core

/-- A context back on its core; one whose quad has left the partition goes to the global dispatcher. -/
def restoreHalted (p : Part) (s : State) (v : Saved) : State :=
  if placeKept p v then
    let s := match v.wg.gang with
      | some k => { s with gangs := amod s.gangs k fun g => { g with placed := true } }
      | none => s
    restoreWg s v (oldSpot v)
  else modGrid s v.wg.grid fun K => { K with returned := K.returned ++ [v.wg.index] }

/-- Contexts as they come back, with the tally of all (R278, R394); shadow storage holds them so. -/
def recallAll (s : State) (vs : List Saved) : (List Saved × Tally) × State :=
  vs.foldl (fun x v =>
    let ((v, t), s) := recallImage x.2 v
    ((x.1.1 ++ [v], x.1.2.add t), { s with shadow := s.shadow.map fun y => if y.uid == v.uid then v else y })) (([], Tally.none), s)

/-- A stream back in its prior state, with the operations that were put off (R365). -/
def resumeStream (s : State) (x : Stream) : State :=
  runDeferred (modStream s x.id fun x => { x with
    st := if x.prior = .idle ∧ x.fetched ≠ x.tail then .run else x.prior }) x.id

/-- R390, R394 -/
def execResume (s : State) : Host.Outcome State Fault Refusal :=
  serve 1 0x06 (shaped 1 [0x3F]) ownPart (onPart fun r p s =>
    if p.halt ≠ .halted ∨ p.stopped then say r stState [] s
    else
      let vs := haltedUnits s p.id
      let ((kept, t), s) := recallAll s (vs.filter (placeKept p))
      let s := (kept ++ vs.filter fun v => !placeKept p v).foldl (restoreHalted p) s
      let s := requeueAll s (kept.map fun v => (v, v.wg.core))
      let s := modPart s p.id fun p => { p with halt := .running }
      let s := resumeRecord s p.id p.home 0 t
      let s := (s.streams.filter fun x => x.part == p.id && x.st == .halted).foldl resumeStream s
      say r stOK [] s) s

/-! ### CHECKPOINT (R393) -/

/-- Words up to a multiple of 4,096 bytes. -/
def pageFill (ws : List Word) : List Word := ws ++ List.replicate ((1024 - ws.length % 1024) % 1024) .zero

/-- A unit of a partition by its grid. -/
def gridsOfPart (s : State) (part : Nat) : AList Grid := s.grids.filter fun x => x.2.part == part

/-- The contents of a queue's ring, wherever it stands. -/
def ringOf (s : State) (q : Nat × Queue) : Nat × AList Word :=
  (q.1, if q.2.xs then sliceOf s.xs q.2.base q.2.cap
    else match (aget s.pipes q.2.pipe).bind fun p => aget p.rings q.1 with
      | some w => w
      | none => sliceOf s.ks q.2.base q.2.cap)

/-- The contexts of a partition. -/
def savedOfPart (s : State) (part : Nat) : List Saved := s.shadow.filter fun v => savedPart s v == part

/-- The body of an image: window state, streams, and the context images (R392, R393). -/
structure Body where
  words : List Word
  soff : Nat
  coff : Nat
  deriving DecidableEq, Repr

/-- The words of contexts as they stand, in shadow storage and in the save area; the contexts stay where they are. -/
def recallWords (s : State) (vs : List Saved) : List (Option Word) × State :=
  vs.foldl (fun x v =>
    let (cs, s) := recallCells x.2 v
    (x.1 ++ cs, s)) ([], s)

def bodyOf (s : State) (cs : List (Option Word)) : Body :=
  let win := (Config.imageSection s.free).map gen
  let str := (Config.imageSection (s.free + 1)).map gen
  let ctx := fillCells (s.free + 2) cs
  ⟨pageFill (win ++ str ++ ctx), 4096 + 4 * win.length, 4096 + 4 * (win.length + str.length)⟩

/-- The state with what is pending at the dies for a partition back at the global dispatcher. -/
def unpended (s : State) (part : Nat) : State := (List.range 8).foldl (fun s d => (unpendPart s d part).2) s

/-- The state of a halted partition that its image holds. Workgroups that wait at a die unplaced wait in the image at the global
dispatcher. -/
def imageFor (s : State) (p : Part) (addr : Nat) (vs : List Saved) (body : Body) : Image :=
  let s := unpended s p.id
  let gs := gridsOfPart s p.id
  let mine (k : Nat) : Bool := gs.any fun x => x.1 == k
  let ps := s.pipes.filter fun x => x.2.stages.any fun st => mine st.grid
  let qs := s.queues.filter fun q => ps.any fun x => x.1 == q.2.pipe
  { part := p.id, addr, len := 4096 + 4 * body.words.length, coff := body.coff,
    digest := sha384 (bytesOf (body.words.map (·.val))),
    streams := s.streams.filter fun x => x.part == p.id,
    tasks := s.tasks.filter fun t => t.part == p.id,
    free := p.free, binds := p.binds, grids := gs,
    bars := s.bars.filter fun b => match b.lvl with
      | 5 => b.owner == p.id
      | 4 => mine b.owner
      | 3 => mine (b.owner / 8)
      | 2 => (aget s.gangs b.owner).any fun K => mine K.grid
      | _ => vs.any fun v => v.uid == b.owner,
    queues := qs, pipes := ps, gangs := s.gangs.filter fun x => mine x.2.grid,
    saved := vs, rings := qs.map (ringOf s), regs := s.podBars.filter fun r => r.part == p.id }

/-- The header page of an image. -/
def imageHeader (i : Image) (soff : Nat) : List W32 :=
  let w (n : Nat) : W32 := BitVec.ofNat 32 n
  let h := [w 0x5A39434B, w (i.part * 256 + 1)] ++ lohi i.len ++ [w (i.saved.length * 65536 + i.streams.length), 0] ++
    lohi soff ++ lohi i.coff ++ List.replicate 6 0 ++ asWords i.digest
  h ++ List.replicate (1024 - h.length) 0

/-- R393: the image is written, and what it holds is remembered by its digest. -/
def execCheckpoint (s : State) : Host.Outcome State Fault Refusal :=
  serve 1 0x07 (fun r => shaped 3 [0x3F] r && pd r 3 % 4096 == 0) ownPart (onPart fun r p s =>
    if p.halt ≠ .halted ∨ p.stopped then say r stState [] s
    else
      let vs := savedOfPart s p.id
      let (cs, s) := recallWords s vs
      let body := bodyOf s cs
      let i := imageFor s p (pd r 3) (vs.map fun v => { v with spill := none }) body
      match winWrites { s with free := s.free + 3 } p.id i.addr ((imageHeader i body.soff).map gen ++ body.words) with
      | (some _, s) => say r stState [] s
      | (none, s) => say r stOK (lohi i.len) { s with images := i :: s.images }) s

/-! ### tk.resume (R263, R393) -/

/-- The body of an image as its words stand in memory, if the header's fields hold: MAGIC, VER, PART and DIGEST (R393). A word
of the body that is poisoned or mismatches is restored as poison (R278). -/
def readImage (s : State) (part addr : Nat) : Option (List Word) × State :=
  match winReads s part addr 28 with
  | (.error _, s) => (none, s)
  | (.ok h, s) =>
    let len := eD h 2
    if h.any (fun w => isPoison w || mismatch w) ∨ eW h 0 ≠ 0x5A39434B ∨ eW h 1 % 65536 ≠ part * 256 + 1 ∨ len % 4096 ≠ 0 ∨
        len < 4096 then (none, s)
    else match winReads s part (addr + 4096) ((len - 4096) / 4) with
      | (.error _, s) => (none, s)
      | (.ok ws, s) =>
        let digest := (bytesOf ((h.drop 16).map (·.val))).take 48
        (if sha384 (bytesOf (ws.map (·.val))) ≠ digest then none else some ws, s)

/-- What an image's body holds: as a CHECKPOINT of this package wrote it, or as the body itself gives it. -/
def imageIn (s : State) (part : Nat) (ws : List Word) : Option Image :=
  let body := bytesOf (ws.map (·.val))
  match s.images.find? fun i => i.part == part && i.digest == sha384 body with
  | some i => some i
  | none => Config.imageOf s.uid body

/-- Every stream that an image names is the partition's and IDLE. -/
def imageFits (s : State) (i : Image) : Bool :=
  i.streams.all fun x => (getStream s x.id).any fun y => y.part == i.part && y.st == .idle

/-- A stream as it was when the partition was halted. -/
def recorded (x : Stream) : Stream := { x with st := if x.st = .halted then x.prior else x.st, deferred := [] }

/-- Restored queues, with the turns of the lanes that wait at them (R226): a `.ks` queue has no quad yet. -/
def restoredQueue (q : Nat × Queue) : Nat × Queue :=
  (q.1, { q.2 with base := if q.2.xs then q.2.base else noQuad * 2 ^ 18 + q.2.base % 2 ^ 18 })

/-- A restored pipeline waits for its cores. -/
def restoredPipe (i : Image) (x : Nat × Pipe) : Nat × Pipe :=
  let mine (k : Nat) : Bool := i.queues.any fun q => q.1 == k && q.2.pipe == x.1 && !q.2.xs
  (x.1, { x.2 with rings := i.rings.filter fun r => mine r.1, stages := x.2.stages.map fun st => { st with cores := [] } })

/-- A restored grid, whose contexts wait at the global dispatcher ahead of what had not been placed. -/
def restoredGrid (i : Image) (x : Nat × Grid) : Nat × Grid :=
  let back := (i.saved.filter fun v => v.wg.grid == x.1).map (·.wg.index)
  (x.1, { x.2 with returned := back ++ x.2.returned.filter fun w => !back.contains w })

/-- The largest number of a unit in an image. -/
def topUid (i : Image) : Nat :=
  (i.grids.map (·.1) ++ i.queues.map (·.1) ++ i.pipes.map (·.1) ++ i.gangs.map (·.1) ++
    i.saved.flatMap fun v => v.uid :: v.groups.map (·.1) ++ v.copies.map (·.id) ++ v.ops.map (·.id)).foldl max 0

/-- The window state and contexts of an image put back (R393). -/
def restoreImage (s : State) (i : Image) : State :=
  let gs := i.grids.map (restoredGrid i)
  let names (x : Stream) : Bool := i.streams.any fun y => y.id == x.id
  let xsRing (m : Mem) (q : Nat × Queue) : Mem :=
    if q.2.xs then putSlice m q.2.base q.2.cap (mendAll ((aget i.rings q.1).getD [])) else m
  { modPart s i.part fun p => { p with free := i.free, binds := i.binds } with
    uid := max s.uid (topUid i + 1),
    streams := s.streams.filter (fun x => !names x) ++ i.streams.map recorded,
    tasks := s.tasks ++ i.tasks,
    grids := gs.foldl (fun m x => aset m x.1 x.2) s.grids,
    bars := s.bars.filter (fun b => !(b.lvl == 5 && b.owner == i.part)) ++ i.bars,
    podBars := s.podBars.filter (fun r => r.part != i.part) ++ i.regs,
    queues := (i.queues.map restoredQueue).foldl (fun m x => aset m x.1 x.2) s.queues,
    pipes := (i.pipes.map (restoredPipe i)).foldl (fun m x => aset m x.1 x.2) s.pipes,
    gangs := i.gangs.foldl (fun m x => aset m x.1 { x.2 with placed := false }) s.gangs,
    shadow := s.shadow ++ i.saved, xs := i.queues.foldl xsRing s.xs }

/-- The contexts of an image from the words of its body at the image's address, with their tally: each word is compared as it
is restored (R278). Ring words, whose places are open, count too. -/
def rereadAll (s : State) (i : Image) (addr : Nat) (ws : List Word) : List Saved × Tally :=
  let rings := (i.rings.flatMap fun r => r.2.map (·.2)).filter mismatch
  let x := i.saved.foldl (fun (x : (List Saved × Tally) × Nat) v =>
    let kd := gridKd s v.wg.grid
    let new := (imageCells kd v).zipIdx.map fun c => c.1.map fun w => ((ws.drop ((i.coff - 4096) / 4 + x.2))[c.2]?).getD w
    ((x.1.1 ++ [reread kd v new], x.1.2.add (tallyOf kd v new fun n => addr + i.coff + 4 * (x.2 + n))),
      x.2 + imageSize kd v)) (([], Tally.none), 0)
  (x.1.1, { x.1.2 with psn := x.1.2.psn + rings.length,
                       first := if rings.isEmpty then x.1.2.first else some (Config.shadowPlace i.part) })

/-- R263, R393: the image is checked and restored; the task completes once every unit has resumed. -/
def execTkResume (s : State) : Host.Outcome State Fault Refusal :=
  .next (match issuing s 0x0B with
    | none => s
    | some t =>
      let (b, s) := readImage s t.part (eD t.entry 2)
      match (b.bind (imageIn s t.part)).filter fun i => i.part == t.part && imageFits s i with
      | none => failTask (noteIssue s t .renamed) t (descFault 0x0C)
      | some i =>
        let (vs, n) := rereadAll { s with grids := i.grids ++ s.grids } i (eD t.entry 2) (b.getD [])
        modTask (restoreImage (noteIssue s t .issued) { i with saved := vs }) t.stream t.seq fun t =>
          { t with restored := [n.psn, n.cbi, n.chk, n.first.getD 0] ++ i.saved.map (·.uid) })

end Sys2Proof.Machine
end

