-- ==== Sys2Proof/Machine/Frames.lean ====
section
/-! DEFINITION. Frames of pod ports in Ethernet mode: their rings, what is sent and what is received (R404, R406). -/

namespace Sys2Proof.Machine

open Sys2Proof

def getPort (s : State) (p : Nat) : Port := s.ports.getD p (Port.initial p)
def modPort (s : State) (p : Nat) (f : Port → Port) : State := { s with ports := lmod s.ports p f }

/-! ### Ethernet rings (R406) -/

/-- A ring entry as its eight words give it (log entry 24): frame address, length and the flags owner, end of frame
and error. -/
structure RingEntry where
  addr : Nat
  len : Nat
  owner : Bool
  eof : Bool
  deriving DecidableEq, Repr

def entryAddr (r : Ring) (i : Nat) : Nat := r.base + 32 * (i % max 1 r.size)

def readEntry (s : State) (r : Ring) (i : Nat) : Option RingEntry × State :=
  match winReads s r.part (entryAddr r i) 8 with
  | (.error _, s) => (none, s)
  | (.ok ws, s) => (some ⟨eD ws 0, eW ws 2, (eW ws 3).testBit 0, (eW ws 3).testBit 1⟩, s)

/-- A ring entry given back to the software, with its length, its end-of-frame flag and its error flag. -/
def giveEntry (s : State) (r : Ring) (i len : Nat) (eof err : Bool) : State :=
  (winWrites s r.part (entryAddr r i + 8)
    [gen (BitVec.ofNat 32 len), gen (BitVec.ofNat 32 (2 * eof.toNat + 4 * err.toNat))]).2

/-- The bytes of a frame's piece, and whether one of its words is poisoned. -/
def frameBytes (s : State) (part a len : Nat) : Option (List Byte × Bool) × State :=
  match winReads s part (a / 4 * 4) ((a % 4 + len + 3) / 4) with
  | (.error _, s) => (none, s)
  | (.ok ws, s) => (some (((bytesOf (ws.map (·.val))).drop (a % 4)).take len, ws.any fun w => isPoison w || mismatch w), s)

/-- The lengths that a ring entry may hold (R406). -/
def frameLen (n : Nat) : Bool := decide (64 ≤ n) && decide (n ≤ 9216)

/-- The entries of one frame taken in order up to its end: bytes, error, entries taken. -/
def gatherFrame (r : Ring) : Nat → Nat → List Byte → Bool → State → List Byte × Bool × Nat × State
  | 0, i, bs, e, s => (bs, e, i, s)
  | fuel + 1, i, bs, e, s => match readEntry s r i with
    | (none, s) => (bs, true, i, s)
    | (some x, s) =>
      if !x.owner then (bs, e, i, s)
      else if !frameLen x.len then (bs, true, i + 1, giveEntry s r i x.len x.eof true)
      else match frameBytes s r.part x.addr x.len with
        | (none, s) => (bs, true, i + 1, giveEntry s r i x.len x.eof true)
        | (some (b, p), s) =>
          let s := giveEntry s r i x.len x.eof p
          if x.eof then (bs ++ b, e || p, i + 1, s) else gatherFrame r fuel (i + 1) (bs ++ b) (e || p) s

/-- The next frame of a transmit ring leaves without residues; entries that give no byte send nothing. -/
def sendFrame (s : State) (port : Nat) (r : Ring) : State :=
  let (bs, e, i, s) := gatherFrame r r.size r.next [] false s
  if i = r.next then s
  else
    let s := modPort s port fun p => { p with tx := p.tx.map fun x => if x.num == r.num then { x with next := i % max 1 r.size } else x }
    if bs.isEmpty then s else { s with sent := s.sent ++ [(port, bs, e)] }

/-- The frames that a ring has ready, one after the other. -/
def sendAll (s : State) (port ring : Nat) : Nat → State
  | 0 => s
  | n + 1 =>
    let s := sendAll s port ring n
    match (getPort s port).tx.find? fun r => r.num == ring with
    | some r => sendFrame s port r
    | none => s

/-- R406 -/
def execEthernetFrameTransmit (port ring : Nat) (s : State) : Host.Outcome State Fault Refusal :=
  .next (match if (getPort s port).ethernet then (getPort s port).tx.find? (fun r => r.num == ring) else none with
    | none => s
    | some r => sendFrame s port r)

/-- What bytes bring to the words from the one that holds byte `off` of a word on: whole words with residues generated, and
at both ends the frame's bytes alone (R157, R277). -/
def framePatches (off : Nat) (bs : List Byte) : List Patch :=
  (asWords (List.replicate off 0 ++ bs)).zipIdx.map fun w =>
    let m := ((List.range 4).filter fun k => decide (off ≤ 4 * w.2 + k) && decide (4 * w.2 + k < off + bs.length)).foldl
      (fun m k => m + 2 ^ k) 0
    if m = 15 then wholePatch (gen w.1) else ⟨false, BitVec.ofNat 4 m, gen w.1⟩

/-- A frame's bytes written whole or, where any of its words may not be, not at all; the answer tells of an error. -/
def writeFrame (s : State) (part a : Nat) (bs : List Byte) : Bool × State :=
  let ps := framePatches (a % 4) bs
  match winRefused s part (a / 4 * 4) ps.length with
  | (some _, s) => (true, s)
  | (none, s) => (false, ps.zipIdx.foldl (fun s p => winPatch s part (a / 4 * 4 + 4 * p.2) p.1) s)

/-- A received frame is written where the next entry of its ring says, if the device owns the entry. -/
def takeFrame (s : State) (port : Nat) (r : Ring) (frame : List Byte) : State :=
  match readEntry s r r.next with
  | (none, s) => s
  | (some x, s) =>
    if !x.owner || !frameLen frame.length then s
    else if !frameLen x.len then
      modPort (giveEntry s r r.next x.len true true) port fun p =>
        { p with rx := p.rx.map fun y => if y.num == r.num then { y with next := (r.next + 1) % max 1 r.size } else y }
    else
      let bs := frame.take x.len
      let (e, s) := writeFrame s r.part x.addr bs
      let s := giveEntry s r r.next bs.length true (e || decide (x.len < frame.length))
      modPort s port fun p => { p with rx := p.rx.map fun y => if y.num == r.num then { y with next := (r.next + 1) % max 1 r.size } else y }

/-- R406 -/
def execEthernetFrameReceive (port ring : Nat) (frame : List Byte) (s : State) : Host.Outcome State Fault Refusal :=
  .next (match if (getPort s port).ethernet then (getPort s port).rx.find? (fun r => r.num == ring) else none with
    | none => s
    | some r => takeFrame s port r frame)

end Sys2Proof.Machine
end

