-- ==== Sys2Proof/Machine/Telemetry.lean ====
section
/-! DEFINITION. Telemetry messages (R275, R280, R401, R410, R411), and the controllers' own steps (R272, R273, R275). -/

namespace Sys2Proof.Machine

open Sys2Proof

/-! ### PEEK -/

def peekCore (r : Request) : Nat := pw r 2 % 512
def peekSpace (r : Request) : Nat := pw r 2 / 2 ^ 16 % 4

/-- Bytes that PEEK reaches in a space: the core's own scratchpad or bank, or its base die's scratchpad. -/
def peekSize (space : Nat) : Nat := match space with | 1 => 2 ^ 18 | 2 => 2 ^ 16 | 3 => 2 ^ 26 | _ => 0

/-- The word at an offset (R153). -/
def peekWord (s : State) (core space o : Nat) : Word :=
  match space with
  | 1 => readWord s.cs (core * 2 ^ 18 + o)
  | 2 => readWord s.ks (quadOf core * 2 ^ 18 + (o / 64 * 4 + core % 4) * 64 + o % 64)
  | _ => readWord s.xs (baseOf (dieOf core) * 2 ^ 26 + o)

/-- Whether a die's storage does not answer: from step 5 of its warm reset on (R401, R413). -/
def dieSilent (s : State) (d : Nat) : Bool := [DieSt.silent, .inReset, .training, .offline].contains (getDie s d).st

/-- Whether a request for a die's storage waits at the endpoint of its quiesced link (R413 step 3). -/
def peekHeld (s : State) : Bool :=
  (atHead s 4 1).any fun r => peekSpace r != 3 && (getDie s (dieOf (peekCore r))).st == .quiesced

/-- The core is one of the virtual function's partition. -/
def ownCore (s : State) (r : Request) : Bool :=
  ((getIface s r.msg.vi).part.bind (partIx s)).any fun p => coresOf p.quads (peekCore r)

/-- R401, R411: a silent die's storage is answered with DIE_OFFLINE and counted as a stray. -/
def execPeek (s : State) : Host.Outcome State Fault Refusal :=
  if peekHeld s then .next s else
  serve 4 0x01 (fun r => shaped 2 [0x301FF] r && pw r 3 % 4 == 0 && decide (pw r 3 < peekSize (peekSpace r))) ownCore
    (fun r s =>
      let d := dieOf (peekCore r)
      if peekSpace r ≠ 3 ∧ dieSilent s d then
        say r stDieOffline [1, 0] (modDie s d fun D => { D with reset := D.reset.map fun c => { c with strays := c.strays + 1 } })
      else
        let w := peekWord s (peekCore r) (peekSpace r) (pw r 3)
        say r stOK [BitVec.ofNat 32 (isPoison w).toNat, w.val] s) s

/-! ### SCRUB, INJECT -/

def execScrub (s : State) : Host.Outcome State Fault Refusal :=
  serve 4 0x02 (fun r => shaped 2 [0xF] r && decide (pw r 2 < 12) && decide (1 ≤ pw r 3) && decide (pw r 3 ≤ 168))
    (fun _ _ => false) (fun r s =>
      say r stOK [] { s with ctrls := lmod s.ctrls (pw r 2) fun c => { c with period := pw r 3 } }) s

/-- The arming that an INJECT asks for. -/
def armingOf (r : Request) : Arming :=
  ⟨pw r 2 % 16, pd r 3 / 64, (pw r 2).testBit 8, pw r 2 / 512 % 16, pw r 2 / 2 ^ 16 % 32⟩

/-- A local data line on the stack of the controller, and a bit that the word or its sideband has. -/
def armingForm (r : Request) : Bool :=
  let a := armingOf r
  shaped 3 [0x1F1F0F] r && decide (a.ctrl < 12) && (!a.sb || decide (a.bit < 4)) && pd r 3 % 64 == 0 &&
  decide (pd r 3 < hbmBytes) && stackOf (pd r 3) == a.ctrl

/-- R280 -/
def execInject (s : State) : Host.Outcome State Fault Refusal :=
  serve 4 0x03 armingForm (fun _ _ => false) (fun r s =>
    let a := armingOf r
    let rest := s.armings.filter fun x => x.line != a.line
    if 16 ≤ (rest.filter fun x => x.ctrl == a.ctrl).length then say r stNoResource [] s
    else say r stOK [] { s with armings := rest ++ [a] }) s

/-! ### The controllers -/

/-- R273: a line is read, and mended or poisoned as it is found. -/
def execHbmLineRead (line : Nat) (s : State) : Host.Outcome State Fault Refusal :=
  .next (hbmRead s line (lineKey s line).1 0).2

/-- R272, R274: a dirty line of the L2 is written to its cells. -/
def execHbmLineWrite (line : Nat) (s : State) : Host.Outcome State Fault Refusal := .next (l2Clean s line)

/-- Data lines of a stack. -/
def stackLines : Nat := 60 * 2 ^ 30 / 64

/-- R275: the scrubber reads the next line of its stack. It goes by ascending data index, from 0 after a cold reset: the
model's choice, since the manual names no order (log entry 59). -/
def execPatrolScrub (ctrl : Nat) (s : State) : Host.Outcome State Fault Refusal :=
  .next (match s.ctrls[ctrl]? with
    | none => s
    | some c =>
      let line := lineAt ctrl c.scrubbed
      let s := { s with ctrls := lmod s.ctrls ctrl fun c => { c with scrubbed := (c.scrubbed + 1) % stackLines } }
      (hbmRead s line (lineKey s line).1 2).2)

end Sys2Proof.Machine
end

