-- ==== Sys2Proof/Machine/Keys.lean ====
section
/-! DEFINITION. Records, keys and pod messages (R404, R407, R411, R414 to R418). -/

namespace Sys2Proof.Machine

open Sys2Proof

/-! ### GETCERT and ATTEST (R416 to R418) -/

/-- Bytes that the physical function writes to a host buffer, which is a multiple of 64: whole words, the last one filled
up from the buffer. -/
def toHost (s : State) (a : Nat) (bs : List Byte) : State :=
  let rest := (List.range ((4 - bs.length % 4) % 4)).map fun i => readByte s.hostMem (a + bs.length + i)
  hostStore s a ((asWords (bs ++ rest)).map gen)

def certs (s : State) : List Byte := Config.certificates (s.jobKey.getD 0)

def execGetcert (s : State) : Host.Outcome State Fault Refusal :=
  serve 5 0x01 (fun r => shaped 3 [] r && pd r 2 % 64 == 0) (fun _ _ => true) (fun r s =>
    let bs := certs s
    let n : List W32 := [BitVec.ofNat 32 bs.length]
    if pw r 4 < bs.length then say r stNoResource n s else say r stOK n (toHost s (pd r 2) bs)) s

/-- Bytes of payload words i to i + n − 1. -/
def payloadBytes (r : Request) (i n : Nat) : List Byte := bytesOf ((List.range n).map fun k => BitVec.ofNat 32 (pw r (i + k)))

/-- The report of R418. -/
def attestReport (s : State) (r : Request) : List Byte :=
  let pub := publicKey identityKey
  let head := payloadBytes r 2 12 ++ measurement s ++ wordBytes Config.securityVersion ++ List.replicate 12 0 ++
    bytesBE 48 pub.1 ++ bytesBE 48 pub.2
  head ++ signed identityKey head

/-- The session key of an ATTEST as a number, low byte first: HKDF over the x coordinate of the point that the identity key
and the host's key share, with the nonce as salt (R415, R418). -/
def sessionKey (r : Request) : Nat :=
  natLE (hkdf32 (bytesBE 48 (sharedX identityKey (natBE (payloadBytes r 14 12)) (natBE (payloadBytes r 26 12)))) (payloadBytes r 2 12)
    ([0x5A, 0x39, 0x20, 0x73, 0x65, 0x73, 0x73, 0x69, 0x6F, 0x6E] : List Byte))

/-- R417, R418: the report is written, and a new session key replaces the old one. -/
def execAttest (s : State) : Host.Outcome State Fault Refusal :=
  serve 5 0x02 (fun r => shaped 38 [] r && pd r 38 % 64 == 0) (fun _ _ => true) (fun r s =>
    let bs := attestReport s r
    say r stOK [BitVec.ofNat 32 bs.length] { toHost s (pd r 38) bs with session := some (sessionKey r) }) s

/-! ### Keys (R415) -/

/-- Key material opened under the session key; its additional data is word 2 (R411, R415). -/
def opened (s : State) (r : Request) (n : Nat) : Option (List Byte) :=
  s.session.bind fun k =>
    gcmOpen (bytesLE 32 k) (payloadBytes r 3 3) (payloadBytes r 2 1) (payloadBytes r 6 n) (payloadBytes r (6 + n) 4)

def execLoad (s : State) : Host.Outcome State Fault Refusal :=
  serve 6 0x01 (fun r => shaped 24 [0xFF] r && pw r 2 != 0) (fun _ _ => false) (fun r s =>
    match opened s r 16 with
    | none => say r stDenied [] s
    | some k => say r stOK [] { s with keySlots := aset s.keySlots (pw r 2) ⟨natLE k⟩ }) s

/-- The partition that a GRANT or REVOKE names. -/
def grantPart (r : Request) : Nat := pw r 2 / 256 % 64

def grantForm (r : Request) : Bool := shaped 1 [0x3FFF] r && pw r 2 % 256 != 0

def execGrant (s : State) : Host.Outcome State Fault Refusal :=
  serve 6 0x02 grantForm (fun _ _ => false) (fun r s =>
    match partIx s (grantPart r) with
    | none => say r stState [] s
    | some p => say r stOK [] (modPart s p.id fun p =>
        { p with keys := if p.keys.contains (pw r 2 % 256) then p.keys else p.keys ++ [pw r 2 % 256] })) s

/-- A slot is taken back, with the leaves that use it. -/
def execRevoke (s : State) : Host.Outcome State Fault Refusal :=
  serve 6 0x03 grantForm (fun _ _ => false) (fun r s =>
    let k := pw r 2 % 256
    match (partIx s (grantPart r)).filter fun p => p.keys.contains k with
    | none => say r stState [] s
    | some p => say r stOK [] (invalidate (modPart s p.id fun p => { p with keys := p.keys.filter fun x => x != k }) p
        (fun t => pteKey t.entry == k) fun _ => false)) s

def execPodkey (s : State) : Host.Outcome State Fault Refusal :=
  serve 6 0x04 (shaped 16 [0x3F]) (fun _ _ => false) (onPart fun r p s =>
    match opened s r 8 with
    | none => say r stDenied [] s
    | some k => say r stOK [] { s with podKeys := aset s.podKeys p.id (natLE k) }) s

/-! ### The pod (R404, R405, R407) -/

/-- A port drains its traffic before its mode changes (R404): stores to the pod window still in store paths, or the frames
that its transmit rings have ready. -/
def drainPort (s : State) (p : Port) : State :=
  if p.ethernet then p.tx.foldl (fun s r => sendAll s p.id r.num r.size) s
  else (s.wc.filter fun b => !b.xs && windowOf (64 * b.line) == 1).foldl wcSend s

/-- The rings that a port has in Ethernet mode: at most eight each way, of partitions that exist (R406). -/
def portRings (s : State) (tx : Bool) : List Ring :=
  (List.range 8).filterMap fun n => ((Config.ring s.free tx n).filter fun r => (partIx s r.part).isSome).map fun r =>
    { r with num := n }

/-- R404, R405: a port takes its mode and place; failed paths through it are tried again. A port that enters Ethernet mode
finds the rings that Ultin has set up (log entry 24). -/
def execJoin (s : State) : Host.Outcome State Fault Refusal :=
  serve 7 0x01 (shaped 2 [0x1FF001F, 0x7FF]) (fun _ _ => false) (fun r s =>
    let port := pw r 2 % 16
    let pkg := pw r 2 / 2 ^ 16
    let ether := (pw r 2).testBit 4
    let p := getPort s port
    let s := if ether = p.ethernet then s else drainPort s p
    let fresh := ether && !p.ethernet
    say r stOK [] { s with
      pkg, pod := pw r 3, free := s.free + 1,
      ports := lmod s.ports port fun p =>
        { p with
          ethernet := ether, pkg, pod := pw r 3, failed := [], tries := [],
          tx := if fresh then portRings s true else if ether then p.tx else [],
          rx := if fresh then portRings s false else if ether then p.rx else [] } }) s

/-- The pod barrier of a partition, made on its first registration. -/
def withPodBar (s : State) (part num : Nat) : State :=
  if s.bars.any fun b => b.lvl == 5 && b.owner == part && b.num == num then s
  else { s with bars := s.bars ++ [newBar 5 part 0 num] }

/-- Groups that a package has registered for a pod barrier and that have not ended. -/
def registered (s : State) (part num pkg : Nat) : Nat :=
  ((s.podBars.find? fun r => r.part == part && r.bar == num && r.pkg == pkg).map (·.groups)).getD 0

/-- R407: the groups that a package registers stand in the target of a pod barrier in place of those that it still counts, so the
target is the sum of the registered contributions (R200). -/
def registerBar (s : State) (part num pkg n : Nat) : State :=
  let s := withPodBar s part num
  let old := registered s part num pkg
  let s := { s with podBars := ⟨part, num, pkg, n⟩ ::
    s.podBars.filter fun r => !(r.part == part && r.bar == num && r.pkg == pkg) }
  match findBar s 5 part num with
  | some b => setBar s { b with tgt := b.tgt + n - old, pa := b.pa + n - old }
  | none => s

def execBarreg (s : State) : Host.Outcome State Fault Refusal :=
  serve 7 0x02 (shaped 3 [0x13F, 0x1FF]) (fun _ _ => false) (onPart fun r p s =>
    let num := pw r 2 / 256
    let tgt := ((findBar s 5 p.id num).map (·.tgt)).getD 0
    if 2 ^ 32 ≤ tgt + pw r 4 - registered s p.id num (pw r 3) then say r stNoResource [] s
    else say r stOK [] (registerBar s p.id num (pw r 3) (pw r 4))) s

end Sys2Proof.Machine
end

