-- ==== Sys2Proof/Machine/Reset.lean ====
section
/-! DEFINITION. The warm reset of a compute die (R413), faults of the package (R400, R414, R420), firmware (R421) and
cold reset (R422). -/

namespace Sys2Proof.Machine

open Sys2Proof

/-! ### Warm reset (R413) -/

def dieQuads (d : Nat) : BitVec 128 := BitVec.ofNat 128 (0xFFFF * 2 ^ (16 * d))

/-- Workgroups on the cores of a die. -/
def dieWgs (s : State) (d : Nat) : AList Wg := s.wgs.filter fun x => dieOf x.2.core == d

/-- A partition message that a member sends to a partition's home member for the reset of a die (R396, R413). -/
def memberMsg (d home op part : Nat) (q : BitVec 128) : Request :=
  { type := 1, op := BitVec.ofNat 8 op, nw := 5, resv := false,
    msg := ⟨64 + baseOf d, BitVec.ofNat 8 d, BitVec.ofNat 8 home,
      BitVec.ofNat 32 part :: (List.range 4).map fun i => q.extractLsb' (32 * i) 32⟩ }

/-- SHRINK or GROW goes to the home member of each partition of a list. -/
def sendParts (s : State) (d op : Nat) (ps : List (Nat × BitVec 128)) : State :=
  ps.foldl (fun s x => match partIx s x.1 with
    | none => s
    | some p =>
      let s := { s with inboxes := lmod s.inboxes p.home fun q => q ++ [memberMsg d p.home op x.1 x.2] }
      modDie s d fun D => { D with reset := D.reset.map fun c => { c with waits := c.waits + 1 } }) s

/-- Step 1 begins: the die's dispatcher places nothing more, and SHRINK goes to every partition that holds quads of it. -/
def beginReset (s : State) (d vi : Nat) (tag : Byte) (drain : Nat) (regrow : Bool) : State :=
  let removed := (s.parts.filter fun p => p.quads &&& dieQuads d != 0).map fun p => (p.id, p.quads &&& dieQuads d)
  sendParts (modDie s d fun D => { D with
    st := .shrinking, hold := none,
    reset := some ⟨vi, tag, drain, 0, regrow, removed, (dieWgs s d).length, 0, 0, D.pending.length, 0, 0, 0, []⟩ }) d 3 removed

/-- R413: answered with ACCEPTED by the member that owns the die, with BUSY while it resets another. -/
def execResetDie (s : State) : Host.Outcome State Fault Refusal :=
  serve 3 0x01 (fun r => shaped 2 [0x117] r && !(pw r 2).testBit 4 && memberOf r.msg == baseOf (pw r 2 % 8)) (fun _ _ => false)
    (fun r s =>
      let d := pw r 2 % 8
      if s.dies.any fun D => D.reset.isSome && baseOf D.id == baseOf d then say r stBusy [] s
      else if (getDie s d).st = .offline then say r stState [] s
      else beginReset (say r stAccepted [] s) d r.msg.vi r.msg.tag (pw r 3) ((pw r 2).testBit 8)) s

/-- Whether the drain of a die is over. -/
def drainOver (s : State) (d : Nat) : Bool :=
  (getDie s d).st == .draining && (getDie s d).reset.any fun c => decide (c.deadline ≤ s.cycle) || (dieWgs s d).isEmpty

/-- The end of step 2: what still runs on the die is pre-empted and re-enters the global order, and what came back unplaced
re-enters it behind (R397). -/
def emptyDie (s : State) (d : Nat) : State :=
  let n := (dieWgs s d).length
  modDie (vacate s fun c => dieOf c == d).2 d fun D => { D with
    headSince := none, reset := D.reset.map fun c => { c with drained := c.resident - n, preempted := n, back := [] } }

/-- Step 4: the dirty store-path lines go home. -/
def writeDie (s : State) (d : Nat) : State :=
  let n := (s.wc.filter fun b => dieOf b.core == d).length
  let s := ((List.range 64).map (64 * d + ·)).foldl flushCore s
  modDie s d fun D => { D with reset := D.reset.map fun c => { c with lines := n } }

/-- Step 6: the die's storage is cleared. -/
def clearDie (s : State) (d : Nat) : State :=
  let off (c : Nat) : Bool := dieOf c != d
  { s with
    cs := clearWords s.cs (2 ^ 24 * d) (2 ^ 22), ks := clearWords s.ks (2 ^ 22 * d) (2 ^ 20),
    ob := clearWords s.ob (2 ^ 25 * d) (2 ^ 23),
    tiles := s.tiles.filter fun t => off t.core, resvs := s.resvs.filter fun r => off r.core,
    accs := s.accs.filter fun a => off a.core, banks := s.banks.filter fun b => off b.1,
    bankPart := s.bankPart.filter fun b => off b.1, accPart := s.accPart.filter fun a => off a.1,
    carriages := s.carriages.filter fun c => c.id / 32 != d,
    dcache := s.dcache.filter fun c => off c.core, icache := s.icache.filter fun c => off c.core,
    tlb := s.tlb.filter fun t => off t.core }

/-- R413: the next step of a die's warm reset, once the one before it has completed: the drain begins when every SHRINK has
been answered, the die is emptied when it ends (2), the link is quiesced (3), lines are written home (4), requests are
answered under R401 (5), the die is reset (6), and its link trains (7). -/
def execDieDrainExpiry (s : State) : Host.Outcome State Fault Refusal :=
  .next (let d := s.subj.die
    let enter (st : DieSt) (s : State) : State := modDie s d fun D => { D with st }
    match (getDie s d).st, (getDie s d).reset with
    | .shrinking, some c =>
      if c.waits = 0 then modDie s d fun D => { D with
        st := .draining, reset := some { c with deadline := s.cycle + c.drain } }
      else s
    | .draining, _ => if drainOver s d then enter .empty (emptyDie s d) else s
    | .empty, _ => enter .quiesced s
    | .quiesced, _ => enter .silent (writeDie s d)
    | .silent, _ => enter .inReset (clearDie s d)
    | .inReset, _ => enter .training s
    | _, _ => s)

/-- DONE with the counts of a reset (R411). -/
def sayDone (s : State) (d status : Nat) (c : ResetCtx) : State :=
  notifyWith (modDie s d fun D => { D with reset := none }) c.vi 3 0x81 c.tag.toNat (baseOf d) status
    ([d, c.drained, c.preempted, c.returned, c.lines, c.strays].map fun (n : Nat) => BitVec.ofNat 32 n)

/-- Steps 7 and 8: the die is re-admitted, and GROW goes to the partitions that lost its quads; or it stays offline after
three failed attempts. DONE follows once every GROW has been answered. -/
def execLinkRetrainComplete (s : State) : Host.Outcome State Fault Refusal :=
  .next (let d := s.subj.die
    match (getDie s d).st, (getDie s d).reset with
    | .training, some c =>
      if !s.subj.ok then sayDone (modDie s d fun D => { D with st := .offline }) d stDieOffline c
      else
        let s := modDie s d fun D => { D with st := .up }
        if c.regrow then sendParts s d 4 c.removed else s
    | .up, some c => if c.waits = 0 then sayDone s d stOK c else s
    | _, _ => s)

/-- R400: the failure of a die's link is handled by its warm reset; its drain time and whether the quads come back
are open. In recovery no link has been trained (R421). -/
def execComputeDieLinkFailure (s : State) : Host.Outcome State Fault Refusal :=
  .next (let d := s.subj.die
    if (getDie s d).st ≠ .up ∨ s.power = .recovery then s
    else beginReset { s with free := s.free + 2 } d 0 0 (Config.freeWord s.free).toNat
      ((Config.freeWord (s.free + 1)).getLsbD 0))

/-! ### Faults of the package -/

/-- Every partition stops without saving any context (R400, R420). -/
def stopAll (s : State) : State :=
  { s with
    parts := s.parts.map fun p => { p with stopped := true },
    groups := s.groups.map fun x => (x.1, { x.2 with halted := true }), coach := none }

/-- R400: every partition halts, and telemetry reports the failure in a notification whose payload is open (log entry 25);
only a cold reset recovers the package. In recovery the mesh has not been trained (R421). -/
def execMeshLinkFailure (_link : Nat) (s : State) : Host.Outcome State Fault Refusal :=
  .next (if s.power = .recovery then s
    else notify { stopAll s with power := .meshFault, free := s.free + 5 } 0 4 0x81 0 0
      ((List.range 5).map fun i => Config.freeWord (s.free + i)))

/-- All key material is gone, and with it what caches and store paths held in the clear of lines under a key: nothing
written under an erased key is read back clean (R414, R420). -/
def eraseKeys (s : State) : State :=
  { s with
    keySlots := [], podKeys := [], session := none, jobKey := none,
    l2 := s.l2.filter fun c => c.key == 0, wc := s.wc.filter fun b => b.key == 0, dcache := [], icache := [] }

/-- R420; a package in recovery stays there (R421). -/
def execSecurityAlarm (sensors : BitVec 4) (s : State) : Host.Outcome State Fault Refusal :=
  .next (if sensors = 0 then s
    else
      let power := if s.power = .recovery then .recovery else .alarmed
      let s := { stopAll (eraseKeys s) with power, alarm := s.alarm ||| sensors }
      notify s 0 4 0x84 0 0 [sensors.setWidth 32])

/-- R414 -/
def execPowerLoss (s : State) : Host.Outcome State Fault Refusal :=
  .next { eraseKeys s with power := .off, coach := none }

/-! ### Cold reset and firmware (R421, R422) -/

/-- The package as R422 leaves it, with what a cold reset does not touch: flash, host memory, the pod's memory, and the
model's own clock, counters and records. The cycle counter counts from here (R32). -/
def coldState (s : State) : State :=
  { State.reset with
    cycle := s.cycle, epoch := s.cycle, free := s.free, uid := s.uid + 1, agenda := s.agenda, subj := s.subj, flash := s.flash, hostMem := s.hostMem,
    podMem := s.podMem, images := s.images, hostOut := s.hostOut, sent := s.sent, jobKey := some s.uid }

/-- Recovery: keys, links and HBM4 are not brought up (R421). -/
def recoveryState (s : State) : State := { coldState s with power := .recovery, jobKey := none }

/-- R421, R422 -/
def execColdReset (s : State) : Host.Outcome State Fault Refusal :=
  .next (if Config.firmwareOk (s.flash.getD Config.shippedImage) then coldState s else recoveryState s)

/-- n bytes of host memory. -/
def hostBytes (s : State) (a n : Nat) : List Byte := (List.range n).map fun i => readByte s.hostMem (a + i)

/-- R421, R422: an image that verifies is written into flash, and the cold reset goes on with its steps 3 to 5; the mailbox
of the physical function, which has answered since step 6, stays as it is. An alarm raised in recovery stands until a cold
reset begins (R420, log entry 55). -/
def execFwimage (s : State) : Host.Outcome State Fault Refusal :=
  serve 8 0x01 (shaped 3 []) (fun _ _ => false) (fun r s =>
    if s.power ≠ .recovery then say r stState [] s
    else
      let bs := hostBytes s (pd r 2) (pw r 4)
      if Config.firmwareOk bs then
        let up := { coldState { s with flash := some bs } with
          ifaces := s.ifaces, inboxes := s.inboxes, replies := s.replies, subj := s.subj }
        say r stOK [] (if s.alarm = 0 then up else { up with power := .alarmed, alarm := s.alarm, jobKey := none })
      else say r stDenied [] s) s

end Sys2Proof.Machine
end

