-- ==== Sys2Proof/Machine/Link.lean ====
section
/-! DEFINITION. Data across the host link (R277, R402), and packets of the pod (R404, R405). -/

namespace Sys2Proof.Machine

open Sys2Proof

/-! ### The host link -/

/-- A word entering the package: a generated residue, or poison with its data bits kept (R277). -/
def ingress (x : W32 × Bool) : Word := if x.2 then ⟨x.1, 0xF⟩ else gen x.1

/-- How the host's own accesses hold a local line: as it was last written. -/
def hostAttr (s : State) (pa : Nat) : LineAttr := ⟨0, false, 0, if windowOf pa = 0 then (lineKey s (pa / 64)).1 else 0⟩

/-- A word written by the host at a physical address; other addresses are not there, and in recovery nothing of the
package's memory is (R421). -/
def hostPut (s : State) (pa : Nat) (w : Word) : State :=
  match windowOf pa with
  | 0 => if pa < hbmBytes ∧ s.power ≠ .recovery then homeWrite s pa (hostAttr s pa) [(pa / 4 % 16, wholePatch w)] else s
  | 2 => hostStore s (pa % 2 ^ 50 / 4 * 4) [w]
  | _ => s

/-- A word leaving the package: compared and stripped, with a poison indication and a report where it is poisoned or
mismatches (R277). Each bad word that the host reads has a report of its own, while bad words of one line that stores send
together share one (egressPatch): the model's choice (log entry 62). -/
def egress (s : State) (pa : Nat) (w : Word) : (W32 × Bool) × State :=
  if isPoison w || mismatch w then ((w.val, true), report s 2 3 (pa / 64) (2 ^ (pa / 4 % 16))) else ((w.val, false), s)

/-- A word read by the host at a physical address; one that is not there is poisoned and open. -/
def hostGet (s : State) (pa : Nat) : (W32 × Bool) × State :=
  if windowOf pa = 2 then egress s pa (readWord s.hostMem (pa % 2 ^ 50))
  else if windowOf pa = 0 ∧ pa < hbmBytes ∧ s.power ≠ .recovery then
    let (ws, s) := homeRead s pa (hostAttr s pa)
    egress s pa (ws.getD (pa / 4 % 16) .zero)
  else ((Config.freeWord s.free, true), { s with free := s.free + 1 })

/-- The place that a host access through a decoder reaches: the physical function's at physical addresses, a virtual
function's translated for its partition with US = 1 (R402). -/
def decoderLoc (s : State) (vi addr : Nat) (wr : Bool) : Option (Nat × LineAttr) × State :=
  if s.power = .recovery then (none, s)
  else if vi = 0 then (if addr < hbmBytes then some (addr, hostAttr s addr) else none, s)
  else match (getIface s vi).part with
    | none => (none, s)
    | some part =>
      if 2 ^ 46 ≤ addr then (none, s)
      else match winLoc s part addr wr with
        | (.ok x, s) => (some x, s)
        | (.error _, s) => (none, s)

/-- A word that a host access brings in through a virtual interface: the physical function's stands at a physical address,
a virtual function's is translated (R402), and one that no decoder takes leaves the error indication. -/
def ingressAt (s : State) (vi addr : Nat) (w : Word) : State :=
  if vi = 0 then hostPut s addr w
  else match decoderLoc s vi addr true with
    | (some (pa, at_), s) => homeWrite s pa at_ [(pa / 4 % 16, wholePatch w)]
    | (none, s) => { s with hostErr := true }

/-- R277: words that CXL.io or CXL.cache brings in, at rising addresses of the interface that they come through (R402). -/
def execHostIngress (vi addr : Nat) (data : List (W32 × Bool)) (s : State) : Host.Outcome State Fault Refusal :=
  .next (data.zipIdx.foldl (fun s x => ingressAt s vi (addr / 4 * 4 + 4 * x.2) (ingress x.1)) { s with hostErr := false })

/-- A word that a host access reads through a virtual interface (R402): poisoned and open where no decoder takes it. -/
def egressAt (s : State) (vi addr : Nat) : (W32 × Bool) × State :=
  if vi = 0 then hostGet s addr
  else match decoderLoc s vi addr false with
    | (some (pa, at_), s) =>
      let (ws, s) := homeRead s pa at_
      egress s pa (ws.getD (pa / 4 % 16) .zero)
    | (none, s) => ((Config.freeWord s.free, true), { s with free := s.free + 1, hostErr := true })

/-- Words sent to the host, at rising addresses of the interface that reads them. -/
def egressWords (vi addr : Nat) : Nat → State → List (W32 × Bool) × State
  | 0, s => ([], s)
  | n + 1, s =>
    let (ws, s) := egressWords vi addr n s
    let (w, s) := egressAt s vi (addr / 4 * 4 + 4 * n)
    (ws ++ [w], s)

/-- Data sent as one response or packet: with one bad word all of it carries the poison indication (R277). -/
def sendHost (s : State) (ws : List (W32 × Bool)) : State :=
  { s with hostOut := ws.map fun w => (w.1, ws.any (·.2)) }

/-- R277: words that the host reads at rising addresses of the interface that it reads them through (R402). -/
def execHostEgress (vi addr count : Nat) (s : State) : Host.Outcome State Fault Refusal :=
  .next (let (ws, s) := egressWords vi addr count { s with hostErr := false }
    sendHost s ws)

/-- The words of a line leaving the package. -/
def egressLine (s : State) (pa : Nat) (ws : List Word) : List (W32 × Bool) × State :=
  ws.zipIdx.foldl (fun (a : List (W32 × Bool) × State) w =>
    let (x, s) := egress a.2 (pa / 64 * 64 + 4 * w.2) w.1
    (a.1 ++ [x], s)) ([], s)

/-- R402: a read gives the 64 bytes of the line. An access that cannot be translated completes with an error response and,
for a read, poisoned data. -/
def execCxlMemAccess (vi addr : Nat) (write : Option (W32 × Bool)) (s : State) : Host.Outcome State Fault Refusal :=
  .next (match decoderLoc s vi addr write.isSome, write with
    | (some (pa, at_), s), some x =>
      { homeWrite s pa at_ [(pa / 4 % 16, wholePatch (ingress x))] with hostErr := false }
    | (some (pa, at_), s), none =>
      let (ws, s) := homeRead s pa at_
      let (ws, s) := egressLine s pa ws
      { sendHost s ws with hostErr := false }
    | (none, s), some _ => { s with hostErr := true }
    | (none, s), none =>
      { s with
        hostOut := (List.range 16).map (fun i => (Config.freeWord (s.free + i), true)), hostErr := true, free := s.free + 16 })

/-! ### Pod ports -/

/-- A packet whose tag fails: after the fourth the path is marked failed and the host is told (R405). -/
def tagFailed (s : State) (port pkg : Nat) : State :=
  let n := ((aget (getPort s port).tries pkg).getD 0) + 1
  let s := modPort s port fun p => { p with tries := aset p.tries pkg n }
  if n = 4 then
    notify (modPort s port fun p => { p with failed := pkg :: p.failed }) 0 4 0x83 0 0
      [BitVec.ofNat 32 port, BitVec.ofNat 32 pkg]
  else s

/-- A request from the pod at this package's own HBM4, under the slot that its firmware assigned (R306, R314): the words
that it reads are its reply. -/
def podServe (s : State) (addr : Nat) (write : Option Word) : State :=
  let at_ : LineAttr := ⟨0, false, 0, Config.podKeySlot (addr / 64)⟩
  if hbmBytes ≤ addr then s
  else match write with
    | some w => { homeWrite s addr at_ [(addr / 4 % 16, wholePatch w)] with podOut := (false, []) }
    | none =>
      let (ws, s) := homeRead s addr at_
      { s with podOut := (false, ws) }

/-- Whether a packet's tag verifies under the pod key of its partition and the nonce counter of its direction (R405). -/
def tagOk (s : State) (p : Port) (pkg : Nat) (packet : List Byte) : Bool :=
  (aget s.podKeys (Config.podPart packet)).any fun k => Config.podTagOk k ((aget p.rxNonce pkg).getD 0) packet

/-- A packet received and answered: the counters of both directions advance. -/
def packetPassed (s : State) (port pkg : Nat) : State :=
  modPort s port fun p => { p with
    tries := adel p.tries pkg, rxNonce := acount p.rxNonce pkg, txNonce := acount p.txNonce pkg }

/-- R405: a request is served once its tag verifies. On a failed path every request is answered with DIE_OFFLINE and zero
words with the poison residue, and has no effect in memory (R401). A port in Ethernet mode carries none. -/
def execPodPacketReceive (port pkg addr : Nat) (write : Option Word) (packet : List Byte) (s : State) :
    Host.Outcome State Fault Refusal :=
  .next (let p := getPort s port
    if p.ethernet then s
    else if p.failed.contains pkg then { s with podOut := (true, if write.isSome then [] else poisonLine) }
    else if tagOk s p pkg packet then podServe (packetPassed s port pkg) addr write
    else tagFailed s port pkg)

end Sys2Proof.Machine
end

