-- ==== Sys2Proof/Machine/Dispatch.lean ====
section
/-! DEFINITION. The dispatch of every instruction of Syntax to its meaning. -/

namespace Sys2Proof.Machine

def exec (i : Instr) (s : State) : Host.Outcome State Fault Refusal :=
  match i with
  | .add w => Sys2Proof.Machine.execAdd w s
  | .sub w => Sys2Proof.Machine.execSub w s
  | .addc w => Sys2Proof.Machine.execAddc w s
  | .subb w => Sys2Proof.Machine.execSubb w s
  | .mul w => Sys2Proof.Machine.execMul w s
  | .mulh w => Sys2Proof.Machine.execMulh w s
  | .mulw w => Sys2Proof.Machine.execMulw w s
  | .mad w => Sys2Proof.Machine.execMad w s
  | .madh w => Sys2Proof.Machine.execMadh w s
  | .div w => Sys2Proof.Machine.execDiv w s
  | .rem w => Sys2Proof.Machine.execRem w s
  | .neg w => Sys2Proof.Machine.execNeg w s
  | .abs w => Sys2Proof.Machine.execAbs w s
  | .min w => Sys2Proof.Machine.execMin w s
  | .max w => Sys2Proof.Machine.execMax w s
  | .clamp w => Sys2Proof.Machine.execClamp w s
  | .sadd w => Sys2Proof.Machine.execSadd w s
  | .ssub w => Sys2Proof.Machine.execSsub w s
  | .dot2s w => Sys2Proof.Machine.execDot2s w s
  | .sad w => Sys2Proof.Machine.execSad w s
  | .and w => Sys2Proof.Machine.execAnd w s
  | .or w => Sys2Proof.Machine.execOr w s
  | .xor w => Sys2Proof.Machine.execXor w s
  | .not w => Sys2Proof.Machine.execNot w s
  | .lop3 w => Sys2Proof.Machine.execLop3 w s
  | .shl w => Sys2Proof.Machine.execShl w s
  | .shr w => Sys2Proof.Machine.execShr w s
  | .sar w => Sys2Proof.Machine.execSar w s
  | .rot w => Sys2Proof.Machine.execRot w s
  | .shf w => Sys2Proof.Machine.execShf w s
  | .rshr w => Sys2Proof.Machine.execRshr w s
  | .bext w => Sys2Proof.Machine.execBext w s
  | .bins w => Sys2Proof.Machine.execBins w s
  | .bmsk w => Sys2Proof.Machine.execBmsk w s
  | .brev w => Sys2Proof.Machine.execBrev w s
  | .popc w => Sys2Proof.Machine.execPopc w s
  | .clz w => Sys2Proof.Machine.execClz w s
  | .ctz w => Sys2Proof.Machine.execCtz w s
  | .perm w => Sys2Proof.Machine.execPerm w s
  | .sext w => Sys2Proof.Machine.execSext w s
  | .zext w => Sys2Proof.Machine.execZext w s
  | .setc w => Sys2Proof.Machine.execSetc w s
  | .sel w => Sys2Proof.Machine.execSel w s
  | .mov w => Sys2Proof.Machine.execMov w s
  | .pset w => Sys2Proof.Machine.execPset w s
  | .pand w => Sys2Proof.Machine.execPand w s
  | .por w => Sys2Proof.Machine.execPor w s
  | .pxor w => Sys2Proof.Machine.execPxor w s
  | .pnot w => Sys2Proof.Machine.execPnot w s
  | .fadd w => Sys2Proof.Machine.execFadd w s
  | .fsub w => Sys2Proof.Machine.execFsub w s
  | .fmul w => Sys2Proof.Machine.execFmul w s
  | .ffma w => Sys2Proof.Machine.execFfma w s
  | .fmin w => Sys2Proof.Machine.execFmin w s
  | .fmax w => Sys2Proof.Machine.execFmax w s
  | .fcmp w => Sys2Proof.Machine.execFcmp w s
  | .fclass w => Sys2Proof.Machine.execFclass w s
  | .fcopysign w => Sys2Proof.Machine.execFcopysign w s
  | .fscale w => Sys2Proof.Machine.execFscale w s
  | .frnd w => Sys2Proof.Machine.execFrnd w s
  | .fdot2 w => Sys2Proof.Machine.execFdot2 w s
  | .frcp w => Sys2Proof.Machine.execFrcp w s
  | .frsq w => Sys2Proof.Machine.execFrsq w s
  | .fsqrt w => Sys2Proof.Machine.execFsqrt w s
  | .fdiv w => Sys2Proof.Machine.execFdiv w s
  | .fexp2 w => Sys2Proof.Machine.execFexp2 w s
  | .flog2 w => Sys2Proof.Machine.execFlog2 w s
  | .fsin w => Sys2Proof.Machine.execFsin w s
  | .fcos w => Sys2Proof.Machine.execFcos w s
  | .ftanh w => Sys2Proof.Machine.execFtanh w s
  | .fsigm w => Sys2Proof.Machine.execFsigm w s
  | .cvt w => Sys2Proof.Machine.execCvt w s
  | .cvti w => Sys2Proof.Machine.execCvti w s
  | .cvtx w => Sys2Proof.Machine.execCvtx w s
  | .ld w => Sys2Proof.Machine.execLd w s
  | .st w => Sys2Proof.Machine.execSt w s
  | .ldx w => Sys2Proof.Machine.execLdx w s
  | .lda w => Sys2Proof.Machine.execLda w s
  | .stl w => Sys2Proof.Machine.execStl w s
  | .atom w => Sys2Proof.Machine.execAtom w s
  | .acas w => Sys2Proof.Machine.execAcas w s
  | .red w => Sys2Proof.Machine.execRed w s
  | .tbind w => Sys2Proof.Machine.execTbind w s
  | .tstate w => Sys2Proof.Machine.execTstate w s
  | .tdrain w => Sys2Proof.Machine.execTdrain w s
  | .tfree w => Sys2Proof.Machine.execTfree w s
  | .cpy w => Sys2Proof.Machine.execCpy w s
  | .cpyc w => Sys2Proof.Machine.execCpyc w s
  | .gath w => Sys2Proof.Machine.execGath w s
  | .scat w => Sys2Proof.Machine.execScat w s
  | .cpys w => Sys2Proof.Machine.execCpys w s
  | .cpre w => Sys2Proof.Machine.execCpre w s
  | .fence w => Sys2Proof.Machine.execFence w s
  | .sacq w => Sys2Proof.Machine.execSacq w s
  | .srel w => Sys2Proof.Machine.execSrel w s
  | .stry w => Sys2Proof.Machine.execStry w s
  | .cinv w => Sys2Proof.Machine.execCinv w s
  | .cwb w => Sys2Proof.Machine.execCwb w s
  | .chint w => Sys2Proof.Machine.execChint w s
  | .cbld w => Sys2Proof.Machine.execCbld w s
  | .cbst w => Sys2Proof.Machine.execCbst w s
  | .cbw w => Sys2Proof.Machine.execCbw w s
  | .cbinv w => Sys2Proof.Machine.execCbinv w s
  | .cbfence w => Sys2Proof.Machine.execCbfence w s
  | .bra w => Sys2Proof.Machine.execBra w s
  | .brx w => Sys2Proof.Machine.execBrx w s
  | .call w => Sys2Proof.Machine.execCall w s
  | .ret w => Sys2Proof.Machine.execRet w s
  | .exit w => Sys2Proof.Machine.execExit w s
  | .yield w => Sys2Proof.Machine.execYield w s
  | .wait w => Sys2Proof.Machine.execWait w s
  | .nop w => Sys2Proof.Machine.execNop w s
  | .barArr w => Sys2Proof.Machine.execBarArr w s
  | .barWait w => Sys2Proof.Machine.execBarWait w s
  | .barSync w => Sys2Proof.Machine.execBarSync w s
  | .barExp w => Sys2Proof.Machine.execBarExp w s
  | .barStat w => Sys2Proof.Machine.execBarStat w s
  | .xshf w => Sys2Proof.Machine.execXshf w s
  | .xred w => Sys2Proof.Machine.execXred w s
  | .xscan w => Sys2Proof.Machine.execXscan w s
  | .xvote w => Sys2Proof.Machine.execXvote w s
  | .xmatch w => Sys2Proof.Machine.execXmatch w s
  | .xelect w => Sys2Proof.Machine.execXelect w s
  | .xbpc w => Sys2Proof.Machine.execXbpc w s
  | .qpush w => Sys2Proof.Machine.execQpush w s
  | .qpop w => Sys2Proof.Machine.execQpop w s
  | .qpeek w => Sys2Proof.Machine.execQpeek w s
  | .agrow w => Sys2Proof.Machine.execAgrow w s
  | .ashrink w => Sys2Proof.Machine.execAshrink w s
  | .trap w => Sys2Proof.Machine.execTrap w s
  | .tret w => Sys2Proof.Machine.execTret w s
  | .sinj w => Sys2Proof.Machine.execSinj w s
  | .srd w => Sys2Proof.Machine.execSrd w s
  | .swr w => Sys2Proof.Machine.execSwr w s
  | .gset w => Sys2Proof.Machine.execGset w s
  | .mres w => Sys2Proof.Machine.execMres w s
  | .mrel w => Sys2Proof.Machine.execMrel w s
  | .mfill w => Sys2Proof.Machine.execMfill w s
  | .mma w => Sys2Proof.Machine.execMma w s
  | .mtrq w => Sys2Proof.Machine.execMtrq w s
  | .mdrain w => Sys2Proof.Machine.execMdrain w s
  | .mzero w => Sys2Proof.Machine.execMzero w s
  | .mqry w => Sys2Proof.Machine.execMqry w s
  | .movi w => Sys2Proof.Machine.execMovi w s
  | .addLong w => Sys2Proof.Machine.execAddLong w s
  | .mulLong w => Sys2Proof.Machine.execMulLong w s
  | .andLong w => Sys2Proof.Machine.execAndLong w s
  | .orLong w => Sys2Proof.Machine.execOrLong w s
  | .xorLong w => Sys2Proof.Machine.execXorLong w s
  | .pairedAdd w => Sys2Proof.Machine.execPairedAdd w s
  | .pairedSub w => Sys2Proof.Machine.execPairedSub w s
  | .pairedMul w => Sys2Proof.Machine.execPairedMul w s
  | .pairedMinI32 w => Sys2Proof.Machine.execPairedMinI32 w s
  | .pairedMaxI32 w => Sys2Proof.Machine.execPairedMaxI32 w s
  | .pairedMinN32 w => Sys2Proof.Machine.execPairedMinN32 w s
  | .pairedMaxN32 w => Sys2Proof.Machine.execPairedMaxN32 w s
  | .pairedAnd w => Sys2Proof.Machine.execPairedAnd w s
  | .pairedOr w => Sys2Proof.Machine.execPairedOr w s
  | .pairedXor w => Sys2Proof.Machine.execPairedXor w s
  | .pairedShl w => Sys2Proof.Machine.execPairedShl w s
  | .pairedShr w => Sys2Proof.Machine.execPairedShr w s
  | .pairedSar w => Sys2Proof.Machine.execPairedSar w s
  | .pairedPopc w => Sys2Proof.Machine.execPairedPopc w s
  | .pairedClz w => Sys2Proof.Machine.execPairedClz w s
  | .pairedMov w => Sys2Proof.Machine.execPairedMov w s
  | .pairedAddImm w => Sys2Proof.Machine.execPairedAddImm w s
  | .pairedAndImm w => Sys2Proof.Machine.execPairedAndImm w s
  | .pairedOrImm w => Sys2Proof.Machine.execPairedOrImm w s
  | .pairedXorImm w => Sys2Proof.Machine.execPairedXorImm w s
  | .pairedShlImm w => Sys2Proof.Machine.execPairedShlImm w s
  | .pairedShrImm w => Sys2Proof.Machine.execPairedShrImm w s
  | .pairedSarImm w => Sys2Proof.Machine.execPairedSarImm w s
  | .pairedFaddF32 w => Sys2Proof.Machine.execPairedFaddF32 w s
  | .pairedFsubF32 w => Sys2Proof.Machine.execPairedFsubF32 w s
  | .pairedFmulF32 w => Sys2Proof.Machine.execPairedFmulF32 w s
  | .pairedFminF32 w => Sys2Proof.Machine.execPairedFminF32 w s
  | .pairedFmaxF32 w => Sys2Proof.Machine.execPairedFmaxF32 w s
  | .pairedFaddF16x2 w => Sys2Proof.Machine.execPairedFaddF16x2 w s
  | .pairedFmulF16x2 w => Sys2Proof.Machine.execPairedFmulF16x2 w s
  | .pairedFaddBf16x2 w => Sys2Proof.Machine.execPairedFaddBf16x2 w s
  | .pairedFmulBf16x2 w => Sys2Proof.Machine.execPairedFmulBf16x2 w s
  | .pairedCvtF32I32 w => Sys2Proof.Machine.execPairedCvtF32I32 w s
  | .pairedCvtI32F32 w => Sys2Proof.Machine.execPairedCvtI32F32 w s
  | .pairedLdCs w => Sys2Proof.Machine.execPairedLdCs w s
  | .pairedStCs w => Sys2Proof.Machine.execPairedStCs w s
  | .pairedLdKs w => Sys2Proof.Machine.execPairedLdKs w s
  | .pairedStKs w => Sys2Proof.Machine.execPairedStKs w s
  | .pairedLdLp w => Sys2Proof.Machine.execPairedLdLp w s
  | .pairedStLp w => Sys2Proof.Machine.execPairedStLp w s
  | .pairedSrd w => Sys2Proof.Machine.execPairedSrd w s
  | .pairedPand w => Sys2Proof.Machine.execPairedPand w s
  | .pairedPor w => Sys2Proof.Machine.execPairedPor w s
  | .pairedPxor w => Sys2Proof.Machine.execPairedPxor w s
  | .pairedPnot w => Sys2Proof.Machine.execPairedPnot w s
  | .pairedSetcEq w => Sys2Proof.Machine.execPairedSetcEq w s
  | .pairedSetcNe w => Sys2Proof.Machine.execPairedSetcNe w s
  | .pairedSetcLtI32 w => Sys2Proof.Machine.execPairedSetcLtI32 w s
  | .pairedSetcLtN32 w => Sys2Proof.Machine.execPairedSetcLtN32 w s
  | .pairedSetcLeI32 w => Sys2Proof.Machine.execPairedSetcLeI32 w s
  | .pairedSetcLeN32 w => Sys2Proof.Machine.execPairedSetcLeN32 w s
  | .coachFormation core qtr => Sys2Proof.Machine.execCoachFormation core qtr s
  | .agePromotion grp lane => Sys2Proof.Machine.execAgePromotion grp lane s
  | .variableLatencyResult grp lane => Sys2Proof.Machine.execVariableLatencyResult grp lane s
  | .agrowGrant core qtr => Sys2Proof.Machine.execAgrowGrant core qtr s
  | .sacqGrant xs line => Sys2Proof.Machine.execSacqGrant xs line s
  | .queueWaitService queue => Sys2Proof.Machine.execQueueWaitService queue s
  | .waitCyclesElapsed grp lane => Sys2Proof.Machine.execWaitCyclesElapsed grp lane s
  | .watchdog grp lane => Sys2Proof.Machine.execWatchdog grp lane s
  | .storePathFlush core xs line => Sys2Proof.Machine.execStorePathFlush core xs line s
  | .translationWalk core part va => Sys2Proof.Machine.execTranslationWalk core part va s
  | .copyCompletion copy => Sys2Proof.Machine.execCopyCompletion copy s
  | .copyStop copy => Sys2Proof.Machine.execCopyStop copy s
  | .cpysSourceReadDone copy => Sys2Proof.Machine.execCpysSourceReadDone copy s
  | .mmaExecuteStart carriage => Sys2Proof.Machine.execMmaExecuteStart carriage s
  | .mmaOpRetire carriage => Sys2Proof.Machine.execMmaOpRetire carriage s
  | .mdrainComplete core tile => Sys2Proof.Machine.execMdrainComplete core tile s
  | .exitPendingRelease wg => Sys2Proof.Machine.execExitPendingRelease wg s
  | .dispatchBatch grid => Sys2Proof.Machine.execDispatchBatch grid s
  | .sqtail vi offset value => Sys2Proof.Machine.execSqtail vi offset value s
  | .registerWrite vi offset value => Sys2Proof.Machine.execRegisterWrite vi offset value s
  | .pipelineStageLaunch pipe stage => Sys2Proof.Machine.execPipelineStageLaunch pipe stage s
  | .pipelineReview pipe => Sys2Proof.Machine.execPipelineReview pipe s
  | .hbmLineRead line => Sys2Proof.Machine.execHbmLineRead line s
  | .hbmLineWrite line => Sys2Proof.Machine.execHbmLineWrite line s
  | .patrolScrub ctrl => Sys2Proof.Machine.execPatrolScrub ctrl s
  | .hostIngress vi addr data => Sys2Proof.Machine.execHostIngress vi addr data s
  | .hostEgress vi addr count => Sys2Proof.Machine.execHostEgress vi addr count s
  | .cxlMemAccess vi addr write => Sys2Proof.Machine.execCxlMemAccess vi addr write s
  | .podPacketReceive port pkg addr write packet => Sys2Proof.Machine.execPodPacketReceive port pkg addr write packet s
  | .ethernetFrameReceive port ring frame => Sys2Proof.Machine.execEthernetFrameReceive port ring frame s
  | .ethernetFrameTransmit port ring => Sys2Proof.Machine.execEthernetFrameTransmit port ring s
  | .meshLinkFailure link => Sys2Proof.Machine.execMeshLinkFailure link s
  | .contextSave part => Sys2Proof.Machine.execContextSave part s
  | .securityAlarm sensors => Sys2Proof.Machine.execSecurityAlarm sensors s
  | .unassignedOpcode w => Sys2Proof.Machine.execUnassignedOpcode w s
  | .instructionFetchComplete grp lane => Sys2Proof.Machine.execInstructionFetchComplete grp lane s
  | .opOperandFetchComplete carriage => Sys2Proof.Machine.execOpOperandFetchComplete carriage s
  | .mfillComplete grp => Sys2Proof.Machine.execMfillComplete grp s
  | .bankWriteComplete core bank => Sys2Proof.Machine.execBankWriteComplete core bank s
  | .redPerformed grp lane => Sys2Proof.Machine.execRedPerformed grp lane s
  | .mbrepRead vi => Sys2Proof.Machine.execMbrepRead vi s
  | .placeWorkgroup => Sys2Proof.Machine.execPlaceWorkgroup s
  | .gangHold => Sys2Proof.Machine.execGangHold s
  | .placementStarvation => Sys2Proof.Machine.execPlacementStarvation s
  | .latencyReservePreemption => Sys2Proof.Machine.execLatencyReservePreemption s
  | .taskEntryFetch => Sys2Proof.Machine.execTaskEntryFetch s
  | .taskRename => Sys2Proof.Machine.execTaskRename s
  | .bufferStarvationDiscard => Sys2Proof.Machine.execBufferStarvationDiscard s
  | .tkNop => Sys2Proof.Machine.execTkNop s
  | .tkRun => Sys2Proof.Machine.execTkRun s
  | .tkPipe => Sys2Proof.Machine.execTkPipe s
  | .tkCopy => Sys2Proof.Machine.execTkCopy s
  | .tkFill => Sys2Proof.Machine.execTkFill s
  | .tkFree => Sys2Proof.Machine.execTkFree s
  | .tkBind => Sys2Proof.Machine.execTkBind s
  | .tkUnbind => Sys2Proof.Machine.execTkUnbind s
  | .tkSignal => Sys2Proof.Machine.execTkSignal s
  | .tkWait => Sys2Proof.Machine.execTkWait s
  | .tkWaitPoll => Sys2Proof.Machine.execTkWaitPoll s
  | .tkWaitTimeout => Sys2Proof.Machine.execTkWaitTimeout s
  | .tkLink => Sys2Proof.Machine.execTkLink s
  | .tkResume => Sys2Proof.Machine.execTkResume s
  | .tkSucc => Sys2Proof.Machine.execTkSucc s
  | .tkFence => Sys2Proof.Machine.execTkFence s
  | .tkRec => Sys2Proof.Machine.execTkRec s
  | .taskCompletion => Sys2Proof.Machine.execTaskCompletion s
  | .taskRetire => Sys2Proof.Machine.execTaskRetire s
  | .takeFault => Sys2Proof.Machine.execTakeFault s
  | .partitionCreate => Sys2Proof.Machine.execPartitionCreate s
  | .partitionDestroy => Sys2Proof.Machine.execPartitionDestroy s
  | .shrink => Sys2Proof.Machine.execShrink s
  | .grow => Sys2Proof.Machine.execGrow s
  | .halt => Sys2Proof.Machine.execHalt s
  | .resume => Sys2Proof.Machine.execResume s
  | .checkpoint => Sys2Proof.Machine.execCheckpoint s
  | .setroot => Sys2Proof.Machine.execSetroot s
  | .tlbinv => Sys2Proof.Machine.execTlbinv s
  | .addbuf => Sys2Proof.Machine.execAddbuf s
  | .setwin => Sys2Proof.Machine.execSetwin s
  | .setxs => Sys2Proof.Machine.execSetxs s
  | .setresume => Sys2Proof.Machine.execSetresume s
  | .setreserve => Sys2Proof.Machine.execSetreserve s
  | .bindvi => Sys2Proof.Machine.execBindvi s
  | .streamCreate => Sys2Proof.Machine.execStreamCreate s
  | .streamDestroy => Sys2Proof.Machine.execStreamDestroy s
  | .restart => Sys2Proof.Machine.execRestart s
  | .skip => Sys2Proof.Machine.execSkip s
  | .abort => Sys2Proof.Machine.execAbort s
  | .clear => Sys2Proof.Machine.execClear s
  | .resetDie => Sys2Proof.Machine.execResetDie s
  | .dieDrainExpiry => Sys2Proof.Machine.execDieDrainExpiry s
  | .linkRetrainComplete => Sys2Proof.Machine.execLinkRetrainComplete s
  | .peek => Sys2Proof.Machine.execPeek s
  | .scrub => Sys2Proof.Machine.execScrub s
  | .inject => Sys2Proof.Machine.execInject s
  | .getcert => Sys2Proof.Machine.execGetcert s
  | .attest => Sys2Proof.Machine.execAttest s
  | .load => Sys2Proof.Machine.execLoad s
  | .grant => Sys2Proof.Machine.execGrant s
  | .revoke => Sys2Proof.Machine.execRevoke s
  | .podkey => Sys2Proof.Machine.execPodkey s
  | .join => Sys2Proof.Machine.execJoin s
  | .barreg => Sys2Proof.Machine.execBarreg s
  | .fwimage => Sys2Proof.Machine.execFwimage s
  | .coldReset => Sys2Proof.Machine.execColdReset s
  | .powerLoss => Sys2Proof.Machine.execPowerLoss s
  | .computeDieLinkFailure => Sys2Proof.Machine.execComputeDieLinkFailure s
  | .badMessage => Sys2Proof.Machine.execBadMessage s

end Sys2Proof.Machine
end

