-- ==== Sys2Proof/Machine/Due.lean ====
section
/-! DEFINITION. What happens next when no coach stands and nothing is put next from outside: steps that a count or a
condition makes due, steps whose time is open, and the quarters in turn with the end of the cycle (R32, R290). -/

namespace Sys2Proof.Machine

open Sys2Proof

/-- A step that may come next, with what it acts on. -/
abbrev Next := Subject × Instr

def plainly (i : Instr) : Next := (.none, i)

/-- A step of a stream, of a task, and of a die. -/
def ofStream (x : Nat) (i : Instr) : Next := ({ Subject.none with stream := x }, i)
def ofTask (t : Task) (i : Instr) : Next := ({ Subject.none with stream := t.stream, seq := t.seq }, i)
def ofDie (d : Nat) (i : Instr) : Next := ({ Subject.none with die := d }, i)

/-- Live threads: group, lane, group's state and thread. -/
def threadsOf (s : State) : List (Nat × Nat × Group × Thread) :=
  s.groups.flatMap fun x => (liveLanes x.2).filterMap fun l => (x.2.threads[l]?).map fun t => (x.1, l, x.2, t)

/-! ### Due by count or condition -/

def dueThreads (s : State) : List Next :=
  (threadsOf s).flatMap fun (g, l, G, t) =>
    if G.halted then []
    else
      (if 4096 ≤ t.w ∧ t.cls ≠ .promoted then [plainly (.agePromotion g l)] else []) ++
      (if waitDone s g t then [plainly (.waitCyclesElapsed g l)] else []) ++
      (if (overdue s g l).contains l then [plainly (.watchdog g l)] else [])

/-- Write-combining buffers whose time is up (R307), and exit-pending workgroups that nothing holds any more, in a cycle after
the op that held them has retired (R336, R352). -/
def dueCores (s : State) : List Next :=
  (s.wc.filter fun b => decide (b.first + 1024 ≤ s.cycle)).map (fun b => plainly (.storePathFlush b.core b.xs b.line)) ++
  (s.wgs.filter fun x => x.2.status == .exitPending && !wgBusy s x.1 x.2 &&
      (carriageAt s (carriageOf x.2.core)).retired.all fun r => r.2 != s.cycle).map
    (fun x => plainly (.exitPendingRelease x.1))

/-- The partition of an op's workgroup. -/
def opPart (s : State) (o : Op) : Nat := (((aget s.wgs o.wg).bind fun W => aget s.grids W.grid).map (·.part)).getD 0

/-- Retirements and starts. An op of a halted partition that has not begun to execute does not begin (R351). -/
def dueCarriages (s : State) : List Next :=
  s.carriages.flatMap fun c =>
    (match c.exec with
      | (_, at_) :: _ => if at_ ≤ s.cycle then [plainly (.mmaOpRetire c.id)] else []
      | [] => []) ++
    (match c.fetch with
      | some (o, ready) =>
        if ready ≤ s.cycle ∧ !executing s c ∧ !opWaits s o ∧ partRuns s (opPart s o) then [plainly (.mmaExecuteStart c.id)] else []
      | none => [])

def dueDies (s : State) : List Next :=
  (List.range 8).flatMap fun d =>
    (if (holdDue s d).isSome then [ofDie d .gangHold] else []) ++
    (if starveDue s d then [ofDie d .placementStarvation] else []) ++
    (if drainOver s d || ((getDie s d).st == .shrinking && (getDie s d).reset.any (·.waits == 0)) then
      [ofDie d .dieDrainExpiry] else []) ++
    (if (getDie s d).st == .up && (getDie s d).reset.any (·.waits == 0) then [ofDie d .linkRetrainComplete] else [])

def dueTasks (s : State) : List Next :=
  (s.pipes.filter fun x => decide (16384 ≤ x.2.since)).map (fun x => plainly (.pipelineReview x.1)) ++
  (s.tasks.filter (pollDue s)).map (fun t => ofTask t .tkWaitPoll) ++
  (s.tasks.filter fun t => waitExpired t && partRuns s t.part && t.pollBy != s.cycle + 1).map fun t =>
    ofTask t .tkWaitTimeout

/-- Steps that must happen before the cycle goes on. -/
def due (s : State) : List Next := dueThreads s ++ dueCores s ++ dueCarriages s ++ dueDies s ++ dueTasks s

/-! ### Steps whose time is open -/

/-- Fetches, results and performed reds of threads. -/
def openThreads (s : State) : List Next :=
  (threadsOf s).flatMap fun (g, l, G, t) =>
    (if !G.halted ∧ (fetchLanes s g l).contains l then
      [plainly (.instructionFetchComplete g l), plainly (.translationWalk G.core (partOf s g) t.pc.toNat)] else []) ++
    (if t.pend.any fun p => p.src == .direct then [plainly (.variableLatencyResult g l)] else []) ++
    (if 0 < t.reds then [plainly (.redPerformed g l)] else [])

/-- Grants, waits, copies and bank writes of the cores. -/
def openCores (s : State) : List Next :=
  (((s.groups.filter fun x => x.2.agrow.isSome).map fun x => (x.2.core, x.2.qtr)).eraseDups.map fun q =>
    plainly (.agrowGrant q.1 q.2)) ++
  ((s.syncWaits.map fun w => (w.xs, w.line)).eraseDups.map fun w => plainly (.sacqGrant w.1 w.2)) ++
  ((s.queues.filter fun q => !q.2.waiters.isEmpty).map fun q => plainly (.queueWaitService q.1)) ++
  s.copies.flatMap (fun c => [plainly (.copyCompletion c.id), plainly (.copyStop c.id), plainly (.cpysSourceReadDone c.id)]) ++
  s.mfills.map (fun m => plainly (.mfillComplete m.grp)) ++
  s.mdrains.map (fun m => plainly (.mdrainComplete m.core m.tile)) ++
  s.carriages.map (fun c => plainly (.opOperandFetchComplete c.id)) ++
  (s.bankWrites.map fun w => (w.core, w.bank)).eraseDups.map (fun w => plainly (.bankWriteComplete w.1 w.2))

/-- Batches, placements and pipelines' launches. -/
def openPlaces (s : State) : List Next :=
  (s.grids.filter fun x => undispatched x.2 && x.2.pipe.isNone).map (fun x => plainly (.dispatchBatch x.1)) ++
  (s.dies.filter fun D => !D.pending.isEmpty).flatMap (fun D =>
    [ofDie D.id .placeWorkgroup, ofDie D.id .latencyReservePreemption]) ++
  s.pipes.flatMap fun x => (List.range x.2.stages.length).map fun i => plainly (.pipelineStageLaunch x.1 i)

/-- The step that issues a task of a type. -/
def issueStep (top : Nat) : Option Instr :=
  match top with
  | 1 => some .tkRun | 2 => some .tkPipe | 3 => some .tkCopy | 4 => some .tkFill | 5 => some .tkFree
  | 6 => some .tkBind | 7 => some .tkUnbind | 8 => some .tkSignal | 9 => some .tkWait | 0x0B => some .tkResume
  | 0x0D => some .tkFence | 0x0E => some .tkRec | _ => none

/-- Fetch, rename, issue and the end of tasks. -/
def openTasks (s : State) : List Next :=
  (s.streams.filter fun x => fetchTurn s x).flatMap (fun x =>
    [ofStream x.id .taskEntryFetch, ofStream x.id .tkNop, ofStream x.id .tkLink, ofStream x.id .tkSucc]) ++
  (s.streams.filter fun x => x.st == .run && (toRename s x.id).isSome).flatMap (fun x =>
    [ofStream x.id .taskRename, ofStream x.id .bufferStarvationDiscard]) ++
  ((List.range 4).filterMap fun w => (issueNext s w).bind fun t => (issueStep (topOf t.entry)).map (ofTask t)) ++
  (s.tasks.filter fun t => topOf t.entry == 9 && freeToIssue s t).map (fun t => ofTask t .tkWaitPoll) ++
  (s.tasks.filter fun t => t.st == .issued).map (fun t => ofTask t .taskCompletion) ++
  s.streams.flatMap fun x =>
    (if x.st = .aborting ∨ slotsLeft s x then [ofStream x.id .taskCompletion] else []) ++
    (match (streamTasks s x.id).head? with
      | some t => if t.st = .complete then [ofTask t (if t.fault.isSome then .takeFault else .taskRetire)] else []
      | none => [])

/-- Memory controllers, links, and contexts on their way to shadow storage. -/
def openPackage (s : State) : List Next :=
  (s.l2.filter fun c => c.dirty).map (fun c => plainly (.hbmLineWrite c.line)) ++
  (List.range 12).map (fun c => plainly (.patrolScrub c)) ++
  (s.dies.filter fun D => [DieSt.empty, .quiesced, .silent, .inReset].contains D.st).map (fun D =>
    ofDie D.id .dieDrainExpiry) ++
  (s.dies.filter fun D => D.st == .training).flatMap (fun D =>
    [({ Subject.none with die := D.id, ok := true }, .linkRetrainComplete), ofDie D.id .linkRetrainComplete]) ++
  (s.parts.filter fun p => p.halt == .halting).map fun p => plainly (.contextSave p.id)

/-- The step of a message's type and operation (R410). -/
def messageStep (type op : Nat) : Instr :=
  match type, op with
  | 1, 1 => .partitionCreate | 1, 2 => .partitionDestroy | 1, 3 => .shrink | 1, 4 => .grow | 1, 5 => .halt
  | 1, 6 => .resume | 1, 7 => .checkpoint | 1, 8 => .setroot | 1, 9 => .tlbinv | 1, 10 => .addbuf | 1, 11 => .setwin
  | 1, 12 => .setxs | 1, 13 => .setresume | 1, 14 => .setreserve | 1, 15 => .bindvi
  | 2, 1 => .streamCreate | 2, 2 => .streamDestroy | 2, 3 => .restart | 2, 4 => .skip | 2, 5 => .abort | 2, 6 => .clear
  | 3, 1 => .resetDie
  | 4, 1 => .peek | 4, 2 => .scrub | 4, 3 => .inject
  | 5, 1 => .getcert | 5, 2 => .attest
  | 6, 1 => .load | 6, 2 => .grant | 6, 3 => .revoke | 6, 4 => .podkey
  | 7, 1 => .join | 7, 2 => .barreg
  | 8, 1 => .fwimage
  | _, _ => .badMessage

/-- The requests at the heads of the members' inboxes. -/
def openMessages (s : State) : List Next :=
  s.inboxes.filterMap fun q => q.head?.map fun r =>
    ({ Subject.none with msg := r.msg },
      if r.msg.member.toNat < 4 then messageStep r.type.toNat r.op.toNat else .badMessage)

/-- All steps whose time is open; a package that has stopped answers only messages (R400, R420, R421). -/
def openSteps (s : State) : List Next :=
  if s.power = .running then
    openThreads s ++ openCores s ++ openPlaces s ++ openTasks s ++ openPackage s ++ openMessages s
  else openMessages s

/-! ### The choice -/

/-- What happens next: a due step; else one of the open steps, or none of them, as the manual leaves it. -/
def nextStep (s : State) : Option Next × State :=
  match if s.power = .running then due s else [] with
  | n :: _ => (some n, s)
  | [] =>
    let l := openSteps s
    let k := Config.order s.free % (l.length + 1)
    (if k = 0 then none else l[k - 1]?, { s with free := s.free + 1 })

/-- Cycles since every other condition of a tk.wait has held for the first time (R258); they freeze while its partition is
halted. -/
def ageWaits (s : State) : State :=
  { s with tasks := s.tasks.map fun t =>
      if topOf t.entry == 9 && partRuns s t.part && (t.tested.isSome || freeToIssue s t) then
        { t with tested := some (t.tested.getD 0 + 1) }
      else t }

/-- R349: an op that a bank write holds stays in its fetch, which counts no cycle then. -/
def holdFetch (s : State) : State :=
  let hold (x : Op × Nat) : Op × Nat :=
    if opWaits s x.1 && decide (x.2 ≤ s.cycle + fetchCycles s x.1) then (x.1, x.2 + 1) else x
  { s with carriages := s.carriages.map fun c => { c with fetch := c.fetch.map hold } }

/-- The end of a cycle. -/
def tickAll (s : State) : State := holdFetch (ageWaits (seatPipes (agePipes (watchHeads (tick (writeSeqs s))))))

/-- The next quarter's turn; after the last one the cycle ends. -/
def turnOver (s : State) : State := if s.turn + 1 < 2048 then { s with turn := s.turn + 1 } else tickAll s

/-- The word that a formed coach issues: that of its first lane. -/
def coachWord (s : State) : W64 :=
  match s.coach with
  | none => 0
  | some c => match c.lanes with
    | [] => 0
    | (g, l) :: _ => match (getT s g l).bind (·.ibuf) with
      | none => 0
      | some f => f.hi.val ++ f.lo.val

/-- The instruction that the coach issues. -/
def coachInstr (s : State) : Instr := decodeWord (coachWord s)

/-- With the power off only a cold reset happens; the rest of the agenda is lost (R414, R422). -/
def afterPower (s : State) : Option Instr × State :=
  match s.agenda.dropWhile fun n => n.2 != .coldReset with
  | [] => (none, s)
  | n :: r => (some n.2, { s with agenda := r })

end Sys2Proof.Machine
end

