-- ==== Sys2Proof/Machine/Step.lean ====
section
/-! DEFINITION. One step of the package. -/

namespace Sys2Proof.Machine

open Sys2Proof

/-- The outcome of a step with a change made to its next state. -/
def after (f : State → State) (o : Host.Outcome State Fault Refusal) : Host.Outcome State Fault Refusal :=
  match o with
  | .next s => .next (f s)
  | .fault r => .fault r
  | .refused r => .refused r

/-- A formed coach issues; else the next item of the agenda happens; else what is due or open; else the next quarter
forms a coach. -/
def step (s : State) : Host.Outcome State Fault Refusal :=
  if s.power = .off then
    match afterPower s with
    | (some i, s) => exec i s
    | (none, _) => .fault .noPower
  else match s.coach with
    | some _ => exec (coachInstr s) s
    | none => match s.agenda with
      | (x, i) :: r => exec i { s with agenda := r, subj := x }
      | [] => match nextStep s with
        | (some (x, i), s) => exec i { s with subj := x }
        | (none, s) => after turnOver (exec (.coachFormation (s.turn / 4) (s.turn % 4)) s)

/-- `s` with an instruction of `nbits` bits standing where the next step fetches. -/
def State.withFetchWord (s : State) (nbits w : Nat) : State :=
  bootState s (BitVec.ofNat 64 (w % 2 ^ min nbits 64))

end Sys2Proof.Machine
end

