-- ==== Sys2Proof/Safety.lean ====
section
/-! DEFINITION. The terms in which statements about the machine are made: a lane about to issue its word, the state
after a word, the values that the manual's formulas give, and what a safe memory is. -/

namespace Sys2Proof.Machine

open Sys2Proof

/-! ### A lane at its word -/

/-- The quarter's coach is one lane, whose fetched word passes the comparison of R69. -/
abbrev Lone (s : State) (g l : Nat) (t : Thread) : Prop :=
  s.coach.map (·.lanes) = some [(g, l)] ∧ getT s g l = some t ∧ t.retry = none ∧ fetchTrap t = none

/-- The word is within the limit of R71: among the first fifteen of its run, or the last of it. -/
abbrev InRun (t : Thread) (last : Bool) : Prop := t.run.len < 15 ∨ last = true

/-- The guard of R66 is true and not poisoned. -/
abbrev Guarded (pred : BitVec 4) (t : Thread) : Prop := guardOf pred t = some true

/-- One lane at a word whose guard holds; `last` says that the word ends its run (R70). -/
abbrev AtWord (s : State) (g l : Nat) (t : Thread) (pred : BitVec 4) (last : Bool) : Prop :=
  Lone s g l t ∧ InRun t last ∧ Guarded pred t

/-- No injection is armed in the group (R221). -/
abbrev Calm (s : State) (g : Nat) : Prop := (getG s g).bind (·.inj) = none

/-- The coach has been taken for issue. -/
def taken (s : State) : State := { s with coach := none }

/-- The lane has passed its word. -/
def past (s : State) (g l : Nat) (marker : Bool) : State :=
  modT s g l (advance { s := marker, ender := false, pred := 0 })

/-- A thread changed by a word that the lane passes. -/
def did (s : State) (g l : Nat) (marker : Bool) (F : Thread → Thread) : State :=
  past (modT (taken s) g l F) g l marker

/-- A thread with one vector register written with fixed latency. -/
def setV (d : Byte) (v : W32) (t : Thread) : Thread := writeV t d.toNat (gen v)

/-- A thread with an even pair written (R26: the low word in the lower register). -/
def setPair (d : Byte) (v : W64) (t : Thread) : Thread :=
  writeV (writeV t d.toNat (gen (v.setWidth 32))) (d.toNat + 1) (gen ((v >>> 32).setWidth 32))

/-- A thread with a predicate written. -/
def setP (d : Nat) (b : Bool) (t : Thread) : Thread := writeP t d ⟨b, false⟩

/-- A thread with sticky bits added (R33). -/
def flagged (b : BitVec 6) (t : Thread) : Thread := { t with sticky := t.sticky ||| b }

/-- A thread with a variable-latency result on its way since this cycle (R72). -/
def late (s : State) (vs : AList Word) (ps : AList Prd) : Thread → Thread := pending .direct vs ps [] s.cycle

/-- An index that R14 admits. -/
abbrev Within (s : State) (g : Nat) (r : Byte) : Prop := r.toNat < nreqOf s g ∨ r = 255

/-- A register holds a value with its own residue. -/
abbrev Holds (t : Thread) (r : Byte) (v : W32) : Prop := readV t r.toNat = gen v

/-- Two registers hold a 64-bit value, the low word in the lower one. -/
abbrev HoldsPair (t : Thread) (r : Byte) (v : W64) : Prop :=
  readV t r.toNat = gen (v.setWidth 32) ∧ readV t (r.toNat + 1) = gen ((v >>> 32).setWidth 32)

/-- An R75 word with direct operands, a type and an XM field, that a register word may hold. -/
abbrev Plain (f : FullWord) (ty xm : Nat) : Prop :=
  f.mod.toNat = ty * 2 ^ 11 + xm ∧ xm < 64 ∧ f.pred ≠ 0xF

/-- As `Plain`, with an operand mode of R76 for the operand `sel` (0 for A). -/
abbrev Moded (f : FullWord) (ty mode sel xm : Nat) : Prop :=
  f.mod.toNat = ty * 2 ^ 11 + mode * 2 ^ 8 + sel * 2 ^ 6 + xm ∧ mode < 8 ∧ sel < 4 ∧ xm < 64 ∧ f.pred ≠ 0xF

/-- The lane's word raises a trap and does nothing else (R39, R40): its age class and wait count are those of a word
that has issued. -/
def trapped (s : State) (g l : Nat) (pc : W64) (x : Trap) (i : Ign) : State :=
  takeTrap (modT (taken s) g l fun t => { t with cls := .normal, w := 0 }) g pc [(l, x, i)]

/-- The destinations that a trap leaves to the policy ignore, of a word that ends its run or not (R70, R299). -/
def ending (e : Bool) (i : Ign) : Ign := { i with ends := e }

/-- COND of setc (R119) on signed words. -/
def holdsCond (cond : Nat) (a b : W32) : Bool :=
  match cond with
  | 0 => a == b
  | 1 => a != b
  | 2 => decide (a.toInt < b.toInt)
  | 3 => decide (a.toInt ≤ b.toInt)
  | 4 => decide (b.toInt < a.toInt)
  | _ => decide (b.toInt ≤ a.toInt)

/-! ### Words as `.f32` values (R47, R48) -/

def isNan32 (x : W32) : Bool := decide (0x7F800000 < x.toNat % 2 ^ 31)
/-- A signalling NaN: the leading bit of its significand is clear. -/
def isSig32 (x : W32) : Bool := isNan32 x && !x.getLsbD 22
def isInf32 (x : W32) : Bool := x.toNat % 2 ^ 31 == 0x7F800000
def isZero32 (x : W32) : Bool := x.toNat % 2 ^ 31 == 0
/-- The exponent field. -/
def exp32 (x : W32) : Nat := x.toNat / 2 ^ 23 % 256
/-- A magnitude with the sign of a product or quotient of two words. -/
def signed32 (a b v : W32) : W32 := v ||| (a ^^^ b) &&& 0x80000000

/-- What an integer slot of a paired word writes from its operand words (R84, R88); a shift count beyond the width
empties the word. None for the other slots. -/
def slotValue (o : SlotOp) (a b : W32) : Option W32 :=
  match o with
  | .add | .addImm => some (a + b)
  | .sub => some (a - b)
  | .mul => some (a * b)
  | .minI32 => some (if a.toInt ≤ b.toInt then a else b)
  | .maxI32 => some (if b.toInt ≤ a.toInt then a else b)
  | .minN32 => some (if a.toNat ≤ b.toNat then a else b)
  | .maxN32 => some (if b.toNat ≤ a.toNat then a else b)
  | .and | .andImm => some (a &&& b)
  | .or | .orImm => some (a ||| b)
  | .xor | .xorImm => some (a ^^^ b)
  | .shl | .shlImm => some (a <<< b.toNat)
  | .shr | .shrImm => some (a >>> b.toNat)
  | .sar | .sarImm => some (a.sshiftRight b.toNat)
  | .popc => some (BitVec.ofNat 32 ((List.range 32).countP fun i => a.getLsbD i))
  | .clz => some (BitVec.ofNat 32 (((List.range 32).find? fun k => a.getLsbD (31 - k)).getD 32))
  | .mov => some a
  | _ => none

/-- The second operand word of a slot: a register, the immediate of R88, or none. -/
def slotB (t : Thread) (o : SlotOp) (x : Slot) : Word :=
  match slotKind o with
  | .imm => gen (x.b.signExtend 32)
  | .shift => gen (x.b.setWidth 32)
  | .one => gen 0
  | _ => readV t x.b.toNat

/-! ### Copies within a workgroup's `.cs` (R168) -/

/-- Where byte `n` of `.cs` lies for the workgroup of a copy. -/
def copyAt (c : Copy) (W : Wg) (n : Int) : Nat := c.core * 2 ^ 18 + W.csBase + n.toNat

/-- The word at byte `n` lies in the workgroup's `.cs` region. -/
abbrev InScratch (K : Grid) (n : Int) : Prop := 0 ≤ n ∧ n.toNat + 4 ≤ K.kd.scratch

/-- A sound copy of one cart and one row, of elements of 32 bits from `.cs` to `.cs`, that skips nothing and does not
acquire. -/
abbrev ScratchCopy (s : State) (c : Copy) (k : Cart) (W : Wg) (K : Grid) : Prop :=
  let d := descOf k.desc
  c.carts = [k] ∧ k.desc ≠ [] ∧ c.tile.getLsbD 7 = false ∧ copyAcq c.mod = false ∧ copyRS c.mod = false ∧
  aget s.wgs c.wg = some W ∧ aget s.grids W.grid = some K ∧ descError c.kind c.mod false none d = false ∧
  d.ssp = 1 ∧ d.dsp = 1 ∧ elemWidth d.sf d.nfmt = 32 ∧ elemWidth d.df d.nfmt = 32 ∧ d.wy = 1 ∧ Memory.allWf s = true

/-! ### The local spaces (R153) -/

/-- Size of a lane's `.lp` (0), its workgroup's `.cs` (1) or its gang's `.ks` (2) region. -/
def localSize (s : State) (g space : Nat) : Nat :=
  match space with
  | 0 => 128
  | 1 => scratchOf s g
  | _ => if (gangOf s g).isSome then ksmemOf s g else 0

/-- Where byte `a` of a local space lies in its storage. -/
def localAt (s : State) (g space a : Nat) : Nat :=
  match space with
  | 0 => a
  | 1 => csAddr s g + a
  | _ => ksAddr s g + a

/-- The word at byte `a` of a local space, as lane l of group g sees it. -/
def localWord (s : State) (g : Nat) (t : Thread) (space a : Nat) : Word :=
  match space with
  | 0 => t.lp.getD (a / 4) .zero
  | 1 => readWord s.cs (localAt s g space a)
  | _ => readWord s.ks (localAt s g space a)

/-- A word put at a place of a local space. -/
def localPut (s : State) (g l space at_ : Nat) (w : Word) : State :=
  match space with
  | 0 => modT s g l fun t => { t with lp := lmod t.lp (at_ / 4) fun _ => w }
  | 1 => { s with cs := writeWord s.cs at_ w }
  | _ => { s with ks := writeWord s.ks at_ w }

/-- The comparison of a restricted setc (R88). -/
def slotTest (o : SlotOp) (a b : W32) : Option Bool :=
  match o with
  | .setcEq => some (a == b)
  | .setcNe => some (a != b)
  | .setcLtI32 => some (decide (a.toInt < b.toInt))
  | .setcLtN32 => some (decide (a.toNat < b.toNat))
  | .setcLeI32 => some (decide (a.toInt ≤ b.toInt))
  | .setcLeN32 => some (decide (a.toNat ≤ b.toNat))
  | _ => none

/-- The function of a restricted predicate opcode (R88); pnot has no second operand. -/
def slotLogic (o : SlotOp) (p q : Bool) : Option Bool :=
  match o with
  | .pand => some (p && q)
  | .por => some (p || q)
  | .pxor => some (p != q)
  | .pnot => some !p
  | _ => none

/-- Results of restricted floating-point opcodes (R88) on chosen operands: 1.5 and 2.5, the pairs (1, 2) and (3, 4), and
the conversions of 3. -/
def slotFloat (o : SlotOp) (a b : W32) : Option W32 :=
  let on (x y : W32) (v : W32) : Option W32 := if a = x ∧ b = y then some v else none
  match o with
  | .faddF32 => on 0x3FC00000 0x40200000 0x40800000
  | .fsubF32 => on 0x3FC00000 0x40200000 0xBF800000
  | .fmulF32 => on 0x3FC00000 0x40200000 0x40700000
  | .fminF32 => on 0x3FC00000 0x40200000 0x3FC00000
  | .fmaxF32 => on 0x3FC00000 0x40200000 0x40200000
  | .faddF16x2 => on 0x40003C00 0x44004200 0x46004400
  | .fmulF16x2 => on 0x40003C00 0x44004200 0x48004200
  | .faddBf16x2 => on 0x40003F80 0x40804040 0x40C04080
  | .fmulBf16x2 => on 0x40003F80 0x40804040 0x41004040
  | .cvtF32I32 => if a = 3 then some 0x40400000 else none
  | .cvtI32F32 => if a = 0x40400000 then some 3 else none
  | _ => none

/-- A restricted opcode (R88) that stores nothing, on operands for which it completes, and what it does to its thread. -/
def SlotDoes (s : State) (g l : Nat) (t : Thread) (o : SlotOp) (x : Slot) (F : Thread → Thread) : Prop :=
  (∃ a b v, Holds t x.a a ∧ slotB t o x = gen b ∧ (slotValue o a b = some v ∨ slotFloat o a b = some v) ∧
    F = setV x.d v) ∨
  (∃ a b r, Holds t x.a a ∧ Holds t x.b b ∧ slotTest o a b = some r ∧ F = setP x.d.toNat r) ∨
  (∃ p q r, readP t (x.a.toNat % 8) = ⟨p, false⟩ ∧ readP t (x.b.toNat % 8) = ⟨q, false⟩ ∧ slotLogic o p q = some r ∧
    F = setP x.d.toNat r) ∨
  (o = .srd ∧ x.a ≠ 0x14 ∧ F = setV x.d (specialValue s g l x.a.toNat)) ∨
  (slotKind o = .load ∧ ∃ (a : W32) (A : Nat) (w : Word), Holds t x.a a ∧ A = a.toNat + 4 * x.b.toNat ∧ A % 4 = 0 ∧
    A + 4 ≤ localSize s g (slotSpace o) ∧ localWord s g t (slotSpace o) A = w ∧ mismatch w = false ∧
    F = late s [(x.d.toNat, w)] [])

/-- The sum that an `.x64` op leaves in an entry (R238): each exact product, floored to the grid, is added and saturated. -/
def satSum (grid start : Int) (ps : List ((Int × Int) × (Int × Int))) : Int :=
  ps.foldl (fun a x =>
    let d := x.1.2 + x.2.2 - grid
    let p := x.1.1 * x.2.1
    max (-2 ^ 63) (min (2 ^ 63 - 1) (a + if 0 ≤ d then p * 2 ^ d.toNat else p / 2 ^ (-d).toNat))) start

/-- A reservation of E4M3 codes in the operand buffer, rows of 32 bytes, and a word for each row's E8M0 scale 1,024 bytes on. -/
def Narrow (r : Resv) : Prop :=
  r.fmt = 0x16070343 ∧ r.efmt = 0x12 ∧ r.cbv = false ∧ r.ks = false ∧ r.sl = 2 ∧ r.off % 4 = 0 ∧ r.pitch = 32 ∧
    r.soff = 1024 ∧ r.spitch = 4

/-- What an atomic stores for a word `m` in memory and an operand `b` (R160): unsigned for AOP 0 to 2. -/
def atomValue (aop : Nat) (m b : W32) : W32 :=
  match aop with
  | 0 => m + b
  | 1 => if m.toNat ≤ b.toNat then m else b
  | 2 => if b.toNat ≤ m.toNat then m else b
  | 3 => m &&& b
  | 4 => m ||| b
  | 5 => m ^^^ b
  | 6 => b
  | 7 => if b.toNat ≤ m.toNat then 0 else m + 1
  | _ => if m = 0 ∨ b.toNat < m.toNat then b else m - 1

/-! ### Barriers and whole groups -/

/-- A barrier after the completion test of R202. -/
def barNext (b : Barrier) : Barrier :=
  if b.pa = 0 ∧ b.pb = 0 ∧ b.tgt ≠ 0 then { b with le := b.ef, ph := b.ph + 1, pa := b.tgt, pb := 0, ef := false } else b

/-- The quarter's coach is the whole group g, whose live lanes `ms` with the threads `th` stand at one word. -/
abbrev Gathered (s : State) (g : Nat) (ms : List Nat) (th : Nat → Thread) (last : Bool) : Prop :=
  s.coach.map (·.lanes) = some (ms.map fun k => (g, k)) ∧ ms ≠ [] ∧ (getG s g).map liveLanes = some ms ∧
    ∀ k ∈ ms, getT s g k = some (th k) ∧ (th k).retry = none ∧ fetchTrap (th k) = none ∧ InRun (th k) last ∧
      (th k).pc = (th (ms.headD 0)).pc

/-- Every lane of a group changed by a word that it passes. -/
def allDid (s : State) (g : Nat) (ms : List Nat) (marker : Bool) (F : Nat → Thread → Thread) : State :=
  ms.foldl (fun s k => past s g k marker) (ms.foldl (fun s k => modT s g k (F k)) (taken s))

/-! ### Requests -/

/-- A request of the physical function stands at the head of its member's inbox, with no operation of that member
under way, in a package that runs (R409). -/
abbrev Asked (s : State) (type op : Nat) (r : Request) : Prop :=
  atHead s type op = some r ∧ s.power = .running ∧ r.resv = false ∧ r.msg.member.toNat < 4 ∧ r.msg.vi = 0

/-- As `Asked`, on the partition that the request names. -/
abbrev AskedOf (s : State) (op : Nat) (r : Request) (p : Part) : Prop :=
  Asked s 1 op r ∧ partIx s (partNo r) = some p

/-- What a request of an operation must be (R409 to R411): its type and operation, the payload that the operation asks for, and
what a virtual function may name in it. -/
structure MessageForm where
  type : Nat
  op : Nat
  well : Request → Bool
  own : State → Request → Bool

/-- An operation of the physical function alone. -/
def MessageForm.pf (type op : Nat) (well : Request → Bool) : MessageForm := ⟨type, op, well, fun _ _ => false⟩

/-- The forms of the messages that carry requests; none for any other constructor. -/
def messageForm : Instr → Option MessageForm
  | .partitionCreate => some (.pf 1 0x01 (shaped 5 [0x33F]))
  | .partitionDestroy => some (.pf 1 0x02 (shaped 1 [0x3F]))
  | .shrink => some (.pf 1 0x03 fun r => shaped 5 [0x3F] r && quadMask r != 0)
  | .grow => some (.pf 1 0x04 fun r => shaped 5 [0x3F] r && quadMask r != 0)
  | .halt => some ⟨1, 0x05, shaped 1 [0x3F], ownPart⟩
  | .resume => some ⟨1, 0x06, shaped 1 [0x3F], ownPart⟩
  | .checkpoint => some ⟨1, 0x07, fun r => shaped 3 [0x3F] r && pd r 3 % 4096 == 0, ownPart⟩
  | .setroot => some (.pf 1 0x08 (shaped 3 [0x3F]))
  | .tlbinv => some ⟨1, 0x09, shaped 5 [0x13F], ownPart⟩
  | .addbuf => some (.pf 1 0x0A bufferForm)
  | .setwin => some (.pf 1 0x0B fun r => shaped 5 [0xF033F] r && windowOk (kindOf r) (indexOf r) (pd r 3) (pd r 5))
  | .setxs => some (.pf 1 0x0C xsForm)
  | .setresume => some (.pf 1 0x0D fun r => shaped 3 [0x3F] r && pd r 3 % 64 == 0)
  | .setreserve => some (.pf 1 0x0E (shaped 2 [7, 0xFFFF]))
  | .bindvi => some (.pf 1 0x0F fun r => shaped 2 [0x3F3F, 0x1FFF0FFF] r && pw r 2 / 256 != 0 &&
      decide (pw r 3 % 4096 + pw r 3 / 65536 ≤ 4096))
  | .streamCreate => some (.pf 2 0x01 streamForm)
  | .streamDestroy => some (.pf 2 0x02 (shaped 1 [0xFFF]))
  | .restart => some ⟨2, 0x03, shaped 1 [0xFFF], ownStream⟩
  | .skip => some ⟨2, 0x04, shaped 1 [0xFFF], ownStream⟩
  | .abort => some ⟨2, 0x05, shaped 1 [0xFFF], ownStream⟩
  | .clear => some ⟨2, 0x06, shaped 1 [0xFFF], ownStream⟩
  | .resetDie => some (.pf 3 0x01 fun r =>
      shaped 2 [0x117] r && !(pw r 2).testBit 4 && memberOf r.msg == baseOf (pw r 2 % 8))
  | .peek => some ⟨4, 0x01, fun r => shaped 2 [0x301FF] r && pw r 3 % 4 == 0 && decide (pw r 3 < peekSize (peekSpace r)), ownCore⟩
  | .scrub => some (.pf 4 0x02 fun r =>
      shaped 2 [0xF] r && decide (pw r 2 < 12) && decide (1 ≤ pw r 3) && decide (pw r 3 ≤ 168))
  | .inject => some (.pf 4 0x03 armingForm)
  | .getcert => some ⟨5, 0x01, fun r => shaped 3 [] r && pd r 2 % 64 == 0, fun _ _ => true⟩
  | .attest => some ⟨5, 0x02, fun r => shaped 38 [] r && pd r 38 % 64 == 0, fun _ _ => true⟩
  | .load => some (.pf 6 0x01 fun r => shaped 24 [0xFF] r && pw r 2 != 0)
  | .grant => some (.pf 6 0x02 grantForm)
  | .revoke => some (.pf 6 0x03 grantForm)
  | .podkey => some (.pf 6 0x04 (shaped 16 [0x3F]))
  | .join => some (.pf 7 0x01 (shaped 2 [0x1FF001F, 0x7FF]))
  | .barreg => some (.pf 7 0x02 (shaped 3 [0x13F, 0x1FF]))
  | .fwimage => some (.pf 8 0x01 (shaped 3 []))
  | _ => none

/-! ### Tasks -/

/-- A fleeting entry of a type stands next in a stream whose turn it is; s1 is the machine with the entry read. -/
abbrev Fleets (s : State) (x : Stream) (top : Nat) (e : List Word) (s1 : State) : Prop :=
  s.subj.stream = x.id ∧ getStream s x.id = some x ∧ fetchTurn s x = true ∧
    entryWords s x (nextAddr x) = (true, e, s1) ∧ topOf e = top ∧ entryReason (ctxOf x (!x.slots.isEmpty)) e = none

/-- The task that a step names is the one its window issues next, and the window has issued none in this cycle. -/
abbrev Issues (s : State) (top : Nat) (t : Task) : Prop :=
  getTask s s.subj.stream s.subj.seq = some t ∧ topOf t.entry = top ∧ issueNext s t.win = some t ∧
    (getWindow s t.win).issueAt ≠ some s.cycle

/-- The oldest task of a running stream is complete. -/
abbrev Oldest (s : State) (x : Stream) (t : Task) : Prop :=
  s.subj.stream = x.id ∧ getStream s x.id = some x ∧ (streamTasks s x.id).head? = some t ∧ x.st = .run ∧
    t.st = .complete

/-! ### The instructions of opcode groups 0x0 to 0x4 -/

/-- The word, encoding row, injection class and arithmetic of an instruction of R75. -/
structure R75Op where
  f : FullWord
  row : Row
  cls : Nat
  run : Ctx → AluOut

/-- The table of the instructions of opcode groups 0x0 to 0x4; none for any other. -/
def r75Op : Instr → Option R75Op
  | .add f => some ⟨f, (rowDAB typesI 0) f, 0, (fun x => aluAdd x.it x.a x.b)⟩
  | .sub f => some ⟨f, (rowDAB typesI 0) f, 0, (fun x => aluSub x.it x.a x.b)⟩
  | .addc f => some ⟨f, rowCarry f, 0, (fun x => aluAddc (x.xm.toNat % 8) (x.p (x.xm.toNat % 8)).t x.a x.b)⟩
  | .subb f => some ⟨f, rowCarry f, 0, (fun x => aluSubb (x.xm.toNat % 8) (x.p (x.xm.toNat % 8)).t x.a x.b)⟩
  | .mul f => some ⟨f, (rowDAB typesI 0) f, 0, (fun x => aluMul x.it x.a x.b)⟩
  | .mulh f => some ⟨f, (rowDAB [0x04, 0x08, 0x0A, 0x0B] 0) f, 0, (fun x => aluMulh x.it x.a x.b)⟩
  | .mulw f => some ⟨f, rowMulw f, 0, (fun x => aluMulw x.it x.a x.b)⟩
  | .mad f => some ⟨f, (rowDABC [0x04, 0x08, 0x05, 0x09, 0x0A, 0x0B] 0) f, 0, (fun x => aluMad x.it x.a x.b x.c)⟩
  | .madh f => some ⟨f, (rowDABC typesW 0) f, 0, (fun x => aluMadh x.it x.a x.b x.c)⟩
  | .div f => some ⟨f, (rowDAB [0x04, 0x08, 0x05, 0x09] 0) f, 0, (fun x => aluDivRem false x.it x.a x.b)⟩
  | .rem f => some ⟨f, (rowDAB [0x04, 0x08, 0x05, 0x09] 0) f, 0, (fun x => aluDivRem true x.it x.a x.b)⟩
  | .neg f => some ⟨f, (rowDA typesS 1) f, 0, (fun x => aluNeg (x.xm.getLsbD 0) x.it x.a)⟩
  | .abs f => some ⟨f, (rowDA typesS 1) f, 0, (fun x => aluAbs (x.xm.getLsbD 0) x.it x.a)⟩
  | .min f => some ⟨f, (rowDAB typesI 0) f, 0, (fun x => aluMin x.it x.a x.b)⟩
  | .max f => some ⟨f, (rowDAB typesI 0) f, 0, (fun x => aluMax x.it x.a x.b)⟩
  | .clamp f => some ⟨f, (rowDABC typesI 0) f, 0, (fun x => aluClamp x.it x.a x.b x.c)⟩
  | .sadd f => some ⟨f, (rowDAB typesI 0) f, 0, (fun x => aluSadd x.it x.a x.b)⟩
  | .ssub f => some ⟨f, (rowDAB typesI 0) f, 0, (fun x => aluSsub x.it x.a x.b)⟩
  | .dot2s f => some ⟨f, (fun f => rowAcc [0x0A, 0x0B] 0 [] f) f, 0, (fun x => aluDot2s x.it x.a x.b x.c)⟩
  | .sad f => some ⟨f, (fun f => rowAcc [0x04, 0x08, 0x0A, 0x0B] 1 (sadSubs f) f) f, 0, (fun x => aluSad (x.xm.getLsbD 0) x.it x.a x.b x.c)⟩
  | .and f => some ⟨f, (rowDAB typesB 0) f, 1, (fun x => aluAnd x.a x.b)⟩
  | .or f => some ⟨f, (rowDAB typesB 0) f, 1, (fun x => aluOr x.a x.b)⟩
  | .xor f => some ⟨f, (rowDAB typesB 0) f, 1, (fun x => aluXor x.a x.b)⟩
  | .not f => some ⟨f, (rowDA typesB 0) f, 1, (fun x => aluNot x.a)⟩
  | .lop3 f => some ⟨f, rowLop3 f, 1, (runLop3)⟩
  | .shl f => some ⟨f, (rowShift [0x00, 0x01, 0x0B]) f, 1, (fun x => aluShl x.it x.a x.b)⟩
  | .shr f => some ⟨f, (rowShift [0x00, 0x01, 0x0B]) f, 1, (fun x => aluShr x.it x.a x.b)⟩
  | .sar f => some ⟨f, (rowShift [0x04, 0x05, 0x0A]) f, 1, (fun x => aluSar x.it x.a x.b)⟩
  | .rot f => some ⟨f, (rowDAB [0x00] 1) f, 1, (fun x => aluRot (x.xm.getLsbD 0) x.a x.b)⟩
  | .shf f => some ⟨f, (rowDABC [0x00] 3) f, 1, (fun x => aluShf (x.xm.getLsbD 0) (x.xm.getLsbD 1) x.a x.b x.c)⟩
  | .rshr f => some ⟨f, rowRshr f, 1, (fun x => aluRshr x.xm x.it x.a x.b)⟩
  | .bext f => some ⟨f, (rowDAB typesW 0) f, 1, (fun x => aluBext x.it x.a x.b)⟩
  | .bins f => some ⟨f, (rowDABC [0x00] 0) f, 1, (fun x => aluBins x.a x.b x.c)⟩
  | .bmsk f => some ⟨f, (rowDA [0x00] 0) f, 1, (fun x => aluBmsk x.a)⟩
  | .brev f => some ⟨f, (rowDA typesB 0) f, 1, (fun x => aluBrev x.it x.a)⟩
  | .popc f => some ⟨f, rowCount f, 1, (fun x => aluPopc x.it x.a)⟩
  | .clz f => some ⟨f, rowCount f, 1, (fun x => aluClz x.it x.a)⟩
  | .ctz f => some ⟨f, rowCount f, 1, (fun x => aluCtz x.it x.a)⟩
  | .perm f => some ⟨f, (rowDABC [0x00] 0) f, 1, (fun x => aluPerm x.a x.b x.c)⟩
  | .sext f => some ⟨f, (rowDAB [0x00] 0) f, 1, (fun x => aluExt true x.a x.b)⟩
  | .zext f => some ⟨f, (rowDAB [0x00] 0) f, 1, (fun x => aluExt false x.a x.b)⟩
  | .setc f => some ⟨f, rowSetc f, 7, (fun x => aluSetc (x.f.d.toNat % 8) (x.xm.toNat % 8) (x.xm.toNat / 8 % 4) (x.p (x.f.c.toNat % 8)).t x.it x.a x.b)⟩
  | .sel f => some ⟨f, rowSel f, 6, (fun x => aluSel (x.p (x.f.c.toNat % 8)).t x.a x.b)⟩
  | .mov f => some ⟨f, rowMov f, 6, (runMov)⟩
  | .pset f => some ⟨f, rowPset f, 7, (fun x => aluPset (x.f.d.toNat % 8) (x.xm.getLsbD 0) x.a)⟩
  | .pand f => some ⟨f, rowPred2 f, 7, (runPred2 and)⟩
  | .por f => some ⟨f, rowPred2 f, 7, (runPred2 or)⟩
  | .pxor f => some ⟨f, rowPred2 f, 7, (runPred2 xor)⟩
  | .pnot f => some ⟨f, rowPred1 f, 7, (fun x => { preds := [(x.f.d.toNat % 8, !(x.p (x.f.a.toNat % 8)).t)] })⟩
  | .fadd f => some ⟨f, rowF2 f, 2, (fun x => aluFadd x.ty x.xm x.t.seed x.a x.b)⟩
  | .fsub f => some ⟨f, rowF2 f, 2, (fun x => aluFsub x.ty x.xm x.t.seed x.a x.b)⟩
  | .fmul f => some ⟨f, rowF2 f, 2, (fun x => aluFmul x.ty x.xm x.t.seed x.a x.b)⟩
  | .ffma f => some ⟨f, rowF3 f, 2, (fun x => aluFfma x.ty x.xm x.t.seed x.a x.b x.c)⟩
  | .fmin f => some ⟨f, (rowDAB typesFA 8) f, 2, (fun x => aluMinMax false x.ty x.xm x.a x.b)⟩
  | .fmax f => some ⟨f, (rowDAB typesFA 8) f, 2, (fun x => aluMinMax true x.ty x.xm x.a x.b)⟩
  | .fcmp f => some ⟨f, rowFcmp f, 7, (fun x => aluFcmp (x.f.d.toNat % 8) (x.xm.toNat % 8) (x.xm.getLsbD 4) x.ty (ftzOf x.xm) x.a x.b)⟩
  | .fclass f => some ⟨f, rowFclass f, 2, (fun x => aluFclass x.ty x.a)⟩
  | .fcopysign f => some ⟨f, rowFcopysign f, 2, (fun x => aluFcopysign x.ty x.xm x.a x.b)⟩
  | .fscale f => some ⟨f, rowFscale f, 2, (fun x => aluFscale x.ty x.xm x.t.seed x.a x.b)⟩
  | .frnd f => some ⟨f, rowF1 f, 2, (fun x => aluFrnd x.ty x.xm x.t.seed x.a)⟩
  | .fdot2 f => some ⟨f, rowFdot2 f, 2, (fun x => aluFdot2 x.ty x.xm x.t.seed x.a x.b x.c)⟩
  | .frcp f => some ⟨f, rowF1 f, 3, (fun x => aluFun1 funRcp x.ty x.xm x.t.seed x.a)⟩
  | .frsq f => some ⟨f, rowFun f, 3, (fun x => aluFun1 funRsq x.ty x.xm x.t.seed x.a)⟩
  | .fsqrt f => some ⟨f, rowF1 f, 3, (fun x => aluFun1 funSqrt x.ty x.xm x.t.seed x.a)⟩
  | .fdiv f => some ⟨f, rowF2 f, 3, (fun x => aluFdiv x.ty x.xm x.t.seed x.a x.b)⟩
  | .fexp2 f => some ⟨f, rowFun f, 3, (fun x => aluFun1 funExp2 x.ty x.xm x.t.seed x.a)⟩
  | .flog2 f => some ⟨f, rowFun f, 3, (fun x => aluFun1 funLog2 x.ty x.xm x.t.seed x.a)⟩
  | .fsin f => some ⟨f, rowFun f, 3, (fun x => aluFun1 funSin x.ty x.xm x.t.seed x.a)⟩
  | .fcos f => some ⟨f, rowFun f, 3, (fun x => aluFun1 funCos x.ty x.xm x.t.seed x.a)⟩
  | .ftanh f => some ⟨f, rowFun f, 3, (fun x => aluFun1 funTanh x.ty x.xm x.t.seed x.a)⟩
  | .fsigm f => some ⟨f, rowFun f, 3, (fun x => aluFun1 funSigm x.ty x.xm x.t.seed x.a)⟩
  | .cvt f => some ⟨f, rowCvt f, 3, (fun x => aluCvt x.ty (srcOf x.f) x.xm x.t.seed x.a)⟩
  | .cvti f => some ⟨f, rowCvti f, 3, (fun x => aluCvti (x.xm.getLsbD 0) x.it (intTy (srcOf x.f)) x.a)⟩
  | .cvtx f => some ⟨f, rowCvtx f, 3, (runCvtx)⟩
  | _ => none

end Sys2Proof.Machine
end

