-- ==== Sys2Proof/Certificates/Slice0/Obligations.lean ====
section
/-! DEFINITION. The statements for the provers. A lane-level statement takes a quarter's coach of one lane (`AtWord`) and
gives the whole next state, so that it says both what the word writes and that nothing else changes. -/

section

open Sys2Proof Sys2Proof.Machine

/-- R102, R104, R106, R109, R110: the two-operand instructions on unsigned words (`.n32`, direct operands). The next state is
given whole; v255 as D discards the write. -/
def Obligations.UnsignedArithmetic : Prop :=
  ∀ (s : State) (g l : Nat) (t : Thread) (f : FullWord) (a b : W32),
    AtWord s g l t f.pred f.s → Calm s g → Plain f 0x08 0 → f.c = 0 →
    Within s g f.d → Within s g f.a → Within s g f.b → Holds t f.a a → Holds t f.b b →
    exec (.add f) s = .next (did s g l f.s (setV f.d (a + b))) ∧
    exec (.sub f) s = .next (did s g l f.s (setV f.d (a - b))) ∧
    exec (.mul f) s = .next (did s g l f.s (setV f.d (a * b))) ∧
    exec (.mulh f) s = .next (did s g l f.s (setV f.d (BitVec.ofNat 32 (a.toNat * b.toNat / 2 ^ 32)))) ∧
    exec (.min f) s = .next (did s g l f.s (setV f.d (if a.toNat ≤ b.toNat then a else b))) ∧
    exec (.max f) s = .next (did s g l f.s (setV f.d (if b.toNat ≤ a.toNat then a else b))) ∧
    exec (.sadd f) s = .next (did s g l f.s (if a.toNat + b.toNat < 2 ^ 32 then setV f.d (a + b)
      else fun t => flagged flagSAT (setV f.d 0xFFFFFFFF t))) ∧
    exec (.ssub f) s = .next (did s g l f.s (if b.toNat ≤ a.toNat then setV f.d (a - b)
      else fun t => flagged flagSAT (setV f.d 0 t))) ∧
    (b ≠ 0 → exec (.div f) s = .next (did s g l f.s (setV f.d (BitVec.ofNat 32 (a.toNat / b.toNat))))) ∧
    (b ≠ 0 → exec (.rem f) s = .next (did s g l f.s (setV f.d (BitVec.ofNat 32 (a.toNat % b.toNat)))))

/-- R102, R104 to R106, R109, R110: the same on signed words (`.i32`); neg and abs take B = 0. -/
def Obligations.SignedArithmetic : Prop :=
  ∀ (s : State) (g l : Nat) (t : Thread) (f : FullWord) (a b : W32),
    AtWord s g l t f.pred f.s → Calm s g → Plain f 0x04 0 → f.c = 0 →
    Within s g f.d → Within s g f.a → Within s g f.b → Holds t f.a a → Holds t f.b b →
    exec (.add f) s = .next (did s g l f.s (setV f.d (a + b))) ∧
    exec (.sub f) s = .next (did s g l f.s (setV f.d (a - b))) ∧
    exec (.mul f) s = .next (did s g l f.s (setV f.d (a * b))) ∧
    exec (.mulh f) s = .next (did s g l f.s (setV f.d (BitVec.ofInt 32 (a.toInt * b.toInt / 2 ^ 32)))) ∧
    exec (.min f) s = .next (did s g l f.s (setV f.d (if a.toInt ≤ b.toInt then a else b))) ∧
    exec (.max f) s = .next (did s g l f.s (setV f.d (if b.toInt ≤ a.toInt then a else b))) ∧
    exec (.sadd f) s = .next (did s g l f.s (if a.toInt + b.toInt < -(2 ^ 31)
      then fun t => flagged flagSAT (setV f.d 0x80000000 t) else if 2 ^ 31 ≤ a.toInt + b.toInt
      then fun t => flagged flagSAT (setV f.d 0x7FFFFFFF t) else setV f.d (a + b))) ∧
    exec (.ssub f) s = .next (did s g l f.s (if a.toInt - b.toInt < -(2 ^ 31)
      then fun t => flagged flagSAT (setV f.d 0x80000000 t) else if 2 ^ 31 ≤ a.toInt - b.toInt
      then fun t => flagged flagSAT (setV f.d 0x7FFFFFFF t) else setV f.d (a - b))) ∧
    (b ≠ 0 → exec (.div f) s = .next (did s g l f.s (setV f.d (BitVec.ofInt 32 (a.toInt.tdiv b.toInt))))) ∧
    (b ≠ 0 → exec (.rem f) s = .next (did s g l f.s (setV f.d (BitVec.ofInt 32 (a.toInt.tmod b.toInt))))) ∧
    (f.b = 0 → exec (.neg f) s = .next (did s g l f.s (setV f.d (-a)))) ∧
    (f.b = 0 → exec (.abs f) s = .next (did s g l f.s (setV f.d (if a.toInt < 0 then -a else a))))

/-- R105, R102: under `.sat` the negation and the absolute value of the most negative word give the limit and set SAT; packed
halves add and subtract each on its own. -/
def Obligations.SaturatingAndPacked : Prop :=
  ∀ (s : State) (g l : Nat) (t : Thread) (f : FullWord) (a b : W32),
    AtWord s g l t f.pred f.s → Calm s g → f.c = 0 → Within s g f.d → Within s g f.a → Holds t f.a a →
    (Plain f 0x04 1 → f.b = 0 →
      exec (.neg f) s = .next (did s g l f.s (if a = 0x80000000
        then fun t => flagged flagSAT (setV f.d 0x7FFFFFFF t) else setV f.d (-a))) ∧
      exec (.abs f) s = .next (did s g l f.s (if a = 0x80000000
        then fun t => flagged flagSAT (setV f.d 0x7FFFFFFF t) else setV f.d (if a.toInt < 0 then -a else a)))) ∧
    (Plain f 0x0B 0 → Within s g f.b → Holds t f.b b →
      exec (.add f) s = .next (did s g l f.s (setV f.d
        (((a >>> 16).setWidth 16 + (b >>> 16).setWidth 16) ++ (a.setWidth 16 + b.setWidth 16)))) ∧
      exec (.sub f) s = .next (did s g l f.s (setV f.d
        (((a >>> 16).setWidth 16 - (b >>> 16).setWidth 16) ++ (a.setWidth 16 - b.setWidth 16)))))

/-- R106 to R109: three-operand arithmetic on unsigned words, the 64-bit product in an even pair (v254 with the discarded v255
among them; an odd D traps), and the dot product of packed signed halves, exact and then saturated. -/
def Obligations.MultiOperandArithmetic : Prop :=
  ∀ (s : State) (g l : Nat) (t : Thread) (f : FullWord) (a b c : W32),
    AtWord s g l t f.pred f.s → Calm s g →
    Within s g f.d → Within s g f.a → Within s g f.b → Within s g f.c → Holds t f.a a → Holds t f.b b → Holds t f.c c →
    let x := (a.setWidth 16).toInt * (b.setWidth 16).toInt +
      ((a >>> 16).setWidth 16).toInt * ((b >>> 16).setWidth 16).toInt + c.toInt
    (Plain f 0x08 0 →
      exec (.mad f) s = .next (did s g l f.s (setV f.d (a * b + c))) ∧
      exec (.madh f) s = .next (did s g l f.s
        (setV f.d (BitVec.ofNat 32 ((a.toNat * b.toNat + c.toNat) / 2 ^ 32)))) ∧
      exec (.clamp f) s = .next (did s g l f.s
        (setV f.d (if a.toNat < b.toNat then b else if c.toNat < a.toNat then c else a))) ∧
      exec (.sad f) s = .next (did s g l f.s
        (setV f.d (c + (if a.toNat ≤ b.toNat then b - a else a - b)))) ∧
      (f.c = 0 → f.d.toNat % 2 = 0 → (f.d.toNat + 1 < nreqOf s g ∨ (f.d = 254 ∧ 254 < nreqOf s g)) →
        exec (.mulw f) s = .next (did s g l f.s (setPair f.d (BitVec.ofNat 64 (a.toNat * b.toNat))))) ∧
      (f.c = 0 → f.d.toNat % 2 = 1 →
        ∃ ign, exec (.mulw f) s = .next (trapped s g l t.pc (trapOf causeIllegalOperand 5) ign))) ∧
    (Plain f 0x0A 0 →
      exec (.dot2s f) s = .next (did s g l f.s (if x < -(2 ^ 31) then fun t => flagged flagSAT (setV f.d 0x80000000 t)
        else if 2 ^ 31 ≤ x then fun t => flagged flagSAT (setV f.d 0x7FFFFFFF t) else setV f.d (BitVec.ofInt 32 x))))

/-- R103: the carry or borrow goes in and out through the predicate that XM[2:0] names; p7 reads true and drops its write. -/
def Obligations.CarryChain : Prop :=
  ∀ (s : State) (g l pc : Nat) (t : Thread) (f : FullWord) (a b : W32) (cin : Bool),
    AtWord s g l t f.pred f.s → Calm s g → pc < 8 → Plain f 0x08 pc → f.c = 0 →
    Within s g f.d → Within s g f.a → Within s g f.b → Holds t f.a a → Holds t f.b b → readP t pc = ⟨cin, false⟩ →
    exec (.addc f) s = .next (did s g l f.s fun t =>
      setP pc (decide (2 ^ 32 ≤ a.toNat + b.toNat + cin.toNat))
        (setV f.d (BitVec.ofNat 32 (a.toNat + b.toNat + cin.toNat)) t)) ∧
    exec (.subb f) s = .next (did s g l f.s fun t =>
      setP pc (decide (a.toNat < b.toNat + cin.toNat))
        (setV f.d (BitVec.ofInt 32 ((a.toNat : Int) - b.toNat - cin.toNat)) t))

/-- R102, R109, R26: 64-bit operands in even pairs. -/
def Obligations.PairArithmetic : Prop :=
  ∀ (s : State) (g l : Nat) (t : Thread) (f : FullWord) (a b : W64),
    AtWord s g l t f.pred f.s → Calm s g → Plain f 0x09 0 → f.c = 0 →
    f.d.toNat % 2 = 0 → f.a.toNat % 2 = 0 → f.b.toNat % 2 = 0 →
    f.d.toNat + 1 < nreqOf s g → f.a.toNat + 1 < nreqOf s g → f.b.toNat + 1 < nreqOf s g →
    HoldsPair t f.a a → HoldsPair t f.b b →
    exec (.add f) s = .next (did s g l f.s (setPair f.d (a + b))) ∧
    exec (.sub f) s = .next (did s g l f.s (setPair f.d (a - b))) ∧
    exec (.mul f) s = .next (did s g l f.s (setPair f.d (a * b)))

/-- R111 to R115: bitwise functions, shifts, rotates and extensions of words (`.b32`); a count beyond the width empties
the word; bit i of lop3's result is LUT[A_i + 2·B_i + 4·C_i], the table in XM and C[7:6]. -/
def Obligations.BitwiseResults : Prop :=
  ∀ (s : State) (g l : Nat) (t : Thread) (f : FullWord) (a b : W32),
    AtWord s g l t f.pred f.s → Calm s g →
    Within s g f.d → Within s g f.a → Within s g f.b → Holds t f.a a → Holds t f.b b →
    (Plain f 0x00 0 → f.c = 0 →
      exec (.and f) s = .next (did s g l f.s (setV f.d (a &&& b))) ∧
      exec (.or f) s = .next (did s g l f.s (setV f.d (a ||| b))) ∧
      exec (.xor f) s = .next (did s g l f.s (setV f.d (a ^^^ b))) ∧
      (f.b = 0 → exec (.not f) s = .next (did s g l f.s (setV f.d (~~~ a)))) ∧
      (f.b = 0 → exec (.brev f) s = .next (did s g l f.s (setV f.d a.reverse))) ∧
      (f.b = 0 → exec (.popc f) s = .next (did s g l f.s
        (setV f.d (BitVec.ofNat 32 ((List.range 32).countP fun i => a.getLsbD i))))) ∧
      (f.b = 0 → exec (.clz f) s = .next (did s g l f.s
        (setV f.d (BitVec.ofNat 32 (((List.range 32).find? fun k => a.getLsbD (31 - k)).getD 32))))) ∧
      (f.b = 0 → exec (.ctz f) s = .next (did s g l f.s
        (setV f.d (BitVec.ofNat 32 (((List.range 32).find? fun k => a.getLsbD k).getD 32)))))) ∧
    (∀ (xm : Nat) (c : W32), Plain f 0x00 xm → f.c.toNat % 64 < nreqOf s g → readV t (f.c.toNat % 64) = gen c →
      ∃ r : W32, exec (.lop3 f) s = .next (did s g l f.s (setV f.d r)) ∧
        ∀ i, i < 32 → r.getLsbD i = (xm + f.c.toNat / 64 * 64).testBit
          ((a.getLsbD i).toNat + 2 * (b.getLsbD i).toNat + 4 * (c.getLsbD i).toNat)) ∧
    (f.c = 0 →
      (Plain f 0x00 0 → exec (.shl f) s = .next (did s g l f.s (setV f.d (a <<< b.toNat)))) ∧
      (Plain f 0x00 0 → exec (.shr f) s = .next (did s g l f.s (setV f.d (a >>> b.toNat)))) ∧
      (Plain f 0x04 0 → exec (.sar f) s = .next (did s g l f.s (setV f.d (a.sshiftRight b.toNat)))) ∧
      (Plain f 0x00 0 → exec (.rot f) s = .next (did s g l f.s (setV f.d (a.rotateLeft b.toNat)))) ∧
      (Plain f 0x00 1 → exec (.rot f) s = .next (did s g l f.s (setV f.d (a.rotateRight b.toNat)))) ∧
      (Plain f 0x00 0 → exec (.zext f) s = .next (did s g l f.s
        (setV f.d (BitVec.ofNat 32 (a.toNat % 2 ^ min b.toNat 32))))) ∧
      (Plain f 0x00 0 → exec (.sext f) s = .next (did s g l f.s (setV f.d
        ((a <<< (32 - min b.toNat 32)).sshiftRight (32 - min b.toNat 32))))))

/-- R114, R116, R113, R118: the instructions on fields, bytes and pairs of words; perm under every selector. -/
def Obligations.FieldResults : Prop :=
  ∀ (s : State) (g l : Nat) (t : Thread) (f : FullWord) (a b c : W32),
    AtWord s g l t f.pred f.s → Calm s g →
    Within s g f.d → Within s g f.a → Within s g f.b → Within s g f.c → Holds t f.a a → Holds t f.b b → Holds t f.c c →
    let pos (x : W32) := x.toNat % 32
    let len (x : W32) := min (x.toNat / 256 % 64) 32
    let mask (x : W32) : W32 := BitVec.ofNat 32 ((2 ^ len x - 1) * 2 ^ pos x)
    (Plain f 0x08 0 → f.c = 0 → exec (.bext f) s = .next (did s g l f.s
      (setV f.d (BitVec.ofNat 32 (a.toNat / 2 ^ pos b % 2 ^ len b))))) ∧
    (Plain f 0x00 0 → exec (.bins f) s = .next (did s g l f.s
      (setV f.d (a &&& ~~~ mask c ||| (b <<< pos c) &&& mask c)))) ∧
    (Plain f 0x00 0 → f.b = 0 → f.c = 0 → exec (.bmsk f) s = .next (did s g l f.s (setV f.d (mask a)))) ∧
    (Plain f 0x00 0 → exec (.shf f) s = .next (did s g l f.s
      (setV f.d (((a ++ b) <<< min c.toNat 64) >>> 32 |>.setWidth 32)))) ∧
    (Plain f 0x00 1 → exec (.shf f) s = .next (did s g l f.s
      (setV f.d (((a ++ b) >>> min c.toNat 64).setWidth 32)))) ∧
    (Plain f 0x00 0 → ∃ r : W32, exec (.perm f) s = .next (did s g l f.s (setV f.d r)) ∧ ∀ i, i < 4 →
      let q := c.toNat / 256 ^ i % 256
      let x : Byte := ((a ++ b) >>> (8 * (q % 8))).setWidth 8
      (r >>> (8 * i)).setWidth 8 = match q / 8 % 4 with
        | 0 => x
        | 1 => if x.getLsbD 7 then 0xFF else 0
        | 2 => 0
        | _ => 0xFF) ∧
    (Plain f 0x08 0 → f.c = 0 → exec (.rshr f) s = .next (did s g l f.s
      (setV f.d (BitVec.ofNat 32 ((a.toNat + 2 ^ min b.toNat 31 / 2) / 2 ^ min b.toNat 31)))))

/-- R119 to R122: comparison, selection, moves and predicates. -/
def Obligations.MoveResults : Prop :=
  ∀ (s : State) (g l : Nat) (t : Thread) (f : FullWord) (a b : W32),
    AtWord s g l t f.pred f.s → Calm s g →
    Within s g f.a → Within s g f.b → Holds t f.a a → Holds t f.b b →
    (∀ cond, cond < 6 → Plain f 0x04 cond → f.c = 0 → f.d.toNat < 8 →
      exec (.setc f) s = .next (did s g l f.s (setP f.d.toNat (holdsCond cond a b)))) ∧
    (∀ x, Plain f 0x00 0 → f.c.toNat < 8 → readP t f.c.toNat = ⟨x, false⟩ → Within s g f.d →
      exec (.sel f) s = .next (did s g l f.s (setV f.d (if x then a else b)))) ∧
    (Plain f 0x00 0 → f.b = 0 → f.c = 0 → Within s g f.d →
      exec (.mov f) s = .next (did s g l f.s (setV f.d a))) ∧
    (Plain f 0x00 1 → f.b = 0 → f.c = 0 → f.d.toNat < 4 →
      exec (.mov f) s = .next (did s g l f.s fun t => writeX t f.d.toNat (a.setWidth 8))) ∧
    (Plain f 0x00 0 → f.b = 0 → f.c = 0 → f.d.toNat < 8 →
      exec (.pset f) s = .next (did s g l f.s (setP f.d.toNat (a != 0)))) ∧
    (Plain f 0x00 1 → f.b = 0 → f.c = 0 → f.d.toNat < 8 →
      exec (.pset f) s = .next (did s g l f.s (setP f.d.toNat (a.getLsbD 0))))

/-- R122: the predicate instructions, with the inversions NA and NB; poison passes to the result (R18). -/
def Obligations.PredicateResults : Prop :=
  ∀ (s : State) (g l : Nat) (t : Thread) (f : FullWord) (na nb : Bool) (a b : Prd),
    AtWord s g l t f.pred f.s → Calm s g → Plain f 0x00 (na.toNat + 2 * nb.toNat) → f.c = 0 →
    f.d.toNat < 8 → f.a.toNat < 8 → f.b.toNat < 8 → readP t f.a.toNat = a → readP t f.b.toNat = b →
    exec (.pand f) s = .next (did s g l f.s fun t =>
      writeP t f.d.toNat ⟨(a.t != na) && (b.t != nb), a.psn || b.psn⟩) ∧
    exec (.por f) s = .next (did s g l f.s fun t =>
      writeP t f.d.toNat ⟨(a.t != na) || (b.t != nb), a.psn || b.psn⟩) ∧
    exec (.pxor f) s = .next (did s g l f.s fun t =>
      writeP t f.d.toNat ⟨(a.t != na) != (b.t != nb), a.psn || b.psn⟩) ∧
    (na = false → nb = false → f.b = 0 →
      exec (.pnot f) s = .next (did s g l f.s fun t => writeP t f.d.toNat ⟨!a.t, a.psn⟩))

/-- R18, R28, R71, R129: every instruction of opcode groups 0x0 to 0x4 in a lane where the encoding and the kernel admit the
word, the sixteenth of a run with its marker set among them: the operands are read one after the other (a queue operand is
popped, R79), and where no trap arises the words are written, as poison when an operand is poisoned. Nothing else in the
package changes. The register results of a word with a queue operand land later (R72, R79), its predicate result does not (log
entry 41). A push (R79) is left to `QueuesAndAllotment`. Where several sub-codes or registers offend at once, and where a flag
or value is open, the model takes a free value (log entries 5 and 30). -/
def Obligations.LaneArithmetic : Prop :=
  ∀ (s s1 s2 s3 : State) (g l : Nat) (t : Thread) (i : Instr) (op : R75Op) (ds : List Nat) (a b c ws : List Word),
    r75Op i = some op → AtWord s g l t op.f.pred op.f.s → Calm s g → r75Pre op.row op.f (taken s) g l = none →
    (omodeOf op.f ≠ 4 ∨ oselOf op.f ≠ 3) → destRegs op.row op.f (nreqOf s g) t = .ok ds →
    readOperand op.row op.f (taken s) g l t 0 = .words s1 a →
    readOperand op.row op.f s1 g l t 1 = .words s2 b →
    readOperand op.row op.f s2 g l t 2 = .words s3 c → getG s3 g = getG s g →
    let o := op.run ⟨op.f, a, b, c, t⟩
    let psn := (a ++ b ++ c).any isPoison || (op.row.regs.any fun n => isPoison (readV t n)) ||
      op.row.preds.any fun p => (readP t p).psn
    o.trap = none → (psn = true ∨ o.bad = none) → settleAll psn o.words = some ws →
    let done := modT s3 g l (commit (if popsQueue op.f then some s3.cycle else none) psn (ds.zip ws) o)
    exec i s = .next (past (if popsQueue op.f then qFlag done g l (fieldAt op.f (oselOf op.f)) false else done) g l op.f.s)

/-- R77, R78, R80, R121: the operand modes, through `mov` of operand A: an indirect register, a codebook entry, a uniform
register and an 8-bit immediate. -/
def Obligations.OperandModes : Prop :=
  ∀ (s : State) (g l : Nat) (t : Thread) (f : FullWord) (v : W32),
    AtWord s g l t f.pred f.s → Calm s g → Within s g f.d → f.b = 0 →
    (∀ n : Nat, Moded f 0x00 1 0 0 → f.c = 0 → n < nreqOf s g → n ≠ 255 →
      (n : Int) = (readX t (f.a.toNat / 64)).toNat + (f.a.setWidth 6).toInt → readV t n = gen v →
      exec (.mov f) s = .next (did s g l f.s (setV f.d v))) ∧
    (∀ (idx : W32) (i : Nat) (e : CbEntry), Moded f 0x00 2 0 0 → Within s g f.a → Holds t f.a idx →
      (f.c.getLsbD 2 && !f.c.getLsbD 3) = false → ownsBank s g (f.c.toNat / 16) = true →
      i = (if f.c.getLsbD 3 then idx.toNat / 16 ^ (f.c.toNat % 8) % 16 else idx.toNat / 256 ^ (f.c.toNat % 8) % 256) →
      bankEntry s (coreOf s g) (f.c.toNat / 16) i = e → entryTrap e = none →
      exec (.mov f) s = .next (did s g l f.s (setV f.d e.val))) ∧
    (∀ W : Wg, Moded f 0x00 5 0 0 → f.c = 0 → f.a.toNat < 32 → wgOf s g = some W → W.g.getD f.a.toNat .zero = gen v →
      exec (.mov f) s = .next (did s g l f.s (setV f.d v))) ∧
    (Moded f 0x00 6 0 0 → f.c = 0 → exec (.mov f) s = .next (did s g l f.s (setV f.d (f.a.signExtend 32))))

/-- R123, R67: the long-immediate forms; movi takes A = 0. -/
def Obligations.LongImmediates : Prop :=
  ∀ (s : State) (g l : Nat) (t : Thread) (w : LongWord) (a : W32),
    AtWord s g l t w.pred w.s → Calm s g → w.pred ≠ 0xF → Within s g w.d → Within s g w.a → Holds t w.a a →
    (w.a = 0 → exec (.movi w) s = .next (did s g l w.s (setV w.d w.imm))) ∧
    exec (.addLong w) s = .next (did s g l w.s (setV w.d (a + w.imm))) ∧
    exec (.mulLong w) s = .next (did s g l w.s (setV w.d (a * w.imm))) ∧
    exec (.andLong w) s = .next (did s g l w.s (setV w.d (a &&& w.imm))) ∧
    exec (.orLong w) s = .next (did s g l w.s (setV w.d (a ||| w.imm))) ∧
    exec (.xorLong w) s = .next (did s g l w.s (setV w.d (a ^^^ w.imm)))

/-- R83, R84, R88: a paired word. Two slots that complete both have their effect, and Y reads its sources as they stood before
X; a store enters its space from either slot. Every restricted opcode may stand in slot X. -/
def Obligations.PairedWords : Prop :=
  ∀ (s : State) (g l : Nat) (t : Thread) (ox : SlotOp) (p : PairWord) (FY : Thread → Thread),
    AtWord s g l t 7 p.s → Calm s g → pairPre ox p (taken s) g l = none →
    let stores (o : SlotOp) (x : Slot) (A : Nat) (w : Word) : Prop := slotKind o = .store ∧
      (∃ a : W32, Holds t x.a a ∧ A = a.toNat + 4 * x.b.toNat) ∧ A % 4 = 0 ∧ A + 4 ≤ localSize s g (slotSpace o) ∧
      readV t x.d.toNat = w ∧ mismatch w = false
    let put (s' : State) (o : SlotOp) (A : Nat) (w : Word) : State :=
      localPut s' g l (slotSpace o) (localAt s g (slotSpace o) A) w
    (SlotDoes s g l t p.opY p.y FY →
      (∀ FX, SlotDoes s g l t ox p.x FX → exec (pairInstr ox p) s = .next (did s g l p.s fun t => FY (FX t))) ∧
      (∀ A w, stores ox p.x A w → exec (pairInstr ox p) s = .next (past (modT (put (taken s) ox A w) g l FY) g l p.s))) ∧
    (∀ FX A w, SlotDoes s g l t ox p.x FX → stores p.opY p.y A w →
      exec (pairInstr ox p) s = .next (past (put (modT (taken s) g l FX) p.opY A w) g l p.s))

/-- R153, R156, R158: loads of one word from the local spaces. `.lp`, `.cs` and `.ks` are 0, 1 and 2; the word arrives with
variable latency (an open number of cycles, log entry 11), residue and poison as they stand; lda then acquires at its scope. -/
def Obligations.LocalLoads : Prop :=
  ∀ (s : State) (g l sp A : Nat) (t : Thread) (f : FullWord) (a x : W32) (w : Word),
    AtWord s g l t f.pred f.s → Calm s g → sp < 3 → spaceOf f = sp → tyOf f = 0 → vecOf f = 0 → ubOf f = false →
    Holds t f.a a → A % 4 = 0 → A + 4 ≤ localSize s g sp → localWord s g t sp A = w → mismatch w = false →
    (memPre false false f s g l = none → (A : Int) = a.toNat + 4 * f.c.toInt →
      exec (.ld f) s = .next (did s g l f.s (late s [(f.d.toNat, w)] []))) ∧
    (memPre false true f s g l = none → Holds t f.b x →
      (A : Int) = a.toNat + 4 * f.c.toInt + x.toNat * 2 ^ scOf f →
      exec (.ldx f) s = .next (did s g l f.s (late s [(f.d.toNat, w)] []))) ∧
    (memPre true false f s g l = none → (A : Int) = a.toNat + 4 * f.c.toInt →
      exec (.lda f) s = .next (past (acquireAt (modT (taken s) g l (late s [(f.d.toNat, w)] []))
        (coreOf s g) (scOf f)) g l f.s))

/-- R153, R157, R158, R271: stores of one word to the local spaces; stl releases at its scope first. -/
def Obligations.LocalStores : Prop :=
  ∀ (s : State) (g l sp A : Nat) (t : Thread) (f : FullWord) (a : W32) (w : Word),
    AtWord s g l t f.pred f.s → sp < 3 → spaceOf f = sp → tyOf f = 0 → vecOf f = 0 → ubOf f = false →
    Holds t f.a a → (A : Int) = a.toNat + 4 * f.c.toInt → A % 4 = 0 → A + 4 ≤ localSize s g sp →
    readV t f.d.toNat = w → mismatch w = false →
    (memPre false false f s g l = none →
      exec (.st f) s = .next (past (localPut (taken s) g l sp (localAt s g sp A) w) g l f.s)) ∧
    (memPre true false f s g l = none →
      exec (.stl f) s = .next (past (localPut (releaseAt (taken s) (coreOf s g) (scOf f)) g l sp
        (localAt s g sp A) w) g l f.s))

/-- R157: what a store to `.cs` changes: the word that it names, which a later load returns, and no other byte and no other
residue of any memory; in the rest of the package only the lane passes its word: no other state of the machine, no other group, no other
part of the lane's group and no other lane changes. -/
def Obligations.ScratchStoreFrame : Prop :=
  ∀ (s : State) (g l A : Nat) (t : Thread) (f : FullWord) (a : W32) (w : Word),
    AtWord s g l t f.pred f.s → spaceOf f = 1 → tyOf f = 0 → vecOf f = 0 → ubOf f = false →
    Holds t f.a a → (A : Int) = a.toNat + 4 * f.c.toInt → A % 4 = 0 → A + 4 ≤ scratchOf s g →
    readV t f.d.toNat = w → mismatch w = false → memPre false false f s g l = none → Memory.allWf s = true →
    ∃ s', exec (.st f) s = .next s' ∧ readWord s'.cs (csAddr s g + A) = w ∧
      (∀ x, x / 4 ≠ (csAddr s g + A) / 4 → readByte s'.cs x = readByte s.cs x ∧ readWord s'.cs x = readWord s.cs x) ∧
      { s' with cs := s.cs, groups := s.groups, coach := s.coach } = s ∧
      (∀ h, h ≠ g → getG s' h = getG s h) ∧
      (∀ G H, getG s g = some G → getG s' g = some H → { H with threads := G.threads } = G) ∧
      (∀ k, k ≠ l → getT s' g k = getT s g k) ∧
      ∃ u, getT s' g l = some u ∧ u.pc = t.pc + 8 ∧
        { u with
          pc := t.pc, ibuf := t.ibuf, cls := t.cls, w := t.w, stuck := t.stuck, wait := t.wait, run := t.run } = t

/-- R152 to R157, R306: loads and stores of one word in `.gm` and `.xs`, once the place has been found: a load takes the word
from the core's cache, store path or home; a store enters the store path. The search and the load leave the lane as it is.
How long caches and store path hold what they hold is the model's (log entries 10, 11, 61). -/
def Obligations.SharedAccesses : Prop :=
  ∀ (s s1 : State) (g l : Nat) (t : Thread) (f : FullWord) (p : Loc) (addr : Int),
    AtWord s g l t f.pred f.s → 3 ≤ p.space → tyOf f = 0 → vecOf f = 0 → memPre false false f s g l = none →
    effAddr false f s g t = (false, addr) → getG s1 g = getG s g →
    (∀ s2 w, locate (taken s) g (spaceOf f) 4 ⟨true, false, false, isUser s g l⟩ addr = (.ok p, s1) →
      loadWord s1 g l (coreOf s g) (chOf f) p 0 = (w, s2) → mismatch w = false → Calm s g → getG s2 g = getG s g →
      exec (.ld f) s = .next (past (modT s2 g l (late s [(f.d.toNat, w)] [])) g l f.s)) ∧
    (∀ w, locate (taken s) g (spaceOf f) 4 ⟨false, true, false, isUser s g l⟩ addr = (.ok p, s1) →
      readV t f.d.toNat = w → mismatch w = false → (p.pt && isPoison w) = false →
      getG (storePatch s1 g l (coreOf s g) p 0 (wholePatch w) (chOf f == 2)) g = getG s g →
      exec (.st f) s = .next (past (storePatch s1 g l (coreOf s g) p 0 (wholePatch w) (chOf f == 2)) g l f.s))

/-- R153, R154: a local access whose address lies outside its region raises PROTECTION, and one whose address lies inside it but is
not aligned MISALIGNED; each with the address in `%tval`; the lane writes nothing. Where only the end of the access lies
outside, the order of the two checks is the model's choice (log entry 37): a misaligned address raises MISALIGNED, and an
aligned one, whose last byte lies outside, PROTECTION. -/
def Obligations.AddressTraps : Prop :=
  ∀ (s : State) (g l sp : Nat) (t : Thread) (f : FullWord) (a : W32) (addr : Int),
    AtWord s g l t f.pred f.s → sp < 3 → spaceOf f = sp → tyOf f = 0 → vecOf f = 0 → ubOf f = false →
    Holds t f.a a → addr = a.toNat + 4 * f.c.toInt → memPre false false f s g l = none →
    let stops (cause : Nat) : Prop :=
      let x := trapAt cause 0 (BitVec.ofInt 64 addr)
      exec (.ld f) s = .next (trapped s g l t.pc x (ending f.s (dead [f.d.toNat]))) ∧
      exec (.st f) s = .next (trapped s g l t.pc x (ending f.s .none))
    (addr < 0 ∨ (localSize s g sp : Int) ≤ addr → stops causeProtection) ∧
    (0 ≤ addr → addr < localSize s g sp → addr % 4 ≠ 0 → stops causeMisaligned) ∧
    (0 ≤ addr → addr % 4 = 0 → (localSize s g sp : Int) < addr + 4 → stops causeProtection)

/-- R160 to R163, R198: atomics on a word of `.cs` or `.ks`: D receives the old value, the word the new one; acas stores C when
the old value equals B; red returns nothing and counts as under way. When the result lands, and when a red has been
performed, is open (log entry 11). -/
def Obligations.Atomics : Prop :=
  ∀ (s : State) (g l sp aop A sc : Nat) (t : Thread) (f : FullWord) (a b c m : W32),
    AtWord s g l t f.pred f.s → Calm s g → f.pred ≠ 0xF → (sp = 1 ∨ sp = 2) → 1 ≤ sc → sc ≤ 5 →
    Within s g f.a → Within s g f.b → Holds t f.a a → Holds t f.b b → A = a.toNat → A % 4 = 0 →
    A + 4 ≤ localSize s g sp → localWord s g t sp A = gen m →
    (aop < 9 → f.mod.toNat = (if aop < 3 ∨ 6 < aop then 0x08 else 0) * 2 ^ 11 + sp * 2 ^ 8 + aop * 2 ^ 4 →
      f.c.toNat = sc → Within s g f.d →
      exec (.atom f) s = .next (past (localPut (modT (taken s) g l (late s [(f.d.toNat, gen m)] [])) g l sp
        (localAt s g sp A) (gen (atomValue aop m b))) g l f.s)) ∧
    (aop < 6 → f.mod.toNat = (if aop < 3 then 0x08 else 0) * 2 ^ 11 + sp * 2 ^ 8 + aop * 2 ^ 4 →
      f.c.toNat = sc → f.d = 0 →
      exec (.red f) s = .next (past (modT (localPut (taken s) g l sp (localAt s g sp A) (gen (atomValue aop m b))) g l
        fun t => { t with reds := t.reds + 1 }) g l f.s)) ∧
    (f.mod.toNat = sp * 2 ^ 8 + sc * 2 ^ 4 → Within s g f.c → Within s g f.d → Holds t f.c c →
      exec (.acas f) s = .next (past (if m = b
        then localPut (modT (taken s) g l (late s [(f.d.toNat, gen m)] [])) g l sp (localAt s g sp A) (gen c)
        else modT (taken s) g l (late s [(f.d.toNat, gen m)] [])) g l f.s))

/-- R181, R182, R318: tbind binds a tile that no workgroup holds, tstate writes the word of R182, tfree empties a tile that is
ready, empty, or left filling by a copy that stopped. -/
def Obligations.TileResults : Prop :=
  ∀ (s : State) (g l : Nat) (t : Thread) (G : Group) (f : FullWord) (off len : W32),
    AtWord s g l t f.pred f.s → getG s g = some G →
    (tbindPre f s g l = none → spaceOf f = 1 → Holds t f.a off → Holds t f.b len →
      tileOf s G.core (f.d.toNat % 64) = none → len ≠ 0 → off.toNat % 64 = 0 → len.toNat % 64 = 0 →
      off.toNat + len.toNat ≤ scratchOf s g →
      (∀ u ∈ s.tiles, u.core = G.core → u.owner = G.wg → u.ks = false →
        off.toNat + len.toNat ≤ u.off ∨ u.off + u.len ≤ off.toNat) →
      exec (.tbind f) s = .next (past { taken s with tiles :=
        ⟨G.core, f.d.toNat % 64, G.wg, false, off.toNat, len.toNat, false, .empty, none⟩ :: s.tiles } g l f.s)) ∧
    (tstatePre f s g l = none → foreignTrap s g (f.a.toNat % 64) = none →
      exec (.tstate f) s = .next (did s g l f.s (setV f.d (tileWord (tileOf s G.core (f.a.toNat % 64)))))) ∧
    (∀ u, tfreePre f s g l = none → tileOf s G.core (f.a.toNat % 64) = some u →
      u.st = .ready ∨ u.st = .empty ∨ (u.st = .filling ∧ u.stopped.isSome) →
      exec (.tfree f) s = .next (past (setTile (taken s) { u with st := .empty, stopped := none }) g l f.s))

/-- R164, R165, R174, R175, R180: a copy instruction of a group whose descriptor lies in its scratchpad, with no forming copy
to join and no wait: a copy of its kind begins, holding the descriptor as it stands, the fields of the word, the barrier and
the tile that they name among them, and the cart of this group; the tile leaves its resting state. -/
def Obligations.CopyStarts : Prop :=
  ∀ (s : State) (g l A : Nat) (t : Thread) (G : Group) (k : CopyKind) (f : FullWord) (i : Instr),
    AtWord s g l t f.pred f.s → getG s g = some G →
    ((k = .cpy ∧ i = .cpy f) ∨ (k = .cpyc ∧ i = .cpyc f) ∨ (k = .gath ∧ i = .gath f) ∨ (k = .scat ∧ i = .scat f) ∨
      (k = .cpys ∧ i = .cpys f) ∨ (k = .tdrain ∧ i = .tdrain f)) →
    copyPre k f s g l = none → Holds t f.a (BitVec.ofNat 32 A) → A < 2 ^ 32 → A % 64 = 0 → A + 64 ≤ scratchOf s g →
    (f.b.getLsbD 7 = true → (groupBar s g (barLvl f.b) (barNum f.b)).isSome) → badMreg k f s g = false →
    formingOf s g k = none → copyBlocked k f s g = false → (∀ c ∈ s.copies, c.id < s.uid) →
    ∃ s' c, exec i s = .next s' ∧ s'.copies = s.copies ++ [c] ∧ c.id = s.uid ∧ c.kind = k ∧ c.core = G.core ∧
      c.wg = G.wg ∧ c.bar = f.b ∧ c.tile = f.c ∧ c.mod = f.mod ∧ c.result = none ∧
      c.carts.map (fun x => (x.grp, x.desc)) = [(g, readWords s.cs (csAddr s g + A) 16)] ∧
      s'.tiles = (if namesTile k f then s.tiles.map fun u => if u.core = G.core ∧ u.num = f.c.toNat % 64
        then { (tileOf s G.core (f.c.toNat % 64)).getD u with
          st := if k = .tdrain then TileSt.draining else .filling, stopped := none }
        else u else s.tiles) ∧
      (getT s' g l).map (·.pc) = some (t.pc + 8)

/-- R179: cpre acquires under its modifier, reads the source window of its descriptor into L2, or nothing where the descriptor is
in error, and retires. -/
def Obligations.CopyPrefetch : Prop :=
  ∀ (s : State) (g l A : Nat) (t : Thread) (G : Group) (f : FullWord),
    AtWord s g l t f.pred f.s → getG s g = some G → cprePre f s g l = none →
    Holds t f.a (BitVec.ofNat 32 A) → A < 2 ^ 32 → A % 64 = 0 → A + 64 ≤ scratchOf s g → inFlight s G.core < 64 →
    let d := descOf (readWords s.cs (csAddr s g + A) 16)
    let c : Copy := ⟨0, .cpy, G.core, G.wg, partOf s g, isSuper G l, false, [], 0, 0, 0, false, none⟩
    let s1 := if copyAcq f.mod then acquireAt (taken s) G.core (copyScope f.mod) else taken s
    (descError .cpy 0 false none d = true → exec (.cpre f) s = .next (past s1 g l f.s)) ∧
    (descError .cpy 0 false none d = false → getG (prefetch c d s1) g = some G →
      exec (.cpre f) s = .next (past (prefetch c d s1) g l f.s))

/-- R183, R307, R322, R323: fence releases and then acquires at its scope, or only one of the two under its modifier. A release
above `.core` sends every buffer of the core's store path to its home, each as a step that sends it alone would, and an acquire
above `.core` drops every line of the core's cache; at `.core` neither does anything. The order of the sends, oldest first, is
the model's (log entry 61). -/
def Obligations.Fences : Prop :=
  ∀ (s : State) (core n : Nat),
    (∀ (g l : Nat) (t : Thread) (f : FullWord),
      AtWord s g l t f.pred f.s → subTrap (fenceSubs f) = none →
      getG (releaseAt (taken s) (coreOf s g) (spaceOf f)) g = getG s g →
      exec (.fence f) s = .next (past
        (match vecOf f with
         | 0 => acquireAt (releaseAt (taken s) (coreOf s g) (spaceOf f)) (coreOf s g) (spaceOf f)
         | 1 => acquireAt (taken s) (coreOf s g) (spaceOf f)
         | _ => releaseAt (taken s) (coreOf s g) (spaceOf f)) g l f.s)) ∧
    (n ≤ 1 → releaseAt s core n = s ∧ acquireAt s core n = s) ∧
    (1 < n →
      (∀ line, dcFind (acquireAt s core n) core line = none) ∧
      (∀ k line, k ≠ core → dcFind (acquireAt s core n) k line = dcFind s k line) ∧
      { acquireAt s core n with dcache := s.dcache } = s ∧
      (releaseAt s core n).wc = s.wc.filter (fun x => x.core != core) ∧
      (releaseAt s core n).groups = s.groups ∧
      ((∀ b ∈ s.wc, b.core ≠ core) → releaseAt s core n = s) ∧
      ∀ b, s.wc.find? (fun x => x.core == core) = some b →
        s.wc.filter (fun x => x.core == core && x.xs == b.xs && x.line == b.line) = [b] →
        ∃ s1, exec (.storePathFlush core b.xs b.line) s = .next s1 ∧ s1.wc = s.wc.filter (· != b) ∧
          releaseAt s core n = releaseAt s1 core n)

/-- R184, R186, R187: the sync objects, once the place is found and the scope record admits the lane: an acquire that the state
word lets through, in its turn, writes the new word and acquires, and the observe form only acquires; one that it does not let
through makes sacq wait and stry write false; srel counts the version up, records scope and unit, and releases first. On the
state word a shared acquire adds one to SHARED while EXCL is clear, an exclusive one needs both clear and sets EXCL, and a
release undoes one of them and adds one to VERSION. -/
def Obligations.SyncObjects : Prop :=
  ∀ (s s1 s2 : State) (g l : Nat) (t : Thread) (f : FullWord) (p : Loc) (w : Word),
    AtWord s g l t f.pred f.s → getG s2 g = getG s g →
    let xs := p.space == 3
    let line := p.at_ / 64
    (∀ v, syncPlace false f (taken s) g l t = (.ok p, s1) → homeWord s1 (coreOf s1 g) p = (w, s2) →
      vecOf f ≠ 0 → isFirst s2 xs line g l = true → syncGrant (vecOf f == 2) w.val = some v →
      getG (putState s2 (coreOf s1 g) p v) g = getG s g →
      let s3 := acquireAt (dropWait (putState s2 (coreOf s1 g) p v) g l) (coreOf s1 g) (spaceOf f)
      (syncPre 0 f s g l = none → exec (.sacq f) s = .next (past s3 g l f.s)) ∧
      (syncPre 2 f s g l = none → exec (.stry f) s = .next (past (modT s3 g l (setP f.d.toNat true)) g l f.s))) ∧
    (syncPlace false f (taken s) g l t = (.ok p, s1) → homeWord s1 (coreOf s1 g) p = (w, s2) → vecOf f = 0 →
      let s3 := acquireAt (dropWait s2 g l) (coreOf s1 g) (spaceOf f)
      (syncPre 0 f s g l = none → exec (.sacq f) s = .next (past s3 g l f.s)) ∧
      (syncPre 2 f s g l = none → exec (.stry f) s = .next (past (modT s3 g l (setP f.d.toNat true)) g l f.s))) ∧
    (syncPlace false f (taken s) g l t = (.ok p, s1) → homeWord s1 (coreOf s1 g) p = (w, s2) → vecOf f ≠ 0 →
      isFirst s2 xs line g l = false ∨ syncGrant (vecOf f == 2) w.val = none →
      (syncPre 2 f s g l = none → exec (.stry f) s = .next (past (modT s2 g l (setP f.d.toNat false)) g l f.s)) ∧
      (syncPre 0 f s g l = none → (∀ x ∈ s2.syncWaits, (x.grp, x.lane) ≠ (g, l)) →
        exec (.sacq f) s = .next (modT (modT { s2 with syncWaits :=
          s2.syncWaits ++ [⟨xs, line, g, l, vecOf f == 2, spaceOf f, p.attr.cl, p.attr.key, false⟩] } g l fun t => { t with wait := .sacq })
          g l fun t => { t with cls := .normal, w := 0 }))) ∧
    (syncPre 1 f s g l = none → syncPlace true f (taken s) g l t = (.ok p, s1) →
      homeWord (releaseAt s1 (coreOf s1 g) (spaceOf f)) (coreOf s1 g) p = (w, s2) →
      getG (putState s2 (coreOf s1 g) p (syncRelease w.val)) g = getG s g →
      exec (.srel f) s = .next (past (putRec_ (putState s2 (coreOf s1 g) p (syncRelease w.val)) (coreOf s1 g)
        (spaceOf f) xs line) g l f.s)) ∧
    ∀ v : W32, v &&& 0x7F000000 = 0 →
      (v.getLsbD 31 = true → syncGrant false v = none ∧ syncGrant true v = none) ∧
      (v.getLsbD 31 = false → v.toNat / 2 ^ 16 < 255 →
        syncGrant false v = some (v + 0x10000) ∧ syncRelease (v + 0x10000) = (v &&& 0xFFFF0000) ||| ((v + 1) &&& 0xFFFF)) ∧
      (v.getLsbD 31 = false → (syncGrant true v).isSome = (v.toNat / 2 ^ 16 == 0)) ∧
      (v.toNat / 2 ^ 16 = 0 → syncGrant true v = some (v ||| 0x80000000) ∧
        syncRelease (v ||| 0x80000000) = (v + 1) &&& 0xFFFF)

/-- R188, R154, R279: cache maintenance acts on every line of the range (at least one) whose base is not poisoned; a range that
starts outside the allotment raises PROTECTION, and one that starts at an address that is not canonical XLATE (log entry
37). -/
def Obligations.CacheControl : Prop :=
  ∀ (s : State) (g l addr : Nat) (t : Thread) (f : FullWord) (n : W32),
    AtWord s g l t f.pred f.s → baseIn s g t (spaceOf f) false f.a = (false, addr) → Holds t f.b n → n.toNat ≤ 2 ^ 24 →
    let upkeep (op : Nat) := cacheLines op f (coreOf s g) (partOf s g) (isUser s g l) addr (max n.toNat 1) (taken s)
    (cacheTrap f s g addr = none →
      (cachePre false f s g l = none → getG (upkeep 0) g = getG s g → exec (.cinv f) s = .next (past (upkeep 0) g l f.s)) ∧
      (cachePre false f s g l = none → getG (upkeep 1) g = getG s g → exec (.cwb f) s = .next (past (upkeep 1) g l f.s)) ∧
      (cachePre true f s g l = none → getG (upkeep 2) g = getG s g →
        exec (.chint f) s = .next (past (upkeep 2) g l f.s))) ∧
    (∀ x, cacheTrap f s g addr = some x → let stops := Host.Outcome.next (trapped s g l t.pc x (ending f.s .none))
      (spaceOf f = 3 → x = trapAt causeProtection 0 (BitVec.ofNat 64 addr)) ∧
      (spaceOf f ≠ 3 → x = trapAt causeXlate 1 (BitVec.ofNat 64 addr)) ∧
      (cachePre false f s g l = none → exec (.cinv f) s = stops ∧ exec (.cwb f) s = stops) ∧
      (cachePre true f s g l = none → exec (.chint f) s = stops))

/-- R189 to R191, R349: codebook words of one entry: cbld and cbw put a write on its way to the bank, cbinv one that makes the
entry invalid, cbst writes the two image words; cbfence passes when no write of the group is on its way; the oldest write of
a bank that no earlier op waits for completes. -/
def Obligations.Codebooks : Prop :=
  ∀ (s : State) (g l A first : Nat) (t : Thread) (G : Group) (f : FullWord) (a r : W32),
    AtWord s g l t f.pred f.s → getG s g = some G → Holds t f.a a → Holds t f.b r →
    let bank := f.d.toNat % 16
    (first < 256 → r.toNat % 2 ^ 17 = first + 256 → spaceOf f = 1 → A = a.toNat → A % 8 = 0 → A + 8 ≤ scratchOf s g →
      cbMemPre f s g l = none →
      exec (.cbld f) s = .next (past (bankWrite (taken s) G.core bank g
        [(first, entryOf (readWord s.cs (csAddr s g + A)) (readWord s.cs (csAddr s g + A + 4)))]) g l f.s) ∧
      ((imageOf (bankEntry s G.core bank first)).any mismatch = false →
        exec (.cbst f) s = .next (past { taken s with
          cs := (writeWord (writeWord s.cs (csAddr s g + A) ((imageOf (bankEntry s G.core bank first)).getD 0 .zero))
            (csAddr s g + A + 4) ((imageOf (bankEntry s G.core bank first)).getD 1 .zero)) } g l f.s))) ∧
    (cbwPre f s g l = none → (∀ w ∈ s.bankWrites, w.stamp < s.uid) →
      exec (.cbw f) s = .next (past (bankWrite (taken s) G.core bank g [(a.toNat % 256, halves r)]) g l f.s)) ∧
    (first < 256 → r.toNat % 2 ^ 17 = first + 256 → cbinvPre f s g l = none →
      exec (.cbinv f) s = .next (past (bankWrite (taken s) G.core bank g
        [(first, ⟨(bankEntry s G.core bank first).val, 0xF, 0xF⟩)]) g l f.s)) ∧
    (subTrap (cbfenceSubs f) = none → bankPending s g = false →
      exec (.cbfence f) s = .next (past (taken s) g l f.s)) ∧
    (∀ core b w, oldestWrite s core b = some w → writeWaits s w = false →
      exec (.bankWriteComplete core b) s = .next (cbRelease (setEntries
        { s with bankWrites := s.bankWrites.filter fun x => x.stamp != w.stamp } core b w.ents)))

/-- R195, R196: branches, calls with and without a link pair, indirect branches to a register pair or relative to the PC, and
returns; a target that is not a multiple of 8 raises MISALIGNED (of bra and call where the PC itself is none, as R69 leaves it
in a handler). -/
def Obligations.ControlTransfers : Prop :=
  ∀ (s : State) (g l : Nat) (t : Thread) (w : LongWord) (f : FullWord) (dest : W64) (a : W32),
    getT s g l = some t →
    (AtWord s g l t w.pred true → braPre false w s g l = none → dest = t.pc + BitVec.ofInt 64 (8 * w.imm.toInt) →
      (dest &&& 7 = 0 → exec (.bra w) s = .next (modT (taken s) g l (jumpTo dest))) ∧
      (dest &&& 7 ≠ 0 →
        exec (.bra w) s = .next (trapped s g l t.pc (trapAt causeMisaligned 0 dest) (ending true .none)))) ∧
    (AtWord s g l t w.pred true → braPre true w s g l = none → dest = t.pc + BitVec.ofInt 64 (8 * w.imm.toInt) →
      (dest &&& 7 = 0 → exec (.call w) s = .next (modT
        (if w.d = 255 then taken s else modT (taken s) g l (setPair w.d (t.pc + 8))) g l (jumpTo dest))) ∧
      (dest &&& 7 ≠ 0 → exec (.call w) s = .next (trapped s g l t.pc (trapAt causeMisaligned 0 dest)
        (ending true (zeroed (linkRegs w) []))))) ∧
    (AtWord s g l t f.pred true → brxPre true f s g l = none → brxRel f = false → HoldsPair t f.a dest →
      (dest &&& 7 = 0 → exec (.brx f) s = .next (modT (taken s) g l (jumpTo dest))) ∧
      (dest &&& 7 ≠ 0 →
        exec (.brx f) s = .next (trapped s g l t.pc (trapAt causeMisaligned 0 dest) (ending true .none)))) ∧
    (AtWord s g l t f.pred true → brxPre true f s g l = none → brxRel f = true → Holds t f.a a →
      dest = t.pc + BitVec.ofInt 64 a.toInt →
      (dest &&& 7 = 0 → exec (.brx f) s = .next (modT (taken s) g l (jumpTo dest))) ∧
      (dest &&& 7 ≠ 0 →
        exec (.brx f) s = .next (trapped s g l t.pc (trapAt causeMisaligned 0 dest) (ending true .none)))) ∧
    (AtWord s g l t f.pred true → brxPre false f s g l = none → HoldsPair t f.a dest → dest &&& 7 = 0 →
      exec (.ret f) s = .next (modT (taken s) g l (jumpTo dest))) ∧
    (AtWord s g l t f.pred true → brxPre false f s g l = none → HoldsPair t f.a dest → dest &&& 7 ≠ 0 →
      exec (.ret f) s = .next (trapped s g l t.pc (trapAt causeMisaligned 0 dest) (ending true .none)))

/-- R197, R198, R287, R203: exit ends the thread while another of its group lives on, and the last one's ends the group, as does
one in a handler: it leaves the group's waits, and its barriers count it no more; yield lowers the age class, wait leaves the
thread at the next word with its conditions, nop passes. -/
def Obligations.ThreadControl : Prop :=
  ∀ (s : State) (g l : Nat) (t : Thread) (G : Group) (f : FullWord),
    AtWord s g l t f.pred true → getG s g = some G →
    (subTrap (plainSubs f) = none → isSuper G l = false → (∃ k, k ≠ l ∧ k ∈ liveLanes G) →
      ∃ s', exec (.exit f) s = .next s' ∧ (getT s' g l).map (·.live) = some false ∧
        (getT s' g l).map (·.pend) = some [] ∧ (∀ k, k ≠ l → getT s' g k = getT s g k)) ∧
    (subTrap (plainSubs f) = none → isSuper G l = true ∨ liveLanes G = [l] → (s.groups.map (·.1)).Nodup →
      ∃ s', exec (.exit f) s = .next s' ∧ s'.groups = adel s.groups g ∧ getG s' g = none ∧
        (∀ w ∈ s'.syncWaits, w.grp ≠ g) ∧ (∀ q ∈ s'.queues, ∀ w ∈ q.2.waiters, w.grp ≠ g) ∧
        (∀ W b, aget s.wgs G.wg = some W → groupsOf { s with groups := adel s.groups g } G.wg ≠ [] → s.bars = [b] →
          barOwner s W G.wg b.lvl b.num = some b.owner →
          s'.bars = [{ b with tgt := b.tgt - 1, pa := if arrived b G then b.pa else b.pa - 1 }])) ∧
    (subTrap (plainSubs f) = none → exec (.yield f) s = .next (modT (past (taken s) g l true) g l
      fun t => { t with wait := .none, cls := .yielded })) ∧
    (waitPre f s g l = none → exec (.wait f) s = .next (modT (past (taken s) g l true) g l
      fun u => { u with wait := waitOf f s t, cls := .normal })) ∧
    (InRun t f.s → subTrap (plainSubs f) = none → exec (.nop f) s = .next (past (taken s) g l f.s))

/-- R219, R40, R30: `trap n` in a group with a handler: cause SOFTWARE with sub-code n, the PC and the lane saved, the lane at
the vector at supervisor level with `%tval` 0; every other lane, and every register, stays as it was. -/
def Obligations.TrapEntry : Prop :=
  ∀ (s : State) (g l : Nat) (t : Thread) (G : Group) (K : Grid) (f : FullWord),
    AtWord s g l t f.pred true → l < 32 → getG s g = some G → G.trap = none → gridOf s g = some K →
    K.kd.tvec &&& ~~~ 3 ≠ 0 → subTrap (trapSubs f) = none →
    ∃ s' H, exec (.trap f) s = .next s' ∧ getG s' g = some H ∧
      H.cause = BitVec.ofNat 32 (0x10 + 256 * (f.mod.toNat % 256)) ∧ H.tpc = t.pc ∧ H.tmask = laneMask [l] ∧
      isSuper H l = true ∧
      (∀ u, getT s' g l = some u → u.pc = K.kd.tvec &&& ~~~ 3 ∧ u.tval = 0 ∧ u.run = .empty ∧ u.v = t.v ∧ u.p = t.p ∧
        u.x = t.x ∧ u.lp = t.lp ∧ u.sticky = t.sticky ∧ u.seed = t.seed ∧ u.pend = t.pend) ∧
      (∀ k, k ≠ l → getT s' g k = getT s g k) ∧ (∀ h, h ≠ g → getG s' h = getG s h) ∧
      s'.cs = s.cs ∧ s'.ks = s.ks ∧ s'.hbm = s.hbm ∧ s'.xs = s.xs ∧ s'.grids = s.grids ∧ s'.wgs = s.wgs

/-- R220: the `tret` of the only handler lane: supervisor level is left and the trapped lane resumes at the trapped word, or
at the word after it under SKIP and after a software trap. -/
def Obligations.TrapReturn : Prop :=
  ∀ (s : State) (g l : Nat) (t : Thread) (G : Group) (c : TrapCtx) (f : FullWord),
    AtWord s g l t f.pred true → getG s g = some G → G.trap = some c → l < 32 → t.live = true → l < G.threads.length →
    (liveLanes G).filter c.entry.getLsbD = [l] → G.tmask.getLsbD l = true → tretPre f s g l = none →
    ∃ s' H, exec (.tret f) s = .next s' ∧ getG s' g = some H ∧ H.trap = none ∧
      (getT s' g l).map (·.pc) = some (if f.mod.getLsbD 0 || c.skip.getLsbD l || resumesAfter G.cause then G.tpc + 8 else G.tpc) ∧
      (∀ k, k ≠ l → getT s' g k = getT s g k)

/-- R31, R37, R89, R165, R221, R223: at user level `tret`, `sinj`, reads and writes of the supervisor's special registers and a
conversion under a privileged channel raise PRIVILEGE, whatever their other fields hold, and have no effect. -/
def Obligations.Privilege : Prop :=
  ∀ (s : State) (g l : Nat) (t : Thread) (G : Group) (f : FullWord),
    AtWord s g l t f.pred true → getG s g = some G → isSuper G l = false →
    let stops (i : Instr) (x : Ign) : Prop := exec i s = .next (trapped s g l t.pc (trapOf causePrivilege) x)
    stops (.tret f) (ending true .none) ∧
    (InRun t f.s →
      stops (.sinj f) (ending f.s .none) ∧
      (0x20 ≤ f.a.toNat → f.a.toNat ≤ 0x27 →
        stops (.swr f) (ending f.s .none) ∧ stops (.srd f) (ending f.s (zeroed [f.d.toNat] []))) ∧
      (copyPch f.mod = true → stops (.cpyc f) (ending f.s (zeroed (copyDests .cpyc f) []))))

/-- R37, R223, R306, R365, R415: what a program cannot do, whatever its words and the state: no instruction that has a word
changes the clock, a partition with its root, windows and keys, a stream, a task, a key or the power; the trap vector is the one
field of a launched kernel's descriptor that it can change, and at user level it changes none. -/
def Obligations.ProgramBounds : Prop :=
  ∀ (i : Instr) (w : W64) (s s' : State), encode i = some w → exec i s = .next s' →
    (s'.cycle = s.cycle ∧ s'.epoch = s.epoch ∧ s'.parts = s.parts ∧ s'.streams = s.streams ∧ s'.tasks = s.tasks) ∧
    (s'.keySlots = s.keySlots ∧ s'.podKeys = s.podKeys ∧ s'.session = s.session ∧ s'.jobKey = s.jobKey ∧
      s'.power = s.power ∧ s'.flash = s.flash) ∧
    (∀ k K', aget s'.grids k = some K' → ∃ K, aget s.grids k = some K ∧ { K'.kd with tvec := K.kd.tvec } = K.kd) ∧
    ((∀ c, s.coach = some c → ∀ x ∈ c.lanes, ∀ G, getG s x.1 = some G → isSuper G x.2 = false) →
      ∀ k K', aget s'.grids k = some K' → ∃ K, aget s.grids k = some K ∧ K'.kd = K.kd)

/-- R17, R30 to R33, R221, R223, R224: every special register reads what R30 gives it, and those that may be written are; a
selector that names none, and a write of one that may only be read, raises ILLEGAL_OPERAND; an injection is armed in a handler,
and gset writes the uniform register of a workgroup of one group, and only passes once it has completed. A write of `%tmask`
keeps the lanes that entered the handler, and the cycle counters of all dies agree (log entries 44 and 59). -/
def Obligations.SystemResults : Prop :=
  ∀ (s : State) (g l : Nat) (t : Thread) (G : Group) (W : Wg) (f : FullWord) (v : W32),
    AtWord s g l t f.pred f.s → getG s g = some G → wgOf s g = some W →
    (specialPre false (srdSubs f) f.d f.a.toNat s g l = none → f.a ≠ 0x14 →
      exec (.srd f) s = .next (did s g l f.s (setV f.d (specialValue s g l f.a.toNat)))) ∧
    (specialPre false (srdSubs f) f.d f.a.toNat s g l = none → f.a = 0x14 →
      exec (.srd f) s = .next (did s g l f.s fun t =>
        setV f.d (BitVec.ofNat 32 (clock s)) { t with clockh := BitVec.ofNat 32 (clock s / 2 ^ 32) })) ∧
    (∀ K, gridOf s g = some K → let n := BitVec.ofNat 32
      let reads : List (Byte × W32) :=
        [(0x00, n l), (0x01, n G.qtr), (0x02, n (32 * G.idx + l)), (0x03, n G.idx), (0x04, n K.kd.groups),
          (0x05, n W.index), (0x06, n K.nwg), (0x09, n W.dwg), (0x0A, W.dies.setWidth 32), (0x0B, n G.core),
          (0x0C, n (G.core / 4)), (0x0D, n (G.core % 4)), (0x0E, n (G.core / 64)), (0x0F, n s.pkg), (0x10, n s.pod),
          (0x11, n K.part), (0x12, n K.stream), (0x13, n K.seq), (0x15, t.clockh), (0x16, n G.nreq),
          (0x17, t.sticky.setWidth 32), (0x18, t.seed), (0x19, if isSuper G l then 1 else 0), (0x20, G.cause),
          (0x21, G.tpc.setWidth 32), (0x22, (G.tpc >>> 32).setWidth 32), (0x23, G.tmask), (0x24, t.tval.setWidth 32),
          (0x25, (t.tval >>> 32).setWidth 32), (0x26, K.kd.tvec.setWidth 32), (0x27, (K.kd.tvec >>> 32).setWidth 32)]
      let gang : List (Byte × W32) := match W.gang with
        | none => [(0x07, 0xFFFFFFFF), (0x08, 0xFFFFFFFF)]
        | some k => match aget s.gangs k with
          | some A => [(0x07, n A.index), (0x08, n (W.index % 4))]
          | none => []
      specialPre false (srdSubs f) f.d f.a.toNat s g l = none → ∀ x ∈ reads ++ gang,
        f.a = x.1 → exec (.srd f) s = .next (did s g l f.s (setV f.d x.2))) ∧
    (0x1A ≤ f.a.toNat ∧ f.a.toNat ≤ 0x1F ∨ 0x28 ≤ f.a.toNat →
      (srdSubs f = [] → exec (.srd f) s =
        .next (trapped s g l t.pc (trapOf causeIllegalOperand 0x0A) (ending f.s (zeroed [f.d.toNat] [])))) ∧
      (swrSubs f = [] → exec (.swr f) s = .next (trapped s g l t.pc (trapOf causeIllegalOperand 0x0A) (ending f.s .none)))) ∧
    (f.a.toNat ≤ 0x16 ∨ f.a = 0x19 ∨ (isSuper G l = true ∧ f.a ∈ ([0x20, 0x21, 0x22, 0x24, 0x25] : List Byte)) →
      swrSubs f = [] → exec (.swr f) s = .next (trapped s g l t.pc (trapOf causeIllegalOperand 0x0A) (ending f.s .none))) ∧
    (specialPre true (swrSubs f) f.b f.a.toNat s g l = none → Holds t f.b v →
      (f.a = 0x23 → exec (.swr f) s = .next (past (modG (taken s) g fun G =>
        { G with tmask := v &&& ((G.trap.map (·.entry)).getD 0) }) g l f.s)) ∧
      (f.a = 0x26 → exec (.swr f) s = .next (past (modGrid (taken s) W.grid fun K =>
        { K with kd := { K.kd with tvec := (K.kd.tvec >>> 32).setWidth 32 ++ v } }) g l f.s)) ∧
      (f.a = 0x27 → exec (.swr f) s = .next (past (modGrid (taken s) W.grid fun K =>
        { K with kd := { K.kd with tvec := v ++ K.kd.tvec.setWidth 32 } }) g l f.s)) ∧
      (f.a = 0x17 → exec (.swr f) s = .next (did s g l f.s fun t => { t with sticky := v.setWidth 6 })) ∧
      (f.a = 0x18 → exec (.swr f) s = .next (did s g l f.s fun t => { t with seed := v })) ∧
      exec (.swr f) s = .next (past (specialWrite (taken s) g l f.a.toNat v) g l f.s)) ∧
    (isSuper G l = true → sinjPre f s g l = none → Holds t f.a v → v.getLsbD 31 = true → v &&& 0x38E0C0FF = 0 →
      v.toNat / 2 ^ 24 % 8 ≠ 7 → v.getLsbD 30 = false →
      exec (.sinj f) s = .next (past (modG (taken s) g fun G => { G with inj := some v }) g l f.s)) ∧
    (gsetPre f s g l = none →
      (t.wait ≠ .gset → groupsOf s G.wg = [(g, G)] → liveLanes G = [l] → Holds t f.a v →
        exec (.gset f) s = .next (past (modWg (taken s) G.wg fun W =>
          { W with g := W.g.set (f.d.toNat % 32) (gen v) }) g l f.s)) ∧
      (t.wait = .gset → exec (.gset f) s = .next (past (taken s) g l f.s)))

/-! ### Encoding, the step, reset -/

/-- R7, R65, R67, R68, R85 to R88: every well-formed instruction that has a word is the one that its word decodes to, and
that its eight bytes decode to at the head of a byte string. -/
def Obligations.DecodeEncode : Prop :=
  ∀ (i : Instr) (w : W64) (rest : List Byte), i.wf = true → encode i = some w →
    decodeWord w = i ∧ decode (bytesOfWord w ++ rest) = .ok (i, rest)

/-- R65 to R68, R85 to R88: every word decodes to a well-formed instruction, whose encoding is that word. -/
def Obligations.EncodeDecode : Prop :=
  ∀ w : W64, (decodeWord w).wf = true ∧ encode (decodeWord w) = some w

/-- R65, R67, R68, R85, R86, R88: words written out field by field. -/
def Obligations.DecodedWords : Prop :=
  decodeWord 0x8007010203002000 = .add ⟨true, 7, 1, 2, 3, 0, 0x2000⟩ ∧
  decodeWord 0x140F050640FF0100 = .ld ⟨false, 0xF, 5, 6, 0x40, 0xFF, 0x0100⟩ ∧
  decodeWord 0x9C07000000000000 = .bra ⟨true, 7, 0, 0, 0⟩ ∧
  decodeWord 0x2C07050012345678 = .movi ⟨false, 7, 5, 0, 0x12345678⟩ ∧
  decodeWord 0x4000808181020304 = .pairedAdd ⟨false, ⟨1, 1, 3⟩, .sub, ⟨2, 3, 4⟩⟩ ∧
  decodeWord 0x0140000000000000 = .unassignedOpcode 0x0140000000000000

/-- R69, R290: a formed coach issues the word that stands fetched in its first lane, whose bytes the decoder reads; with no
coach the next item put from outside happens, then what is due, and then, or when nothing open is chosen, a quarter's turn.
The order in which open events happen is the model's (log entries 6 and 7). -/
def Obligations.StepRunsDecoded : Prop :=
  ∀ (s : State), s.power ≠ .off →
    (∀ c q g l r t f i rest, s.coach = some ⟨c, q, (g, l) :: r⟩ → getT s g l = some t → t.ibuf = some f →
      decode (bytesOfWord (f.hi.val ++ f.lo.val)) = .ok (i, rest) → step s = exec i s) ∧
    (s.coach = none → ∀ x i r, s.agenda = (x, i) :: r → step s = exec i { s with agenda := r, subj := x }) ∧
    (s.coach = none → s.agenda = [] → s.power = .running → ∀ x i r, due s = (x, i) :: r →
      step s = exec i { s with subj := x }) ∧
    (s.coach = none → s.agenda = [] → nextStep s = (none, { s with free := s.free + 1 }) →
      step s = after turnOver (exec (.coachFormation (s.turn / 4) (s.turn % 4)) { s with free := s.free + 1 }))

/-- R7, R269, R304: every step keeps every memory of the package in its canonical form, whatever happens in it. -/
def Obligations.StepKeepsMemory : Prop :=
  ∀ s s' : State, Memory.allWf s = true → step s = .next s' → Memory.allWf s' = true

/-- R422, R296, R275, R403: the state after a cold reset: every memory in canonical form and HBM4 zero with residues 0, all
dies up with quads 14 and 15 as their reserve, the scrub period 12 hours, no partition, no stream, no group, the clock at
zero. Values for which the manual gives none are the model's (log entries 1 to 4, 66). -/
def Obligations.ResetState : Prop :=
  Memory.allWf .reset = true ∧ (∀ a, readWord State.reset.hbm a = ⟨0, 0⟩) ∧
  State.reset.dies.map (fun d => (d.id, d.st, d.reserve)) = (List.range 8).map (fun d => (d, DieSt.up, 0xC000#16)) ∧
  State.reset.ctrls.map (·.period) = List.replicate 12 12 ∧ State.reset.ifaces.map (·.vi) = List.range 64 ∧
  State.reset.parts = [] ∧ State.reset.streams = [] ∧ State.reset.groups = [] ∧ State.reset.coach = none ∧
  clock .reset = 0 ∧ State.reset.power = .running

/-- R12: v255 exists whatever N_req is, reads as 0 with residue 0, and drops every write, that of a pair's high word included. -/
def Obligations.ZeroRegister : Prop :=
  ∀ (t : Thread) (n : Nat) (w : Word) (v : W64),
    regTrap n [255] = none ∧ readV t 255 = ⟨0, 0⟩ ∧ writeV t 255 w = t ∧ landV t 255 w = t ∧
    setPair 254 v t = setV 254 (v.setWidth 32) t

/-- R24, R25: the residue of a word is its value modulo 15, held in 4 bits, never the code 0xF of poison; it is the sum of the
nibbles, of the residues of the bytes and of the halves, modulo 15; that of 0xFFFF_FFFF is 0. -/
def Obligations.Residues : Prop :=
  (∀ x : W32, (gen x).val = x ∧ (gen x).res.toNat = x.toNat % 15 ∧ isPoison (gen x) = false ∧ mismatch (gen x) = false ∧
    (gen x).res.toNat = ((List.range 8).map fun i => x.toNat / 16 ^ i % 16).sum % 15 ∧
    (gen x).res.toNat = ((List.range 4).map fun i => x.toNat / 256 ^ i % 256 % 15).sum % 15 ∧
    (gen x).res.toNat = ((List.range 2).map fun i => x.toNat / 65536 ^ i % 65536 % 15).sum % 15) ∧
  (∀ w : Word, isPoison w = true ↔ w.res = 0xF) ∧ (gen 0xFFFFFFFF).res = 0

/-! ### Floating point -/

/-- R134 to R144, R47, R59, R61 to R63: floating-point instructions on `.f32` operands of chosen values, rounded to nearest, with the sticky bit of
an inexact result; fcopysign for all operands. For all operands: a NaN operand gives the canonical NaN, and NV where one
signals (R47); sums, differences, products and quotients of infinities and zeros, an exact zero difference and its sign under
each rounding mode (R134, R144); the overflow of a product under each mode (R62, R63), and under `.ftz` its flush to zero and
its subnormal operands (R61). The general form of the words is LaneArithmetic. -/
def Obligations.FloatResults : Prop :=
  ∀ (s : State) (g l : Nat) (t : Thread) (f : FullWord) (a b c : W32),
    AtWord s g l t f.pred f.s → Calm s g → Within s g f.d → Within s g f.a → Within s g f.b → Within s g f.c →
    Holds t f.a a → Holds t f.b b → Holds t f.c c →
    (Plain f 0x0E 0 → f.c = 0 → exec (.fcopysign f) s = .next (did s g l f.s
      (setV f.d (a &&& 0x7FFFFFFF ||| b &&& 0x80000000)))) ∧
    (Plain f 0x0E 0 → a = 0x3FC00000 → b = 0x40200000 →
      (f.c = 0 → exec (.fadd f) s = .next (did s g l f.s (setV f.d 0x40800000)) ∧
        exec (.fsub f) s = .next (did s g l f.s (setV f.d 0xBF800000)) ∧
        exec (.fmul f) s = .next (did s g l f.s (setV f.d 0x40700000)) ∧
        exec (.fmin f) s = .next (did s g l f.s (setV f.d a)) ∧ exec (.fmax f) s = .next (did s g l f.s (setV f.d b)) ∧
        exec (.fdiv f) s = .next (did s g l f.s fun t => flagged flagNX (setV f.d 0x3F19999A t))) ∧
      (c = 0x3F800000 → exec (.ffma f) s = .next (did s g l f.s (setV f.d 0x40980000)))) ∧
    (Plain f 0x0E 0 → a = 0x3FC00000 → b = 2 → f.c = 0 →
      exec (.fscale f) s = .next (did s g l f.s (setV f.d 0x40C00000))) ∧
    (Plain f 0x10 0 → a = 0x40003C00 → b = 0x44004200 → c = 0x3F000000 →
      exec (.fdot2 f) s = .next (did s g l f.s (setV f.d 0x41380000))) ∧
    (Plain f 0x0E 2 → a = 0x3FC00000 → b = 0x40200000 → f.c = 0 → f.d.toNat < 8 →
      exec (.fcmp f) s = .next (did s g l f.s (setP f.d.toNat true))) ∧
    (Plain f 0x0E 0 → f.b = 0 → f.c = 0 →
      (a = 0xFF800000 → exec (.fclass f) s = .next (did s g l f.s (setV f.d 1))) ∧
      (a = 0x40200000 → exec (.frnd f) s = .next (did s g l f.s (setV f.d 0x40000000))) ∧
      (a = 0x40000000 → exec (.frcp f) s = .next (did s g l f.s (setV f.d 0x3F000000))) ∧
      (a = 0x40800000 → exec (.fsqrt f) s = .next (did s g l f.s (setV f.d 0x40000000)) ∧
        exec (.frsq f) s = .next (did s g l f.s (setV f.d 0x3F000000))) ∧
      (a = 0x40400000 → exec (.fexp2 f) s = .next (did s g l f.s (setV f.d 0x41000000))) ∧
      (a = 0x41000000 → exec (.flog2 f) s = .next (did s g l f.s (setV f.d 0x40400000))) ∧
      (a = 0 → exec (.fsin f) s = .next (did s g l f.s (setV f.d 0)) ∧
        exec (.fcos f) s = .next (did s g l f.s (setV f.d 0x3F800000)) ∧
        exec (.ftanh f) s = .next (did s g l f.s (setV f.d 0)) ∧
        exec (.fsigm f) s = .next (did s g l f.s (setV f.d 0x3F000000)))) ∧
    (∀ rm, rm < 4 → Plain f 0x0E rm → f.c = 0 →
      let gives (i : Instr) (v : W32) (fl : BitVec 6) : Prop :=
        exec i s = .next (did s g l f.s fun t => flagged fl (setV f.d v t))
      let invalid (i : Instr) : Prop := gives i 0x7FC00000 flagNV
      let same := a.getLsbD 31 = b.getLsbD 31
      (isNan32 a = true ∨ isNan32 b = true →
        ∀ i ∈ ([.fadd f, .fsub f, .fmul f, .fdiv f] : List Instr),
          gives i 0x7FC00000 (if isSig32 a || isSig32 b then flagNV else 0)) ∧
      (isNan32 a = false → isNan32 b = false →
        (isInf32 a = true → isInf32 b = false →
          gives (.fadd f) a 0 ∧ gives (.fsub f) a 0 ∧ (isZero32 b = true → invalid (.fmul f)) ∧
          (isZero32 b = false → gives (.fmul f) (signed32 a b 0x7F800000) 0)) ∧
        (isInf32 a = false → isInf32 b = true →
          gives (.fadd f) b 0 ∧ gives (.fsub f) (b ^^^ 0x80000000) 0 ∧ (isZero32 a = true → invalid (.fmul f)) ∧
          (isZero32 a = false → gives (.fmul f) (signed32 a b 0x7F800000) 0)) ∧
        (isInf32 a = true → isInf32 b = true →
          (same → gives (.fadd f) a 0 ∧ invalid (.fsub f)) ∧ (¬ same → invalid (.fadd f) ∧ gives (.fsub f) a 0) ∧
          gives (.fmul f) (signed32 a b 0x7F800000) 0 ∧ invalid (.fdiv f)) ∧
        (isInf32 a = false → b = a → gives (.fsub f) (if rm = 2 then 0x80000000 else 0) 0) ∧
        (isZero32 b = true → (isZero32 a = true → invalid (.fdiv f)) ∧
          (isZero32 a = false → isInf32 a = false → gives (.fdiv f) (signed32 a b 0x7F800000) flagDZ)) ∧
        (exp32 a < 255 → exp32 b < 255 → 382 ≤ exp32 a + exp32 b →
          gives (.fmul f) (signed32 a b
            (if rm = 0 ∨ (rm = 2 ∧ ¬ same) ∨ (rm = 3 ∧ same) then 0x7F800000 else 0x7F7FFFFF)) (flagOF ||| flagNX)))) ∧
    (Plain f 0x0E 8 → f.c = 0 → exp32 a < 255 → exp32 b < 255 →
      (1 ≤ exp32 a → 1 ≤ exp32 b → exp32 a + exp32 b ≤ 125 → exec (.fmul f) s =
        .next (did s g l f.s fun t => flagged (flagUF ||| flagNX) (setV f.d (signed32 a b 0) t))) ∧
      (exp32 a = 0 ∨ exp32 b = 0 → exec (.fmul f) s = .next (did s g l f.s (setV f.d (signed32 a b 0)))))

/-- R145 to R150, R59: conversions: chosen integers to `.f32` and back, every `.i32` clamped to `.i8`, and a code of the narrow
format whose record stands in a uniform register; and of every magnitude the multiple of 2^q that the modes 0 to 3 of R59 round
it to. -/
def Obligations.Conversions : Prop :=
  ∀ (s : State) (g l : Nat) (t : Thread) (f : FullWord) (a b : W32),
    AtWord s g l t f.pred f.s → Calm s g → Within s g f.d → Within s g f.a → Holds t f.a a →
    (f.c = 0 →
      (Plain f 0x0E 0 → f.b = 0x04 → a = 0xFFFFFFFD → exec (.cvt f) s = .next (did s g l f.s (setV f.d 0xC0400000))) ∧
      (Plain f 0x04 0 → f.b = 0x0E → a = 0xC0700000 → exec (.cvt f) s = .next (did s g l f.s
        (setV f.d 0xFFFFFFFC))) ∧
      (Plain f 0x02 0 → f.b = 0x04 → a = 0xFFFFFF00 → exec (.cvti f) s = .next (did s g l f.s
        fun t => flagged flagSAT (setV f.d 0xFFFFFF80 t))) ∧
      (Plain f 0x02 0 → f.b = 0x04 → exec (.cvti f) s = .next (did s g l f.s
        (if a.toInt < -128 then fun t => flagged flagSAT (setV f.d 0xFFFFFF80 t)
         else if 127 < a.toInt then fun t => flagged flagSAT (setV f.d 0x7F t) else setV f.d a)))) ∧
    (∀ W, Moded f 0x0E 5 2 8 → f.c.toNat < 32 → wgOf s g = some W → W.g.getD f.c.toNat .zero = gen 0x10070343 →
      Within s g f.b → Holds t f.b b → b = 1 → a = 0x00003900 →
      exec (.cvtx f) s = .next (did s g l f.s (setV f.d 0x3F900000))) ∧
    (∀ (rm u m : Nat) (neg : Bool) (e q : Int), rm < 4 →
      (q ≤ e → (roundMag rm u neg m e false q).m = m * 2 ^ (e - q).toNat ∧ (roundMag rm u neg m e false q).inexact = false) ∧
      (e < q → let n := 2 ^ (q - e).toNat
        let r := (roundMag rm u neg m e false q).m
        let below := r * n ≤ m ∧ m < (r + 1) * n
        let above := m ≤ r * n ∧ r * n < m + n
        ((roundMag rm u neg m e false q).inexact = true ↔ m % n ≠ 0) ∧
        (rm = 0 → 2 * (r * n) ≤ 2 * m + n ∧ 2 * m ≤ 2 * (r * n) + n ∧
          (2 * (r * n) = 2 * m + n ∨ 2 * m = 2 * (r * n) + n → r % 2 = 0)) ∧
        (rm = 1 → below) ∧ (rm = 2 → if neg then above else below) ∧ (rm = 3 → if neg then below else above)))

/-! ### Checks shared by the words -/

/-- R66, R69, R71, R89, R14, R81, R86: the checks that every word shares, through the instructions of opcode groups 0x0 to 0x4:
a false guard passes the word, a poisoned one, a poisoned or altered fetch and a run too long raise their traps; a register
beyond the bound, an unassigned opcode and two slots of one class besides the integer one raise theirs. Which sub-code an
unassigned opcode or such a pair raises where the run is too long as well is open (log entry 30). -/
def Obligations.IssueChecks : Prop :=
  ∀ (s : State) (c q g l : Nat) (t : Thread) (i : Instr) (op : R75Op),
    s.coach = some ⟨c, q, [(g, l)]⟩ → getT s g l = some t → t.retry = none → r75Op i = some op →
    let stops (x : Trap) : Prop := ∃ ign, exec i s = .next (trapped s g l t.pc x ign)
    (∀ f, t.ibuf = some f → isPoison f.lo = true ∨ isPoison f.hi = true → stops (trapAt causePoison 0 t.pc)) ∧
    (∀ f, t.ibuf = some f → isPoison f.lo = false → isPoison f.hi = false → mismatch f.lo = true ∨ mismatch f.hi = true →
      stops (trapAt causeCheck 1 t.pc)) ∧
    (fetchTrap t = none → 15 ≤ t.run.len → op.f.s = false → stops (trapOf causeIllegalOpcode 4)) ∧
    (Lone s g l t → InRun t op.f.s → r75Pre op.row op.f (taken s) g l = none →
      (guardOf op.f.pred t = none → stops (trapOf causePoison)) ∧
      (guardOf op.f.pred t = some false → exec i s = .next (past (taken s) g l op.f.s))) ∧
    (Lone s g l t → InRun t op.f.s → r75Subs op.row op.f = [] → ∀ r, outOfBound (nreqOf s g) (r75Regs op.row op.f) = [r] →
      stops (trapAt causeRegBound 0 (BitVec.ofNat 64 r))) ∧
    (Lone s g l t → ∀ w : W64,
      let own := if w.getLsbD 62 then 2 else 1
      ∃ ign n, exec (.unassignedOpcode w) s = .next (trapped s g l t.pc (trapOf causeIllegalOpcode n) ign) ∧
        (n = own ∨ n = 4) ∧ (InRun t (w.getLsbD 63) → n = own)) ∧
    (Lone s g l t → ∀ (ox : SlotOp) (p : PairWord), slotClass ox = slotClass p.opY → slotClass ox ≠ .i →
      ∃ ign n, exec (pairInstr ox p) s = .next (trapped s g l t.pc (trapOf causeIllegalOpcode n) ign) ∧
        (n = 3 ∨ n = 4) ∧ (InRun t p.s → n = 3))

/-! ### Barriers, lanes, queues -/

/-- R200 to R206: an arrival releases (what that leaves of the core's stores is stated of fence), counts PA down and notes the phase in the group's record; bar.exp adds bytes, with an
arrival under its modifier; a barrier with nothing outstanding completes its phase at the end of the cycle, and with it the
records that arrived in it; bar.wait passes with the status word and an acquire once the record is complete, traps after the
acquire under its modifier where the phase was in error, and else holds the group, as bar.sync does after its arrival;
bar.stat reads the four words, of a far barrier as the core's copy has them. A wait on a clear record, the copies' delay and a
target lowered to 0 are settled in log entries 35 and 36. -/
def Obligations.Barriers : Prop :=
  ∀ (s : State) (g l : Nat) (t : Thread) (G : Group) (f : FullWord) (b : Barrier),
    AtWord s g l t f.pred true → getG s g = some G → groupBar s g (barLvl f.b) (barNum f.b) = some b →
    let rec_ (s : State) := (getG s g).bind fun G => getRec G b.lvl b.num
    let rel := releaseAt (taken s) G.core b.lvl
    let after_ (b' : Barrier) (s' : State) : Prop := findBar s' b.lvl b.owner b.num = some b' ∧
      (∀ x, (x.lvl, x.owner, x.num) ≠ (b.lvl, b.owner, b.num) → (x ∈ s'.bars ↔ x ∈ s.bars))
    let rest (s' base : State) : Prop := { s' with groups := base.groups, bars := base.bars } = base
    let held (i : Instr) (base : State) (b' : Barrier) (r : BarRec) : Prop := ∃ s', exec i s = .next s' ∧ after_ b' s' ∧
      rest s' base ∧ (getT s' g l).map (·.wait) = some (.bar b.lvl b.num) ∧ (getT s' g l).map (·.pc) = some t.pc ∧
      rec_ s' = some { r with waiting := some t.pc }
    let passes (i : Instr) (r : BarRec) : Prop :=
      let s1 := acquireAt (modG (taken s) g fun G => clearRec G b.lvl b.num) G.core b.lvl
      getG s1 g = some (clearRec G b.lvl b.num) →
      ((f.mod.getLsbD 0 && r.err) = false → exec i s = .next (past (modT s1 g l (setV f.d (waitStatus r))) g l true)) ∧
      ((f.mod.getLsbD 0 && r.err) = true → exec i s = .next (takeTrap
        (modT s1 g l fun t => { t with cls := .normal, w := 0 }) g t.pc
        [(l, trapOf causeBarrier 2, ending true (dead [f.d.toNat]))]))
    (InRun t f.s → barPre false false 1 f (taken s) g l = none → arrived b G = false → rel.groups = s.groups → rel.bars = s.bars →
      ∃ s', exec (.barArr f) s = .next s' ∧ after_ { b with pa := b.pa - 1, ef := b.ef || f.mod.getLsbD 0 } s' ∧ rest s' rel ∧
        (getT s' g l).map (·.pc) = some (t.pc + 8) ∧
        rec_ s' = some ⟨b.lvl, b.num, b.ph, false, false, false, none⟩) ∧
    (InRun t f.s → barPre false true 3 f (taken s) g l = none → ∀ n : W32, Holds t f.a n → b.pb + n.toNat ≤ 2 ^ 31 - 1 →
      (f.mod.getLsbD 0 = true → arrived b G = false ∧ rel.groups = s.groups ∧ rel.bars = s.bars) →
      ∃ s', exec (.barExp f) s = .next s' ∧
        after_ { b with pa := if f.mod.getLsbD 0 then b.pa - 1 else b.pa, pb := b.pb + n.toNat,
                        ef := b.ef || f.mod.getLsbD 1 } s' ∧
        rest s' (if f.mod.getLsbD 0 then rel else taken s) ∧
        (f.mod.getLsbD 0 = true → rec_ s' = some ⟨b.lvl, b.num, b.ph, false, false, false, none⟩) ∧
        (getT s' g l).map (·.pc) = some (t.pc + 8)) ∧
    (barPre true false 1 f (taken s) g l = none →
      (rec_ s = none → held (.barWait f) (taken s) b ⟨b.lvl, b.num, b.ph, false, false, true, none⟩) ∧
      ∀ r, rec_ s = some r → (r.done = true → passes (.barWait f) r) ∧ (r.done = false → held (.barWait f) (taken s) b r)) ∧
    (barPre true false 3 f (taken s) g l = none →
      (arrived b G = false → barBegun (taken s) g [l] b = false → rel.groups = s.groups → rel.bars = s.bars →
        rel.wgs = s.wgs → rel.grids = s.grids → rel.podBars = s.podBars →
        held (.barSync f) rel { b with pa := b.pa - 1, ef := b.ef || f.mod.getLsbD 1 }
          ⟨b.lvl, b.num, b.ph, false, false, false, none⟩) ∧
      ∀ r, rec_ s = some r → r.waiting = some t.pc → (r.done = true → passes (.barSync f) r)) ∧
    (b.pa = 0 → b.pb = 0 → b.tgt ≠ 0 → barAwaits s b = false → after_ (barNext b) (barTest s b) ∧
      ∀ r, rec_ s = some r → rec_ (barTest s b) =
        some (if r.ap = b.ph ∧ r.done = false then { r with done := true, err := b.ef } else r)) ∧
    (b.pa ≠ 0 ∨ b.pb ≠ 0 → barTest s b = s) ∧
    (InRun t f.s → barStatPre f (taken s) g l = none →
      exec (.barStat f) s = .next (did s g l f.s fun t =>
        (((barWords (heldBar s G.core b)).zipIdx).foldl (fun t x => writeV t (f.d.toNat + x.2) (gen x.1)) t)))

/-- R207 to R211: cross-lane words of a whole group without a mask, every lane's operand being a word with its residue or a sound
predicate; the result reaches every lane. -/
def Obligations.CrossLane : Prop :=
  ∀ (s : State) (g : Nat) (ms : List Nat) (th : Nat → Thread) (f : FullWord) (v : Nat → W32) (b : Nat → Bool),
    Gathered s g ms th f.s → Calm s g → f.pred = 7 → mmkOf f = false → pvOf f = false →
    let put (F : Nat → Thread → Thread) : State := allDid s g ms f.s F
    let word (F : Nat → W32) : State := put fun k => late s [(f.d.toNat, gen (F k))] []
    let preds := ∀ k ∈ ms, readP (th k) f.a.toNat = ⟨b k, false⟩
    let words := ∀ k ∈ ms, readV (th k) f.a.toNat = gen (v k)
    (preds → f.a.toNat < 8 →
      (xPre .vote f (taken s) g 0 = none → opOf f = 0 →
        exec (.xvote f) s = .next (put fun _ => late s [] [(f.d.toNat, ⟨ms.all b, false⟩)])) ∧
      (xPre .vote f (taken s) g 0 = none → opOf f = 1 →
        exec (.xvote f) s = .next (put fun _ => late s [] [(f.d.toNat, ⟨ms.any b, false⟩)])) ∧
      (xPre .vote f (taken s) g 0 = none → opOf f = 2 →
        exec (.xvote f) s = .next (word fun _ => laneMask (ms.filter b))) ∧
      (xPre .elect f (taken s) g 0 = none →
        exec (.xelect f) s = .next (put fun k => late s [] [(f.d.toNat, ⟨ms.find? b == some k, false⟩)])) ∧
      (xPre .bpc f (taken s) g 0 = none → opOf f = 0 →
        exec (.xbpc f) s = .next (word fun k => BitVec.ofNat 32 (ms.countP fun m => b m && decide (m < k))))) ∧
    (words → tyOf f = 0 →
      (xPre .shf f (taken s) g 0 = none → biOf f = true → xSubOf f = 0 →
        exec (.xshf f) s = .next (word fun k =>
          if ms.contains (f.b.toNat % 32) then v (f.b.toNat % 32) else v k)) ∧
      (xPre .red f (taken s) g 0 = none → opOf f = 5 →
        exec (.xred f) s = .next (word fun _ => (ms.map v).foldl (· ^^^ ·) 0)) ∧
      (xPre .match_ f (taken s) g 0 = none → xSubOf f = 0 →
        exec (.xmatch f) s = .next (word fun k => laneMask (ms.filter fun m => v m == v k)))) ∧
    (words → tyOf f = 4 → opOf f = 0 →
      (xPre .red f (taken s) g 0 = none →
        exec (.xred f) s = .next (word fun _ => (ms.map v).foldl (· + ·) 0)) ∧
      (xPre .scan f (taken s) g 0 = none → xSubOf f = 0 →
        exec (.xscan f) s = .next (word fun k => ((ms.takeWhile (· != k) ++ [k]).map v).foldl (· + ·) 0)))

/-- R79, R213 to R218: a push appends at the tail after its release and a pop takes the head and then acquires, each in a
queue with room or an element and without NB; a peek leaves the queue; a blocked lane waits in arrival order, and the turn of
the first waiter comes with a place or an element (or the closing of the queue, for a pop), after which its lane is eligible
again; a queue operand pops, and what it gives arrives with variable latency, and a queue as D takes the result as a push does; agrow and ashrink change the allotment at once
where no more storage is needed, and a request that the quarter can grant is granted. When results land, and how a waiter's
turn comes, are settled in log entries 9 and 11. -/
def Obligations.QueuesAndAllotment : Prop :=
  ∀ (s : State) (g l k : Nat) (t : Thread) (G : Group) (f : FullWord) (q : Queue),
    getT s g l = some t → getG s g = some G → Calm s g →
    let unwait := qUnwait (taken s) g l k
    (AtWord s g l t f.pred f.s → qOf s g (qNum f.b) = some (k, q) → qNB f.b = false →
      (∀ w : W32, qPre true false f (taken s) g l = none → Holds t f.a w → q.count < q.cap →
        getG (qPut unwait g k q (gen w)) g = getG unwait g →
        exec (.qpush f) s = .next (past (qPut unwait g k q (gen w)) g l f.s)) ∧
      (∀ w : W32, qPre true false f (taken s) g l = none → Holds t f.a w → q.cap ≤ q.count →
        exec (.qpush f) s = .next (modT (qWait (taken s) g l k true) g l fun t => { t with cls := .normal, w := 0 })) ∧
      (qPre false false f (taken s) g l = none → 0 < q.count → mismatch (qElem s q q.head) = false →
        getG (qTake unwait g k q).2 g = getG unwait g →
        exec (.qpop f) s = .next (past (modT (qTake unwait g k q).2 g l
          (late s [(f.d.toNat, qElem s q q.head)] [])) g l f.s)) ∧
      (qPre false false f (taken s) g l = none → q.count = 0 → qClosed s q = false →
        exec (.qpop f) s = .next (modT (qWait (taken s) g l k false) g l fun t => { t with cls := .normal, w := 0 }))) ∧
    (AtWord s g l t f.pred f.s → qOf s g (qNum f.b) = some (k, q) → qPre false true f (taken s) g l = none →
      0 < q.count → mismatch (qElem s q q.head) = false →
      exec (.qpeek f) s = .next (did s g l f.s fun t =>
        late s [] [(qPred f.b, ⟨false, false⟩)] (late s [(f.d.toNat, qElem s q q.head)] [] t))) ∧
    (AtWord s g l t f.pred f.s → qOf s g (qNum f.a) = some (k, q) → Moded f 0x00 4 0 0 → f.b = 0 → f.c = 0 →
      qNB f.a = false → r75Pre (rowMov f) f (taken s) g l = none → 0 < q.count →
      mismatch (qElem s q q.head) = false → getG (qTake unwait g k q).2 g = getG unwait g →
      exec (.mov f) s = .next (past (modT (qTake unwait g k q).2 g l
        (late s [(f.d.toNat, qElem s q q.head)] [])) g l f.s)) ∧
    (∀ w : W32, AtWord s g l t f.pred f.s → qOf s g (qNum f.d) = some (k, q) → Moded f 0x00 4 3 0 → f.b = 0 → f.c = 0 →
      qNB f.d = false → r75Pre (rowMov f) f (taken s) g l = none → Holds t f.a w →
      (q.count < q.cap → getG (qPut unwait g k q (gen w)) g = getG unwait g →
        exec (.mov f) s = .next (past (qPut unwait g k q (gen w)) g l f.s)) ∧
      (q.cap ≤ q.count →
        exec (.mov f) s = .next (modT (qWait (taken s) g l k true) g l fun t => { t with cls := .normal, w := 0 }))) ∧
    (∀ push r, aget s.queues k = some q → q.waiters = ⟨g, l, push, false⟩ :: r →
      (∀ w ∈ r, w.granted = false ∧ w.is g l = false) → t.wait = .queue →
      (if push then q.count < q.cap else 0 < q.count ∨ qClosed s q = true) →
      let s' := modQ s k fun q => { q with waiters := ⟨g, l, push, true⟩ :: r }
      exec (.queueWaitService k) s = .next s' ∧ waitOver s' g G l t = true) ∧
    (AtWord s g l t f.pred f.s → subTrap (allotSubs true f) = none → G.agrow = none →
      (allotN f ≤ G.nreq → exec (.agrow f) s = .next (did s g l f.s (late s [] [(f.d.toNat, ⟨true, false⟩)]))) ∧
      (G.nreq < allotN f → allot (allotN f) = allot G.nreq →
        exec (.agrow f) s = .next (past (modT (modG (taken s) g (resize (allotN f))) g l
          (late s [] [(f.d.toNat, ⟨true, false⟩)])) g l f.s))) ∧
    (AtWord s g l t f.pred f.s → subTrap (allotSubs false f) = none → G.agrow = none → allotN f < G.nreq →
      shrinkWaits (allotN f) G = false →
      exec (.ashrink f) s = .next (past (modG (taken s) g (resize (allotN f))) g l f.s)) ∧
    (∀ n, grantable s G.core G.qtr = some (g, n) →
      exec (.agrowGrant G.core G.qtr) s = .next (modG s g fun G => answerGrow true (resize n G)))


/-! ### Matrix -/

/-- R228 to R236, R240, R242 to R246: the matrix words of a lone lane where nothing holds them: mres records a reservation as
its descriptor gives it, mrel drops one, mfill begins to copy a tile, mma and mtrq enter the carriage, mdrain leaves its words
to be written and its tile filling, mzero clears the tile and waits while an op names it, and mqry reads the marks and the
mode. When the words of a drain and the pair of an mtrq arrive is open (log entry 17). Which of several equal checks answers
is the model's choice where the manual is silent (log entry 30). -/
def Obligations.MatrixWords : Prop :=
  ∀ (s : State) (g l : Nat) (t : Thread) (G : Group) (f : FullWord) (k : W32),
    AtWord s g l t f.pred f.s → getG s g = some G →
    (mresPre f s g l = none → Holds t f.a k → k.toNat % 32 = 0 → k.toNat + 32 ≤ scratchOf s g →
      resvOf s G.core f.d.toNat = none → ∀ r, resvFrom G.core f.d.toNat G.wg (readWords s.cs (csAddr s g + k.toNat) 8) =
        (r, false) → r.ks = false → r.off + r.len ≤ 524288 →
      (∀ x ∈ s.resvs, x.core = G.core → x.ks = false → r.off + r.len ≤ x.off ∨ x.off + x.len ≤ r.off) →
      exec (.mres f) s = .next (past { taken s with resvs := r :: s.resvs } g l f.s) ∧
      r.fmt = (readWord s.cs (csAddr s g + k.toNat)).val ∧
      r.off = (readWord s.cs (csAddr s g + k.toNat + 8)).val.toNat ∧
      r.len = (readWord s.cs (csAddr s g + k.toNat + 12)).val.toNat) ∧
    (mrelPre f s g l = none → resvBusy s G.core f.d.toNat = false →
      exec (.mrel f) s = .next (past { taken s with
        resvs := s.resvs.filter fun x => !(x.core == G.core && x.num == f.d.toNat) } g l f.s)) ∧
    (∀ r tile, mfillPre f s g l = none → (mfillInfo f).own s g = none → Holds t f.b k → ownResv s g f.d.toNat = some r →
      tileOf s G.core f.a.toNat = some tile → r.ks = false → k.toNat % 64 = 0 → k.toNat + tile.len ≤ r.len →
      tile.st = .ready → resvBusy s G.core f.d.toNat = false → (∀ m ∈ s.mfills, m.grp ≠ g) →
      ∃ s', exec (.mfill f) s = .next s' ∧
        s'.mfills = s.mfills ++ [⟨g, G.core, f.a.toNat, f.d.toNat, k.toNat, laneMask [l], f.s⟩] ∧
        (getT s' g l).map (fun u => (u.wait, u.pc)) = some (.mfill, t.pc)) ∧
    (∀ ra rb rf m, mmaPre f s g l = none → Holds t f.c k → queueFull s G.core = false → G.core % 2 = 0 →
      ownResv s g f.a.toNat = some ra → ownResv s g f.b.toNat = some rb → bankOk s ra.owner ra = true →
      bankOk s rb.owner rb = true → memberOn s g (G.core + 1) = some m → wgOwnsAcc s m.1 f.d.toNat = true →
      (if ra.ks then some ra else (resvOf s (G.core + 1) ra.num).filter fun r => r.owner == m.1) = some rf →
      bankOk s m.1 rf = true → mmaBad f k s G.core ra rb rf = [] →
      ∃ o, exec (.mma f) s = .next (past (enqueue { taken s with uid := s.uid + 1 } o) g l f.s) ∧ o.mtrq = false ∧
        o.core = G.core ∧ o.wg = G.wg ∧ o.acc = f.d.toNat ∧ o.ra = f.a.toNat ∧ o.rb = f.b.toNat ∧ o.kw = k ∧
        o.ovw = mmaOvw f ∧ (mmaModeCode f = 0 → o.mode = .f64 ∧ o.grid = 0) ∧
        (mmaModeCode f = 1 → o.mode = .x64 ∧ o.grid = opER k + gridOfFmt (resvFmt ra) + gridOfFmt (resvFmt rb))) ∧
    (∀ ra rb, mtrqPre f s g l = none → Holds t f.c k → queueFull s G.core = false → ownResv s g f.a.toNat = some ra →
      ownResv s g f.b.toNat = some rb → mtrqAccepts ra = true → mtrqAccepts rb = true → ra.num ≠ rb.num →
      1 ≤ k.toNat % 65536 → k.toNat % 65536 ≤ 4096 → 1 ≤ k.toNat / 65536 → k.toNat / 65536 ≤ 4096 →
      fits ra (k.toNat % 65536) (k.toNat / 65536) = true → fits rb (k.toNat / 65536) (k.toNat % 65536) = true →
      ∃ o s1, exec (.mtrq f) s = .next (past (enqueue s1 o) g l f.s) ∧ o.mtrq = true ∧ o.core = G.core ∧
        o.ra = f.a.toNat ∧ o.rb = f.b.toNat ∧ o.kw = k ∧ o.rm = f.mod.toNat % 8 ∧ o.pos.seed = t.seed ∧
        (getT s1 g l).map (·.pend) = some (if f.d = 255 then t.pend
          else t.pend ++ [⟨.mtrq s.uid, [(f.d.toNat, .zero), (f.d.toNat + 1, .zero)], [], [], s.cycle⟩])) ∧
    (∀ tile, let a := accOf s G.core f.d.toNat
      mdrainPre f s g l = none → tileTrap s g f.a.toNat = none → Holds t f.b k → tyOf f = 1 →
      tileOf s G.core f.a.toNat = some tile → tile.st = .empty → k.toNat % 16 = 0 → 512 ≤ k.toNat % 65536 →
      64 * (k.toNat / 65536) + 63 * (k.toNat % 65536) + 512 ≤ tile.len → accBusy s G.core f.d.toNat = false →
      drainCheck a = a → drainTrap a = none → a.spc = 0 → a.psn = 0 →
      ∃ s' ws, exec (.mdrain f) s = .next s' ∧ s'.mdrains = s.mdrains ++ [⟨G.core, tile.num, tile.ks, ws⟩] ∧
        (tileOf s' G.core f.a.toNat).map (·.st) = some .filling ∧ (getT s' g l).map (·.pc) = some (t.pc + 8) ∧
        accOf s' G.core f.d.toNat = (if f.mod.getLsbD 5 then Acc.clear G.core f.d.toNat else a) ∧
        ∀ r n, r < 64 → n < 64 →
          let at_ := tileBase s tile + 64 * (k.toNat / 65536) + r * (k.toNat % 65536) + 8 * n
          let e := (accEntry a (64 * r + n)).1
          (at_, gen (e.setWidth 32)) ∈ ws ∧ (at_ + 4, gen ((e >>> 32).setWidth 32)) ∈ ws) ∧
    (∀ tile, let a := accOf s G.core f.d.toNat
      mdrainPre f s g l = none → tileTrap s g f.a.toNat = none → Holds t f.b k → tyOf f = 0x0E → spaceOf f < 4 →
      tileOf s G.core f.a.toNat = some tile → tile.st = .empty → k.toNat % 16 = 0 → 256 ≤ k.toNat % 65536 →
      64 * (k.toNat / 65536) + 63 * (k.toNat % 65536) + 256 ≤ tile.len → accBusy s G.core f.d.toNat = false →
      drainCheck a = a → drainTrap a = none → a.spc = 0 → a.psn = 0 →
      ∃ s' ws, exec (.mdrain f) s = .next s' ∧ s'.mdrains = s.mdrains ++ [⟨G.core, tile.num, tile.ks, ws⟩] ∧
        (tileOf s' G.core f.a.toNat).map (·.st) = some .filling ∧ (getT s' g l).map (·.pc) = some (t.pc + 8) ∧
        ∀ r n, r < 64 → n < 64 →
          let at_ := tileBase s tile + 64 * (k.toNat / 65536) + r * (k.toNat % 65536) + 4 * n
          let e := (accEntry a (64 * r + n)).1
          let x := if a.mode = .f64 then decode64 e.toNat else exactVal e.toInt a.g
          (at_, gen (BitVec.ofNat 32 (encodeFloat (floatFmt 0x0E) (spaceOf f) (vecOf f) (seedTop t.seed) false true false x).code)) ∈
            ws) ∧
    (subTrap (mzeroSubs f) = none → accTrap s g f.d.toNat = none →
      (accBusy s G.core f.d.toNat = false →
        exec (.mzero f) s = .next (past (clearAcc (taken s) G.core f.d.toNat) g l f.s) ∧
        accOf (clearAcc (taken s) G.core f.d.toNat) G.core f.d.toNat = Acc.clear G.core f.d.toNat) ∧
      (accBusy s G.core f.d.toNat = true →
        exec (.mzero f) s = .next (modT (taken s) g l fun t => { t with cls := .normal, w := 0 }))) ∧
    (let a := accOf s G.core f.a.toNat
      let put (w0 w1 : W32) : State := past (modT { taken s with free := s.free + 1 } g l
        (late s [(f.d.toNat, gen w0), (f.d.toNat + 1, gen w1)] [])) g l f.s
      mqryPre f s g l = none → groupNames s g G.core f.a.toNat = false →
      (∀ n, f.mod = 0 → (carriageAt s (carriageOf G.core)).retired = some n → exec (.mqry f) s = .next (put
        (BitVec.ofNat 32 ((match a.mode with | .none => 0 | .f64 => 1 | .x64 => 2) * 2 ^ 28 +
          ((allOps s).countP (namesAcc G.core f.a.toNat)) % 16 * 2 ^ 24 + n.1.toNat)) (BitVec.ofInt 32 a.g))) ∧
      (∀ m : W64, m = (if f.mod = 1 then a.spc ||| a.psn else if f.mod = 2 then a.sat else a.inx) → f.mod ≠ 0 →
        exec (.mqry f) s = .next (put (m.setWidth 32) ((m >>> 32).setWidth 32))))

/-- R58, R233, R237 to R242, R246, R335 to R338: a carriage at work: an op starts to execute once its first group is ready and
nothing executes, takes its operands as they stand while it executes, and retires in its turn, when both accumulators change:
an entry of an `.x64` op takes the saturated sum of the products on its grid with the residue of its bits, one of an `.f64` op
the sums of four products in their order (R237's own example among them); an mtrq writes, from two rows of two E4M3 codes, the
transposed codes under new scales and no other byte, and its status pair lands; an mfill
copies its tile into the operand buffer and lets its lanes pass; a drain writes its words and its tile is ready. When an op's
operands are taken is settled in log entry 17. -/
def Obligations.MatrixEvents : Prop :=
  ∀ (s : State) (id : Nat), let c := carriageAt s id
    (∀ o at_, c.exec = [(o, at_)] → o.data = none → o.mtrq = false →
      exec (.opOperandFetchComplete id) s = .next (setCarriage s { c with
        exec := [({ o with data := some (fetchOp s o) }, at_)] })) ∧
    (∀ o ready, c.fetch = some (o, ready) → ready ≤ s.cycle → executing s c = false → opWaits s o = false → c.id = id →
      ∃ s', exec (.mmaExecuteStart id) s = .next s' ∧
        (carriageAt s' id).exec = c.exec ++ [(o, s.cycle + opCycles s o + 3)] ∧
        (carriageAt s' id).fetch.map (·.1) = c.queue.head? ∧ (carriageAt s' id).queue = c.queue.tail ∧
        (o.mtrq = false → o.mode = .f64 → opCycles s o = o.kw.toNat % 2 ^ 13)) ∧
    (∀ o at_ r d, c.exec = (o, at_) :: r → at_ ≤ s.cycle → o.mtrq = false → o.data = some d → c.id = id →
      ∃ s', exec (.mmaOpRetire id) s = .next s' ∧ (carriageAt s' id).exec = r ∧
        (carriageAt s' id).retired = some (o.seq, s.cycle) ∧
        accOf s' o.core o.acc = opArray o (accOf s o.core o.acc) d.a0 d.b ∧
        accOf s' (o.core + 1) o.acc = opArray o (accOf s (o.core + 1) o.acc) d.a1 d.b ∧
        s'.groups = s.groups ∧ s'.ob = s.ob ∧ s'.cs = s.cs) ∧
    (∀ (o : Op) old rows b r n row col, b.length ≤ 64 → rows[r]? = some row → b[n]? = some col →
      let e := accEntry old (64 * r + n)
      let e' := accEntry (opArray o old rows b) (64 * r + n)
      let v := satSum o.grid (if o.ovw then 0 else e.1.toInt) (row.els.zip col.els)
      (o.mode = .x64 → e'.1 = BitVec.ofInt 64 v ∧ (o.ovw = true ∨ e.2 = entryRes .x64 e.1 → e'.2 = entryRes .x64 e'.1)) ∧
      (o.mode = .f64 → e' = (f64Entry o e.1 (row.els.zip col.els), entryRes .f64 e'.1) ∧
        (row.els = [(1, 53), (1, 0), (1, 0), (1, 53)] → col.els = [(1, 0), (1, 0), (1, 0), (-1, 0)] →
          (o.ovw = true → e'.1 = 0x3FF0000000000000) ∧
          (o.ovw = false → e.1 = 0x3FF0000000000000 → e'.1 = 0x4000000000000000)))) ∧
    ((drainEntry { Acc.clear 0 0 with mode := .x64, g := -9 } 0x0D 0 0 0 4096).1 = 0x4100) ∧
    ([0x16070343, 0x150F0352, 0x10030332, 0x10010323, 0x10010121, 0x00000103, 0x00000307].map fun f : W32 =>
      lead (maxFin (fmtOfRecord f)).1 + (maxFin (fmtOfRecord f)).2) = [8, 15, 4, 2, 2, 2, 6] ∧
    (∀ o at_ r rs rd, c.exec = (o, at_) :: r → at_ ≤ s.cycle → o.mtrq = true → o.kw = 0x00020002 → o.rm = 0 →
      o.pos = ⟨0, 0, 0, 0, 0, o.pos.seed⟩ → c.id = id → resvOf s o.core o.ra = some rs → resvOf s o.core o.rb = some rd →
      Narrow rs → Narrow rd → Memory.wf s.ob = true →
      let b := resvBase s rs
      let d := resvBase s rd
      (b + 1032 ≤ d ∨ d + 1032 ≤ b) → readWord s.ob b = gen 0x4038 → readWord s.ob (b + 32) = gen 0x303C →
      readWord s.ob (b + 1024) = gen 127 → readWord s.ob (b + 1028) = gen 127 →
      ∃ s', exec (.mmaOpRetire id) s = .next s' ∧ (carriageAt s' id).exec = r ∧
        [d, d + 1, d + 32, d + 33, d + 1024, d + 1028].map (readByte s'.ob) = [0x78, 0x7C, 0x78, 0x68, 119, 120] ∧
        (∀ a, a ∉ [d, d + 1, d + 32, d + 33, d + 1024, d + 1028] → readByte s'.ob a = readByte s.ob a) ∧
        s'.groups = (modG s o.grp fun G =>
          { G with threads := G.threads.map (landPend (.mtrq o.id) (gen 0) (gen 0)) }).groups) ∧
    (∀ m t r l u, s.mfills.find? (fun m => m.grp == id) = some m → tileOf s m.core m.tile = some t →
      resvOf s m.core m.resv = some r → l < 32 → m.lanes = laneMask [l] → getT s id l = some u → u.retry = none →
      exec (.mfillComplete id) s = .next (past { s with
        mfills := s.mfills.filter fun x => x.grp != id,
        ob := writeWords s.ob (resvBase s r + m.off)
          (readWords (if t.ks then s.ks else s.cs) (tileBase s t) (t.len / 4)) } id l m.last)) ∧
    (∀ tile m t, s.mdrains.find? (fun m => m.core == id && m.tile == tile) = some m → tileOf s id tile = some t →
      ∃ s', exec (.mdrainComplete id tile) s = .next s' ∧ tileOf s' id tile = some { t with st := .ready, err := false, stopped := none } ∧
        s'.mdrains = s.mdrains.filter (fun x => !(x.core == id && x.tile == tile)) ∧
        (if m.ks then s'.ks else s'.cs) = m.words.foldl (fun x w => writeWord x w.1 w.2) (if m.ks then s.ks else s.cs))


/-! ### Events of copies, threads and memory -/

/-- R168 to R170, R172 to R176, R178: a copy whose groups have all arrived ends as its data movement came out: completed, or
stopped, and the step for the other outcome leaves it; a descriptor in error moves nothing and gives status 2; cpys reports its
sources first; the status words lay out code, cart and side. What moves, of a row of words within `.cs`: cpy gives every
destination word the source word of its window with its residue or poison, or zero outside the source; cpyc a converted one, the
offending ones reported; gath the row that a lane names, or zero; scat the lane's row to the row that it names, or nothing, or a
sum; a poisoned row index moves nothing; and no other word changes. All data of a copy moves in the step that ends it (log
entry 12). -/
def Obligations.CopyEvents : Prop :=
  ∀ (s s1 : State) (id : Nat) (c : Copy) (r : CopyResult), findCopy s id = some c → copyReady s c = true →
    (c.kind ≠ .cpys → runCopy s c = (s1, r) →
      exec (.copyCompletion id) s = .next (if r.stopped then s else finishCopy s1 c r) ∧
      exec (.copyStop id) s = .next (if r.stopped then finishCopy s1 c r else s)) ∧
    (c.kind = .cpys → c.srcDone = false → runCopy s c = (s1, r) → ∃ s',
      exec (.cpysSourceReadDone id) s = .next s' ∧
      (findCopy s' id).map (fun x => (x.srcDone, x.result)) = (findCopy s1 id).map fun _ => (true, some r)) ∧
    (c.kind = .cpys → c.srcDone = true → c.result = some r →
      exec (.copyCompletion id) s = .next (if r.stopped then s else finishCopy s c r) ∧
      exec (.copyStop id) s = .next (if r.stopped then finishCopy s c r else s)) ∧
    (∀ k, c.carts = [k] → k.desc ≠ [] → copyAcq c.mod = false →
      descError c.kind c.mod (c.tile.getLsbD 7 && c.kind != .cpys && c.kind != .gath && c.kind != .scat) (copyTile s c)
        (descOf k.desc) = true →
      (runCopy s c).1 = s ∧ (runCopy s c).2.st = 2 ∧ (runCopy s c).2.stopped = false) ∧
    (r.st < 16 → (statusWords r).1 = gen (BitVec.ofNat 32 (r.st * 2 ^ 28 + r.cart % 32 * 2 ^ 23 +
      (if r.st = 3 ∨ r.st = 4 ∨ r.st = 6 then r.side else 0) * 2 ^ 22)) ∧
      (r.st = 0 ∨ r.st = 2 → (statusWords r).2 = gen 0)) ∧
    (∀ k W K, ScratchCopy s c k W K → runCopy s c = (s1, r) →
      let d := descOf k.desc
      let old (n : Int) := readWord s.cs (copyAt c W n)
      let holds (n : Int) (w : Word) : Prop := readWord s1.cs (copyAt c W n) = w
      let others (x : List Int) : Prop :=
        { s1 with cs := s.cs } = s ∧ ∀ a, (∀ n ∈ x, a / 4 ≠ copyAt c W n / 4) → readWord s1.cs a = readWord s.cs a
      (c.kind = .cpy →
        let src (j : Nat) : Int := d.src + 4 * (d.oy * d.sp + (d.ox + j))
        let dst (j : Nat) : Int := d.dst + 4 * j
        let inside (j : Nat) : Prop := 0 ≤ d.ox + j ∧ d.ox + j < d.sx ∧ 0 ≤ d.oy ∧ d.oy < d.sy
        (∀ j < d.wx, InScratch K (dst j) ∧ (inside j → InScratch K (src j))) →
        r.st = 0 ∧ r.stopped = false ∧ others ((List.range d.wx).map dst) ∧
        ∀ j < d.wx, (inside j → holds (dst j) (old (src j))) ∧ (¬ inside j → holds (dst j) (gen 0))) ∧
      (c.kind = .cpyc → d.wx = 1 → d.ox = 0 → d.oy = 0 → 1 ≤ d.sx → 1 ≤ d.sy → d.sf = 0x0E → d.df = 0x04 → d.rm = 0 →
        copyPch c.mod = false → InScratch K d.src → InScratch K d.dst →
        ∀ x ∈ ([(0x3FC00000, 2, 0), (0xC0200000, 0xFFFFFFFE, 0), (0x4F800000, 0x7FFFFFFF, 1), (0x7FC00000, 0, 1)] :
          List (W32 × W32 × Nat)),
          old d.src = gen x.1 → r.st = x.2.2 ∧ r.stopped = false ∧ holds d.dst (gen x.2.1) ∧ others [d.dst]) ∧
      (∀ l u, k.rows = [(l, u)] → l < 32 → d.wx = 1 →
        let src (n : Nat) : Int := d.src + 4 * (n * d.sp)
        let dst (n : Nat) : Int := d.dst + 4 * (n * d.dp)
        let n := u.val.toNat
        (isPoison u = true → c.kind = .gath ∨ c.kind = .scat → r.st = 5 ∧ r.stopped = false ∧ others []) ∧
        (isPoison u = false → c.kind = .gath → InScratch K (dst l) → (n < d.sy → InScratch K (src n)) →
          r.st = 0 ∧ r.stopped = false ∧ others [dst l] ∧ holds (dst l) (if n < d.sy then old (src n) else gen 0)) ∧
        (isPoison u = false → c.kind = .scat → d.sy ≤ n → r.st = 0 ∧ r.stopped = false ∧ others []) ∧
        (isPoison u = false → c.kind = .scat → n < d.sy → InScratch K (src l) → InScratch K (dst n) →
          (copySop c.mod = 0 → r.st = 0 ∧ r.stopped = false ∧ others [dst n] ∧ holds (dst n) (old (src l))) ∧
          (copySop c.mod = 1 → d.sf = 0x04 → isPoison (old (src l)) = false → isPoison (old (dst n)) = false →
            r.st = 0 ∧ r.stopped = false ∧ others [dst n] ∧
            holds (dst n) (gen ((old (dst n)).val + (old (src l)).val))))))

/-- R69, R72, R186, R198, R225, R287, R288, R290, R352: the steps of a quarter: a coach forms with one thread a lane column,
in ascending order; a fetched word reaches its lane; results land, with those that the lane's coach left pending in the group
(log entry 9); the wait count promotes; a wait that is over ends; the watchdog traps; the first waiter of an object that can
be acquired is eligible again; an exit-pending workgroup that is no longer busy is released. One quarter of a core takes its
turn a step (log entry 7). -/
def Obligations.SchedulerEvents : Prop :=
  ∀ s : State, (∀ (g l : Nat) (t : Thread) (G : Group), getT s g l = some t → getG s g = some G →
    (s.coach = none →
      (∀ c, coachOf s G.core G.qtr = some c → (c.lanes.map (·.2)).Pairwise (· < ·) ∧
        exec (.coachFormation G.core G.qtr) s =
          .next { s with coach := some c, issued := s.issued ++ c.lanes, free := s.free + 1 }) ∧
      (coachOf s G.core G.qtr = none → exec (.coachFormation G.core G.qtr) s = .next s)) ∧
    (4096 ≤ t.w → t.live = true →
      exec (.agePromotion g l) s = .next (modT s g l fun t => { t with cls := .promoted })) ∧
    (∀ d w c r, t.pend = ⟨.direct, [(d, w)], [], [], c⟩ :: r → (∀ p ∈ r, issuedIn c p = false) →
      (∃ s', exec (.variableLatencyResult g l) s = .next s' ∧ { s' with groups := s.groups } = s ∧
        getT s' g l = some (landV { t with pend := r } d w) ∧
        (∀ k u, getT s g k = some u → (∀ p ∈ u.pend, issuedIn c p = false) → getT s' g k = some u) ∧
        ∀ h, h ≠ g → getG s' h = getG s h) ∧
      (d < t.v.length → d ≠ 255 → readV (landV { t with pend := r } d w) d = w ∨ (aget (adel t.run.v d) d).isSome)) ∧
    (exec (.redPerformed g l) s = .next (modT s g l fun t => { t with reds := t.reds - 1 })) ∧
    (∀ lo hi s1 s2, fetchLanes s g l = [l] → lineMates s g l = [l] → getG s2 g = some G →
      fetchHalf s G.core (partOf s g) (isSuper G l) t.pc.toNat = (.ok lo, s1) →
      fetchHalf s1 G.core (partOf s1 g) (isSuper G l) (t.pc + 4).toNat = (.ok hi, s2) → partOf s1 g = partOf s g →
      ∃ s', exec (.instructionFetchComplete g l) s = .next s' ∧
        getT s' g l = some { t with ibuf := some ⟨lo, hi⟩ }) ∧
    (waitDone s g t = true → exec (.waitCyclesElapsed g l) s = .next (modT s g l fun t =>
      { t with wait := .none, stuck := 0 })) ∧
    (overdue s g l = [l] → exec (.watchdog g l) s =
      .next (dropStale (takeTrap s g t.pc [(l, trapAt causeWatchdog 0 0, .none)]))) ∧
    (∀ xs line w r, waiters s xs line = w :: r → w.is g l = true →
      (syncGrant w.excl (objectWord s w)).isSome →
      let s' := { s with syncWaits := s.syncWaits.map fun x => if x.is g l then { x with granted := true } else x }
      exec (.sacqGrant xs line) s = .next s' ∧ waitOver s' g G l t = true)) ∧
  ∀ wg W, aget s.wgs wg = some W → W.status = .exitPending → wgBusy s wg W = false →
    ∃ s', exec (.exitPendingRelease wg) s = .next s' ∧ (∀ x ∈ s'.tiles, x.owner ≠ wg) ∧
      (∀ x ∈ s'.resvs, x.owner ≠ wg) ∧ s'.wgs = adel s.wgs wg ∧ s'.groups = s.groups

/-- R272 to R276, R307, R311 to R315: a store buffer goes home, to `.xs` or to the line's L2, where later reads find it; a
walk leaves its leaf in the TLB; a line whose words are all sound under the key that it was written under is read as it stands
and a scrub writes nothing to it, only moves on; a dirty line of the L2 goes to its cells, its mismatching words as poison,
under the key that opens it, and its parity line takes the difference of the stored images; a line with bad words that the
others of its parity group give back, agreeing with the words that were good, is delivered corrected, written back and
reported, and the count of corrections grows up to its limit; words that fail their residue and cannot be rebuilt become
poison, with those that the rebuilt line gives another value, and the line is written and reported so, and a line under another key is poison whole. How keys and parity are modelled is said in log entry 43, the order of
the scrubber in entry 59, when lines leave the caches and the store path, and what a walk keeps, in entries 10 and 61. -/
def Obligations.MemoryEvents : Prop :=
  ∀ (s : State) (core part line : Nat),
    (∀ b, wcFind s core true line = some b → Memory.allWf s = true →
      ∃ s', exec (.storePathFlush core true line) s = .next s' ∧ wcFind s' core true line = none ∧
        ∀ i, i < 16 → readWord s'.xs (64 * line + 4 * i) =
          (patchLine b.words (readWords s.xs (64 * line) 16)).getD i .zero) ∧
    (∀ b c, wcFind s core false line = some b → l2Find s line = some c → line < 2 ^ 44 → b.uncached = false →
      ∃ s', exec (.storePathFlush core false line) s = .next s' ∧ wcFind s' core false line = none ∧
        (l2Find s' line).map (·.words) = some (patchLine b.words c.words)) ∧
    (∀ va p pa e L s1, canonical va = true → tlbFind s core part va = none → partIx s part = some p →
      walk s (baseOf (dieOf core)) p va = (.ok pa e L, s1) →
      exec (.translationWalk core part va) s = .next (tlbPut s1 ⟨core, part, va / 2 ^ leafBits L, L, e⟩) ∧
      (translate (tlbPut s1 ⟨core, part, va / 2 ^ leafBits L, L, e⟩) core part va).1 =
        .ok (pteAddr e + va % 2 ^ leafBits L) e L) ∧
    (lineSound s line = true → exec (.hbmLineRead line) s = .next s) ∧
    (∀ c, l2Find s line = some c → c.dirty = true → c.words.length = 16 → opens s line c.key = true → lineSound s line = true →
      (∀ a ∈ s.armings, a.line ≠ line) → Memory.allWf s = true →
      let k := lineKey s line
      let new := c.words.map fun w => if mismatch w then ⟨w.val, 0xF⟩ else w
      let old := cipherLine true k line (plainLine s line)
      ∃ s', exec (.hbmLineWrite line) s = .next s' ∧ l2Find s' line = some { c with dirty := false } ∧
        lineKey s' line = k ∧ hbmLine s' line = cipherLine true k line new ∧ (c.key = 0 → plainLine s' line = new) ∧
        (∀ m, m ≠ line → hbmLine s' m = hbmLine s m) ∧
        readWords s'.parity (parityAddr line) 16 =
          xorLine (readWords s.parity (parityAddr line) 16) (xorLine old (cipherLine true k line new))) ∧
    (∀ o key src, o.length = 16 → opens s line key = true →
      let others := (groupLines line).filter (· != line)
      let bad := badWords (plainLine s line)
      let c := cipherLine false (lineKey s line) line o
      let found (s : State) (src : Nat) : State := report (hbmPut s line o) 0 src line (maskOf bad)
      readWords s.parity (parityAddr line) 16 = others.foldl (fun acc m => xorLine acc (hbmLine s m)) o →
      bad ≠ [] → badWords c = [] → (∀ i, i < 16 → i ∉ bad → c.getD i .zero = (plainLine s line).getD i .zero) →
      (∀ m ∈ others, lineSound s m = true) →
      hbmRead s line key src = (c, found s src) ∧ ((lineKey s line).1 = key → exec (.hbmLineRead line) s = .next (found s 0)) ∧
      (∀ k x, s.ctrls[k]? = some x → line = lineAt k x.scrubbed → (lineKey s line).1 = key →
        exec (.patrolScrub k) s = .next (found { s with
          ctrls := lmod s.ctrls k fun c => { c with scrubbed := (c.scrubbed + 1) % stackLines } } 2))) ∧
    (∀ src mask, let n := stackOf (64 * line)
      ((report s 0 src line mask).ctrls[n]?).map (·.corrected) = (s.ctrls[n]?).map fun c =>
        if c.corrected = 0xFFFFFFFF then c.corrected else c.corrected + 1) ∧
    (∀ k c, s.ctrls[k]? = some c → lineSound s (lineAt k c.scrubbed) = true →
      exec (.patrolScrub k) s = .next { s with
        ctrls := lmod s.ctrls k fun c => { c with scrubbed := (c.scrubbed + 1) % stackLines } }) ∧
    (∀ key src, opens s line key = true → Memory.allWf s = true → (∀ a ∈ s.armings, a.line ≠ line) →
      let d := plainLine s line
      let bad := badWords d
      let others := (groupLines line).filter (· != line)
      let formed := others.all (lineSound s)
      let c := cipherLine false (lineKey s line) line
        (others.foldl (fun acc m => xorLine acc (hbmLine s m)) (readWords s.parity (parityAddr line) 16))
      let off := formed && (List.range 16).any fun i => !bad.contains i && c.getD i .zero != d.getD i .zero
      let m := (List.range 16).filter fun i => bad.contains i || formed && c.getD i .zero != d.getD i .zero
      let new := (List.range 16).map fun i => if m.contains i then ⟨(d.getD i .zero).val, 0xF⟩ else d.getD i .zero
      bad ≠ [] → (formed = false ∨ badWords c ≠ [] ∨ off = true) →
      (hbmRead s line key src).1 = new ∧
      hbmLine (hbmRead s line key src).2 line = cipherLine true (lineKey s line) line new ∧
      (∀ k, k ≠ line → hbmLine (hbmRead s line key src).2 k = hbmLine s k) ∧
      readWords (hbmRead s line key src).2.parity (parityAddr line) 16 = xorLine (readWords s.parity (parityAddr line) 16)
        (xorLine (hbmLine s line) (cipherLine true (lineKey s line) line new)) ∧
      ∃ y, (hbmRead s line key src).2 = report y 1 src line (maskOf m)) ∧
    (∀ key src, (opens s line key = true → (badWords (plainLine s line)).length = 16 ∧
        ∃ m ∈ (groupLines line).filter (· != line), lineSound s m = false) →
      ∀ w ∈ (hbmRead s line key src).1, isPoison w = true)

/-! ### Messages -/

/-- R403, R409 to R411: a reply's header and payload stand in MBREP with the interface no longer busy; a request that is
malformed is answered with BAD_MESSAGE, one that a virtual function may not send, or that names what is not bound to it, with
DENIED, and every other but FWIMAGE in recovery with STATE, whichever of the operations of R410 it is; a reply raises MSI-X vector 0; a register write fills MBREQ, and the doorbell submits it; a tail within
the ring is taken. The order of the checks, the member at which a message that names none waits, and the wait behind a reply
that is put off are the model's (log entry 26), and so is what FWIMAGE keeps of the mailbox (log entry 55). -/
def Obligations.Requests : Prop :=
  ∀ (s : State) (r : Request) (vi : Nat), let s1 := takeHead s r
    (r.msg.vi < s.ifaces.length → r.msg.vi < 64 → ∀ status payload, payload.length ≤ 62 →
      ((say r status payload s).ifaces[r.msg.vi]?).map
          (fun f => (f.mbrep.take (2 + payload.length), f.busy, f.done, f.vec0)) =
        some (header r.type.toNat r.op.toNat r.msg.tag.toNat r.msg.member.toNat status payload.length ++ payload,
          false, true, (getIface s r.msg.vi).vec0 + 1)) ∧
    (∀ i F, messageForm i = some F → atHead s F.type F.op = some r → (i = .peek → peekHeld s = false) →
      (s.power = .recovery → i ≠ .fwimage → exec i s = .next (say r stState [] s1)) ∧
      (s.power ≠ .recovery ∨ i = .fwimage →
        (r.resv = true ∨ 3 < r.msg.member.toNat ∨ F.well r = false → exec i s = .next (say r stBadMessage [] s1)) ∧
        (r.resv = false → r.msg.member.toNat < 4 → F.well r = true → r.msg.vi ≠ 0 → r.msg.vi < 64 →
          (pfOnly F.type F.op = true ∨ F.own s1 r = false) → exec i s = .next (say r stDenied [] s1)))) ∧
    ((s.inboxes.getD (memberOf s.subj.msg) []).head? = some r → r.msg = s.subj.msg → known r = false →
      s.power = .running → (∀ p ∈ s.replies, p.member ≠ memberOf r.msg) →
      exec .badMessage s = .next (say r stBadMessage [] s1)) ∧
    (ifaceOpen s vi = true →
      (∀ i v, i < 64 → exec (.registerWrite vi (0x10000 + 4 * i) v) s =
        .next (modIface s vi fun f => { f with mbreq := aset f.mbreq i v })) ∧
      ((getIface s vi).busy = false → exec (.registerWrite vi 0x10200 1) s = .next (submit s vi)) ∧
      exec (.mbrepRead vi) s = .next (modIface s vi fun f => { f with done := false }) ∧
      (∀ i x n, mailbox s (16 * i) = true → streamAt s vi (16 * i) = some x.id → getStream s x.id = some x → x.ovr = false → x.st = .run →
        1 ≤ (n - x.tail).toNat → (n - x.tail).toNat ≤ x.rsz →
        ∃ s', exec (.sqtail vi (16 * i) n) s = .next s' ∧ getStream s' x.id = some { x with tail := n })) ∧
    (∀ v, atHead s 8 1 = some r → s.power = .recovery →
      r.resv = false → r.msg.member.toNat < 4 → shaped 3 [] r = true → r.msg.vi = 0 →
      let image := hostBytes s (pd r 2) (pw r 4)
      Config.firmwareOk image = v →
      let up : State := { coldState { s1 with flash := some image } with
        ifaces := s1.ifaces, inboxes := s1.inboxes, replies := s1.replies, subj := s1.subj }
      exec .fwimage s = .next (if v then say r stOK []
          (if s.alarm = 0 then up else { up with power := .alarmed, alarm := s.alarm, jobKey := none })
        else say r stDenied [] s1))

/-- R296, R306, R309, R316, R370, R390, R393, R394, R402, R411, R412: partition messages of the physical function on a
partition that exists, in a package that runs: each has its effect and is answered with OK; RESUME puts the saved workgroups
whose cores the partition still has back there, hands the others out anew, writes the resume record and lets the streams go
on; a member's SHRINK, for a warm reset, leaves what runs on the quads to the drain. The statuses and effects that R411 and R412 leave to a reading, the limits
of a save area, the places within an image that R393 does not fix, the walk entries that SETROOT and TLBINV drop, and how a
member's message is told apart are the model's (log entries 27, 28, 51, 10, 53). -/
def Obligations.PartitionMessages : Prop :=
  ∀ (s : State) (r : Request), let s1 := takeHead s r
    (Asked s 1 1 r → shaped 5 [0x33F] r = true → partIx s (partNo r) = none → quadsFree s (quadMask r) = true →
      exec .partitionCreate s = .next (say r stOK [] { s1 with
        parts := s.parts ++ [newPart s (partNo r) (pw r 2 / 256 % 4) (quadMask r)] })) ∧
    ∀ p, (AskedOf s 2 r p → shaped 1 [0x3F] r = true → p.halt ≠ .halting →
      (∀ x ∈ s.streams, x.part = p.id → x.st = .idle) →
      exec .partitionDestroy s = .next (say r stOK [] (dropPart s1 p))) ∧
    (AskedOf s 3 r p → shaped 5 [0x3F] r = true → quadMask r ≠ 0 → quadMask r &&& ~~~ p.quads = 0 →
      exec .shrink s = .next (say r stOK [] (shrinkPart s1 p (quadMask r)))) ∧
    (atHead s 1 3 = some r → s.power = .running → r.resv = false → r.msg.member.toNat < 4 → 64 ≤ r.msg.vi →
      partIx s (partNo r) = some p → shaped 5 [0x3F] r = true → quadMask r ≠ 0 → quadMask r &&& ~~~ p.quads = 0 →
      exec .shrink s = .next (say r stOK [] (leaveDies s1 p (quadMask r)))) ∧
    (AskedOf s 4 r p → shaped 5 [0x3F] r = true → quadMask r ≠ 0 → quadsFree s (quadMask r) = true →
      exec .grow s = .next (say r stOK [] (modPart s1 p.id fun p => { p with quads := p.quads ||| quadMask r }))) ∧
    (AskedOf s 5 r p → shaped 1 [0x3F] r = true → p.halt = .running → p.stopped = false →
      ∃ s', exec .halt s = .next s' ∧ (partIx s' (partNo r)).map (·.halt) = some .halting ∧
        s'.replies = s.replies ++ [⟨memberOf r.msg, 1, 5, r.msg, p.id⟩] ∧
        ∀ g G, (g, G) ∈ s'.groups → ∀ W, aget s.wgs G.wg = some W → ofPart s p.id W.grid = true → G.halted = true) ∧
    (AskedOf s 6 r p → shaped 1 [0x3F] r = true → p.halt = .halted → p.stopped = false → haltedUnits s p.id = [] →
      (∀ x ∈ s.streams, x.part ≠ p.id) → p.resumeRec = none →
      exec .resume s = .next (say r stOK [] (modPart s1 p.id fun p => { p with halt := .running }))) ∧
    (AskedOf s 6 r p → shaped 1 [0x3F] r = true → p.halt = .halted → p.stopped = false →
      let vs := haltedUnits s1 p.id
      let x := recallAll s1 (vs.filter (placeKept p))
      let back := (x.1.1 ++ vs.filter fun v => !placeKept p v).foldl (restoreHalted p) x.2
      let run := modPart (requeueAll back (x.1.1.map fun v => (v, v.wg.core))) p.id fun p => { p with halt := .running }
      let s2 := resumeRecord run p.id p.home 0 x.1.2
      exec .resume s = .next (say r stOK []
        ((s2.streams.filter fun y => y.part == p.id && y.st == .halted).foldl resumeStream s2))) ∧
    (∀ (st : State) (v : Saved), placeKept p v = false →
      restoreHalted p st v = modGrid st v.wg.grid fun K => { K with returned := K.returned ++ [v.wg.index] }) ∧
    (∀ (st : State) (v : Saved), placeKept p v = true → ∃ W, aget (restoreHalted p st v).wgs v.uid = some W ∧
      W.grid = v.wg.grid ∧ W.index = v.wg.index ∧ W.core = v.wg.core ∧ W.dwg = v.wg.dwg ∧ W.status = v.wg.status) ∧
    (∀ (st : State) member src n, (partIx st p.id).map (·.resumeRec) = some none → resumeRecord st p.id member src n = st) ∧
    (∀ (st : State) member src (n : Tally) a, (partIx st p.id).map (·.resumeRec) = some (some a) →
      ∃ k, resumeRecord st p.id member src n = winRecord { st with free := st.free + 1 } k p.id member 3 a
        ([BitVec.ofNat 32 src, BitVec.ofNat 32 (min n.psn 0xFFFFFFFF)] ++ lohi (n.first.getD 0) ++
          [BitVec.ofNat 32 n.cbi, BitVec.ofNat 32 n.chk] ++ List.replicate 10 0)) ∧
    (∀ (st : State) (y : Stream), getStream st y.id = some y → y.deferred = [] →
      getStream (resumeStream st y) y.id = some { y with
        st := if y.prior = .idle ∧ y.fetched ≠ y.tail then .run else y.prior }) ∧
    (AskedOf s 7 r p → shaped 3 [0x3F] r = true → pd r 3 % 4096 = 0 → p.halt = .halted → p.stopped = false →
      let vs := savedOfPart s1 p.id
      let x := recallWords s1 vs
      let body := bodyOf x.2 x.1
      let i := imageFor x.2 p (pd r 3) (vs.map fun v => { v with spill := none }) body
      let w := winWrites { x.2 with free := x.2.free + 3 } p.id i.addr ((imageHeader i body.soff).map gen ++ body.words)
      i.len = 4096 + 4 * body.words.length ∧ i.len % 4096 = 0 ∧
      (imageHeader i body.soff).take 4 = [0x5A39434B, BitVec.ofNat 32 (p.id * 256 + 1)] ++ lohi i.len ∧
      exec .checkpoint s = .next (if w.1.isSome then say r stState [] w.2
        else say r stOK (lohi i.len) { w.2 with images := i :: w.2.images })) ∧
    (AskedOf s 8 r p → shaped 3 [0x3F] r = true → rootOk p (pd r 3) = true →
      exec .setroot s = .next (say r stOK [] { modPart s1 p.id fun p => { p with root := BitVec.ofNat 64 (pd r 3) } with
        walks := s.walks.filter fun w => w.part != p.id })) ∧
    (AskedOf s 9 r p → shaped 5 [0x13F] r = true →
      exec .tlbinv s = .next (say r stOK [] (invalidate s1 p
        (fun t => (pw r 2).testBit 8 || leafMeets (pd r 3) (pd r 5) t)
        fun w => (pw r 2).testBit 8 || entryMeets (pd r 3) (pd r 5) w))) ∧
    (AskedOf s 10 r p → bufferForm r = true →
      let w := pw r 2 / 2 ^ 16 % 4
      let f := freeList s p.id w (pw r 2 / 256 % 32)
      windowBuffers s w + (bufferAddrs r).length ≤ 65536 →
      exec .addbuf s = .next (say r stOK [BitVec.ofNat 32 (f.own.length + (bufferAddrs r).length)]
        (setFree s1 p.id { f with own := f.own ++ bufferAddrs r, bufs := f.bufs ++ bufferAddrs r }))) ∧
    (AskedOf s 11 r p → shaped 5 [0xF033F] r = true → windowOk (kindOf r) (indexOf r) (pd r 3) (pd r 5) = true →
      let w : Option Window := if pd r 5 = 0 then none else some ⟨pd r 3, pd r 5⟩
      let set (p : Part) : Part :=
        if kindOf r = 0 then { p with loc := w }
        else if kindOf r = 1 then { p with pods := w.elim (adel p.pods (indexOf r)) (aset p.pods (indexOf r)) }
        else if kindOf r = 2 then { p with host := w }
        else { p with save := w }
      exec .setwin s = .next (say r stOK [] (modPart s1 p.id set))) ∧
    (AskedOf s 12 r p → xsForm r = true → (∀ o ∈ s.parts, o.id ≠ p.id → o.xs = []) →
      (∀ x ∈ p.xs, x.2.base % 65536 = 0 ∧ x.2.len % 65536 = 0) →
      let within (ws : AList Window) (a : Nat) : Bool := (aget ws (a / 2 ^ 26)).any fun w =>
        decide (w.base ≤ a % 2 ^ 26) && decide (a % 2 ^ 26 < w.base + w.len)
      ∃ xs, exec .setxs s = .next (say r stOK [] { modPart s1 p.id fun p => { p with xs := xsWanted r } with xs }) ∧
        ∀ a, a % 4 = 0 → a < 2 ^ 28 → readWord xs a =
          if within (xsWanted r) a = true ∧ within p.xs a = false then .zero else readWord s.xs a) ∧
    (AskedOf s 13 r p → shaped 3 [0x3F] r = true → pd r 3 % 64 = 0 →
      exec .setresume s = .next (say r stOK [] (modPart s1 p.id fun p => { p with resumeRec := some (pd r 3) }))) ∧
    (Asked s 1 14 r → shaped 2 [7, 0xFFFF] r = true →
      exec .setreserve s = .next (say r stOK [] (modDie s1 (pw r 2) fun D =>
        { D with reserve := BitVec.ofNat 16 (pw r 3) }))) ∧
    (AskedOf s 15 r p → shaped 2 [0x3F3F, 0x1FFF0FFF] r = true → pw r 2 / 256 ≠ 0 →
      pw r 3 % 4096 + pw r 3 / 65536 ≤ 4096 →
      exec .bindvi s = .next (say r stOK [] (modIface s1 (pw r 2 / 256) fun f =>
        { f with part := some p.id, first := pw r 3 % 4096, count := pw r 3 / 65536 }))) ∧
    (∀ q s2, partIx s p.id = some p → p.halt = .halting → p.stopped = false →
      clearWgs s (fun W => ofPart s p.id W.grid) = (q, s2) → s2.parts = s.parts →
      ∃ s', exec (.contextSave p.id) s = .next s' ∧ (partIx s' p.id).map (·.halt) = some .halted ∧
        ∀ x ∈ s'.streams, x.part = p.id → x.st = .halted ∨ x.st = .aborting)

/-- R275, R280, R360 to R367, R401, R404, R407, R411 to R418: messages to streams, to the telemetry endpoint, to the key store
and to the pod ports, each with its effect and its answer; a silent die's storage is answered with DIE_OFFLINE, and one whose
link is quiesced is not answered yet. What a new stream of a halted partition begins as, the statuses of streams and slots,
the check of an INJECT, the traffic that a port drains and the rings it has in Ethernet mode, the ciphers, and an ATTEST's
numbers are the model's or open (log entries 27, 29, 62, 54, 24, 52, 67). -/
def Obligations.ServiceMessages : Prop :=
  ∀ (s : State) (r : Request), let s1 := takeHead s r
    (Asked s 2 1 r → streamForm r = true → ∀ p, partIx s (pw r 2 / 2 ^ 16 % 64) = some p →
      getStream s (streamNo r) = none →
      exec .streamCreate s = .next (say r stOK [] { s1 with
        streams := s.streams ++ [newStream r (p.halt == .halted)] })) ∧
    (∀ x, getStream s (streamNo r) = some x → shaped 1 [0xFFF] r = true →
      (Asked s 2 2 r → x.st = .idle → exec .streamDestroy s = .next (sayStat r stOK { s1 with
        streams := s.streams.filter fun y => y.id != x.id })) ∧
      (Asked s 2 6 r → exec .clear s = .next (sayStat r stOK
        (modStream s1 x.id fun x => { x with ovr := false }))) ∧
      (Asked s 2 3 r → x.st = .faulted → exec .restart s = .next (sayStat r stOK (restartStream s1 x.id))) ∧
      (Asked s 2 4 r → ∀ t rest, x.st = .faulted → x.faulted = t :: rest → getStream s x.id = some x →
        exec .skip s = .next (sayStat r stOK (skipTask s1 x t))) ∧
      (Asked s 2 5 r → x.st = .run → getStream s x.id = some x → exec .abort s = .next (finishAbort
        { beginAbort s1 x.id with replies := (beginAbort s1 x.id).replies ++ [⟨memberOf r.msg, 2, 5, r.msg, x.id⟩] } x.id)) ∧
      (Asked s 2 3 r → x.st = .halted → exec .restart s = .next (sayStat r stAccepted
        (modStream s1 x.id fun x => { x with deferred := x.deferred ++ [.restart] })))) ∧
    (Asked s 4 1 r → shaped 2 [0x301FF] r = true → pw r 3 % 4 = 0 → pw r 3 < peekSize (peekSpace r) →
      let d := dieOf (peekCore r)
      let w := peekWord s (peekCore r) (peekSpace r) (pw r 3)
      (peekSpace r = 3 ∨ (dieSilent s d = false ∧ (getDie s d).st ≠ .quiesced) →
        exec .peek s = .next (say r stOK [BitVec.ofNat 32 (isPoison w).toNat, w.val] s1)) ∧
      (peekSpace r ≠ 3 → (getDie s d).st = .quiesced → exec .peek s = .next s) ∧
      (peekSpace r ≠ 3 → dieSilent s d = true → exec .peek s = .next (say r stDieOffline [1, 0]
        (modDie s1 d fun D => { D with reset := D.reset.map fun c => { c with strays := c.strays + 1 } })))) ∧
    (Asked s 4 2 r → shaped 2 [0xF] r = true → pw r 2 < 12 → 1 ≤ pw r 3 → pw r 3 ≤ 168 →
      exec .scrub s = .next (say r stOK [] { s1 with
        ctrls := lmod s.ctrls (pw r 2) fun c => { c with period := pw r 3 } })) ∧
    (Asked s 4 3 r → armingForm r = true → s.armings = [] →
      exec .inject s = .next (say r stOK [] { s1 with armings := [armingOf r] })) ∧
    (Asked s 5 1 r → shaped 3 [] r = true → pd r 2 % 64 = 0 →
      exec .getcert s = .next (if (certs s).length ≤ pw r 4
        then say r stOK [BitVec.ofNat 32 (certs s).length] (toHost s1 (pd r 2) (certs s))
        else say r stNoResource [BitVec.ofNat 32 (certs s).length] s1)) ∧
    (Asked s 5 2 r → shaped 38 [] r = true → pd r 38 % 64 = 0 →
      let bs := attestReport s1 r
      (exec .attest s = .next (say r stOK [BitVec.ofNat 32 bs.length] { toHost s1 (pd r 38) bs with
        session := some (sessionKey r) }) ∧
      bs.length = 304)) ∧
    (Asked s 6 1 r → shaped 24 [0xFF] r = true → pw r 2 ≠ 0 → exec .load s = .next (match opened s r 16 with
      | some k => say r stOK [] { s1 with keySlots := aset s.keySlots (pw r 2) ⟨natLE k⟩ }
      | none => say r stDenied [] s1)) ∧
    (∀ p, partIx s (grantPart r) = some p → grantForm r = true →
      (Asked s 6 2 r → (pw r 2 % 256) ∉ p.keys → exec .grant s = .next (say r stOK []
        (modPart s1 p.id fun p => { p with keys := if p.keys.contains (pw r 2 % 256) then p.keys
          else p.keys ++ [pw r 2 % 256] }))) ∧
      (Asked s 6 3 r → (pw r 2 % 256) ∈ p.keys → exec .revoke s = .next (say r stOK []
        (invalidate (modPart s1 p.id fun p => { p with keys := p.keys.filter fun x => x != pw r 2 % 256 }) p
          (fun t => pteKey t.entry == pw r 2 % 256) fun _ => false)))) ∧
    (∀ p, partIx s (partNo r) = some p → Asked s 6 4 r → shaped 16 [0x3F] r = true →
      exec .podkey s = .next (match opened s r 8 with
        | some k => say r stOK [] { s1 with podKeys := aset s.podKeys p.id (natLE k) }
        | none => say r stDenied [] s1)) ∧
    (Asked s 7 1 r → shaped 2 [0x1FF001F, 0x7FF] r = true →
      let p := getPort s (pw r 2 % 16)
      let ether := (pw r 2).testBit 4
      let fresh := ether && !p.ethernet
      let s2 := if ether = p.ethernet then s1 else drainPort s1 p
      exec .join s = .next (say r stOK [] { s2 with
        pkg := pw r 2 / 2 ^ 16, pod := pw r 3, free := s2.free + 1,
        ports := lmod s2.ports (pw r 2 % 16) fun p =>
          { p with
            ethernet := ether, pkg := pw r 2 / 2 ^ 16, pod := pw r 3, failed := [], tries := [],
            tx := if fresh then portRings s2 true else if ether then p.tx else [],
            rx := if fresh then portRings s2 false else if ether then p.rx else [] } })) ∧
    (∀ p, partIx s (partNo r) = some p → Asked s 7 2 r → shaped 3 [0x13F, 0x1FF] r = true →
      s.podBars = [] → (∀ b ∈ s.bars, b.lvl ≠ 5) →
      exec .barreg s = .next (say r stOK [] (registerBar s1 p.id (pw r 2 / 256) (pw r 3) (pw r 4))) ∧
      findBar (registerBar s1 p.id (pw r 2 / 256) (pw r 3) (pw r 4)) 5 p.id (pw r 2 / 256) =
        some ⟨5, p.id, pw r 2 / 256, pw r 4, pw r 4, 0, 0, false, false⟩)

/-! ### Links, power, reset -/

/-- R277, R400 to R402, R405, R406, R413, R414, R420 to R422: words enter with a generated residue or as poison and leave
stripped, with the poison told of all the data, through the decoder of a virtual function; a host access that cannot be
translated gives an error response; a pod packet
whose tag fails counts towards the failure of its path, and a failed path is answered with DIE_OFFLINE; frames of 64 to 9,216
bytes cross the Ethernet rings; a warm reset goes through its stages one after the other, and a retrained link re-admits the
die; an alarm and a power loss erase the keys with what was cached in the clear; a cold reset with sound firmware gives the
state of R422. The form of ring entries, the numbers of a reset that a link failure begins, the moments of a warm reset's
stages, the packet of a pod, what a cold reset leaves, and the key slot of a host access are the model's (log entries 24, 25,
53, 54, 55, 56). -/
def Obligations.LinksAndPower : Prop :=
  ∀ (s : State) (d : Nat),
    (∀ pa x, pa % 4 = 0 →
      (windowOf pa = 2 → ∃ s', exec (.hostIngress 0 pa [x]) s = .next s' ∧
        { s' with hostMem := s.hostMem, l2 := s.l2, hostErr := s.hostErr } = s ∧ s'.hostErr = false ∧
        s'.hostMem = writeWord s.hostMem (pa % 2 ^ 50) (if x.2 then ⟨x.1, 0xF⟩ else gen x.1) ∧
        l2Find s' (hostL2Line (pa % 2 ^ 50 / 64 * 64)) = none) ∧
      (pa < hbmBytes → s.power ≠ .recovery → exec (.hostIngress 0 pa [x]) s =
        .next (homeWrite { s with hostErr := false } pa (hostAttr s pa)
          [(pa / 4 % 16, wholePatch (if x.2 then ⟨x.1, 0xF⟩ else gen x.1))]))) ∧
    (∀ pa, let w := readWord s.hostMem (pa % 2 ^ 50)
      windowOf pa = 2 → pa % 4 = 0 →
      (isPoison w = false → mismatch w = false →
        exec (.hostEgress 0 pa 1) s = .next { s with hostOut := [(w.val, false)], hostErr := false }) ∧
      (isPoison w = true ∨ mismatch w = true → exec (.hostEgress 0 pa 1) s =
        .next { report s 2 3 (pa / 64) (2 ^ (pa / 4 % 16)) with hostOut := [(w.val, true)], hostErr := false })) ∧
    (∀ vi addr x, vi ≠ 0 → addr % 4 = 0 → s.power ≠ .recovery →
      ((getIface s vi).part = none →
        exec (.hostIngress vi addr [x]) s = .next { s with hostErr := true } ∧
        ∃ s' w, exec (.hostEgress vi addr 1) s = .next s' ∧ s'.hostErr = true ∧ s'.hostOut = [(w, true)] ∧ s'.hbm = s.hbm) ∧
      (∀ pa at_ s1, decoderLoc { s with hostErr := false } vi addr true = (some (pa, at_), s1) → exec (.hostIngress vi addr [x]) s =
        .next (homeWrite s1 pa at_ [(pa / 4 % 16, wholePatch (if x.2 then ⟨x.1, 0xF⟩ else gen x.1))]))) ∧
    (s.power ≠ .recovery → ∀ pa,
      (pa < hbmBytes → ∀ x, exec (.cxlMemAccess 0 pa (some x)) s = .next
        { homeWrite s pa (hostAttr s pa) [(pa / 4 % 16, wholePatch (ingress x))] with hostErr := false }) ∧
      (pa < hbmBytes → ∀ ws s1, homeRead s pa (hostAttr s pa) = (ws, s1) →
        ((∀ w ∈ ws, isPoison w = false ∧ mismatch w = false) → exec (.cxlMemAccess 0 pa none) s =
          .next { s1 with hostOut := ws.map fun w => (w.val, false), hostErr := false }) ∧
        ((∃ w ∈ ws, isPoison w = true ∨ mismatch w = true) → ∃ s', exec (.cxlMemAccess 0 pa none) s = .next s' ∧
          s'.hostErr = false ∧ s'.hostOut = ws.map fun w => (w.val, true))) ∧
      (hbmBytes ≤ pa → ∀ x, exec (.cxlMemAccess 0 pa (some x)) s = .next { s with hostErr := true }) ∧
      (hbmBytes ≤ pa → ∃ s', exec (.cxlMemAccess 0 pa none) s = .next s' ∧ s'.hostErr = true ∧
        s'.hostOut.length = 16 ∧ ∀ x ∈ s'.hostOut, x.2 = true)) ∧
    (∀ port pkg addr write packet, (getPort s port).ethernet = false →
      (pkg ∈ (getPort s port).failed → exec (.podPacketReceive port pkg addr write packet) s = .next { s with
        podOut := (true, if write.isSome then [] else List.replicate 16 ⟨0, 0xF⟩) }) ∧
      (pkg ∉ (getPort s port).failed → tagOk s (getPort s port) pkg packet = true →
        exec (.podPacketReceive port pkg addr write packet) s = .next (podServe (packetPassed s port pkg) addr write)) ∧
      (pkg ∉ (getPort s port).failed → tagOk s (getPort s port) pkg packet = false →
        let n := (aget (getPort s port).tries pkg).getD 0 + 1
        (n ≠ 4 → exec (.podPacketReceive port pkg addr write packet) s =
          .next (modPort s port fun p => { p with tries := aset p.tries pkg n })) ∧
        (n = 4 → port < s.ports.length → ∃ s', exec (.podPacketReceive port pkg addr write packet) s = .next s' ∧
          pkg ∈ (getPort s' port).failed))) ∧
    (∀ port ring r x a b s1 s2, (getPort s port).ethernet = true →
      (getPort s port).tx.find? (fun r => r.num == ring) = some r → r.size ≠ 0 →
      readEntry s r r.next = (some x, s1) → x.owner = true → x.eof = true → 64 ≤ x.len → x.len ≤ 9216 →
      frameBytes s1 r.part x.addr x.len = (some (a, b), s2) →
      ∃ s', exec (.ethernetFrameTransmit port ring) s = .next s' ∧
        s'.sent = (giveEntry s2 r r.next x.len true b).sent ++ [(port, a, b)]) ∧
    (∀ port ring r x frame s1, (getPort s port).ethernet = true →
      (getPort s port).rx.find? (fun r => r.num == ring) = some r → readEntry s r r.next = (some x, s1) → x.owner = true →
      64 ≤ x.len → x.len ≤ 9216 → 64 ≤ frame.length → frame.length ≤ 9216 →
      let w := writeFrame s1 r.part x.addr (frame.take x.len)
      exec (.ethernetFrameReceive port ring frame) s = .next (modPort
        (giveEntry w.2 r r.next (frame.take x.len).length true (w.1 || decide (x.len < frame.length))) port
        fun p => { p with rx := p.rx.map fun y => if y.num == r.num then
          { y with next := (r.next + 1) % max 1 r.size } else y })) ∧
    (∀ r, Asked s 3 1 r → shaped 2 [0x117] r = true → (pw r 2).testBit 4 = false → memberOf r.msg = baseOf (pw r 2 % 8) →
      (∀ D ∈ s.dies, D.reset = none) → (getDie s (pw r 2 % 8)).st ≠ .offline →
      exec .resetDie s = .next (beginReset (say r stAccepted [] (takeHead s r)) (pw r 2 % 8) r.msg.vi r.msg.tag (pw r 3)
        ((pw r 2).testBit 8))) ∧
    (s.subj.die = d →
      let st := (getDie s d).st
      let enter (x : DieSt) (s : State) : State := modDie s d fun D => { D with st := x }
      (∀ c, st = .shrinking → (getDie s d).reset = some c → c.waits = 0 → exec .dieDrainExpiry s =
        .next (modDie s d fun D => { D with st := .draining, reset := some { c with deadline := s.cycle + c.drain } })) ∧
      (drainOver s d = true → exec .dieDrainExpiry s = .next (enter .empty (emptyDie s d))) ∧
      (st = .empty → exec .dieDrainExpiry s = .next (enter .quiesced s)) ∧
      (st = .quiesced → exec .dieDrainExpiry s = .next (enter .silent (writeDie s d))) ∧
      (st = .silent → exec .dieDrainExpiry s = .next (enter .inReset (clearDie s d))) ∧
      (st = .inReset → exec .dieDrainExpiry s = .next (enter .training s)) ∧
      (∀ c, (getDie s d).reset = some c →
        (st = .training → s.subj.ok = true → exec .linkRetrainComplete s =
          .next (if c.regrow then sendParts (enter .up s) d 4 c.removed else enter .up s)) ∧
        (st = .training → s.subj.ok = false → exec .linkRetrainComplete s =
          .next (sayDone (enter .offline s) d stDieOffline c)) ∧
        (st = .up → c.waits = 0 → exec .linkRetrainComplete s = .next (sayDone s d stOK c))) ∧
      (st = .up → s.power ≠ .recovery → ∃ drain regrow, exec .computeDieLinkFailure s =
        .next (beginReset { s with free := s.free + 2 } d 0 0 drain regrow))) ∧
    (s.power = .recovery → exec (.meshLinkFailure d) s = .next s ∧ exec .computeDieLinkFailure s = .next s) ∧
    (s.power ≠ .recovery → ∃ s', exec (.meshLinkFailure d) s = .next s' ∧ s'.power = .meshFault ∧ s'.coach = none ∧
      (∀ p ∈ s'.parts, p.stopped = true) ∧ (∀ x ∈ s'.groups, x.2.halted = true)) ∧
    (∀ x : BitVec 4, x ≠ 0 → ∃ s', exec (.securityAlarm x) s = .next s' ∧
      s'.power = (if s.power = .recovery then .recovery else .alarmed) ∧ s'.keySlots = [] ∧
      s'.podKeys = [] ∧ s'.session = none ∧ s'.jobKey = none ∧ s'.alarm = s.alarm ||| x ∧
      (∀ p ∈ s'.parts, p.stopped = true) ∧ (∀ c ∈ s'.l2, c.key = 0) ∧ s'.dcache = []) ∧
    (∃ s', exec .powerLoss s = .next s' ∧ s'.power = .off ∧ s'.keySlots = [] ∧ s'.podKeys = [] ∧ s'.session = none ∧
      s'.jobKey = none ∧ s'.coach = none) ∧
    (∃ s', exec .coldReset s = .next s' ∧ s'.parts = [] ∧ s'.streams = [] ∧ s'.groups = [] ∧ s'.keySlots = [] ∧
      s'.hbm = State.reset.hbm ∧ s'.dies = State.reset.dies ∧ clock s' = 0 ∧ s'.flash = s.flash ∧
      s'.power = if Config.firmwareOk (s.flash.getD Config.shippedImage) then .running else .recovery)

/-! ### Placement -/

/-- R34, R293 to R295, R385, R387, R389: a batch goes to the open die with the largest report, the lowest of equals; a die places the
first pending unit that fits; a gang that has stood first for 65,536 cycles gets a hold, told to the kernel once after
2^20 more; latency work pre-empts the bulk work on the reserve; a stage launches on an idle core, and a review moves at
most one core. A launched lane begins at the kernel's code, its seed that of the task XOR its `%tid` (R34). A grid with COR is
handed out only when what is left of it fits at once. What a die's report takes off for
workgroups on their way, the room that pre-emption makes, and the core that a review moves are open or the model's (log
entries 47 to 50). -/
def Obligations.Placement : Prop :=
  ∀ (s : State) (d : Nat), s.subj.die = d → let D := getDie s d
    (∀ grid K e r, aget s.grids grid = some K → K.pipe = none → undispatched K = true → partRuns s K.part = true →
      K.cor = false ∨ unstarted s grid K = 0 → bestDie (dieReport s grid K) s K = some (e, r) →
      let b := nextBatch (heldBack s grid) K (min 64 r)
      dieReport s grid K e = r ∧ (∀ c ∈ openDies s K, dieReport s grid K c ≤ r) ∧
      (∀ c ∈ openDies s K, c < e → dieReport s grid K c < r) ∧ b.1.length ≤ min 64 r ∧
      (b.1 ≠ [] → exec (.dispatchBatch grid) s = .next (receive { s with free := s.free + 8 } grid e b.2 b.1))) ∧
    (∀ grid K, aget s.grids grid = some K → K.pipe = none → undispatched K = true → partRuns s K.part = true →
      K.cor = true → unstarted s grid K ≠ 0 →
      (roomFor s K < unstarted s grid K ∨ servedFirst s K = true → exec (.dispatchBatch grid) s = .next s) ∧
      (unstarted s grid K ≤ roomFor s K → servedFirst s K = false → exec (.dispatchBatch grid) s = .next (dispatchWhole s grid K))) ∧
    (∀ a p b spots base, D.st = .up → heads D.pending = a ++ p :: b → (∀ x ∈ a, placeOf s D x = none) →
      placeOf s D p = some (spots, base) → exec .placeWorkgroup s = .next (seat s D p spots base)) ∧
    (∀ (b : Birth) sp K, aget s.grids b.grid = some K →
      (aget (launchWg s b sp).wgs s.uid).map (fun W => (W.grid, W.index, W.core, W.dwg, W.status)) =
        some (b.grid, b.index, sp.core, b.dwg, .resident)) ∧
    (∀ (b : Birth) sp K, aget s.grids b.grid = some K → (∀ x ∈ s.groups, x.2.wg ≠ s.uid) →
      ∀ x ∈ (launchWg s b sp).groups, x.2.wg = s.uid → x.2.core = sp.core ∧ x.2.nreq = K.kd.nreq ∧
        ∀ l t, x.2.threads[l]? = some t → t.pc = K.kd.code ∧ t.seed = K.seed ^^^ BitVec.ofNat 32 (32 * x.2.idx + l)) ∧
    (∀ p n, D.st = .up → holdOf D = none → (heads D.pending).head? = some p → D.headSince = some (p.grid, p.wg, n) →
      isGang s p = true → n + 65536 ≤ s.cycle → fitOf s D p = none →
      exec .gangHold s = .next (modDie s d fun D => { D with hold := some (p.grid, p.wg, s.cycle), starved := false })) ∧
    (∀ h K, holdOf D = some h → D.starved = false → h.2.2 + 2 ^ 20 ≤ s.cycle → aget s.grids h.1 = some K →
      exec .placementStarvation s = .next (notify (modDie s d fun D => { D with starved := true }) 0 4 0x82 0 (baseOf d)
        [BitVec.ofNat 32 (d + 65536 * K.stream), BitVec.ofNat 32 K.seq, BitVec.ofNat 32 (K.seq / 2 ^ 32),
         BitVec.ofNat 32 (h.2.1 / 4)])) ∧
    (∀ p, D.st = .up → (heads D.pending).head? = some p → p.latency = true → partRuns s (gridPart s p.grid) = true →
      placeOf s D p = none → ∀ w r, reserveBulk s D (gridPart s p.grid) = w :: r → (aget s.wgs w).isSome = true →
      (placeOf (evict s D.id w) D p).isSome = true →
      exec .latencyReservePreemption s = .next (evict s D.id w)) ∧
    ∀ pipe p, aget s.pipes pipe = some p →
      (∀ i st K sp, p.stages[i]? = some st → aget s.grids st.grid = some K → st.done = false → partRuns s K.part = true →
        stageHas s p st K = true → stageSpot s p st K = some sp → s.shadow = [] →
        ∃ s', exec (.pipelineStageLaunch pipe i) s = .next s' ∧
          (aget s'.wgs s.uid).map (fun W => (W.grid, W.index, W.core, W.q)) =
            some (st.grid, if st.pop = 0 then K.returned.headD K.nextWg else st.launched, sp.core, stageBinds s p st)) ∧
      (p.since < 16384 → exec (.pipelineReview pipe) s = .next s) ∧
      (16384 ≤ p.since → let clean (l : List PStage) := l.map fun st => { st with occ := 0, waits := 0 }
        ((neediest s p = none ∨ richest s p = none) → exec (.pipelineReview pipe) s =
          .next (modPipe s pipe fun _ => { p with since := 0, stages := clean p.stages })) ∧
        ∀ a b A, neediest s p = some b → richest s p = some a → p.stages[a]? = some A → A.cores ≠ [] →
          ∃ c ∈ A.cores, exec (.pipelineReview pipe) s = .next (modPipe { s with free := s.free + 1 } pipe fun _ =>
            { p with since := 0, stages := clean (lmod (lmod p.stages a fun st =>
              { st with cores := st.cores.filter (· != c) }) b fun st => { st with cores := st.cores ++ [c] }) }))

/-! ### Tasks -/

/-- R247 to R251, R256, R259, R260, R368 to R373, R378: the next entry of the stream whose turn it is becomes a task under the next
sequence number; no-ops, links and successor entries are consumed; a task reads its inputs in the map and draws its
outputs from the heads of the free lists, and faults where its class has no buffer at all; a starved oldest task has the
youngest candidate discarded. When a successor entry's slots are cleared, and what counts as a candidate, are the model's
readings (log entries 21, 22). -/
def Obligations.TaskEntries : Prop :=
  ∀ (s : State) (x : Stream) (e : List Word) (s1 : State),
    (∀ c : EntryCtx, ((∃ w ∈ e, isPoison w = true ∨ mismatch w = true) → entryReason c e = some 0x0A) ∧
      ((∀ w ∈ e, isPoison w = false ∧ mismatch w = false) → 0x0F ≤ topOf e → entryReason c e = some 1)) ∧
    (∀ slot a d, let t := newTask s x x.nextSeq slot a e d
      t.seq = x.nextSeq ∧ t.stream = x.id ∧ (d.reason = none → t.st = .decoded ∧ t.fault = none) ∧
      ∀ r, d.reason = some r → t.st = .complete ∧ t.fault.map (·.reason) = some r) ∧
    (s.subj.stream = x.id → getStream s x.id = some x → fetchTurn s x = true →
      (∀ d s2, entryWords s x (nextAddr x) = (true, e, s1) →
        (fleeting (topOf e) = false ∨ (entryReason (ctxOf x (!x.slots.isEmpty)) e).isSome = true) →
        decodeEntry s1 x.part (ctxOf x (!x.slots.isEmpty)) e = (d, s2) → exec .taskEntryFetch s =
          .next (passEntry (addTask (noteFetch s2 x) x.id (!x.slots.isEmpty) (nextAddr x) e d) x.id)) ∧
      (entryWords s x (nextAddr x) = (false, e, s1) → exec .taskEntryFetch s =
        .next (passEntry (addTask (noteFetch s1 x) x.id (!x.slots.isEmpty) (nextAddr x) e (.plain (some 0x0B))) x.id))) ∧
    (Fleets s x 0 e s1 → exec .tkNop s = .next (settleIdle
      (modStream (passEntry (noteFetch s1 x) x.id) x.id fun x => { x with last := 0 }) x.id)) ∧
    (Fleets s x 0x0A e s1 → exec .tkLink s = .next (settleIdle (modStream (noteFetch s1 x) x.id fun x =>
      { x with fp := eD e 2, fetched := x.fetched + 1, last := 0x0A }) x.id)) ∧
    (Fleets s x 0x0C e s1 →
      let s2 := modStream (passEntry (noteFetch s1 x) x.id) x.id fun x => { x with last := 0x0C }
      let n := eW e 0 / 2 ^ 16 % 16
      let held := modStream s2 x.id fun x => { x with hold := some (x.nextSeq - 1, n, eD e 2) }
      (getTask s2 x.id (x.nextSeq - 1) = none → exec .tkSucc s = .next held) ∧
      ∀ t, getTask s2 x.id (x.nextSeq - 1) = some t →
        (t.st = .complete → t.grid = none → t.pipe = none → exec .tkSucc s = .next s2) ∧
        (t.st = .complete → (t.grid.isSome = true ∨ t.pipe.isSome = true) → exec .tkSucc s = .next held) ∧
        (t.st = .issued → exec .tkSucc s = .next (clearSlots held x.part n (eD e 2))) ∧
        (t.st = .decoded ∨ t.st = .renamed → exec .tkSucc s = .next held)) ∧
    (∀ t, s.subj.stream = x.id → getStream s x.id = some x → toRename s x.id = some t → getTask s x.id t.seq = some t →
      (t.ins = [] → outsLeft (readInputs x t) = [] → freedName t = none → (readInputs x t).fault = none →
        exec .taskRename s = .next (modTask (modTask s x.id t.seq fun _ => readInputs x t) x.id t.seq fun t =>
          { t with st := .renamed, outs := outBases t })) ∧
      (∀ lb c b r, t.ins ≠ [] → t.drawn = [] → t.fault = none → outsLeft t = [(lb, c)] →
        (freeList s t.part t.win c).bufs = b :: r → listTaken s t c = false →
        ∃ s', exec .taskRename s = .next s' ∧
          (getTask s' x.id t.seq).map (fun u => (u.st, u.drawn)) = some (.renamed, [⟨lb, some b, c, aget x.map lb⟩]) ∧
          (getStream s' x.id).map (fun y => aget y.map lb) = some (some b) ∧ (freeList s' t.part t.win c).bufs = r) ∧
      (∀ lb c, t.ins ≠ [] → outsLeft t = [(lb, c)] → (freeList s t.part t.win c).bufs = [] →
        (freeList s t.part t.win c).own = [] → exec .taskRename s = .next (failTask s t (descFault 8)))) ∧
    (∀ w c t, toRename s s.subj.stream = some w → wantsClass w = some c → isOldest s w = true → starved s w c = true →
      (candidates s w c).find? (fun t => !(candidates s w c).any fun u => olderThan t u) = some t →
      t ∈ candidates s w c ∧ (∀ u ∈ candidates s w c, olderThan t u = false) ∧
      exec .bufferStarvationDiscard s = .next (discardFrom s t.stream t.seq))

/-- R253 to R258, R261 to R263, R376, R377, R379 to R384, R393: the task that its window issues next takes its effect; a task
whose work has ended completes; the oldest complete task retires, or the stream takes its fault; the completion word is
written once for the tasks that retire in a cycle. A wait that is tested again, what an image's body holds, and the cores of
an ordinary launch are open or the model's (log entries 22, 49, 51). Data of a task's copy or fill moves in the step that
completes it (log entry 19). -/
def Obligations.TaskLife : Prop :=
  ∀ (s : State) (x : Stream) (t : Task),
    (∀ v old, isPoison old = false → (signalWord 0 v old).val = v ∧ (signalWord 1 v old).val = old.val + v ∧
      (signalWord 2 v old).val = if old.val.toNat < v.toNat then v else old.val) ∧
    (Issues s 3 t → exec .tkCopy s = .next (noteIssue s t .issued)) ∧
    (Issues s 4 t → exec .tkFill s = .next (noteIssue s t .issued)) ∧
    (Issues s 5 t → exec .tkFree s = .next (noteIssue s t .complete)) ∧
    (Issues s 6 t → exec .tkBind s = .next (noteIssue s t .complete)) ∧
    (Issues s 7 t → exec .tkUnbind s = .next (noteIssue s t .complete)) ∧
    (Issues s 0x0D t → exec .tkFence s = .next (noteIssue s t .complete)) ∧
    (Issues s 0x0E t → exec .tkRec s = .next (noteIssue s t .complete)) ∧
    (Issues s 1 t →
      (corHopeless s t = true → exec .tkRun s = .next (failTask s t (descFault 7))) ∧
      ∀ K, corHopeless s t = false → taskRun s t = some K → let s1 := issueSlots (noteIssue s t .issued) t
        exec .tkRun s = .next (modTask { s1 with
          uid := s1.uid + 1, grids := aset s1.grids s.uid K, bars := s1.bars ++ gridBars s.uid (K.nwg * K.kd.groups) }
          t.stream t.seq fun t => { t with grid := some s.uid })) ∧
    (Issues s 2 t → ∀ K, taskRun s t = some K →
      (corHopeless s t = true → exec .tkPipe s = .next (failTask s t (descFault 7))) ∧
      (corHopeless s t = false → let s1 := issueSlots (noteIssue s t .issued) t
        exec .tkPipe s = .next (modTask { s1 with
          uid := s1.uid + 1, grids := aset s1.grids s.uid K, bars := s1.bars ++ gridBars s.uid (K.nwg * K.kd.groups) }
          t.stream t.seq fun t => { t with grid := some s.uid }))) ∧
    (∀ cs lr, Issues s 2 t → taskRun s t = none → pipeCoresFor s t = some cs → cs.length = t.stages.length → t.lr = some lr →
      getStream s t.stream = some x → x.hold = none → aget s.pipes s.uid = none →
      ∃ s', exec .tkPipe s = .next s' ∧ (aget s'.pipes s.uid).map (fun p => p.stages.map (·.cores)) = some cs ∧
        (getTask s' t.stream t.seq).map (fun u => (u.st, u.pipe)) = some (.issued, some s.uid) ∧
        s'.queues.length = s.queues.length + t.queues.length) ∧
    (∀ pa at_ s1 ws s2, Issues s 8 t → winLoc s t.part (eD t.entry 2) true = (.ok (pa, at_), s1) →
      homeRead s1 pa at_ = (ws, s2) →
      exec .tkSignal s = .next (modTask (ringBells (winPut (noteIssue s2 t .issued) pa at_
        (signalWord (eW t.entry 5 % 4) (BitVec.ofNat 32 (eW t.entry 4)) (ws.getD (pa / 4 % 16) .zero))) t.part
        (eD t.entry 2)) t.stream t.seq fun t => { t with wrote := true })) ∧
    (∀ w s1, winRead s t.part (eD t.entry 2) = (.ok w, s1) →
      let met := modTask s1 t.stream t.seq fun t => { t with pollBy := s1.cycle + 1 }
      let unmet := modTask s1 t.stream t.seq fun t => { t with pollBy := s1.cycle + 1024 }
      (Issues s 9 t → waitTest t w.val = true → exec .tkWait s = .next (noteIssue met t .issued) ∧
        (freeToIssue s t = true → exec .tkWaitPoll s = .next (noteIssue met t .issued)) ∧
        (waitExpired t = true → partRuns s t.part = true → exec .tkWaitTimeout s = .next (noteIssue met t .issued))) ∧
      (getTask s s.subj.stream s.subj.seq = some t → waitTest t w.val = false →
        (topOf t.entry = 9 → freeToIssue s t = true → exec .tkWaitPoll s = .next unmet) ∧
        (waitExpired t = true → partRuns s t.part = true →
          exec .tkWaitTimeout s = .next (failTask unmet t (windowFault causeWatchdog 0 (1024 * eW t.entry 6)))))) ∧
    (∀ b s1 i, Issues s 0x0B t → readImage s t.part (eD t.entry 2) = (some b, s1) → imageIn s1 t.part b = some i →
      i.part = t.part → imageFits s1 i = true →
      let r := rereadAll { s1 with grids := i.grids ++ s1.grids } i (eD t.entry 2) b
      exec .tkResume s = .next (modTask (restoreImage (noteIssue s1 t .issued) { i with saved := r.1 }) t.stream t.seq fun t =>
        { t with restored := [r.2.psn, r.2.cbi, r.2.chk, r.2.first.getD 0] ++ i.saved.map (·.uid) })) ∧
    (s.subj.stream = x.id → getStream s x.id = some x →
      (x.st = .aborting → exec .taskCompletion s = .next (finishAbort s x.id)) ∧
      (x.st ≠ .aborting → slotsLeft s x = true → partRuns s x.part = true →
        exec .taskCompletion s = .next (readSlots s x.id)) ∧
      (x.st ≠ .aborting → slotsLeft s x = false → getTask s x.id s.subj.seq = some t → t.st = .issued →
        partRuns s t.part = true →
        (topOf t.entry = 8 ∨ topOf t.entry = 9 → exec .taskCompletion s = .next (endTask s t none)) ∧
        (topOf t.entry = 3 ∨ topOf t.entry = 4 → exec .taskCompletion s =
          .next (endTask (runEngine s t (lenOf t.entry / 4)) t none)) ∧
        (topOf t.entry = 1 → (∀ k ∈ gridsOf s t, k.2.nwg ≤ k.2.ended) →
          exec .taskCompletion s = .next (completeRun s t)))) ∧
    (∀ s1, Oldest s x t → t.fault = none → chkFails s t = (false, s1) → bindClash s1 t = false → topOf t.entry ≠ 0x0E →
      let s2 := retireRecord (applyBind (returnDisplaced s1 t) t) x t
      ∃ s', exec .taskRetire s = .next s' ∧ (∀ u ∈ s'.tasks, u.stream = x.id → u.seq ≠ t.seq) ∧
        s' = leaveStream (countRetired (modStream s2 x.id fun y => { y with word := some t.seq }) x t) x.id t.seq) ∧
    (∀ n, getStream s x.id = some x → x.word = some n → writeSeq s x.id =
      winRecord (modStream s x.id fun y => { y with word := none }) x.id x.part x.win 0 x.cword (lohi n)) ∧
    (∀ s1, Oldest s x t → t.fault = none → chkFails s t = (true, s1) → exec .taskRetire s =
      .next (setFault s1 t ⟨0, causePoison, 0, 0, false, 0, 0, 0xFFFF, 0⟩)) ∧
    (∀ f, Oldest s x t → t.fault = some f → f.abt = false → streamTasks s x.id = [t] →
      exec .takeFault s = .next (sweepGrids (modStream
        (winRecord (discardTask s t) x.id x.part x.win 1 x.frec (faultWords t f [] 0)) x.id fun y =>
          { y with st := .faulted, faulted := [{ t with events := eventsOf s t }], hold := none,
                   recFaults := if y.recFaults.contains t.seq then y.recFaults else t.seq :: y.recFaults })))

end
end

