-- ==== Sys2Proof/Laws/Encoding.lean ====
section
/-! SUPPORT. The fields of a packed word, for the round trip of decoder and encoder. -/

namespace Sys2Proof

/-- A field that lies above the lower part of a concatenation. -/
theorem extract_above {m n : Nat} (x : BitVec m) (y : BitVec n) {i : Nat} (k l : Nat) (h : i = n + k) :
    (x ++ y).extractLsb' i l = x.extractLsb' k l := by
  subst h
  apply BitVec.eq_of_getLsbD_eq
  intro j hj
  have h1 : ¬ n + k + j < n := by omega
  have h2 : n + k + j - n = k + j := by omega
  simp [BitVec.getLsbD_append, hj, h1, h2]

/-- The lower part of a concatenation. -/
theorem extract_low {m n : Nat} (x : BitVec m) (y : BitVec n) : (x ++ y).extractLsb' 0 n = y := by
  apply BitVec.eq_of_getLsbD_eq
  intro j hj
  simp [BitVec.getLsbD_append, hj]

theorem bit_above {m n : Nat} (x : BitVec m) (y : BitVec n) {i : Nat} (k : Nat) (h : i = n + k) :
    (x ++ y).getLsbD i = x.getLsbD k := by
  subst h
  have h1 : ¬ n + k < n := by omega
  have h2 : n + k - n = k := by omega
  simp [BitVec.getLsbD_append, h1, h2]

theorem packFull_bit62 (op : BitVec 10) (f : FullWord) : (packFull op f).getLsbD 62 = false := by
  unfold packFull
  rw [bit_above _ _ 46 rfl, bit_above _ _ 38 rfl, bit_above _ _ 30 rfl, bit_above _ _ 22 rfl, bit_above _ _ 14 rfl,
    bit_above _ _ 10 rfl, bit_above _ _ 0 rfl]
  cases f.s <;> rfl

theorem packFull_opcode (op : BitVec 10) (f : FullWord) : (packFull op f).extractLsb' 52 10 = op := by
  unfold packFull
  rw [extract_above _ _ 36 10 rfl, extract_above _ _ 28 10 rfl, extract_above _ _ 20 10 rfl,
    extract_above _ _ 12 10 rfl, extract_above _ _ 4 10 rfl, extract_above _ _ 0 10 rfl, extract_low]

theorem packFull_fields (op : BitVec 10) (f : FullWord) : fullFields (packFull op f) = f := by
  obtain ⟨s, p, d, a, b, c, m⟩ := f
  unfold fullFields packFull
  have hs : (BitVec.ofBool s ++ 0#1 ++ op ++ p ++ d ++ a ++ b ++ c ++ m).getLsbD 63 = s := by
    rw [bit_above _ _ 47 rfl, bit_above _ _ 39 rfl, bit_above _ _ 31 rfl, bit_above _ _ 23 rfl, bit_above _ _ 15 rfl,
      bit_above _ _ 11 rfl, bit_above _ _ 1 rfl, bit_above _ _ 0 rfl]
    cases s <;> rfl
  have hp : (BitVec.ofBool s ++ 0#1 ++ op ++ p ++ d ++ a ++ b ++ c ++ m).extractLsb' 48 4 = p := by
    rw [extract_above _ _ 32 4 rfl, extract_above _ _ 24 4 rfl, extract_above _ _ 16 4 rfl, extract_above _ _ 8 4 rfl,
      extract_above _ _ 0 4 rfl, extract_low]
  have hd : (BitVec.ofBool s ++ 0#1 ++ op ++ p ++ d ++ a ++ b ++ c ++ m).extractLsb' 40 8 = d := by
    rw [extract_above _ _ 24 8 rfl, extract_above _ _ 16 8 rfl, extract_above _ _ 8 8 rfl, extract_above _ _ 0 8 rfl,
      extract_low]
  have ha : (BitVec.ofBool s ++ 0#1 ++ op ++ p ++ d ++ a ++ b ++ c ++ m).extractLsb' 32 8 = a := by
    rw [extract_above _ _ 16 8 rfl, extract_above _ _ 8 8 rfl, extract_above _ _ 0 8 rfl, extract_low]
  have hb : (BitVec.ofBool s ++ 0#1 ++ op ++ p ++ d ++ a ++ b ++ c ++ m).extractLsb' 24 8 = b := by
    rw [extract_above _ _ 8 8 rfl, extract_above _ _ 0 8 rfl, extract_low]
  have hc : (BitVec.ofBool s ++ 0#1 ++ op ++ p ++ d ++ a ++ b ++ c ++ m).extractLsb' 16 8 = c := by
    rw [extract_above _ _ 0 8 rfl, extract_low]
  simp only [hs, hp, hd, ha, hb, hc, extract_low]

theorem packLong_bit62 (op : BitVec 10) (f : LongWord) : (packLong op f).getLsbD 62 = false := by
  unfold packLong
  rw [bit_above _ _ 30 rfl, bit_above _ _ 22 rfl, bit_above _ _ 14 rfl, bit_above _ _ 10 rfl, bit_above _ _ 0 rfl]
  cases f.s <;> rfl

theorem packLong_opcode (op : BitVec 10) (f : LongWord) : (packLong op f).extractLsb' 52 10 = op := by
  unfold packLong
  rw [extract_above _ _ 20 10 rfl, extract_above _ _ 12 10 rfl, extract_above _ _ 4 10 rfl, extract_above _ _ 0 10 rfl,
    extract_low]

theorem packLong_fields (op : BitVec 10) (f : LongWord) : longFields (packLong op f) = f := by
  obtain ⟨s, p, d, a, m⟩ := f
  unfold longFields packLong
  have hs : (BitVec.ofBool s ++ 0#1 ++ op ++ p ++ d ++ a ++ m).getLsbD 63 = s := by
    rw [bit_above _ _ 31 rfl, bit_above _ _ 23 rfl, bit_above _ _ 15 rfl, bit_above _ _ 11 rfl, bit_above _ _ 1 rfl,
      bit_above _ _ 0 rfl]
    cases s <;> rfl
  have hp : (BitVec.ofBool s ++ 0#1 ++ op ++ p ++ d ++ a ++ m).extractLsb' 48 4 = p := by
    rw [extract_above _ _ 16 4 rfl, extract_above _ _ 8 4 rfl, extract_above _ _ 0 4 rfl, extract_low]
  have hd : (BitVec.ofBool s ++ 0#1 ++ op ++ p ++ d ++ a ++ m).extractLsb' 40 8 = d := by
    rw [extract_above _ _ 8 8 rfl, extract_above _ _ 0 8 rfl, extract_low]
  have ha : (BitVec.ofBool s ++ 0#1 ++ op ++ p ++ d ++ a ++ m).extractLsb' 32 8 = a := by
    rw [extract_above _ _ 0 8 rfl, extract_low]
  simp only [hs, hp, hd, ha, extract_low]

theorem packPair_bit62 (x : SlotOp) (p : PairWord) : (packPair x p).getLsbD 62 = true := by
  unfold packPair
  rw [bit_above _ _ 54 rfl, bit_above _ _ 46 rfl, bit_above _ _ 38 rfl, bit_above _ _ 31 rfl, bit_above _ _ 23 rfl,
    bit_above _ _ 15 rfl, bit_above _ _ 7 rfl, bit_above _ _ 0 rfl]
  cases p.s <;> rfl

theorem slotOp_slotCode (o : SlotOp) : slotOp (slotCode o).toNat = some o := by
  cases o <;> rfl

theorem decodeWord_packFull (op : BitVec 10) (f : FullWord) : decodeWord (packFull op f) = decodeFull (packFull op f) := by
  unfold decodeWord
  rw [packFull_bit62]
  rfl

theorem decodeWord_packPair (x : SlotOp) (p : PairWord) : decodeWord (packPair x p) = decodePair (packPair x p) := by
  unfold decodeWord
  rw [packPair_bit62]
  rfl

end Sys2Proof
end

