-- ==== Sys2Proof/Laws/Issue.lean ====
section
/-! SUPPORT. What the issue of a one-lane coach does, and what updates of threads and groups leave alone. -/

namespace Sys2Proof.Machine

open Sys2Proof

theorem aget_amod {α : Type} (l : AList α) (k j : Nat) (f : α → α) :
    aget (amod l k f) j = if j = k then (aget l k).map f else aget l j := by
  induction l with
  | nil => simp [aget, amod]
  | cons x r ih =>
    obtain ⟨i, a⟩ := x
    by_cases hik : i = k
    · subst hik
      by_cases hj : i = j
      · subst hj; simp [aget, amod]
      · have hj' : j ≠ i := fun h => hj h.symm
        simp [aget, amod, hj, hj']
    · by_cases hj : i = j
      · subst hj; simp [aget, amod, hik]
      · simp [aget, amod, hik, hj, ih]

theorem getElem?_lmod {α : Type} (l : List α) (i j : Nat) (f : α → α) :
    (lmod l i f)[j]? = if i = j then l[j]?.map f else l[j]? := by
  induction l generalizing i j with
  | nil => cases i <;> cases j <;> simp [lmod]
  | cons a r ih => cases i <;> cases j <;> simp [lmod, ih]

theorem getG_modG (s : State) (g h : Nat) (f : Group → Group) :
    getG (modG s g f) h = if h = g then (getG s g).map f else getG s h := by
  simp [getG, modG, aget_amod]

theorem getT_modT (s : State) (g l h k : Nat) (f : Thread → Thread) :
    getT (modT s g l f) h k = if h = g ∧ k = l then (getT s g l).map f else getT s h k := by
  unfold getT modT
  rw [getG_modG]
  by_cases hg : h = g
  · subst hg
    cases hG : getG s h with
    | none => simp
    | some G =>
      simp only [if_true, Option.map_some, Option.bind_some, getElem?_lmod]
      by_cases hk : k = l
      · subst hk; simp
      · have hk' : l ≠ k := fun h => hk h.symm
        simp [hk, hk']
  · simp [hg]

/-- A retry that is not under way leaves nothing to note. -/
theorem retryDone_of_none {s : State} {g l : Nat} {t : Thread} (h : getT s g l = some t) (hr : t.retry = none) :
    retryDone s g l = s := by
  simp [retryDone, retryOf, h, hr]

/-- Settling a lane that completes, where no retry is under way. -/
theorem settleLane_done (i : WordInfo) {s : State} {g l : Nat} {t : Thread} (h : getT s g l = some t)
    (hr : t.retry = none) : settleLane i g l (.done s) = (modT s g l (advance i), []) := by
  simp [settleLane, retryDone_of_none h hr]

theorem settleLane_jump (i : WordInfo) {s : State} {g l : Nat} {t : Thread} (pc : W64)
    (h : getT s g l = some t) (hr : t.retry = none) :
    settleLane i g l (.jump s pc) = (modT s g l (jumpTo pc), []) := by
  simp [settleLane, retryDone_of_none h hr]

theorem settleLane_park (i : WordInfo) {s : State} {g l : Nat} {t : Thread} (w : Wait) (c : AgeClass)
    (h : getT s g l = some t) (hr : t.retry = none) :
    settleLane i g l (.park s w c) =
      (modT (modT s g l (advance i)) g l fun t => { t with wait := w, cls := c }, []) := by
  simp [settleLane, retryDone_of_none h hr]

/-- The shared checks passed and the guard true: the instruction's own part. -/
theorem laneStep_body {i : WordInfo} {pre : State → Nat → Nat → Option Trap} {body : State → Nat → Nat → LaneRes}
    {s : State} {g l : Nat} {t : Thread} (ht : getT s g l = some t) (hh : headTrap i pre s g l t = none)
    (hg : guardOf i.pred t = some true) (ho : i.own s g = none) :
    laneStep i pre body s g l = body s g l := by
  simp [laneStep, ht, hh, hg, ho]

/-- A coach of one lane. -/
theorem issueLanes_one {i : WordInfo} {pre : State → Nat → Nat → Option Trap} {body : State → Nat → Nat → LaneRes}
    {s : State} {c q g l : Nat} (hc : s.coach = some ⟨c, q, [(g, l)]⟩) {s' : State}
    (h : settleLane i g l (laneStep i pre body { s with coach := none } g l) = (s', [])) :
    issueLanes i pre body s = s' := by
  simp [issueLanes, hc, runLanes, h, takeTraps, List.eraseDups]

theorem takeTraps_nil (s0 : State) (lanes : List (Nat × Nat)) (s : State) : takeTraps s0 lanes [] s = s := by
  simp [takeTraps, List.eraseDups]

/-- A coach of one lane whose word completes in it. -/
theorem issueLanes_done {i : WordInfo} {pre : State → Nat → Nat → Option Trap} {body : State → Nat → Nat → LaneRes}
    {s s' : State} {c q g l : Nat} {t t' : Thread} (hc : s.coach = some ⟨c, q, [(g, l)]⟩)
    (ht : getT { s with coach := none } g l = some t)
    (hh : headTrap i pre { s with coach := none } g l t = none) (hg : guardOf i.pred t = some true)
    (ho : i.own { s with coach := none } g = none)
    (hb : body { s with coach := none } g l = .done s') (ht' : getT s' g l = some t') (hr : t'.retry = none) :
    issueLanes i pre body s = modT s' g l (advance i) := by
  apply issueLanes_one hc
  rw [laneStep_body ht hh hg ho, hb, settleLane_done i ht' hr]

/-- A false guard: the lane passes the word. -/
theorem issueLanes_off {i : WordInfo} {pre : State → Nat → Nat → Option Trap} {body : State → Nat → Nat → LaneRes}
    {s : State} {c q g l : Nat} {t : Thread} (hc : s.coach = some ⟨c, q, [(g, l)]⟩)
    (ht : getT { s with coach := none } g l = some t)
    (hh : headTrap i pre { s with coach := none } g l t = none) (hg : guardOf i.pred t = some false)
    (hr : t.retry = none) :
    issueLanes i pre body s = modT { s with coach := none } g l (advance i) := by
  apply issueLanes_one hc
  simp [laneStep, ht, hh, hg, settleLane_done i ht hr]

/-! ### A lane at its word -/

theorem getT_taken (s : State) (g l : Nat) : getT (taken s) g l = getT s g l := rfl
theorem getG_taken (s : State) (g : Nat) : getG (taken s) g = getG s g := rfl
theorem nreqOf_taken (s : State) (g : Nat) : nreqOf (taken s) g = nreqOf s g := rfl

/-- A word within the limit of R71 is not the one that it traps. -/
theorem inRun_not_long {i : WordInfo} {t : Thread} (h : InRun t i.ends) :
    ¬ (15 ≤ t.run.len ∧ i.s = false ∧ i.ender = false) := by
  rintro ⟨h1, h2, h3⟩
  rcases h with h | h
  · omega
  · simp [WordInfo.ends, h2, h3] at h

/-- The shared checks pass where the fetched word compares, the run is short and checks 1 to 5 pass. -/
theorem headTrap_none {i : WordInfo} {pre : State → Nat → Nat → Option Trap} {s : State} {g l : Nat} {t : Thread}
    (hf : fetchTrap t = none) (hr : InRun t i.ends) (hp : pre s g l = none) : headTrap i pre s g l t = none := by
  unfold headTrap
  rw [hf]
  simp only [if_neg (inRun_not_long hr), hp]

/-- The coach of a lone lane. -/
theorem lone_coach {s : State} {g l : Nat} {t : Thread} (h : Lone s g l t) : ∃ c q, s.coach = some ⟨c, q, [(g, l)]⟩ := by
  obtain ⟨⟨c, q, m⟩, hc, hm⟩ := Option.map_eq_some_iff.mp h.1
  exact ⟨c, q, by rw [hc]; exact congrArg some (congrArg (Coach.mk c q) hm)⟩

/-- A lane at its word whose own part completes passes the word. -/
theorem done_of {i : WordInfo} {pre : State → Nat → Nat → Option Trap} {body : State → Nat → Nat → LaneRes}
    {s s' : State} {g l : Nat} {t : Thread} (hw : AtWord s g l t i.pred i.ends) (hp : pre (taken s) g l = none)
    (ho : i.own (taken s) g = none) (he : i.ender = false) (hb : body (taken s) g l = .done s')
    (hr : (getT s' g l).bind (·.retry) = none) : issueLanes i pre body s = past s' g l i.s := by
  obtain ⟨c, q, hc⟩ := lone_coach hw.1
  obtain ⟨⟨-, ht, hr0, hf⟩, hl, hg⟩ := hw
  have hx : settleLane i g l (.done s') = (modT s' g l (advance i), []) := by
    simp [settleLane, retryDone, retryOf, hr]
  have hy : laneStep i pre body { s with coach := none } g l = .done s' :=
    (laneStep_body (s := taken s) ht (headTrap_none hf hl hp) hg ho).trans hb
  rw [issueLanes_one hc (s' := modT s' g l (advance i)) (by rw [hy, hx])]
  unfold past
  congr 1
  funext u
  simp [advance, he]

/-- A lane at its word whose own part transfers. -/
theorem jump_of {i : WordInfo} {pre : State → Nat → Nat → Option Trap} {body : State → Nat → Nat → LaneRes}
    {s s' : State} {g l : Nat} {t : Thread} {pc : W64} (hw : AtWord s g l t i.pred i.ends)
    (hp : pre (taken s) g l = none) (ho : i.own (taken s) g = none) (hb : body (taken s) g l = .jump s' pc)
    (hr : (getT s' g l).bind (·.retry) = none) : issueLanes i pre body s = modT s' g l (jumpTo pc) := by
  obtain ⟨c, q, hc⟩ := lone_coach hw.1
  obtain ⟨⟨-, ht, hr0, hf⟩, hl, hg⟩ := hw
  have hx : settleLane i g l (.jump s' pc) = (modT s' g l (jumpTo pc), []) := by
    simp [settleLane, retryDone, retryOf, hr]
  have hy : laneStep i pre body { s with coach := none } g l = .jump s' pc :=
    (laneStep_body (s := taken s) ht (headTrap_none hf hl hp) hg ho).trans hb
  exact issueLanes_one hc (by rw [hy, hx])

theorem commit_retry (late : Option Nat) (psn : Bool) (vs : AList Word) (o : AluOut) (t : Thread) :
    (commit late psn vs o t).retry = t.retry := by
  have hV : ∀ (l : AList Word) (t : Thread), (l.foldl (fun t x => writeV t x.1 x.2) t).retry = t.retry := by
    intro l
    induction l with
    | nil => intro t; rfl
    | cons a r ih => intro t; simp only [List.foldl_cons, ih]; unfold writeV; split <;> rfl
  have hP : ∀ (l : AList Prd) (t : Thread), (l.foldl (fun t x => writeP t x.1 x.2) t).retry = t.retry := by
    intro l
    induction l with
    | nil => intro t; rfl
    | cons a r ih => intro t; simp only [List.foldl_cons, ih]; unfold writeP; split <;> rfl
  have hX : ∀ (l : AList Byte) (t : Thread), (l.foldl (fun t x => writeX t x.1 x.2) t).retry = t.retry := by
    intro l
    induction l with
    | nil => intro t; rfl
    | cons a r ih => intro t; simp only [List.foldl_cons, ih]; rfl
  have hD : ∀ (p : AList Prd) (t : Thread), (deliver late vs p t).retry = t.retry := by
    intro p t
    unfold deliver
    split
    · split <;> rfl
    · rw [hP, hV]
  have hE : ∀ (x : AList Byte) (t : Thread), (deliverX late x t).retry = t.retry := by
    intro x t
    unfold deliverX
    split
    · split <;> rfl
    · rw [hX]
  have hN : ∀ (p : AList Prd) (t : Thread), (deliver none [] p t).retry = t.retry := by
    intro p t
    simp only [deliver, hP, List.foldl_nil]
  simp only [commit, hE, hN, hD]

/-- Without an armed injection, no trap and no failed check, write-back commits the settled words. -/
theorem writeBack_done {s : State} {g l cls : Nat} {late psn : Bool} {ds : List Nat} {o : AluOut} {ws : List Word}
    (hc : Calm s g) (ht : o.trap = none) (hb : psn = true ∨ o.bad = none)
    (hs : settleAll psn o.words = some ws) :
    writeBack s g l cls late psn ds o =
      .done (modT s g l (commit (if late then some s.cycle else none) psn (ds.zip ws) o)) := by
  have hi : ((getG s g).bind fun G => injects G l cls) = none := by
    unfold Calm at hc
    cases hG : getG s g with
    | none => rfl
    | some G => simp [hG] at hc; simp [injects, hc]
  have hd : disarm s g l cls = s := by simp [disarm, hi]
  have hb' : (if psn = true then none else o.bad) = none := by
    rcases hb with h | h <;> simp [h]
  unfold writeBack
  simp only [ht, hi, hd, ite_self, hb', hs]

/-- The own part of an instruction of R75 without a queue operand, where its operands read and its result settles. -/
theorem aluLane_done {r : Row} {cls : Nat} {run : Ctx → AluOut} {f : FullWord} {s : State} {g l : Nat} {t : Thread}
    {ds : List Nat} {a b c ws : List Word} (hc : Calm s g) (hT : getT s g l = some t) (hp : omodeOf f ≠ 4)
    (hd : destRegs r f (nreqOf s g) t = .ok ds)
    (ha : readOperand r f s g l t 0 = .words s a) (hb : readOperand r f s g l t 1 = .words s b)
    (hcc : readOperand r f s g l t 2 = .words s c) :
    let o := run ⟨f, a, b, c, t⟩
    let psn := (a ++ b ++ c).any isPoison || (r.regs.any fun n => isPoison (readV t n)) ||
      r.preds.any fun p => (readP t p).psn
    o.trap = none → (psn = true ∨ o.bad = none) → settleAll psn o.words = some ws →
    aluLane r cls run f s g l = .done (modT s g l (commit none psn (ds.zip ws) o)) := by
  intro o psn h1 h2 h3
  have h4 : (omodeOf f == 4) = false := by simp [hp]
  unfold aluLane
  simp only [hT, hd, h4, popsQueue, Bool.false_and, ha, hb, hcc]
  exact writeBack_done (late := false) (ds := ds) (cls := cls) hc h1 h2 h3

end Sys2Proof.Machine
end

