-- ==== Sys2Proof/Laws/Memory.lean ====
section
/-! SUPPORT. The canonical form of storage is kept by every operation on it, and reads after writes. -/

namespace Sys2Proof.Machine

open Sys2Proof

/-! ### Cells -/

/-- The canonical form, said of every cell at once. -/
theorem cellsWf_iff (l : List Host.Cell) :
    cellsWf l = true ↔ l.Pairwise (fun x y => x.1 < y.1) ∧ ∀ c ∈ l, c.2 ≠ unlisted := by
  induction l with
  | nil => simp [cellsWf]
  | cons c r ih =>
    obtain ⟨i, b⟩ := c
    cases r with
    | nil => simp [cellsWf]
    | cons d r =>
      obtain ⟨j, e⟩ := d
      simp only [cellsWf, Bool.and_eq_true, ih, decide_eq_true_eq, bne_iff_ne, ne_eq, List.pairwise_cons,
        List.mem_cons, forall_eq_or_imp]
      constructor
      · rintro ⟨⟨hb, hij⟩, ⟨hj, hr⟩, he, hm⟩
        exact ⟨⟨⟨hij, fun x hx => lt_trans hij (hj x hx)⟩, hj, hr⟩, hb, he, hm⟩
      · rintro ⟨⟨⟨hij, -⟩, hj, hr⟩, hb, he, hm⟩
        exact ⟨⟨hb, hij⟩, ⟨hj, hr⟩, he, hm⟩

theorem mem_cellSet {l : List Host.Cell} {a : Nat} {b : Byte} {c : Host.Cell} (h : c ∈ cellSet l a b) :
    (c = (a, b) ∧ b ≠ unlisted) ∨ c ∈ l := by
  induction l with
  | nil =>
    by_cases hb : b = unlisted
    · simp [cellSet, hb] at h
    · simp [cellSet, hb] at h
      exact .inl ⟨h, hb⟩
  | cons d r ih =>
    obtain ⟨i, e⟩ := d
    simp only [cellSet] at h
    split at h
    · split at h
      · exact .inr (by simp [h])
      · rcases List.mem_cons.mp h with h | h
        · exact .inl ⟨h, ‹_›⟩
        · exact .inr (by simp [h])
    · split at h
      · split at h
        · exact .inr h
        · rcases List.mem_cons.mp h with h | h
          · exact .inl ⟨h, ‹_›⟩
          · exact .inr h
      · rcases List.mem_cons.mp h with h | h
        · exact .inr (by simp [h])
        · rcases ih h with h | h
          · exact .inl h
          · exact .inr (by simp [h])

theorem cellSet_wf {l : List Host.Cell} (h : cellsWf l = true) (a : Nat) (b : Byte) :
    cellsWf (cellSet l a b) = true := by
  rw [cellsWf_iff] at h ⊢
  obtain ⟨hp, hn⟩ := h
  refine ⟨?_, fun c hc => ?_⟩
  · induction l with
    | nil => by_cases hb : b = unlisted <;> simp [cellSet, hb]
    | cons d r ih =>
      obtain ⟨i, e⟩ := d
      rw [List.pairwise_cons] at hp
      have hr := ih hp.2 (fun c hc => hn c (by simp [hc]))
      simp only [cellSet]
      split
      · next hia =>
        subst hia
        split
        · exact hp.2
        · exact List.pairwise_cons.mpr ⟨hp.1, hp.2⟩
      · split
        · next hai =>
          split
          · exact List.pairwise_cons.mpr hp
          · refine List.pairwise_cons.mpr ⟨fun c hc => ?_, List.pairwise_cons.mpr hp⟩
            rcases List.mem_cons.mp hc with h | h
            · exact h ▸ hai
            · exact lt_trans hai (hp.1 c h)
        · refine List.pairwise_cons.mpr ⟨fun c hc => ?_, hr⟩
          rcases mem_cellSet hc with ⟨h, -⟩ | h
          · rw [h]; show i < a; omega
          · exact hp.1 c h
  · rcases mem_cellSet hc with ⟨h, hb⟩ | h
    · exact h ▸ hb
    · exact hn c h

theorem cellsWf_filter {l : List Host.Cell} (h : cellsWf l = true) (p : Host.Cell → Bool) :
    cellsWf (l.filter p) = true := by
  rw [cellsWf_iff] at h ⊢
  exact ⟨h.1.filter p, fun c hc => h.2 c (List.mem_filter.mp hc).1⟩

/-- An address below every key reads as unlisted. -/
theorem cellAt_below {l : List Host.Cell} {a : Nat} (h : ∀ c ∈ l, a < c.1) : cellAt l a = unlisted := by
  induction l with
  | nil => rfl
  | cons d r ih =>
    obtain ⟨i, e⟩ := d
    have hi : i ≠ a := by have := h (i, e) (by simp); simp at this; omega
    simp only [cellAt, hi, if_false]
    exact ih fun c hc => h c (by simp [hc])

theorem cellAt_cellSet {l : List Host.Cell} (h : cellsWf l = true) (a x : Nat) (b : Byte) :
    cellAt (cellSet l a b) x = if x = a then b else cellAt l x := by
  rw [cellsWf_iff] at h
  obtain ⟨hp, -⟩ := h
  induction l with
  | nil =>
    by_cases hx : x = a
    · by_cases hb : b = unlisted <;> simp [cellSet, cellAt, hb, hx]
    · have hy : ¬a = x := Ne.symm hx
      by_cases hb : b = unlisted <;> simp [cellSet, cellAt, hb, hx, hy]
  | cons d r ih =>
    obtain ⟨i, e⟩ := d
    rw [List.pairwise_cons] at hp
    have hr := ih hp.2
    simp only [cellSet]
    split
    · next hia =>
      subst hia
      have hb' : cellAt r i = unlisted := cellAt_below fun c hc => hp.1 c hc
      by_cases hb : b = unlisted <;> by_cases hx : x = i
      · simp [hb, hx, hb']
      · simp [hb, hx, cellAt, Ne.symm hx]
      · simp [hb, hx, cellAt]
      · simp [hb, hx, cellAt, Ne.symm hx]
    · next hia =>
      split
      · next hai =>
        by_cases hb : b = unlisted <;> by_cases hx : x = a
        · subst hx
          rw [if_pos hb, if_pos rfl, hb]
          exact cellAt_below fun c hc => by
            rcases List.mem_cons.mp hc with h | h
            · exact h ▸ hai
            · exact lt_trans hai (hp.1 c h)
        · simp [hb, hx]
        · simp [hb, hx, cellAt]
        · simp [hb, hx, cellAt, Ne.symm hx]
      · by_cases hx : x = i
        · subst hx
          simp [cellAt, hia]
        · simp only [cellAt, Ne.symm hx, if_false, hr]

/-! ### Memories -/

theorem Memory.wf_iff (m : Mem) : Memory.wf m = true ↔ cellsWf m.data = true ∧ cellsWf m.side = true := by
  simp [Memory.wf]

theorem writeWord_wf {m : Mem} (h : Memory.wf m = true) (a : Nat) (w : Word) : Memory.wf (writeWord m a w) = true := by
  rw [Memory.wf_iff] at h ⊢
  exact ⟨cellSet_wf (cellSet_wf (cellSet_wf (cellSet_wf h.1 _ _) _ _) _ _) _ _, cellSet_wf h.2 _ _⟩

/-- A fold of writes keeps what each write keeps. -/
theorem foldl_wf {α : Type} (f : Mem → α → Mem) (hf : ∀ m x, Memory.wf m = true → Memory.wf (f m x) = true)
    (l : List α) {m : Mem} (h : Memory.wf m = true) : Memory.wf (l.foldl f m) = true := by
  induction l generalizing m with
  | nil => exact h
  | cons x r ih => exact ih (hf m x h)

theorem writeWords_wf {m : Mem} (h : Memory.wf m = true) (a : Nat) (ws : List Word) :
    Memory.wf (writeWords m a ws) = true := by
  unfold writeWords
  suffices H : ∀ (ws : List Word) (x : Mem × Nat), Memory.wf x.1 = true →
      Memory.wf (ws.foldl (fun (x : Mem × Nat) w => (writeWord x.1 x.2 w, x.2 + 4)) x).1 = true from H ws (m, a) h
  intro ws
  induction ws with
  | nil => exact fun x hx => hx
  | cons w r ih => exact fun x hx => ih _ (writeWord_wf hx _ _)

theorem clearWords_wf {m : Mem} (h : Memory.wf m = true) (a n : Nat) : Memory.wf (clearWords m a n) = true := by
  rw [Memory.wf_iff] at h ⊢
  exact ⟨cellsWf_filter h.1 _, cellsWf_filter h.2 _⟩

theorem putSlice_wf {m : Mem} (h : Memory.wf m = true) (a n : Nat) (ws : AList Word) :
    Memory.wf (putSlice m a n ws) = true :=
  foldl_wf _ (fun _ _ hm => writeWord_wf hm _ _) ws (clearWords_wf h a n)

theorem putRun_wf {m : Mem} (h : Memory.wf m = true) (a c : Nat) (els : List (Nat × Bool)) :
    Memory.wf (putRun m a c els) = true := by
  unfold putRun
  exact foldl_wf _ (fun _ _ hm => writeWord_wf hm _ _) _ h

theorem clearGained_wf {m : Mem} (h : Memory.wf m = true) (die : Nat) (old : Option Window) (w : Window) :
    Memory.wf (clearGained m die old w) = true := by
  unfold clearGained
  split
  · exact clearWords_wf h _ _
  · exact clearWords_wf (clearWords_wf h _ _) _ _

theorem Mem.empty_wf : Memory.wf .empty = true := rfl

/-- Memory is canonical right after reset. -/
theorem reset_allWf : Memory.allWf .reset = true := by decide

/-! ### Reads after writes -/

/-- A byte after a word is written: one of the word's bytes inside it, the old byte outside. -/
theorem readByte_writeWord {m : Mem} (h : Memory.wf m = true) (a x : Nat) (w : Word) :
    readByte (writeWord m a w) x =
      if 4 * (a / 4) ≤ x ∧ x < 4 * (a / 4) + 4 then BitVec.ofNat 8 (w.val.toNat / 256 ^ (x - 4 * (a / 4)))
      else readByte m x := by
  rw [Memory.wf_iff] at h
  obtain ⟨h, -⟩ := h
  have h1 := cellSet_wf h (4 * (a / 4)) (BitVec.ofNat 8 (w.val.toNat / 256 ^ 0))
  have h2 := cellSet_wf h1 (4 * (a / 4) + 1) (BitVec.ofNat 8 (w.val.toNat / 256 ^ 1))
  have h3 := cellSet_wf h2 (4 * (a / 4) + 2) (BitVec.ofNat 8 (w.val.toNat / 256 ^ 2))
  simp only [readByte, writeWord, cellAt_cellSet h, cellAt_cellSet h1, cellAt_cellSet h2, cellAt_cellSet h3]
  by_cases hx : 4 * (a / 4) ≤ x ∧ x < 4 * (a / 4) + 4
  · obtain ⟨d, rfl⟩ : ∃ d, x = 4 * (a / 4) + d := ⟨x - 4 * (a / 4), by omega⟩
    have hd : d = 0 ∨ d = 1 ∨ d = 2 ∨ d = 3 := by omega
    rcases hd with rfl | rfl | rfl | rfl <;> simp
  · have e0 : x ≠ 4 * (a / 4) := by omega
    have e1 : x ≠ 4 * (a / 4) + 1 := by omega
    have e2 : x ≠ 4 * (a / 4) + 2 := by omega
    have e3 : x ≠ 4 * (a / 4) + 3 := by omega
    simp [hx, e0, e1, e2, e3]

/-- The residue field of a word after a word is written. -/
theorem side_writeWord {m : Mem} (h : Memory.wf m = true) (a k : Nat) (w : Word) :
    cellAt (writeWord m a w).side k = if k = a / 4 then w.res.setWidth 8 else cellAt m.side k := by
  rw [Memory.wf_iff] at h
  exact cellAt_cellSet h.2 _ _ _

/-- The word just written is read back. -/
theorem readWord_writeWord_same {m : Mem} (h : Memory.wf m = true) (a : Nat) (w : Word) :
    readWord (writeWord m a w) a = w := by
  have hb (i : Nat) (hi : i < 4) : (cellAt (writeWord m a w).data (4 * (a / 4) + i)).toNat = w.val.toNat / 256 ^ i % 256 := by
    have := readByte_writeWord h a (4 * (a / 4) + i) w
    simp only [readByte] at this
    rw [this, if_pos (by omega)]
    simp
  have h0 := hb 0 (by omega)
  have h1 := hb 1 (by omega)
  have h2 := hb 2 (by omega)
  have h3 := hb 3 (by omega)
  have hv := w.val.isLt
  obtain ⟨v, r⟩ := w
  simp only [readWord, Word.mk.injEq]
  refine ⟨?_, ?_⟩
  · apply BitVec.eq_of_toNat_eq
    simp only [h0, h1, h2, h3, BitVec.toNat_ofNat]
    simp only at hv
    omega
  · rw [side_writeWord h, if_pos rfl]
    simp

/-- Another word is read as before. -/
theorem readWord_writeWord_other {m : Mem} (h : Memory.wf m = true) {a b : Nat} (hab : a / 4 ≠ b / 4) (w : Word) :
    readWord (writeWord m a w) b = readWord m b := by
  have hb (i : Nat) (hi : i < 4) :
      cellAt (writeWord m a w).data (4 * (b / 4) + i) = cellAt m.data (4 * (b / 4) + i) := by
    have := readByte_writeWord h a (4 * (b / 4) + i) w
    simp only [readByte] at this
    rw [this, if_neg (by omega)]
  have h0 := hb 0 (by omega)
  have h1 := hb 1 (by omega)
  have h2 := hb 2 (by omega)
  have h3 := hb 3 (by omega)
  simp only [readWord, h0, h1, h2, h3]
  rw [side_writeWord h, if_neg (Ne.symm hab)]

end Sys2Proof.Machine
end

