-- ==== Sys2Proof/Laws/Requests.lean ====
section
/-! SUPPORT. What the shared frames of messages, task entries and traps do. -/

namespace Sys2Proof.Machine

open Sys2Proof

/-- A well-formed request of the physical function is carried out on the state without it in the inbox. -/
theorem serve_asked {s : State} {type op : Nat} {well : Request → Bool} {own : State → Request → Bool}
    {act : Request → State → State} {r : Request} (h : Asked s type op r) (hw : well r = true) :
    serve type op well own act s = .next (act r (takeHead s r)) := by
  obtain ⟨h1, h2, h3, h4, h5⟩ := h
  have hp : (takeHead s r).power = .running := h2
  have h6 : ¬ 3 < r.msg.member.toNat := by omega
  simp [serve, h1, hp, h3, hw, h5, h6]

/-- A request that is not well formed is answered BAD MESSAGE. -/
theorem serve_malformed {s : State} {type op : Nat} {well : Request → Bool} {own : State → Request → Bool}
    {act : Request → State → State} {r : Request} (h : Asked s type op r) (hw : well r = false) :
    serve type op well own act s = .next (say r stBadMessage [] (takeHead s r)) := by
  obtain ⟨h1, h2, h3, h4, h5⟩ := h
  have hp : (takeHead s r).power = .running := h2
  simp [serve, h1, hp, hw]

/-- No request of the kind at the head of the inbox: the step has no effect. -/
theorem serve_none {s : State} {type op : Nat} {well : Request → Bool} {own : State → Request → Bool}
    {act : Request → State → State} (h : atHead s type op = none) : serve type op well own act s = .next s := by
  simp [serve, h]

/-- The task that a step issues. -/
theorem issuing_of {s : State} {top : Nat} {t : Task} (h : Issues s top t) : issuing s top = some t := by
  obtain ⟨h1, h2, h3, h4⟩ := h
  simp [issuing, h1, h2, h3, h4]

/-- The fleeting entry that a step takes. -/
theorem fleetingAt_of {s s1 : State} {x : Stream} {top : Nat} {e : List Word} (h : Fleets s x top e s1) :
    fleetingAt s s.subj.stream top = some (x, e, s1) := by
  obtain ⟨h1, h2, h3, h4, h5, h6⟩ := h
  rw [h1]
  simp [fleetingAt, h2, h3, h4, h5, h6]

/-- The traps of a coach of one lane. -/
theorem takeTraps_one (s0 s : State) (g l : Nat) (x : Trap) (i : Ign) :
    takeTraps s0 [(g, l)] [(g, l, x, i)] s = takeTrap s g (pcOf s0 g l) [(l, x, i)] := by
  simp [takeTraps, List.eraseDups, List.eraseDupsBy, List.eraseDupsBy.loop]

/-- A lane at its word whose own part traps: the trap is taken with the destinations that ignore would write. -/
theorem trap_of {i : WordInfo} {pre : State → Nat → Nat → Option Trap} {body : State → Nat → Nat → LaneRes}
    {s : State} {g l : Nat} {t : Thread} {x : Trap} {ign : Ign} (hw : AtWord s g l t i.pred i.ends)
    (hp : pre (taken s) g l = none) (ho : i.own (taken s) g = none)
    (hb : body (taken s) g l = .trap (taken s) x ign) :
    issueLanes i pre body s = trapped s g l t.pc x (fillIgn i.ends (i.dest (taken s) g l) ign) := by
  obtain ⟨c, q, hc⟩ := lone_coach hw.1
  obtain ⟨⟨-, ht, hr0, hf⟩, hl, hg⟩ := hw
  have hT : getT (taken s) g l = some t := ht
  have hy : laneStep i pre body (taken s) g l = .trap (taken s) x ign :=
    (laneStep_body (s := taken s) ht (headTrap_none hf hl hp) hg ho).trans hb
  have hpc : pcOf (taken s) g l = t.pc := by simp [pcOf, hT]
  unfold issueLanes
  rw [hc]
  show takeTraps (taken s) [(g, l)] (runLanes i pre body [(g, l)] (taken s)).2
    (runLanes i pre body [(g, l)] (taken s)).1 = _
  simp [runLanes, hy, settleLane, takeTraps_one, hpc, trapped]

/-- A lane whose checks 1 to 5 fail traps without an effect. -/
theorem trap_of_check {i : WordInfo} {pre : State → Nat → Nat → Option Trap} {body : State → Nat → Nat → LaneRes}
    {s : State} {g l : Nat} {t : Thread} {x : Trap} (hw : Lone s g l t) (hl : InRun t i.ends) (hp : pre (taken s) g l = some x) :
    issueLanes i pre body s = trapped s g l t.pc x (fillIgn i.ends (i.dest (taken s) g l) .none) := by
  obtain ⟨c, q, hc⟩ := lone_coach hw
  obtain ⟨-, ht, hr0, hf⟩ := hw
  have hT : getT (taken s) g l = some t := ht
  have hh : headTrap i pre (taken s) g l t = some x := by
    unfold headTrap
    rw [hf]
    simp only [if_neg (inRun_not_long hl), hp]
  have hy : laneStep i pre body (taken s) g l = .trap (taken s) x .none := by
    simp [laneStep, hT, hh]
  have hpc : pcOf (taken s) g l = t.pc := by simp [pcOf, hT]
  unfold issueLanes
  rw [hc]
  show takeTraps (taken s) [(g, l)] (runLanes i pre body [(g, l)] (taken s)).2
    (runLanes i pre body [(g, l)] (taken s)).1 = _
  simp [runLanes, hy, settleLane, takeTraps_one, hpc, trapped]

end Sys2Proof.Machine
end

