-- ==== Sys2Proof/Laws/State.lean ====
section
/-! SUPPORT. One lemma for each field of State under each update, and for the fields of a thread under register
writes, so that no proof unfolds a record update. -/

namespace Sys2Proof.Machine

open Sys2Proof

/-! ### taken -/

section
variable (s : State)
@[simp] theorem taken_cycle : (taken s).cycle = s.cycle := rfl
@[simp] theorem taken_epoch : (taken s).epoch = s.epoch := rfl
@[simp] theorem taken_free : (taken s).free = s.free := rfl
@[simp] theorem taken_uid : (taken s).uid = s.uid := rfl
@[simp] theorem taken_agenda : (taken s).agenda = s.agenda := rfl
@[simp] theorem taken_subj : (taken s).subj = s.subj := rfl
@[simp] theorem taken_turn : (taken s).turn = s.turn := rfl
@[simp] theorem taken_coach : (taken s).coach = none := rfl
@[simp] theorem taken_issued : (taken s).issued = s.issued := rfl
@[simp] theorem taken_power : (taken s).power = s.power := rfl
@[simp] theorem taken_groups : (taken s).groups = s.groups := rfl
@[simp] theorem taken_wgs : (taken s).wgs = s.wgs := rfl
@[simp] theorem taken_gangs : (taken s).gangs = s.gangs := rfl
@[simp] theorem taken_grids : (taken s).grids = s.grids := rfl
@[simp] theorem taken_bars : (taken s).bars = s.bars := rfl
@[simp] theorem taken_barLog : (taken s).barLog = s.barLog := rfl
@[simp] theorem taken_queues : (taken s).queues = s.queues := rfl
@[simp] theorem taken_shadow : (taken s).shadow = s.shadow := rfl
@[simp] theorem taken_banks : (taken s).banks = s.banks := rfl
@[simp] theorem taken_bankPart : (taken s).bankPart = s.bankPart := rfl
@[simp] theorem taken_accPart : (taken s).accPart = s.accPart := rfl
@[simp] theorem taken_bankWrites : (taken s).bankWrites = s.bankWrites := rfl
@[simp] theorem taken_tiles : (taken s).tiles = s.tiles := rfl
@[simp] theorem taken_resvs : (taken s).resvs = s.resvs := rfl
@[simp] theorem taken_accs : (taken s).accs = s.accs := rfl
@[simp] theorem taken_carriages : (taken s).carriages = s.carriages := rfl
@[simp] theorem taken_mfills : (taken s).mfills = s.mfills := rfl
@[simp] theorem taken_mdrains : (taken s).mdrains = s.mdrains := rfl
@[simp] theorem taken_copies : (taken s).copies = s.copies := rfl
@[simp] theorem taken_copyStops : (taken s).copyStops = s.copyStops := rfl
@[simp] theorem taken_hbm : (taken s).hbm = s.hbm := rfl
@[simp] theorem taken_parity : (taken s).parity = s.parity := rfl
@[simp] theorem taken_lineKeys : (taken s).lineKeys = s.lineKeys := rfl
@[simp] theorem taken_podMem : (taken s).podMem = s.podMem := rfl
@[simp] theorem taken_hostMem : (taken s).hostMem = s.hostMem := rfl
@[simp] theorem taken_xs : (taken s).xs = s.xs := rfl
@[simp] theorem taken_cs : (taken s).cs = s.cs := rfl
@[simp] theorem taken_ks : (taken s).ks = s.ks := rfl
@[simp] theorem taken_ob : (taken s).ob = s.ob := rfl
@[simp] theorem taken_l2 : (taken s).l2 = s.l2 := rfl
@[simp] theorem taken_dcache : (taken s).dcache = s.dcache := rfl
@[simp] theorem taken_icache : (taken s).icache = s.icache := rfl
@[simp] theorem taken_wc : (taken s).wc = s.wc := rfl
@[simp] theorem taken_tlb : (taken s).tlb = s.tlb := rfl
@[simp] theorem taken_walks : (taken s).walks = s.walks := rfl
@[simp] theorem taken_syncRecs : (taken s).syncRecs = s.syncRecs := rfl
@[simp] theorem taken_syncWaits : (taken s).syncWaits = s.syncWaits := rfl
@[simp] theorem taken_armings : (taken s).armings = s.armings := rfl
@[simp] theorem taken_ctrls : (taken s).ctrls = s.ctrls := rfl
@[simp] theorem taken_parts : (taken s).parts = s.parts := rfl
@[simp] theorem taken_streams : (taken s).streams = s.streams := rfl
@[simp] theorem taken_tasks : (taken s).tasks = s.tasks := rfl
@[simp] theorem taken_windows : (taken s).windows = s.windows := rfl
@[simp] theorem taken_pipes : (taken s).pipes = s.pipes := rfl
@[simp] theorem taken_images : (taken s).images = s.images := rfl
@[simp] theorem taken_dies : (taken s).dies = s.dies := rfl
@[simp] theorem taken_ifaces : (taken s).ifaces = s.ifaces := rfl
@[simp] theorem taken_ultins : (taken s).ultins = s.ultins := rfl
@[simp] theorem taken_inboxes : (taken s).inboxes = s.inboxes := rfl
@[simp] theorem taken_replies : (taken s).replies = s.replies := rfl
@[simp] theorem taken_ports : (taken s).ports = s.ports := rfl
@[simp] theorem taken_keySlots : (taken s).keySlots = s.keySlots := rfl
@[simp] theorem taken_podKeys : (taken s).podKeys = s.podKeys := rfl
@[simp] theorem taken_podBars : (taken s).podBars = s.podBars := rfl
@[simp] theorem taken_session : (taken s).session = s.session := rfl
@[simp] theorem taken_jobKey : (taken s).jobKey = s.jobKey := rfl
@[simp] theorem taken_flash : (taken s).flash = s.flash := rfl
@[simp] theorem taken_alarm : (taken s).alarm = s.alarm := rfl
@[simp] theorem taken_pkg : (taken s).pkg = s.pkg := rfl
@[simp] theorem taken_pod : (taken s).pod = s.pod := rfl
@[simp] theorem taken_hostOut : (taken s).hostOut = s.hostOut := rfl
@[simp] theorem taken_hostErr : (taken s).hostErr = s.hostErr := rfl
@[simp] theorem taken_podOut : (taken s).podOut = s.podOut := rfl
@[simp] theorem taken_sent : (taken s).sent = s.sent := rfl
end

/-! ### modG -/

section
variable (s : State) (g : Nat) (f : Group → Group)
@[simp] theorem modG_cycle : (modG s g f).cycle = s.cycle := rfl
@[simp] theorem modG_epoch : (modG s g f).epoch = s.epoch := rfl
@[simp] theorem modG_free : (modG s g f).free = s.free := rfl
@[simp] theorem modG_uid : (modG s g f).uid = s.uid := rfl
@[simp] theorem modG_agenda : (modG s g f).agenda = s.agenda := rfl
@[simp] theorem modG_subj : (modG s g f).subj = s.subj := rfl
@[simp] theorem modG_turn : (modG s g f).turn = s.turn := rfl
@[simp] theorem modG_coach : (modG s g f).coach = s.coach := rfl
@[simp] theorem modG_issued : (modG s g f).issued = s.issued := rfl
@[simp] theorem modG_power : (modG s g f).power = s.power := rfl
@[simp] theorem modG_groups : (modG s g f).groups = amod s.groups g f := rfl
@[simp] theorem modG_wgs : (modG s g f).wgs = s.wgs := rfl
@[simp] theorem modG_gangs : (modG s g f).gangs = s.gangs := rfl
@[simp] theorem modG_grids : (modG s g f).grids = s.grids := rfl
@[simp] theorem modG_bars : (modG s g f).bars = s.bars := rfl
@[simp] theorem modG_barLog : (modG s g f).barLog = s.barLog := rfl
@[simp] theorem modG_queues : (modG s g f).queues = s.queues := rfl
@[simp] theorem modG_shadow : (modG s g f).shadow = s.shadow := rfl
@[simp] theorem modG_banks : (modG s g f).banks = s.banks := rfl
@[simp] theorem modG_bankPart : (modG s g f).bankPart = s.bankPart := rfl
@[simp] theorem modG_accPart : (modG s g f).accPart = s.accPart := rfl
@[simp] theorem modG_bankWrites : (modG s g f).bankWrites = s.bankWrites := rfl
@[simp] theorem modG_tiles : (modG s g f).tiles = s.tiles := rfl
@[simp] theorem modG_resvs : (modG s g f).resvs = s.resvs := rfl
@[simp] theorem modG_accs : (modG s g f).accs = s.accs := rfl
@[simp] theorem modG_carriages : (modG s g f).carriages = s.carriages := rfl
@[simp] theorem modG_mfills : (modG s g f).mfills = s.mfills := rfl
@[simp] theorem modG_mdrains : (modG s g f).mdrains = s.mdrains := rfl
@[simp] theorem modG_copies : (modG s g f).copies = s.copies := rfl
@[simp] theorem modG_copyStops : (modG s g f).copyStops = s.copyStops := rfl
@[simp] theorem modG_hbm : (modG s g f).hbm = s.hbm := rfl
@[simp] theorem modG_parity : (modG s g f).parity = s.parity := rfl
@[simp] theorem modG_lineKeys : (modG s g f).lineKeys = s.lineKeys := rfl
@[simp] theorem modG_podMem : (modG s g f).podMem = s.podMem := rfl
@[simp] theorem modG_hostMem : (modG s g f).hostMem = s.hostMem := rfl
@[simp] theorem modG_xs : (modG s g f).xs = s.xs := rfl
@[simp] theorem modG_cs : (modG s g f).cs = s.cs := rfl
@[simp] theorem modG_ks : (modG s g f).ks = s.ks := rfl
@[simp] theorem modG_ob : (modG s g f).ob = s.ob := rfl
@[simp] theorem modG_l2 : (modG s g f).l2 = s.l2 := rfl
@[simp] theorem modG_dcache : (modG s g f).dcache = s.dcache := rfl
@[simp] theorem modG_icache : (modG s g f).icache = s.icache := rfl
@[simp] theorem modG_wc : (modG s g f).wc = s.wc := rfl
@[simp] theorem modG_tlb : (modG s g f).tlb = s.tlb := rfl
@[simp] theorem modG_walks : (modG s g f).walks = s.walks := rfl
@[simp] theorem modG_syncRecs : (modG s g f).syncRecs = s.syncRecs := rfl
@[simp] theorem modG_syncWaits : (modG s g f).syncWaits = s.syncWaits := rfl
@[simp] theorem modG_armings : (modG s g f).armings = s.armings := rfl
@[simp] theorem modG_ctrls : (modG s g f).ctrls = s.ctrls := rfl
@[simp] theorem modG_parts : (modG s g f).parts = s.parts := rfl
@[simp] theorem modG_streams : (modG s g f).streams = s.streams := rfl
@[simp] theorem modG_tasks : (modG s g f).tasks = s.tasks := rfl
@[simp] theorem modG_windows : (modG s g f).windows = s.windows := rfl
@[simp] theorem modG_pipes : (modG s g f).pipes = s.pipes := rfl
@[simp] theorem modG_images : (modG s g f).images = s.images := rfl
@[simp] theorem modG_dies : (modG s g f).dies = s.dies := rfl
@[simp] theorem modG_ifaces : (modG s g f).ifaces = s.ifaces := rfl
@[simp] theorem modG_ultins : (modG s g f).ultins = s.ultins := rfl
@[simp] theorem modG_inboxes : (modG s g f).inboxes = s.inboxes := rfl
@[simp] theorem modG_replies : (modG s g f).replies = s.replies := rfl
@[simp] theorem modG_ports : (modG s g f).ports = s.ports := rfl
@[simp] theorem modG_keySlots : (modG s g f).keySlots = s.keySlots := rfl
@[simp] theorem modG_podKeys : (modG s g f).podKeys = s.podKeys := rfl
@[simp] theorem modG_podBars : (modG s g f).podBars = s.podBars := rfl
@[simp] theorem modG_session : (modG s g f).session = s.session := rfl
@[simp] theorem modG_jobKey : (modG s g f).jobKey = s.jobKey := rfl
@[simp] theorem modG_flash : (modG s g f).flash = s.flash := rfl
@[simp] theorem modG_alarm : (modG s g f).alarm = s.alarm := rfl
@[simp] theorem modG_pkg : (modG s g f).pkg = s.pkg := rfl
@[simp] theorem modG_pod : (modG s g f).pod = s.pod := rfl
@[simp] theorem modG_hostOut : (modG s g f).hostOut = s.hostOut := rfl
@[simp] theorem modG_hostErr : (modG s g f).hostErr = s.hostErr := rfl
@[simp] theorem modG_podOut : (modG s g f).podOut = s.podOut := rfl
@[simp] theorem modG_sent : (modG s g f).sent = s.sent := rfl
end

/-! ### modT -/

section
variable (s : State) (g l : Nat) (f : Thread → Thread)
@[simp] theorem modT_cycle : (modT s g l f).cycle = s.cycle := rfl
@[simp] theorem modT_epoch : (modT s g l f).epoch = s.epoch := rfl
@[simp] theorem modT_free : (modT s g l f).free = s.free := rfl
@[simp] theorem modT_uid : (modT s g l f).uid = s.uid := rfl
@[simp] theorem modT_agenda : (modT s g l f).agenda = s.agenda := rfl
@[simp] theorem modT_subj : (modT s g l f).subj = s.subj := rfl
@[simp] theorem modT_turn : (modT s g l f).turn = s.turn := rfl
@[simp] theorem modT_coach : (modT s g l f).coach = s.coach := rfl
@[simp] theorem modT_issued : (modT s g l f).issued = s.issued := rfl
@[simp] theorem modT_power : (modT s g l f).power = s.power := rfl
@[simp] theorem modT_groups : (modT s g l f).groups = amod s.groups g fun G => { G with threads := lmod G.threads l f } := rfl
@[simp] theorem modT_wgs : (modT s g l f).wgs = s.wgs := rfl
@[simp] theorem modT_gangs : (modT s g l f).gangs = s.gangs := rfl
@[simp] theorem modT_grids : (modT s g l f).grids = s.grids := rfl
@[simp] theorem modT_bars : (modT s g l f).bars = s.bars := rfl
@[simp] theorem modT_barLog : (modT s g l f).barLog = s.barLog := rfl
@[simp] theorem modT_queues : (modT s g l f).queues = s.queues := rfl
@[simp] theorem modT_shadow : (modT s g l f).shadow = s.shadow := rfl
@[simp] theorem modT_banks : (modT s g l f).banks = s.banks := rfl
@[simp] theorem modT_bankPart : (modT s g l f).bankPart = s.bankPart := rfl
@[simp] theorem modT_accPart : (modT s g l f).accPart = s.accPart := rfl
@[simp] theorem modT_bankWrites : (modT s g l f).bankWrites = s.bankWrites := rfl
@[simp] theorem modT_tiles : (modT s g l f).tiles = s.tiles := rfl
@[simp] theorem modT_resvs : (modT s g l f).resvs = s.resvs := rfl
@[simp] theorem modT_accs : (modT s g l f).accs = s.accs := rfl
@[simp] theorem modT_carriages : (modT s g l f).carriages = s.carriages := rfl
@[simp] theorem modT_mfills : (modT s g l f).mfills = s.mfills := rfl
@[simp] theorem modT_mdrains : (modT s g l f).mdrains = s.mdrains := rfl
@[simp] theorem modT_copies : (modT s g l f).copies = s.copies := rfl
@[simp] theorem modT_copyStops : (modT s g l f).copyStops = s.copyStops := rfl
@[simp] theorem modT_hbm : (modT s g l f).hbm = s.hbm := rfl
@[simp] theorem modT_parity : (modT s g l f).parity = s.parity := rfl
@[simp] theorem modT_lineKeys : (modT s g l f).lineKeys = s.lineKeys := rfl
@[simp] theorem modT_podMem : (modT s g l f).podMem = s.podMem := rfl
@[simp] theorem modT_hostMem : (modT s g l f).hostMem = s.hostMem := rfl
@[simp] theorem modT_xs : (modT s g l f).xs = s.xs := rfl
@[simp] theorem modT_cs : (modT s g l f).cs = s.cs := rfl
@[simp] theorem modT_ks : (modT s g l f).ks = s.ks := rfl
@[simp] theorem modT_ob : (modT s g l f).ob = s.ob := rfl
@[simp] theorem modT_l2 : (modT s g l f).l2 = s.l2 := rfl
@[simp] theorem modT_dcache : (modT s g l f).dcache = s.dcache := rfl
@[simp] theorem modT_icache : (modT s g l f).icache = s.icache := rfl
@[simp] theorem modT_wc : (modT s g l f).wc = s.wc := rfl
@[simp] theorem modT_tlb : (modT s g l f).tlb = s.tlb := rfl
@[simp] theorem modT_walks : (modT s g l f).walks = s.walks := rfl
@[simp] theorem modT_syncRecs : (modT s g l f).syncRecs = s.syncRecs := rfl
@[simp] theorem modT_syncWaits : (modT s g l f).syncWaits = s.syncWaits := rfl
@[simp] theorem modT_armings : (modT s g l f).armings = s.armings := rfl
@[simp] theorem modT_ctrls : (modT s g l f).ctrls = s.ctrls := rfl
@[simp] theorem modT_parts : (modT s g l f).parts = s.parts := rfl
@[simp] theorem modT_streams : (modT s g l f).streams = s.streams := rfl
@[simp] theorem modT_tasks : (modT s g l f).tasks = s.tasks := rfl
@[simp] theorem modT_windows : (modT s g l f).windows = s.windows := rfl
@[simp] theorem modT_pipes : (modT s g l f).pipes = s.pipes := rfl
@[simp] theorem modT_images : (modT s g l f).images = s.images := rfl
@[simp] theorem modT_dies : (modT s g l f).dies = s.dies := rfl
@[simp] theorem modT_ifaces : (modT s g l f).ifaces = s.ifaces := rfl
@[simp] theorem modT_ultins : (modT s g l f).ultins = s.ultins := rfl
@[simp] theorem modT_inboxes : (modT s g l f).inboxes = s.inboxes := rfl
@[simp] theorem modT_replies : (modT s g l f).replies = s.replies := rfl
@[simp] theorem modT_ports : (modT s g l f).ports = s.ports := rfl
@[simp] theorem modT_keySlots : (modT s g l f).keySlots = s.keySlots := rfl
@[simp] theorem modT_podKeys : (modT s g l f).podKeys = s.podKeys := rfl
@[simp] theorem modT_podBars : (modT s g l f).podBars = s.podBars := rfl
@[simp] theorem modT_session : (modT s g l f).session = s.session := rfl
@[simp] theorem modT_jobKey : (modT s g l f).jobKey = s.jobKey := rfl
@[simp] theorem modT_flash : (modT s g l f).flash = s.flash := rfl
@[simp] theorem modT_alarm : (modT s g l f).alarm = s.alarm := rfl
@[simp] theorem modT_pkg : (modT s g l f).pkg = s.pkg := rfl
@[simp] theorem modT_pod : (modT s g l f).pod = s.pod := rfl
@[simp] theorem modT_hostOut : (modT s g l f).hostOut = s.hostOut := rfl
@[simp] theorem modT_hostErr : (modT s g l f).hostErr = s.hostErr := rfl
@[simp] theorem modT_podOut : (modT s g l f).podOut = s.podOut := rfl
@[simp] theorem modT_sent : (modT s g l f).sent = s.sent := rfl
end

/-! ### modWg -/

section
variable (s : State) (w : Nat) (f : Wg → Wg)
@[simp] theorem modWg_cycle : (modWg s w f).cycle = s.cycle := rfl
@[simp] theorem modWg_epoch : (modWg s w f).epoch = s.epoch := rfl
@[simp] theorem modWg_free : (modWg s w f).free = s.free := rfl
@[simp] theorem modWg_uid : (modWg s w f).uid = s.uid := rfl
@[simp] theorem modWg_agenda : (modWg s w f).agenda = s.agenda := rfl
@[simp] theorem modWg_subj : (modWg s w f).subj = s.subj := rfl
@[simp] theorem modWg_turn : (modWg s w f).turn = s.turn := rfl
@[simp] theorem modWg_coach : (modWg s w f).coach = s.coach := rfl
@[simp] theorem modWg_issued : (modWg s w f).issued = s.issued := rfl
@[simp] theorem modWg_power : (modWg s w f).power = s.power := rfl
@[simp] theorem modWg_groups : (modWg s w f).groups = s.groups := rfl
@[simp] theorem modWg_wgs : (modWg s w f).wgs = amod s.wgs w f := rfl
@[simp] theorem modWg_gangs : (modWg s w f).gangs = s.gangs := rfl
@[simp] theorem modWg_grids : (modWg s w f).grids = s.grids := rfl
@[simp] theorem modWg_bars : (modWg s w f).bars = s.bars := rfl
@[simp] theorem modWg_barLog : (modWg s w f).barLog = s.barLog := rfl
@[simp] theorem modWg_queues : (modWg s w f).queues = s.queues := rfl
@[simp] theorem modWg_shadow : (modWg s w f).shadow = s.shadow := rfl
@[simp] theorem modWg_banks : (modWg s w f).banks = s.banks := rfl
@[simp] theorem modWg_bankPart : (modWg s w f).bankPart = s.bankPart := rfl
@[simp] theorem modWg_accPart : (modWg s w f).accPart = s.accPart := rfl
@[simp] theorem modWg_bankWrites : (modWg s w f).bankWrites = s.bankWrites := rfl
@[simp] theorem modWg_tiles : (modWg s w f).tiles = s.tiles := rfl
@[simp] theorem modWg_resvs : (modWg s w f).resvs = s.resvs := rfl
@[simp] theorem modWg_accs : (modWg s w f).accs = s.accs := rfl
@[simp] theorem modWg_carriages : (modWg s w f).carriages = s.carriages := rfl
@[simp] theorem modWg_mfills : (modWg s w f).mfills = s.mfills := rfl
@[simp] theorem modWg_mdrains : (modWg s w f).mdrains = s.mdrains := rfl
@[simp] theorem modWg_copies : (modWg s w f).copies = s.copies := rfl
@[simp] theorem modWg_copyStops : (modWg s w f).copyStops = s.copyStops := rfl
@[simp] theorem modWg_hbm : (modWg s w f).hbm = s.hbm := rfl
@[simp] theorem modWg_parity : (modWg s w f).parity = s.parity := rfl
@[simp] theorem modWg_lineKeys : (modWg s w f).lineKeys = s.lineKeys := rfl
@[simp] theorem modWg_podMem : (modWg s w f).podMem = s.podMem := rfl
@[simp] theorem modWg_hostMem : (modWg s w f).hostMem = s.hostMem := rfl
@[simp] theorem modWg_xs : (modWg s w f).xs = s.xs := rfl
@[simp] theorem modWg_cs : (modWg s w f).cs = s.cs := rfl
@[simp] theorem modWg_ks : (modWg s w f).ks = s.ks := rfl
@[simp] theorem modWg_ob : (modWg s w f).ob = s.ob := rfl
@[simp] theorem modWg_l2 : (modWg s w f).l2 = s.l2 := rfl
@[simp] theorem modWg_dcache : (modWg s w f).dcache = s.dcache := rfl
@[simp] theorem modWg_icache : (modWg s w f).icache = s.icache := rfl
@[simp] theorem modWg_wc : (modWg s w f).wc = s.wc := rfl
@[simp] theorem modWg_tlb : (modWg s w f).tlb = s.tlb := rfl
@[simp] theorem modWg_walks : (modWg s w f).walks = s.walks := rfl
@[simp] theorem modWg_syncRecs : (modWg s w f).syncRecs = s.syncRecs := rfl
@[simp] theorem modWg_syncWaits : (modWg s w f).syncWaits = s.syncWaits := rfl
@[simp] theorem modWg_armings : (modWg s w f).armings = s.armings := rfl
@[simp] theorem modWg_ctrls : (modWg s w f).ctrls = s.ctrls := rfl
@[simp] theorem modWg_parts : (modWg s w f).parts = s.parts := rfl
@[simp] theorem modWg_streams : (modWg s w f).streams = s.streams := rfl
@[simp] theorem modWg_tasks : (modWg s w f).tasks = s.tasks := rfl
@[simp] theorem modWg_windows : (modWg s w f).windows = s.windows := rfl
@[simp] theorem modWg_pipes : (modWg s w f).pipes = s.pipes := rfl
@[simp] theorem modWg_images : (modWg s w f).images = s.images := rfl
@[simp] theorem modWg_dies : (modWg s w f).dies = s.dies := rfl
@[simp] theorem modWg_ifaces : (modWg s w f).ifaces = s.ifaces := rfl
@[simp] theorem modWg_ultins : (modWg s w f).ultins = s.ultins := rfl
@[simp] theorem modWg_inboxes : (modWg s w f).inboxes = s.inboxes := rfl
@[simp] theorem modWg_replies : (modWg s w f).replies = s.replies := rfl
@[simp] theorem modWg_ports : (modWg s w f).ports = s.ports := rfl
@[simp] theorem modWg_keySlots : (modWg s w f).keySlots = s.keySlots := rfl
@[simp] theorem modWg_podKeys : (modWg s w f).podKeys = s.podKeys := rfl
@[simp] theorem modWg_podBars : (modWg s w f).podBars = s.podBars := rfl
@[simp] theorem modWg_session : (modWg s w f).session = s.session := rfl
@[simp] theorem modWg_jobKey : (modWg s w f).jobKey = s.jobKey := rfl
@[simp] theorem modWg_flash : (modWg s w f).flash = s.flash := rfl
@[simp] theorem modWg_alarm : (modWg s w f).alarm = s.alarm := rfl
@[simp] theorem modWg_pkg : (modWg s w f).pkg = s.pkg := rfl
@[simp] theorem modWg_pod : (modWg s w f).pod = s.pod := rfl
@[simp] theorem modWg_hostOut : (modWg s w f).hostOut = s.hostOut := rfl
@[simp] theorem modWg_hostErr : (modWg s w f).hostErr = s.hostErr := rfl
@[simp] theorem modWg_podOut : (modWg s w f).podOut = s.podOut := rfl
@[simp] theorem modWg_sent : (modWg s w f).sent = s.sent := rfl
end

/-! ### modGrid -/

section
variable (s : State) (k : Nat) (f : Grid → Grid)
@[simp] theorem modGrid_cycle : (modGrid s k f).cycle = s.cycle := rfl
@[simp] theorem modGrid_epoch : (modGrid s k f).epoch = s.epoch := rfl
@[simp] theorem modGrid_free : (modGrid s k f).free = s.free := rfl
@[simp] theorem modGrid_uid : (modGrid s k f).uid = s.uid := rfl
@[simp] theorem modGrid_agenda : (modGrid s k f).agenda = s.agenda := rfl
@[simp] theorem modGrid_subj : (modGrid s k f).subj = s.subj := rfl
@[simp] theorem modGrid_turn : (modGrid s k f).turn = s.turn := rfl
@[simp] theorem modGrid_coach : (modGrid s k f).coach = s.coach := rfl
@[simp] theorem modGrid_issued : (modGrid s k f).issued = s.issued := rfl
@[simp] theorem modGrid_power : (modGrid s k f).power = s.power := rfl
@[simp] theorem modGrid_groups : (modGrid s k f).groups = s.groups := rfl
@[simp] theorem modGrid_wgs : (modGrid s k f).wgs = s.wgs := rfl
@[simp] theorem modGrid_gangs : (modGrid s k f).gangs = s.gangs := rfl
@[simp] theorem modGrid_grids : (modGrid s k f).grids = amod s.grids k f := rfl
@[simp] theorem modGrid_bars : (modGrid s k f).bars = s.bars := rfl
@[simp] theorem modGrid_barLog : (modGrid s k f).barLog = s.barLog := rfl
@[simp] theorem modGrid_queues : (modGrid s k f).queues = s.queues := rfl
@[simp] theorem modGrid_shadow : (modGrid s k f).shadow = s.shadow := rfl
@[simp] theorem modGrid_banks : (modGrid s k f).banks = s.banks := rfl
@[simp] theorem modGrid_bankPart : (modGrid s k f).bankPart = s.bankPart := rfl
@[simp] theorem modGrid_accPart : (modGrid s k f).accPart = s.accPart := rfl
@[simp] theorem modGrid_bankWrites : (modGrid s k f).bankWrites = s.bankWrites := rfl
@[simp] theorem modGrid_tiles : (modGrid s k f).tiles = s.tiles := rfl
@[simp] theorem modGrid_resvs : (modGrid s k f).resvs = s.resvs := rfl
@[simp] theorem modGrid_accs : (modGrid s k f).accs = s.accs := rfl
@[simp] theorem modGrid_carriages : (modGrid s k f).carriages = s.carriages := rfl
@[simp] theorem modGrid_mfills : (modGrid s k f).mfills = s.mfills := rfl
@[simp] theorem modGrid_mdrains : (modGrid s k f).mdrains = s.mdrains := rfl
@[simp] theorem modGrid_copies : (modGrid s k f).copies = s.copies := rfl
@[simp] theorem modGrid_copyStops : (modGrid s k f).copyStops = s.copyStops := rfl
@[simp] theorem modGrid_hbm : (modGrid s k f).hbm = s.hbm := rfl
@[simp] theorem modGrid_parity : (modGrid s k f).parity = s.parity := rfl
@[simp] theorem modGrid_lineKeys : (modGrid s k f).lineKeys = s.lineKeys := rfl
@[simp] theorem modGrid_podMem : (modGrid s k f).podMem = s.podMem := rfl
@[simp] theorem modGrid_hostMem : (modGrid s k f).hostMem = s.hostMem := rfl
@[simp] theorem modGrid_xs : (modGrid s k f).xs = s.xs := rfl
@[simp] theorem modGrid_cs : (modGrid s k f).cs = s.cs := rfl
@[simp] theorem modGrid_ks : (modGrid s k f).ks = s.ks := rfl
@[simp] theorem modGrid_ob : (modGrid s k f).ob = s.ob := rfl
@[simp] theorem modGrid_l2 : (modGrid s k f).l2 = s.l2 := rfl
@[simp] theorem modGrid_dcache : (modGrid s k f).dcache = s.dcache := rfl
@[simp] theorem modGrid_icache : (modGrid s k f).icache = s.icache := rfl
@[simp] theorem modGrid_wc : (modGrid s k f).wc = s.wc := rfl
@[simp] theorem modGrid_tlb : (modGrid s k f).tlb = s.tlb := rfl
@[simp] theorem modGrid_walks : (modGrid s k f).walks = s.walks := rfl
@[simp] theorem modGrid_syncRecs : (modGrid s k f).syncRecs = s.syncRecs := rfl
@[simp] theorem modGrid_syncWaits : (modGrid s k f).syncWaits = s.syncWaits := rfl
@[simp] theorem modGrid_armings : (modGrid s k f).armings = s.armings := rfl
@[simp] theorem modGrid_ctrls : (modGrid s k f).ctrls = s.ctrls := rfl
@[simp] theorem modGrid_parts : (modGrid s k f).parts = s.parts := rfl
@[simp] theorem modGrid_streams : (modGrid s k f).streams = s.streams := rfl
@[simp] theorem modGrid_tasks : (modGrid s k f).tasks = s.tasks := rfl
@[simp] theorem modGrid_windows : (modGrid s k f).windows = s.windows := rfl
@[simp] theorem modGrid_pipes : (modGrid s k f).pipes = s.pipes := rfl
@[simp] theorem modGrid_images : (modGrid s k f).images = s.images := rfl
@[simp] theorem modGrid_dies : (modGrid s k f).dies = s.dies := rfl
@[simp] theorem modGrid_ifaces : (modGrid s k f).ifaces = s.ifaces := rfl
@[simp] theorem modGrid_ultins : (modGrid s k f).ultins = s.ultins := rfl
@[simp] theorem modGrid_inboxes : (modGrid s k f).inboxes = s.inboxes := rfl
@[simp] theorem modGrid_replies : (modGrid s k f).replies = s.replies := rfl
@[simp] theorem modGrid_ports : (modGrid s k f).ports = s.ports := rfl
@[simp] theorem modGrid_keySlots : (modGrid s k f).keySlots = s.keySlots := rfl
@[simp] theorem modGrid_podKeys : (modGrid s k f).podKeys = s.podKeys := rfl
@[simp] theorem modGrid_podBars : (modGrid s k f).podBars = s.podBars := rfl
@[simp] theorem modGrid_session : (modGrid s k f).session = s.session := rfl
@[simp] theorem modGrid_jobKey : (modGrid s k f).jobKey = s.jobKey := rfl
@[simp] theorem modGrid_flash : (modGrid s k f).flash = s.flash := rfl
@[simp] theorem modGrid_alarm : (modGrid s k f).alarm = s.alarm := rfl
@[simp] theorem modGrid_pkg : (modGrid s k f).pkg = s.pkg := rfl
@[simp] theorem modGrid_pod : (modGrid s k f).pod = s.pod := rfl
@[simp] theorem modGrid_hostOut : (modGrid s k f).hostOut = s.hostOut := rfl
@[simp] theorem modGrid_hostErr : (modGrid s k f).hostErr = s.hostErr := rfl
@[simp] theorem modGrid_podOut : (modGrid s k f).podOut = s.podOut := rfl
@[simp] theorem modGrid_sent : (modGrid s k f).sent = s.sent := rfl
end

/-! ### modQ -/

section
variable (s : State) (k : Nat) (f : Queue → Queue)
@[simp] theorem modQ_cycle : (modQ s k f).cycle = s.cycle := rfl
@[simp] theorem modQ_epoch : (modQ s k f).epoch = s.epoch := rfl
@[simp] theorem modQ_free : (modQ s k f).free = s.free := rfl
@[simp] theorem modQ_uid : (modQ s k f).uid = s.uid := rfl
@[simp] theorem modQ_agenda : (modQ s k f).agenda = s.agenda := rfl
@[simp] theorem modQ_subj : (modQ s k f).subj = s.subj := rfl
@[simp] theorem modQ_turn : (modQ s k f).turn = s.turn := rfl
@[simp] theorem modQ_coach : (modQ s k f).coach = s.coach := rfl
@[simp] theorem modQ_issued : (modQ s k f).issued = s.issued := rfl
@[simp] theorem modQ_power : (modQ s k f).power = s.power := rfl
@[simp] theorem modQ_groups : (modQ s k f).groups = s.groups := rfl
@[simp] theorem modQ_wgs : (modQ s k f).wgs = s.wgs := rfl
@[simp] theorem modQ_gangs : (modQ s k f).gangs = s.gangs := rfl
@[simp] theorem modQ_grids : (modQ s k f).grids = s.grids := rfl
@[simp] theorem modQ_bars : (modQ s k f).bars = s.bars := rfl
@[simp] theorem modQ_barLog : (modQ s k f).barLog = s.barLog := rfl
@[simp] theorem modQ_queues : (modQ s k f).queues = amod s.queues k f := rfl
@[simp] theorem modQ_shadow : (modQ s k f).shadow = s.shadow := rfl
@[simp] theorem modQ_banks : (modQ s k f).banks = s.banks := rfl
@[simp] theorem modQ_bankPart : (modQ s k f).bankPart = s.bankPart := rfl
@[simp] theorem modQ_accPart : (modQ s k f).accPart = s.accPart := rfl
@[simp] theorem modQ_bankWrites : (modQ s k f).bankWrites = s.bankWrites := rfl
@[simp] theorem modQ_tiles : (modQ s k f).tiles = s.tiles := rfl
@[simp] theorem modQ_resvs : (modQ s k f).resvs = s.resvs := rfl
@[simp] theorem modQ_accs : (modQ s k f).accs = s.accs := rfl
@[simp] theorem modQ_carriages : (modQ s k f).carriages = s.carriages := rfl
@[simp] theorem modQ_mfills : (modQ s k f).mfills = s.mfills := rfl
@[simp] theorem modQ_mdrains : (modQ s k f).mdrains = s.mdrains := rfl
@[simp] theorem modQ_copies : (modQ s k f).copies = s.copies := rfl
@[simp] theorem modQ_copyStops : (modQ s k f).copyStops = s.copyStops := rfl
@[simp] theorem modQ_hbm : (modQ s k f).hbm = s.hbm := rfl
@[simp] theorem modQ_parity : (modQ s k f).parity = s.parity := rfl
@[simp] theorem modQ_lineKeys : (modQ s k f).lineKeys = s.lineKeys := rfl
@[simp] theorem modQ_podMem : (modQ s k f).podMem = s.podMem := rfl
@[simp] theorem modQ_hostMem : (modQ s k f).hostMem = s.hostMem := rfl
@[simp] theorem modQ_xs : (modQ s k f).xs = s.xs := rfl
@[simp] theorem modQ_cs : (modQ s k f).cs = s.cs := rfl
@[simp] theorem modQ_ks : (modQ s k f).ks = s.ks := rfl
@[simp] theorem modQ_ob : (modQ s k f).ob = s.ob := rfl
@[simp] theorem modQ_l2 : (modQ s k f).l2 = s.l2 := rfl
@[simp] theorem modQ_dcache : (modQ s k f).dcache = s.dcache := rfl
@[simp] theorem modQ_icache : (modQ s k f).icache = s.icache := rfl
@[simp] theorem modQ_wc : (modQ s k f).wc = s.wc := rfl
@[simp] theorem modQ_tlb : (modQ s k f).tlb = s.tlb := rfl
@[simp] theorem modQ_walks : (modQ s k f).walks = s.walks := rfl
@[simp] theorem modQ_syncRecs : (modQ s k f).syncRecs = s.syncRecs := rfl
@[simp] theorem modQ_syncWaits : (modQ s k f).syncWaits = s.syncWaits := rfl
@[simp] theorem modQ_armings : (modQ s k f).armings = s.armings := rfl
@[simp] theorem modQ_ctrls : (modQ s k f).ctrls = s.ctrls := rfl
@[simp] theorem modQ_parts : (modQ s k f).parts = s.parts := rfl
@[simp] theorem modQ_streams : (modQ s k f).streams = s.streams := rfl
@[simp] theorem modQ_tasks : (modQ s k f).tasks = s.tasks := rfl
@[simp] theorem modQ_windows : (modQ s k f).windows = s.windows := rfl
@[simp] theorem modQ_pipes : (modQ s k f).pipes = s.pipes := rfl
@[simp] theorem modQ_images : (modQ s k f).images = s.images := rfl
@[simp] theorem modQ_dies : (modQ s k f).dies = s.dies := rfl
@[simp] theorem modQ_ifaces : (modQ s k f).ifaces = s.ifaces := rfl
@[simp] theorem modQ_ultins : (modQ s k f).ultins = s.ultins := rfl
@[simp] theorem modQ_inboxes : (modQ s k f).inboxes = s.inboxes := rfl
@[simp] theorem modQ_replies : (modQ s k f).replies = s.replies := rfl
@[simp] theorem modQ_ports : (modQ s k f).ports = s.ports := rfl
@[simp] theorem modQ_keySlots : (modQ s k f).keySlots = s.keySlots := rfl
@[simp] theorem modQ_podKeys : (modQ s k f).podKeys = s.podKeys := rfl
@[simp] theorem modQ_podBars : (modQ s k f).podBars = s.podBars := rfl
@[simp] theorem modQ_session : (modQ s k f).session = s.session := rfl
@[simp] theorem modQ_jobKey : (modQ s k f).jobKey = s.jobKey := rfl
@[simp] theorem modQ_flash : (modQ s k f).flash = s.flash := rfl
@[simp] theorem modQ_alarm : (modQ s k f).alarm = s.alarm := rfl
@[simp] theorem modQ_pkg : (modQ s k f).pkg = s.pkg := rfl
@[simp] theorem modQ_pod : (modQ s k f).pod = s.pod := rfl
@[simp] theorem modQ_hostOut : (modQ s k f).hostOut = s.hostOut := rfl
@[simp] theorem modQ_hostErr : (modQ s k f).hostErr = s.hostErr := rfl
@[simp] theorem modQ_podOut : (modQ s k f).podOut = s.podOut := rfl
@[simp] theorem modQ_sent : (modQ s k f).sent = s.sent := rfl
end

/-! ### modPipe -/

section
variable (s : State) (p : Nat) (f : Pipe → Pipe)
@[simp] theorem modPipe_cycle : (modPipe s p f).cycle = s.cycle := rfl
@[simp] theorem modPipe_epoch : (modPipe s p f).epoch = s.epoch := rfl
@[simp] theorem modPipe_free : (modPipe s p f).free = s.free := rfl
@[simp] theorem modPipe_uid : (modPipe s p f).uid = s.uid := rfl
@[simp] theorem modPipe_agenda : (modPipe s p f).agenda = s.agenda := rfl
@[simp] theorem modPipe_subj : (modPipe s p f).subj = s.subj := rfl
@[simp] theorem modPipe_turn : (modPipe s p f).turn = s.turn := rfl
@[simp] theorem modPipe_coach : (modPipe s p f).coach = s.coach := rfl
@[simp] theorem modPipe_issued : (modPipe s p f).issued = s.issued := rfl
@[simp] theorem modPipe_power : (modPipe s p f).power = s.power := rfl
@[simp] theorem modPipe_groups : (modPipe s p f).groups = s.groups := rfl
@[simp] theorem modPipe_wgs : (modPipe s p f).wgs = s.wgs := rfl
@[simp] theorem modPipe_gangs : (modPipe s p f).gangs = s.gangs := rfl
@[simp] theorem modPipe_grids : (modPipe s p f).grids = s.grids := rfl
@[simp] theorem modPipe_bars : (modPipe s p f).bars = s.bars := rfl
@[simp] theorem modPipe_barLog : (modPipe s p f).barLog = s.barLog := rfl
@[simp] theorem modPipe_queues : (modPipe s p f).queues = s.queues := rfl
@[simp] theorem modPipe_shadow : (modPipe s p f).shadow = s.shadow := rfl
@[simp] theorem modPipe_banks : (modPipe s p f).banks = s.banks := rfl
@[simp] theorem modPipe_bankPart : (modPipe s p f).bankPart = s.bankPart := rfl
@[simp] theorem modPipe_accPart : (modPipe s p f).accPart = s.accPart := rfl
@[simp] theorem modPipe_bankWrites : (modPipe s p f).bankWrites = s.bankWrites := rfl
@[simp] theorem modPipe_tiles : (modPipe s p f).tiles = s.tiles := rfl
@[simp] theorem modPipe_resvs : (modPipe s p f).resvs = s.resvs := rfl
@[simp] theorem modPipe_accs : (modPipe s p f).accs = s.accs := rfl
@[simp] theorem modPipe_carriages : (modPipe s p f).carriages = s.carriages := rfl
@[simp] theorem modPipe_mfills : (modPipe s p f).mfills = s.mfills := rfl
@[simp] theorem modPipe_mdrains : (modPipe s p f).mdrains = s.mdrains := rfl
@[simp] theorem modPipe_copies : (modPipe s p f).copies = s.copies := rfl
@[simp] theorem modPipe_copyStops : (modPipe s p f).copyStops = s.copyStops := rfl
@[simp] theorem modPipe_hbm : (modPipe s p f).hbm = s.hbm := rfl
@[simp] theorem modPipe_parity : (modPipe s p f).parity = s.parity := rfl
@[simp] theorem modPipe_lineKeys : (modPipe s p f).lineKeys = s.lineKeys := rfl
@[simp] theorem modPipe_podMem : (modPipe s p f).podMem = s.podMem := rfl
@[simp] theorem modPipe_hostMem : (modPipe s p f).hostMem = s.hostMem := rfl
@[simp] theorem modPipe_xs : (modPipe s p f).xs = s.xs := rfl
@[simp] theorem modPipe_cs : (modPipe s p f).cs = s.cs := rfl
@[simp] theorem modPipe_ks : (modPipe s p f).ks = s.ks := rfl
@[simp] theorem modPipe_ob : (modPipe s p f).ob = s.ob := rfl
@[simp] theorem modPipe_l2 : (modPipe s p f).l2 = s.l2 := rfl
@[simp] theorem modPipe_dcache : (modPipe s p f).dcache = s.dcache := rfl
@[simp] theorem modPipe_icache : (modPipe s p f).icache = s.icache := rfl
@[simp] theorem modPipe_wc : (modPipe s p f).wc = s.wc := rfl
@[simp] theorem modPipe_tlb : (modPipe s p f).tlb = s.tlb := rfl
@[simp] theorem modPipe_walks : (modPipe s p f).walks = s.walks := rfl
@[simp] theorem modPipe_syncRecs : (modPipe s p f).syncRecs = s.syncRecs := rfl
@[simp] theorem modPipe_syncWaits : (modPipe s p f).syncWaits = s.syncWaits := rfl
@[simp] theorem modPipe_armings : (modPipe s p f).armings = s.armings := rfl
@[simp] theorem modPipe_ctrls : (modPipe s p f).ctrls = s.ctrls := rfl
@[simp] theorem modPipe_parts : (modPipe s p f).parts = s.parts := rfl
@[simp] theorem modPipe_streams : (modPipe s p f).streams = s.streams := rfl
@[simp] theorem modPipe_tasks : (modPipe s p f).tasks = s.tasks := rfl
@[simp] theorem modPipe_windows : (modPipe s p f).windows = s.windows := rfl
@[simp] theorem modPipe_pipes : (modPipe s p f).pipes = amod s.pipes p f := rfl
@[simp] theorem modPipe_images : (modPipe s p f).images = s.images := rfl
@[simp] theorem modPipe_dies : (modPipe s p f).dies = s.dies := rfl
@[simp] theorem modPipe_ifaces : (modPipe s p f).ifaces = s.ifaces := rfl
@[simp] theorem modPipe_ultins : (modPipe s p f).ultins = s.ultins := rfl
@[simp] theorem modPipe_inboxes : (modPipe s p f).inboxes = s.inboxes := rfl
@[simp] theorem modPipe_replies : (modPipe s p f).replies = s.replies := rfl
@[simp] theorem modPipe_ports : (modPipe s p f).ports = s.ports := rfl
@[simp] theorem modPipe_keySlots : (modPipe s p f).keySlots = s.keySlots := rfl
@[simp] theorem modPipe_podKeys : (modPipe s p f).podKeys = s.podKeys := rfl
@[simp] theorem modPipe_podBars : (modPipe s p f).podBars = s.podBars := rfl
@[simp] theorem modPipe_session : (modPipe s p f).session = s.session := rfl
@[simp] theorem modPipe_jobKey : (modPipe s p f).jobKey = s.jobKey := rfl
@[simp] theorem modPipe_flash : (modPipe s p f).flash = s.flash := rfl
@[simp] theorem modPipe_alarm : (modPipe s p f).alarm = s.alarm := rfl
@[simp] theorem modPipe_pkg : (modPipe s p f).pkg = s.pkg := rfl
@[simp] theorem modPipe_pod : (modPipe s p f).pod = s.pod := rfl
@[simp] theorem modPipe_hostOut : (modPipe s p f).hostOut = s.hostOut := rfl
@[simp] theorem modPipe_hostErr : (modPipe s p f).hostErr = s.hostErr := rfl
@[simp] theorem modPipe_podOut : (modPipe s p f).podOut = s.podOut := rfl
@[simp] theorem modPipe_sent : (modPipe s p f).sent = s.sent := rfl
end

/-! ### modStream -/

section
variable (s : State) (i : Nat) (f : Stream → Stream)
@[simp] theorem modStream_cycle : (modStream s i f).cycle = s.cycle := rfl
@[simp] theorem modStream_epoch : (modStream s i f).epoch = s.epoch := rfl
@[simp] theorem modStream_free : (modStream s i f).free = s.free := rfl
@[simp] theorem modStream_uid : (modStream s i f).uid = s.uid := rfl
@[simp] theorem modStream_agenda : (modStream s i f).agenda = s.agenda := rfl
@[simp] theorem modStream_subj : (modStream s i f).subj = s.subj := rfl
@[simp] theorem modStream_turn : (modStream s i f).turn = s.turn := rfl
@[simp] theorem modStream_coach : (modStream s i f).coach = s.coach := rfl
@[simp] theorem modStream_issued : (modStream s i f).issued = s.issued := rfl
@[simp] theorem modStream_power : (modStream s i f).power = s.power := rfl
@[simp] theorem modStream_groups : (modStream s i f).groups = s.groups := rfl
@[simp] theorem modStream_wgs : (modStream s i f).wgs = s.wgs := rfl
@[simp] theorem modStream_gangs : (modStream s i f).gangs = s.gangs := rfl
@[simp] theorem modStream_grids : (modStream s i f).grids = s.grids := rfl
@[simp] theorem modStream_bars : (modStream s i f).bars = s.bars := rfl
@[simp] theorem modStream_barLog : (modStream s i f).barLog = s.barLog := rfl
@[simp] theorem modStream_queues : (modStream s i f).queues = s.queues := rfl
@[simp] theorem modStream_shadow : (modStream s i f).shadow = s.shadow := rfl
@[simp] theorem modStream_banks : (modStream s i f).banks = s.banks := rfl
@[simp] theorem modStream_bankPart : (modStream s i f).bankPart = s.bankPart := rfl
@[simp] theorem modStream_accPart : (modStream s i f).accPart = s.accPart := rfl
@[simp] theorem modStream_bankWrites : (modStream s i f).bankWrites = s.bankWrites := rfl
@[simp] theorem modStream_tiles : (modStream s i f).tiles = s.tiles := rfl
@[simp] theorem modStream_resvs : (modStream s i f).resvs = s.resvs := rfl
@[simp] theorem modStream_accs : (modStream s i f).accs = s.accs := rfl
@[simp] theorem modStream_carriages : (modStream s i f).carriages = s.carriages := rfl
@[simp] theorem modStream_mfills : (modStream s i f).mfills = s.mfills := rfl
@[simp] theorem modStream_mdrains : (modStream s i f).mdrains = s.mdrains := rfl
@[simp] theorem modStream_copies : (modStream s i f).copies = s.copies := rfl
@[simp] theorem modStream_copyStops : (modStream s i f).copyStops = s.copyStops := rfl
@[simp] theorem modStream_hbm : (modStream s i f).hbm = s.hbm := rfl
@[simp] theorem modStream_parity : (modStream s i f).parity = s.parity := rfl
@[simp] theorem modStream_lineKeys : (modStream s i f).lineKeys = s.lineKeys := rfl
@[simp] theorem modStream_podMem : (modStream s i f).podMem = s.podMem := rfl
@[simp] theorem modStream_hostMem : (modStream s i f).hostMem = s.hostMem := rfl
@[simp] theorem modStream_xs : (modStream s i f).xs = s.xs := rfl
@[simp] theorem modStream_cs : (modStream s i f).cs = s.cs := rfl
@[simp] theorem modStream_ks : (modStream s i f).ks = s.ks := rfl
@[simp] theorem modStream_ob : (modStream s i f).ob = s.ob := rfl
@[simp] theorem modStream_l2 : (modStream s i f).l2 = s.l2 := rfl
@[simp] theorem modStream_dcache : (modStream s i f).dcache = s.dcache := rfl
@[simp] theorem modStream_icache : (modStream s i f).icache = s.icache := rfl
@[simp] theorem modStream_wc : (modStream s i f).wc = s.wc := rfl
@[simp] theorem modStream_tlb : (modStream s i f).tlb = s.tlb := rfl
@[simp] theorem modStream_walks : (modStream s i f).walks = s.walks := rfl
@[simp] theorem modStream_syncRecs : (modStream s i f).syncRecs = s.syncRecs := rfl
@[simp] theorem modStream_syncWaits : (modStream s i f).syncWaits = s.syncWaits := rfl
@[simp] theorem modStream_armings : (modStream s i f).armings = s.armings := rfl
@[simp] theorem modStream_ctrls : (modStream s i f).ctrls = s.ctrls := rfl
@[simp] theorem modStream_parts : (modStream s i f).parts = s.parts := rfl
@[simp] theorem modStream_streams : (modStream s i f).streams = s.streams.map fun x => if x.id == i then f x else x := rfl
@[simp] theorem modStream_tasks : (modStream s i f).tasks = s.tasks := rfl
@[simp] theorem modStream_windows : (modStream s i f).windows = s.windows := rfl
@[simp] theorem modStream_pipes : (modStream s i f).pipes = s.pipes := rfl
@[simp] theorem modStream_images : (modStream s i f).images = s.images := rfl
@[simp] theorem modStream_dies : (modStream s i f).dies = s.dies := rfl
@[simp] theorem modStream_ifaces : (modStream s i f).ifaces = s.ifaces := rfl
@[simp] theorem modStream_ultins : (modStream s i f).ultins = s.ultins := rfl
@[simp] theorem modStream_inboxes : (modStream s i f).inboxes = s.inboxes := rfl
@[simp] theorem modStream_replies : (modStream s i f).replies = s.replies := rfl
@[simp] theorem modStream_ports : (modStream s i f).ports = s.ports := rfl
@[simp] theorem modStream_keySlots : (modStream s i f).keySlots = s.keySlots := rfl
@[simp] theorem modStream_podKeys : (modStream s i f).podKeys = s.podKeys := rfl
@[simp] theorem modStream_podBars : (modStream s i f).podBars = s.podBars := rfl
@[simp] theorem modStream_session : (modStream s i f).session = s.session := rfl
@[simp] theorem modStream_jobKey : (modStream s i f).jobKey = s.jobKey := rfl
@[simp] theorem modStream_flash : (modStream s i f).flash = s.flash := rfl
@[simp] theorem modStream_alarm : (modStream s i f).alarm = s.alarm := rfl
@[simp] theorem modStream_pkg : (modStream s i f).pkg = s.pkg := rfl
@[simp] theorem modStream_pod : (modStream s i f).pod = s.pod := rfl
@[simp] theorem modStream_hostOut : (modStream s i f).hostOut = s.hostOut := rfl
@[simp] theorem modStream_hostErr : (modStream s i f).hostErr = s.hostErr := rfl
@[simp] theorem modStream_podOut : (modStream s i f).podOut = s.podOut := rfl
@[simp] theorem modStream_sent : (modStream s i f).sent = s.sent := rfl
end

/-! ### modTask -/

section
variable (s : State) (i seq : Nat) (f : Task → Task)
@[simp] theorem modTask_cycle : (modTask s i seq f).cycle = s.cycle := rfl
@[simp] theorem modTask_epoch : (modTask s i seq f).epoch = s.epoch := rfl
@[simp] theorem modTask_free : (modTask s i seq f).free = s.free := rfl
@[simp] theorem modTask_uid : (modTask s i seq f).uid = s.uid := rfl
@[simp] theorem modTask_agenda : (modTask s i seq f).agenda = s.agenda := rfl
@[simp] theorem modTask_subj : (modTask s i seq f).subj = s.subj := rfl
@[simp] theorem modTask_turn : (modTask s i seq f).turn = s.turn := rfl
@[simp] theorem modTask_coach : (modTask s i seq f).coach = s.coach := rfl
@[simp] theorem modTask_issued : (modTask s i seq f).issued = s.issued := rfl
@[simp] theorem modTask_power : (modTask s i seq f).power = s.power := rfl
@[simp] theorem modTask_groups : (modTask s i seq f).groups = s.groups := rfl
@[simp] theorem modTask_wgs : (modTask s i seq f).wgs = s.wgs := rfl
@[simp] theorem modTask_gangs : (modTask s i seq f).gangs = s.gangs := rfl
@[simp] theorem modTask_grids : (modTask s i seq f).grids = s.grids := rfl
@[simp] theorem modTask_bars : (modTask s i seq f).bars = s.bars := rfl
@[simp] theorem modTask_barLog : (modTask s i seq f).barLog = s.barLog := rfl
@[simp] theorem modTask_queues : (modTask s i seq f).queues = s.queues := rfl
@[simp] theorem modTask_shadow : (modTask s i seq f).shadow = s.shadow := rfl
@[simp] theorem modTask_banks : (modTask s i seq f).banks = s.banks := rfl
@[simp] theorem modTask_bankPart : (modTask s i seq f).bankPart = s.bankPart := rfl
@[simp] theorem modTask_accPart : (modTask s i seq f).accPart = s.accPart := rfl
@[simp] theorem modTask_bankWrites : (modTask s i seq f).bankWrites = s.bankWrites := rfl
@[simp] theorem modTask_tiles : (modTask s i seq f).tiles = s.tiles := rfl
@[simp] theorem modTask_resvs : (modTask s i seq f).resvs = s.resvs := rfl
@[simp] theorem modTask_accs : (modTask s i seq f).accs = s.accs := rfl
@[simp] theorem modTask_carriages : (modTask s i seq f).carriages = s.carriages := rfl
@[simp] theorem modTask_mfills : (modTask s i seq f).mfills = s.mfills := rfl
@[simp] theorem modTask_mdrains : (modTask s i seq f).mdrains = s.mdrains := rfl
@[simp] theorem modTask_copies : (modTask s i seq f).copies = s.copies := rfl
@[simp] theorem modTask_copyStops : (modTask s i seq f).copyStops = s.copyStops := rfl
@[simp] theorem modTask_hbm : (modTask s i seq f).hbm = s.hbm := rfl
@[simp] theorem modTask_parity : (modTask s i seq f).parity = s.parity := rfl
@[simp] theorem modTask_lineKeys : (modTask s i seq f).lineKeys = s.lineKeys := rfl
@[simp] theorem modTask_podMem : (modTask s i seq f).podMem = s.podMem := rfl
@[simp] theorem modTask_hostMem : (modTask s i seq f).hostMem = s.hostMem := rfl
@[simp] theorem modTask_xs : (modTask s i seq f).xs = s.xs := rfl
@[simp] theorem modTask_cs : (modTask s i seq f).cs = s.cs := rfl
@[simp] theorem modTask_ks : (modTask s i seq f).ks = s.ks := rfl
@[simp] theorem modTask_ob : (modTask s i seq f).ob = s.ob := rfl
@[simp] theorem modTask_l2 : (modTask s i seq f).l2 = s.l2 := rfl
@[simp] theorem modTask_dcache : (modTask s i seq f).dcache = s.dcache := rfl
@[simp] theorem modTask_icache : (modTask s i seq f).icache = s.icache := rfl
@[simp] theorem modTask_wc : (modTask s i seq f).wc = s.wc := rfl
@[simp] theorem modTask_tlb : (modTask s i seq f).tlb = s.tlb := rfl
@[simp] theorem modTask_walks : (modTask s i seq f).walks = s.walks := rfl
@[simp] theorem modTask_syncRecs : (modTask s i seq f).syncRecs = s.syncRecs := rfl
@[simp] theorem modTask_syncWaits : (modTask s i seq f).syncWaits = s.syncWaits := rfl
@[simp] theorem modTask_armings : (modTask s i seq f).armings = s.armings := rfl
@[simp] theorem modTask_ctrls : (modTask s i seq f).ctrls = s.ctrls := rfl
@[simp] theorem modTask_parts : (modTask s i seq f).parts = s.parts := rfl
@[simp] theorem modTask_streams : (modTask s i seq f).streams = s.streams := rfl
@[simp] theorem modTask_tasks : (modTask s i seq f).tasks = s.tasks.map fun t => if t.stream == i && t.seq == seq then f t else t := rfl
@[simp] theorem modTask_windows : (modTask s i seq f).windows = s.windows := rfl
@[simp] theorem modTask_pipes : (modTask s i seq f).pipes = s.pipes := rfl
@[simp] theorem modTask_images : (modTask s i seq f).images = s.images := rfl
@[simp] theorem modTask_dies : (modTask s i seq f).dies = s.dies := rfl
@[simp] theorem modTask_ifaces : (modTask s i seq f).ifaces = s.ifaces := rfl
@[simp] theorem modTask_ultins : (modTask s i seq f).ultins = s.ultins := rfl
@[simp] theorem modTask_inboxes : (modTask s i seq f).inboxes = s.inboxes := rfl
@[simp] theorem modTask_replies : (modTask s i seq f).replies = s.replies := rfl
@[simp] theorem modTask_ports : (modTask s i seq f).ports = s.ports := rfl
@[simp] theorem modTask_keySlots : (modTask s i seq f).keySlots = s.keySlots := rfl
@[simp] theorem modTask_podKeys : (modTask s i seq f).podKeys = s.podKeys := rfl
@[simp] theorem modTask_podBars : (modTask s i seq f).podBars = s.podBars := rfl
@[simp] theorem modTask_session : (modTask s i seq f).session = s.session := rfl
@[simp] theorem modTask_jobKey : (modTask s i seq f).jobKey = s.jobKey := rfl
@[simp] theorem modTask_flash : (modTask s i seq f).flash = s.flash := rfl
@[simp] theorem modTask_alarm : (modTask s i seq f).alarm = s.alarm := rfl
@[simp] theorem modTask_pkg : (modTask s i seq f).pkg = s.pkg := rfl
@[simp] theorem modTask_pod : (modTask s i seq f).pod = s.pod := rfl
@[simp] theorem modTask_hostOut : (modTask s i seq f).hostOut = s.hostOut := rfl
@[simp] theorem modTask_hostErr : (modTask s i seq f).hostErr = s.hostErr := rfl
@[simp] theorem modTask_podOut : (modTask s i seq f).podOut = s.podOut := rfl
@[simp] theorem modTask_sent : (modTask s i seq f).sent = s.sent := rfl
end

/-! ### modPart -/

section
variable (s : State) (i : Nat) (f : Part → Part)
@[simp] theorem modPart_cycle : (modPart s i f).cycle = s.cycle := rfl
@[simp] theorem modPart_epoch : (modPart s i f).epoch = s.epoch := rfl
@[simp] theorem modPart_free : (modPart s i f).free = s.free := rfl
@[simp] theorem modPart_uid : (modPart s i f).uid = s.uid := rfl
@[simp] theorem modPart_agenda : (modPart s i f).agenda = s.agenda := rfl
@[simp] theorem modPart_subj : (modPart s i f).subj = s.subj := rfl
@[simp] theorem modPart_turn : (modPart s i f).turn = s.turn := rfl
@[simp] theorem modPart_coach : (modPart s i f).coach = s.coach := rfl
@[simp] theorem modPart_issued : (modPart s i f).issued = s.issued := rfl
@[simp] theorem modPart_power : (modPart s i f).power = s.power := rfl
@[simp] theorem modPart_groups : (modPart s i f).groups = s.groups := rfl
@[simp] theorem modPart_wgs : (modPart s i f).wgs = s.wgs := rfl
@[simp] theorem modPart_gangs : (modPart s i f).gangs = s.gangs := rfl
@[simp] theorem modPart_grids : (modPart s i f).grids = s.grids := rfl
@[simp] theorem modPart_bars : (modPart s i f).bars = s.bars := rfl
@[simp] theorem modPart_barLog : (modPart s i f).barLog = s.barLog := rfl
@[simp] theorem modPart_queues : (modPart s i f).queues = s.queues := rfl
@[simp] theorem modPart_shadow : (modPart s i f).shadow = s.shadow := rfl
@[simp] theorem modPart_banks : (modPart s i f).banks = s.banks := rfl
@[simp] theorem modPart_bankPart : (modPart s i f).bankPart = s.bankPart := rfl
@[simp] theorem modPart_accPart : (modPart s i f).accPart = s.accPart := rfl
@[simp] theorem modPart_bankWrites : (modPart s i f).bankWrites = s.bankWrites := rfl
@[simp] theorem modPart_tiles : (modPart s i f).tiles = s.tiles := rfl
@[simp] theorem modPart_resvs : (modPart s i f).resvs = s.resvs := rfl
@[simp] theorem modPart_accs : (modPart s i f).accs = s.accs := rfl
@[simp] theorem modPart_carriages : (modPart s i f).carriages = s.carriages := rfl
@[simp] theorem modPart_mfills : (modPart s i f).mfills = s.mfills := rfl
@[simp] theorem modPart_mdrains : (modPart s i f).mdrains = s.mdrains := rfl
@[simp] theorem modPart_copies : (modPart s i f).copies = s.copies := rfl
@[simp] theorem modPart_copyStops : (modPart s i f).copyStops = s.copyStops := rfl
@[simp] theorem modPart_hbm : (modPart s i f).hbm = s.hbm := rfl
@[simp] theorem modPart_parity : (modPart s i f).parity = s.parity := rfl
@[simp] theorem modPart_lineKeys : (modPart s i f).lineKeys = s.lineKeys := rfl
@[simp] theorem modPart_podMem : (modPart s i f).podMem = s.podMem := rfl
@[simp] theorem modPart_hostMem : (modPart s i f).hostMem = s.hostMem := rfl
@[simp] theorem modPart_xs : (modPart s i f).xs = s.xs := rfl
@[simp] theorem modPart_cs : (modPart s i f).cs = s.cs := rfl
@[simp] theorem modPart_ks : (modPart s i f).ks = s.ks := rfl
@[simp] theorem modPart_ob : (modPart s i f).ob = s.ob := rfl
@[simp] theorem modPart_l2 : (modPart s i f).l2 = s.l2 := rfl
@[simp] theorem modPart_dcache : (modPart s i f).dcache = s.dcache := rfl
@[simp] theorem modPart_icache : (modPart s i f).icache = s.icache := rfl
@[simp] theorem modPart_wc : (modPart s i f).wc = s.wc := rfl
@[simp] theorem modPart_tlb : (modPart s i f).tlb = s.tlb := rfl
@[simp] theorem modPart_walks : (modPart s i f).walks = s.walks := rfl
@[simp] theorem modPart_syncRecs : (modPart s i f).syncRecs = s.syncRecs := rfl
@[simp] theorem modPart_syncWaits : (modPart s i f).syncWaits = s.syncWaits := rfl
@[simp] theorem modPart_armings : (modPart s i f).armings = s.armings := rfl
@[simp] theorem modPart_ctrls : (modPart s i f).ctrls = s.ctrls := rfl
@[simp] theorem modPart_parts : (modPart s i f).parts = s.parts.map fun p => if p.id == i then f p else p := rfl
@[simp] theorem modPart_streams : (modPart s i f).streams = s.streams := rfl
@[simp] theorem modPart_tasks : (modPart s i f).tasks = s.tasks := rfl
@[simp] theorem modPart_windows : (modPart s i f).windows = s.windows := rfl
@[simp] theorem modPart_pipes : (modPart s i f).pipes = s.pipes := rfl
@[simp] theorem modPart_images : (modPart s i f).images = s.images := rfl
@[simp] theorem modPart_dies : (modPart s i f).dies = s.dies := rfl
@[simp] theorem modPart_ifaces : (modPart s i f).ifaces = s.ifaces := rfl
@[simp] theorem modPart_ultins : (modPart s i f).ultins = s.ultins := rfl
@[simp] theorem modPart_inboxes : (modPart s i f).inboxes = s.inboxes := rfl
@[simp] theorem modPart_replies : (modPart s i f).replies = s.replies := rfl
@[simp] theorem modPart_ports : (modPart s i f).ports = s.ports := rfl
@[simp] theorem modPart_keySlots : (modPart s i f).keySlots = s.keySlots := rfl
@[simp] theorem modPart_podKeys : (modPart s i f).podKeys = s.podKeys := rfl
@[simp] theorem modPart_podBars : (modPart s i f).podBars = s.podBars := rfl
@[simp] theorem modPart_session : (modPart s i f).session = s.session := rfl
@[simp] theorem modPart_jobKey : (modPart s i f).jobKey = s.jobKey := rfl
@[simp] theorem modPart_flash : (modPart s i f).flash = s.flash := rfl
@[simp] theorem modPart_alarm : (modPart s i f).alarm = s.alarm := rfl
@[simp] theorem modPart_pkg : (modPart s i f).pkg = s.pkg := rfl
@[simp] theorem modPart_pod : (modPart s i f).pod = s.pod := rfl
@[simp] theorem modPart_hostOut : (modPart s i f).hostOut = s.hostOut := rfl
@[simp] theorem modPart_hostErr : (modPart s i f).hostErr = s.hostErr := rfl
@[simp] theorem modPart_podOut : (modPart s i f).podOut = s.podOut := rfl
@[simp] theorem modPart_sent : (modPart s i f).sent = s.sent := rfl
end

/-! ### modDie -/

section
variable (s : State) (d : Nat) (f : Die → Die)
@[simp] theorem modDie_cycle : (modDie s d f).cycle = s.cycle := rfl
@[simp] theorem modDie_epoch : (modDie s d f).epoch = s.epoch := rfl
@[simp] theorem modDie_free : (modDie s d f).free = s.free := rfl
@[simp] theorem modDie_uid : (modDie s d f).uid = s.uid := rfl
@[simp] theorem modDie_agenda : (modDie s d f).agenda = s.agenda := rfl
@[simp] theorem modDie_subj : (modDie s d f).subj = s.subj := rfl
@[simp] theorem modDie_turn : (modDie s d f).turn = s.turn := rfl
@[simp] theorem modDie_coach : (modDie s d f).coach = s.coach := rfl
@[simp] theorem modDie_issued : (modDie s d f).issued = s.issued := rfl
@[simp] theorem modDie_power : (modDie s d f).power = s.power := rfl
@[simp] theorem modDie_groups : (modDie s d f).groups = s.groups := rfl
@[simp] theorem modDie_wgs : (modDie s d f).wgs = s.wgs := rfl
@[simp] theorem modDie_gangs : (modDie s d f).gangs = s.gangs := rfl
@[simp] theorem modDie_grids : (modDie s d f).grids = s.grids := rfl
@[simp] theorem modDie_bars : (modDie s d f).bars = s.bars := rfl
@[simp] theorem modDie_barLog : (modDie s d f).barLog = s.barLog := rfl
@[simp] theorem modDie_queues : (modDie s d f).queues = s.queues := rfl
@[simp] theorem modDie_shadow : (modDie s d f).shadow = s.shadow := rfl
@[simp] theorem modDie_banks : (modDie s d f).banks = s.banks := rfl
@[simp] theorem modDie_bankPart : (modDie s d f).bankPart = s.bankPart := rfl
@[simp] theorem modDie_accPart : (modDie s d f).accPart = s.accPart := rfl
@[simp] theorem modDie_bankWrites : (modDie s d f).bankWrites = s.bankWrites := rfl
@[simp] theorem modDie_tiles : (modDie s d f).tiles = s.tiles := rfl
@[simp] theorem modDie_resvs : (modDie s d f).resvs = s.resvs := rfl
@[simp] theorem modDie_accs : (modDie s d f).accs = s.accs := rfl
@[simp] theorem modDie_carriages : (modDie s d f).carriages = s.carriages := rfl
@[simp] theorem modDie_mfills : (modDie s d f).mfills = s.mfills := rfl
@[simp] theorem modDie_mdrains : (modDie s d f).mdrains = s.mdrains := rfl
@[simp] theorem modDie_copies : (modDie s d f).copies = s.copies := rfl
@[simp] theorem modDie_copyStops : (modDie s d f).copyStops = s.copyStops := rfl
@[simp] theorem modDie_hbm : (modDie s d f).hbm = s.hbm := rfl
@[simp] theorem modDie_parity : (modDie s d f).parity = s.parity := rfl
@[simp] theorem modDie_lineKeys : (modDie s d f).lineKeys = s.lineKeys := rfl
@[simp] theorem modDie_podMem : (modDie s d f).podMem = s.podMem := rfl
@[simp] theorem modDie_hostMem : (modDie s d f).hostMem = s.hostMem := rfl
@[simp] theorem modDie_xs : (modDie s d f).xs = s.xs := rfl
@[simp] theorem modDie_cs : (modDie s d f).cs = s.cs := rfl
@[simp] theorem modDie_ks : (modDie s d f).ks = s.ks := rfl
@[simp] theorem modDie_ob : (modDie s d f).ob = s.ob := rfl
@[simp] theorem modDie_l2 : (modDie s d f).l2 = s.l2 := rfl
@[simp] theorem modDie_dcache : (modDie s d f).dcache = s.dcache := rfl
@[simp] theorem modDie_icache : (modDie s d f).icache = s.icache := rfl
@[simp] theorem modDie_wc : (modDie s d f).wc = s.wc := rfl
@[simp] theorem modDie_tlb : (modDie s d f).tlb = s.tlb := rfl
@[simp] theorem modDie_walks : (modDie s d f).walks = s.walks := rfl
@[simp] theorem modDie_syncRecs : (modDie s d f).syncRecs = s.syncRecs := rfl
@[simp] theorem modDie_syncWaits : (modDie s d f).syncWaits = s.syncWaits := rfl
@[simp] theorem modDie_armings : (modDie s d f).armings = s.armings := rfl
@[simp] theorem modDie_ctrls : (modDie s d f).ctrls = s.ctrls := rfl
@[simp] theorem modDie_parts : (modDie s d f).parts = s.parts := rfl
@[simp] theorem modDie_streams : (modDie s d f).streams = s.streams := rfl
@[simp] theorem modDie_tasks : (modDie s d f).tasks = s.tasks := rfl
@[simp] theorem modDie_windows : (modDie s d f).windows = s.windows := rfl
@[simp] theorem modDie_pipes : (modDie s d f).pipes = s.pipes := rfl
@[simp] theorem modDie_images : (modDie s d f).images = s.images := rfl
@[simp] theorem modDie_dies : (modDie s d f).dies = lmod s.dies d f := rfl
@[simp] theorem modDie_ifaces : (modDie s d f).ifaces = s.ifaces := rfl
@[simp] theorem modDie_ultins : (modDie s d f).ultins = s.ultins := rfl
@[simp] theorem modDie_inboxes : (modDie s d f).inboxes = s.inboxes := rfl
@[simp] theorem modDie_replies : (modDie s d f).replies = s.replies := rfl
@[simp] theorem modDie_ports : (modDie s d f).ports = s.ports := rfl
@[simp] theorem modDie_keySlots : (modDie s d f).keySlots = s.keySlots := rfl
@[simp] theorem modDie_podKeys : (modDie s d f).podKeys = s.podKeys := rfl
@[simp] theorem modDie_podBars : (modDie s d f).podBars = s.podBars := rfl
@[simp] theorem modDie_session : (modDie s d f).session = s.session := rfl
@[simp] theorem modDie_jobKey : (modDie s d f).jobKey = s.jobKey := rfl
@[simp] theorem modDie_flash : (modDie s d f).flash = s.flash := rfl
@[simp] theorem modDie_alarm : (modDie s d f).alarm = s.alarm := rfl
@[simp] theorem modDie_pkg : (modDie s d f).pkg = s.pkg := rfl
@[simp] theorem modDie_pod : (modDie s d f).pod = s.pod := rfl
@[simp] theorem modDie_hostOut : (modDie s d f).hostOut = s.hostOut := rfl
@[simp] theorem modDie_hostErr : (modDie s d f).hostErr = s.hostErr := rfl
@[simp] theorem modDie_podOut : (modDie s d f).podOut = s.podOut := rfl
@[simp] theorem modDie_sent : (modDie s d f).sent = s.sent := rfl
end

/-! ### modIface -/

section
variable (s : State) (vi : Nat) (f : Iface → Iface)
@[simp] theorem modIface_cycle : (modIface s vi f).cycle = s.cycle := rfl
@[simp] theorem modIface_epoch : (modIface s vi f).epoch = s.epoch := rfl
@[simp] theorem modIface_free : (modIface s vi f).free = s.free := rfl
@[simp] theorem modIface_uid : (modIface s vi f).uid = s.uid := rfl
@[simp] theorem modIface_agenda : (modIface s vi f).agenda = s.agenda := rfl
@[simp] theorem modIface_subj : (modIface s vi f).subj = s.subj := rfl
@[simp] theorem modIface_turn : (modIface s vi f).turn = s.turn := rfl
@[simp] theorem modIface_coach : (modIface s vi f).coach = s.coach := rfl
@[simp] theorem modIface_issued : (modIface s vi f).issued = s.issued := rfl
@[simp] theorem modIface_power : (modIface s vi f).power = s.power := rfl
@[simp] theorem modIface_groups : (modIface s vi f).groups = s.groups := rfl
@[simp] theorem modIface_wgs : (modIface s vi f).wgs = s.wgs := rfl
@[simp] theorem modIface_gangs : (modIface s vi f).gangs = s.gangs := rfl
@[simp] theorem modIface_grids : (modIface s vi f).grids = s.grids := rfl
@[simp] theorem modIface_bars : (modIface s vi f).bars = s.bars := rfl
@[simp] theorem modIface_barLog : (modIface s vi f).barLog = s.barLog := rfl
@[simp] theorem modIface_queues : (modIface s vi f).queues = s.queues := rfl
@[simp] theorem modIface_shadow : (modIface s vi f).shadow = s.shadow := rfl
@[simp] theorem modIface_banks : (modIface s vi f).banks = s.banks := rfl
@[simp] theorem modIface_bankPart : (modIface s vi f).bankPart = s.bankPart := rfl
@[simp] theorem modIface_accPart : (modIface s vi f).accPart = s.accPart := rfl
@[simp] theorem modIface_bankWrites : (modIface s vi f).bankWrites = s.bankWrites := rfl
@[simp] theorem modIface_tiles : (modIface s vi f).tiles = s.tiles := rfl
@[simp] theorem modIface_resvs : (modIface s vi f).resvs = s.resvs := rfl
@[simp] theorem modIface_accs : (modIface s vi f).accs = s.accs := rfl
@[simp] theorem modIface_carriages : (modIface s vi f).carriages = s.carriages := rfl
@[simp] theorem modIface_mfills : (modIface s vi f).mfills = s.mfills := rfl
@[simp] theorem modIface_mdrains : (modIface s vi f).mdrains = s.mdrains := rfl
@[simp] theorem modIface_copies : (modIface s vi f).copies = s.copies := rfl
@[simp] theorem modIface_copyStops : (modIface s vi f).copyStops = s.copyStops := rfl
@[simp] theorem modIface_hbm : (modIface s vi f).hbm = s.hbm := rfl
@[simp] theorem modIface_parity : (modIface s vi f).parity = s.parity := rfl
@[simp] theorem modIface_lineKeys : (modIface s vi f).lineKeys = s.lineKeys := rfl
@[simp] theorem modIface_podMem : (modIface s vi f).podMem = s.podMem := rfl
@[simp] theorem modIface_hostMem : (modIface s vi f).hostMem = s.hostMem := rfl
@[simp] theorem modIface_xs : (modIface s vi f).xs = s.xs := rfl
@[simp] theorem modIface_cs : (modIface s vi f).cs = s.cs := rfl
@[simp] theorem modIface_ks : (modIface s vi f).ks = s.ks := rfl
@[simp] theorem modIface_ob : (modIface s vi f).ob = s.ob := rfl
@[simp] theorem modIface_l2 : (modIface s vi f).l2 = s.l2 := rfl
@[simp] theorem modIface_dcache : (modIface s vi f).dcache = s.dcache := rfl
@[simp] theorem modIface_icache : (modIface s vi f).icache = s.icache := rfl
@[simp] theorem modIface_wc : (modIface s vi f).wc = s.wc := rfl
@[simp] theorem modIface_tlb : (modIface s vi f).tlb = s.tlb := rfl
@[simp] theorem modIface_walks : (modIface s vi f).walks = s.walks := rfl
@[simp] theorem modIface_syncRecs : (modIface s vi f).syncRecs = s.syncRecs := rfl
@[simp] theorem modIface_syncWaits : (modIface s vi f).syncWaits = s.syncWaits := rfl
@[simp] theorem modIface_armings : (modIface s vi f).armings = s.armings := rfl
@[simp] theorem modIface_ctrls : (modIface s vi f).ctrls = s.ctrls := rfl
@[simp] theorem modIface_parts : (modIface s vi f).parts = s.parts := rfl
@[simp] theorem modIface_streams : (modIface s vi f).streams = s.streams := rfl
@[simp] theorem modIface_tasks : (modIface s vi f).tasks = s.tasks := rfl
@[simp] theorem modIface_windows : (modIface s vi f).windows = s.windows := rfl
@[simp] theorem modIface_pipes : (modIface s vi f).pipes = s.pipes := rfl
@[simp] theorem modIface_images : (modIface s vi f).images = s.images := rfl
@[simp] theorem modIface_dies : (modIface s vi f).dies = s.dies := rfl
@[simp] theorem modIface_ifaces : (modIface s vi f).ifaces = lmod s.ifaces vi f := rfl
@[simp] theorem modIface_ultins : (modIface s vi f).ultins = s.ultins := rfl
@[simp] theorem modIface_inboxes : (modIface s vi f).inboxes = s.inboxes := rfl
@[simp] theorem modIface_replies : (modIface s vi f).replies = s.replies := rfl
@[simp] theorem modIface_ports : (modIface s vi f).ports = s.ports := rfl
@[simp] theorem modIface_keySlots : (modIface s vi f).keySlots = s.keySlots := rfl
@[simp] theorem modIface_podKeys : (modIface s vi f).podKeys = s.podKeys := rfl
@[simp] theorem modIface_podBars : (modIface s vi f).podBars = s.podBars := rfl
@[simp] theorem modIface_session : (modIface s vi f).session = s.session := rfl
@[simp] theorem modIface_jobKey : (modIface s vi f).jobKey = s.jobKey := rfl
@[simp] theorem modIface_flash : (modIface s vi f).flash = s.flash := rfl
@[simp] theorem modIface_alarm : (modIface s vi f).alarm = s.alarm := rfl
@[simp] theorem modIface_pkg : (modIface s vi f).pkg = s.pkg := rfl
@[simp] theorem modIface_pod : (modIface s vi f).pod = s.pod := rfl
@[simp] theorem modIface_hostOut : (modIface s vi f).hostOut = s.hostOut := rfl
@[simp] theorem modIface_hostErr : (modIface s vi f).hostErr = s.hostErr := rfl
@[simp] theorem modIface_podOut : (modIface s vi f).podOut = s.podOut := rfl
@[simp] theorem modIface_sent : (modIface s vi f).sent = s.sent := rfl
end

/-! ### takeHead -/

section
variable (s : State) (r : Request)
@[simp] theorem takeHead_cycle : (takeHead s r).cycle = s.cycle := rfl
@[simp] theorem takeHead_epoch : (takeHead s r).epoch = s.epoch := rfl
@[simp] theorem takeHead_free : (takeHead s r).free = s.free := rfl
@[simp] theorem takeHead_uid : (takeHead s r).uid = s.uid := rfl
@[simp] theorem takeHead_agenda : (takeHead s r).agenda = s.agenda := rfl
@[simp] theorem takeHead_subj : (takeHead s r).subj = s.subj := rfl
@[simp] theorem takeHead_turn : (takeHead s r).turn = s.turn := rfl
@[simp] theorem takeHead_coach : (takeHead s r).coach = s.coach := rfl
@[simp] theorem takeHead_issued : (takeHead s r).issued = s.issued := rfl
@[simp] theorem takeHead_power : (takeHead s r).power = s.power := rfl
@[simp] theorem takeHead_groups : (takeHead s r).groups = s.groups := rfl
@[simp] theorem takeHead_wgs : (takeHead s r).wgs = s.wgs := rfl
@[simp] theorem takeHead_gangs : (takeHead s r).gangs = s.gangs := rfl
@[simp] theorem takeHead_grids : (takeHead s r).grids = s.grids := rfl
@[simp] theorem takeHead_bars : (takeHead s r).bars = s.bars := rfl
@[simp] theorem takeHead_barLog : (takeHead s r).barLog = s.barLog := rfl
@[simp] theorem takeHead_queues : (takeHead s r).queues = s.queues := rfl
@[simp] theorem takeHead_shadow : (takeHead s r).shadow = s.shadow := rfl
@[simp] theorem takeHead_banks : (takeHead s r).banks = s.banks := rfl
@[simp] theorem takeHead_bankPart : (takeHead s r).bankPart = s.bankPart := rfl
@[simp] theorem takeHead_accPart : (takeHead s r).accPart = s.accPart := rfl
@[simp] theorem takeHead_bankWrites : (takeHead s r).bankWrites = s.bankWrites := rfl
@[simp] theorem takeHead_tiles : (takeHead s r).tiles = s.tiles := rfl
@[simp] theorem takeHead_resvs : (takeHead s r).resvs = s.resvs := rfl
@[simp] theorem takeHead_accs : (takeHead s r).accs = s.accs := rfl
@[simp] theorem takeHead_carriages : (takeHead s r).carriages = s.carriages := rfl
@[simp] theorem takeHead_mfills : (takeHead s r).mfills = s.mfills := rfl
@[simp] theorem takeHead_mdrains : (takeHead s r).mdrains = s.mdrains := rfl
@[simp] theorem takeHead_copies : (takeHead s r).copies = s.copies := rfl
@[simp] theorem takeHead_copyStops : (takeHead s r).copyStops = s.copyStops := rfl
@[simp] theorem takeHead_hbm : (takeHead s r).hbm = s.hbm := rfl
@[simp] theorem takeHead_parity : (takeHead s r).parity = s.parity := rfl
@[simp] theorem takeHead_lineKeys : (takeHead s r).lineKeys = s.lineKeys := rfl
@[simp] theorem takeHead_podMem : (takeHead s r).podMem = s.podMem := rfl
@[simp] theorem takeHead_hostMem : (takeHead s r).hostMem = s.hostMem := rfl
@[simp] theorem takeHead_xs : (takeHead s r).xs = s.xs := rfl
@[simp] theorem takeHead_cs : (takeHead s r).cs = s.cs := rfl
@[simp] theorem takeHead_ks : (takeHead s r).ks = s.ks := rfl
@[simp] theorem takeHead_ob : (takeHead s r).ob = s.ob := rfl
@[simp] theorem takeHead_l2 : (takeHead s r).l2 = s.l2 := rfl
@[simp] theorem takeHead_dcache : (takeHead s r).dcache = s.dcache := rfl
@[simp] theorem takeHead_icache : (takeHead s r).icache = s.icache := rfl
@[simp] theorem takeHead_wc : (takeHead s r).wc = s.wc := rfl
@[simp] theorem takeHead_tlb : (takeHead s r).tlb = s.tlb := rfl
@[simp] theorem takeHead_walks : (takeHead s r).walks = s.walks := rfl
@[simp] theorem takeHead_syncRecs : (takeHead s r).syncRecs = s.syncRecs := rfl
@[simp] theorem takeHead_syncWaits : (takeHead s r).syncWaits = s.syncWaits := rfl
@[simp] theorem takeHead_armings : (takeHead s r).armings = s.armings := rfl
@[simp] theorem takeHead_ctrls : (takeHead s r).ctrls = s.ctrls := rfl
@[simp] theorem takeHead_parts : (takeHead s r).parts = s.parts := rfl
@[simp] theorem takeHead_streams : (takeHead s r).streams = s.streams := rfl
@[simp] theorem takeHead_tasks : (takeHead s r).tasks = s.tasks := rfl
@[simp] theorem takeHead_windows : (takeHead s r).windows = s.windows := rfl
@[simp] theorem takeHead_pipes : (takeHead s r).pipes = s.pipes := rfl
@[simp] theorem takeHead_images : (takeHead s r).images = s.images := rfl
@[simp] theorem takeHead_dies : (takeHead s r).dies = s.dies := rfl
@[simp] theorem takeHead_ifaces : (takeHead s r).ifaces = s.ifaces := rfl
@[simp] theorem takeHead_ultins : (takeHead s r).ultins = s.ultins := rfl
@[simp] theorem takeHead_inboxes : (takeHead s r).inboxes = lmod s.inboxes (memberOf r.msg) fun q => q.drop 1 := rfl
@[simp] theorem takeHead_replies : (takeHead s r).replies = s.replies := rfl
@[simp] theorem takeHead_ports : (takeHead s r).ports = s.ports := rfl
@[simp] theorem takeHead_keySlots : (takeHead s r).keySlots = s.keySlots := rfl
@[simp] theorem takeHead_podKeys : (takeHead s r).podKeys = s.podKeys := rfl
@[simp] theorem takeHead_podBars : (takeHead s r).podBars = s.podBars := rfl
@[simp] theorem takeHead_session : (takeHead s r).session = s.session := rfl
@[simp] theorem takeHead_jobKey : (takeHead s r).jobKey = s.jobKey := rfl
@[simp] theorem takeHead_flash : (takeHead s r).flash = s.flash := rfl
@[simp] theorem takeHead_alarm : (takeHead s r).alarm = s.alarm := rfl
@[simp] theorem takeHead_pkg : (takeHead s r).pkg = s.pkg := rfl
@[simp] theorem takeHead_pod : (takeHead s r).pod = s.pod := rfl
@[simp] theorem takeHead_hostOut : (takeHead s r).hostOut = s.hostOut := rfl
@[simp] theorem takeHead_hostErr : (takeHead s r).hostErr = s.hostErr := rfl
@[simp] theorem takeHead_podOut : (takeHead s r).podOut = s.podOut := rfl
@[simp] theorem takeHead_sent : (takeHead s r).sent = s.sent := rfl
end

/-! ### writeV -/

section
variable (t : Thread) (d : Nat) (w : Word)
@[simp] theorem writeV_live : (writeV t d w).live = t.live := by unfold writeV; split <;> rfl
@[simp] theorem writeV_pc : (writeV t d w).pc = t.pc := by unfold writeV; split <;> rfl
@[simp] theorem writeV_p : (writeV t d w).p = t.p := by unfold writeV; split <;> rfl
@[simp] theorem writeV_x : (writeV t d w).x = t.x := by unfold writeV; split <;> rfl
@[simp] theorem writeV_lp : (writeV t d w).lp = t.lp := by unfold writeV; split <;> rfl
@[simp] theorem writeV_sticky : (writeV t d w).sticky = t.sticky := by unfold writeV; split <;> rfl
@[simp] theorem writeV_seed : (writeV t d w).seed = t.seed := by unfold writeV; split <;> rfl
@[simp] theorem writeV_clockh : (writeV t d w).clockh = t.clockh := by unfold writeV; split <;> rfl
@[simp] theorem writeV_tval : (writeV t d w).tval = t.tval := by unfold writeV; split <;> rfl
@[simp] theorem writeV_cls : (writeV t d w).cls = t.cls := by unfold writeV; split <;> rfl
@[simp] theorem writeV_w : (writeV t d w).w = t.w := by unfold writeV; split <;> rfl
@[simp] theorem writeV_elg : (writeV t d w).elg = t.elg := by unfold writeV; split <;> rfl
@[simp] theorem writeV_ibuf : (writeV t d w).ibuf = t.ibuf := by unfold writeV; split <;> rfl
@[simp] theorem writeV_pend : (writeV t d w).pend = t.pend := by unfold writeV; split <;> rfl
@[simp] theorem writeV_wait : (writeV t d w).wait = t.wait := by unfold writeV; split <;> rfl
@[simp] theorem writeV_stuck : (writeV t d w).stuck = t.stuck := by unfold writeV; split <;> rfl
@[simp] theorem writeV_retry : (writeV t d w).retry = t.retry := by unfold writeV; split <;> rfl
@[simp] theorem writeV_reds : (writeV t d w).reds = t.reds := by unfold writeV; split <;> rfl
end

/-! ### writeP -/

section
variable (t : Thread) (d : Nat) (b : Prd)
@[simp] theorem writeP_live : (writeP t d b).live = t.live := by unfold writeP; split <;> rfl
@[simp] theorem writeP_pc : (writeP t d b).pc = t.pc := by unfold writeP; split <;> rfl
@[simp] theorem writeP_v : (writeP t d b).v = t.v := by unfold writeP; split <;> rfl
@[simp] theorem writeP_x : (writeP t d b).x = t.x := by unfold writeP; split <;> rfl
@[simp] theorem writeP_lp : (writeP t d b).lp = t.lp := by unfold writeP; split <;> rfl
@[simp] theorem writeP_sticky : (writeP t d b).sticky = t.sticky := by unfold writeP; split <;> rfl
@[simp] theorem writeP_seed : (writeP t d b).seed = t.seed := by unfold writeP; split <;> rfl
@[simp] theorem writeP_clockh : (writeP t d b).clockh = t.clockh := by unfold writeP; split <;> rfl
@[simp] theorem writeP_tval : (writeP t d b).tval = t.tval := by unfold writeP; split <;> rfl
@[simp] theorem writeP_cls : (writeP t d b).cls = t.cls := by unfold writeP; split <;> rfl
@[simp] theorem writeP_w : (writeP t d b).w = t.w := by unfold writeP; split <;> rfl
@[simp] theorem writeP_elg : (writeP t d b).elg = t.elg := by unfold writeP; split <;> rfl
@[simp] theorem writeP_ibuf : (writeP t d b).ibuf = t.ibuf := by unfold writeP; split <;> rfl
@[simp] theorem writeP_pend : (writeP t d b).pend = t.pend := by unfold writeP; split <;> rfl
@[simp] theorem writeP_wait : (writeP t d b).wait = t.wait := by unfold writeP; split <;> rfl
@[simp] theorem writeP_stuck : (writeP t d b).stuck = t.stuck := by unfold writeP; split <;> rfl
@[simp] theorem writeP_retry : (writeP t d b).retry = t.retry := by unfold writeP; split <;> rfl
@[simp] theorem writeP_reds : (writeP t d b).reds = t.reds := by unfold writeP; split <;> rfl
end

/-! ### writeX -/

section
variable (t : Thread) (d : Nat) (b : Byte)
@[simp] theorem writeX_live : (writeX t d b).live = t.live := rfl
@[simp] theorem writeX_pc : (writeX t d b).pc = t.pc := rfl
@[simp] theorem writeX_v : (writeX t d b).v = t.v := rfl
@[simp] theorem writeX_p : (writeX t d b).p = t.p := rfl
@[simp] theorem writeX_lp : (writeX t d b).lp = t.lp := rfl
@[simp] theorem writeX_sticky : (writeX t d b).sticky = t.sticky := rfl
@[simp] theorem writeX_seed : (writeX t d b).seed = t.seed := rfl
@[simp] theorem writeX_clockh : (writeX t d b).clockh = t.clockh := rfl
@[simp] theorem writeX_tval : (writeX t d b).tval = t.tval := rfl
@[simp] theorem writeX_cls : (writeX t d b).cls = t.cls := rfl
@[simp] theorem writeX_w : (writeX t d b).w = t.w := rfl
@[simp] theorem writeX_elg : (writeX t d b).elg = t.elg := rfl
@[simp] theorem writeX_ibuf : (writeX t d b).ibuf = t.ibuf := rfl
@[simp] theorem writeX_pend : (writeX t d b).pend = t.pend := rfl
@[simp] theorem writeX_wait : (writeX t d b).wait = t.wait := rfl
@[simp] theorem writeX_stuck : (writeX t d b).stuck = t.stuck := rfl
@[simp] theorem writeX_retry : (writeX t d b).retry = t.retry := rfl
@[simp] theorem writeX_reds : (writeX t d b).reds = t.reds := rfl
end

/-! ### pending -/

section
variable (src : PendSrc) (v : AList Word) (p : AList Prd) (x : AList Byte) (c : Nat) (t : Thread)
@[simp] theorem pending_pend : (pending src v p x c t).pend = t.pend ++ [⟨src, v, p, x, c⟩] := rfl
@[simp] theorem pending_live : (pending src v p x c t).live = t.live := rfl
@[simp] theorem pending_pc : (pending src v p x c t).pc = t.pc := rfl
@[simp] theorem pending_v : (pending src v p x c t).v = t.v := rfl
@[simp] theorem pending_p : (pending src v p x c t).p = t.p := rfl
@[simp] theorem pending_x : (pending src v p x c t).x = t.x := rfl
@[simp] theorem pending_lp : (pending src v p x c t).lp = t.lp := rfl
@[simp] theorem pending_sticky : (pending src v p x c t).sticky = t.sticky := rfl
@[simp] theorem pending_seed : (pending src v p x c t).seed = t.seed := rfl
@[simp] theorem pending_clockh : (pending src v p x c t).clockh = t.clockh := rfl
@[simp] theorem pending_tval : (pending src v p x c t).tval = t.tval := rfl
@[simp] theorem pending_cls : (pending src v p x c t).cls = t.cls := rfl
@[simp] theorem pending_w : (pending src v p x c t).w = t.w := rfl
@[simp] theorem pending_elg : (pending src v p x c t).elg = t.elg := rfl
@[simp] theorem pending_ibuf : (pending src v p x c t).ibuf = t.ibuf := rfl
@[simp] theorem pending_run : (pending src v p x c t).run = t.run := rfl
@[simp] theorem pending_wait : (pending src v p x c t).wait = t.wait := rfl
@[simp] theorem pending_stuck : (pending src v p x c t).stuck = t.stuck := rfl
@[simp] theorem pending_retry : (pending src v p x c t).retry = t.retry := rfl
@[simp] theorem pending_reds : (pending src v p x c t).reds = t.reds := rfl
end

end Sys2Proof.Machine
end

