-- ==== Sys2Proof/Tests/Slice0.lean ====
section
/-! SUPPORT. Tests: ill-formed terms, words written out from the manual's encodings, and for every statement with
hypotheses a state and operands that meet them, with what the manual gives there. -/

namespace Sys2Proof.Tests

set_option Elab.async false

open Sys2Proof Sys2Proof.Machine

/-! ### Helpers -/

/-- The boot group with its lane at a word, changed. -/
def bench (F : Thread → Thread) : State := modT (bootState State.reset 0) 0 0 F

/-- Registers set to words with their own residues. -/
def regs (l : List (Nat × W32)) (t : Thread) : Thread := { t with v := l.foldl (fun v x => v.set x.1 (gen x.2)) t.v }

def with_ (l : List (Nat × W32)) : State := bench (regs l)

def laneOf (s : State) (l : Nat) : Thread := (getT s 0 l).getD (Thread.initial 0 0 0)
def lane (s : State) : Thread := laneOf s 0
def groupOf (s : State) : Group := (getG s 0).getD (bootGroup 0)

/-- A word of R75: the marker set, guard p7. -/
def word (ty mode sel xm : Nat) (d a b c : Byte) : FullWord :=
  ⟨true, 7, d, a, b, c, BitVec.ofNat 16 (ty * 2 ^ 11 + mode * 2 ^ 8 + sel * 2 ^ 6 + xm)⟩

def plain (ty : Nat) (d a b c : Byte) : FullWord := word ty 0 0 0 d a b c

/-- Whether an outcome is a next state that meets a test. -/
def ends (o : Host.Outcome State Fault Refusal) (p : State → Bool) : Bool :=
  match o with
  | .next s => p s
  | _ => false

/-- Whether an outcome is a given next state. -/
def goes (o : Host.Outcome State Fault Refusal) (x : State) : Bool := ends o fun y => decide (y = x)

theorem goes_next {o : Host.Outcome State Fault Refusal} {x : State} (h : goes o x = true) : o = .next x := by
  cases o with
  | next y => exact congrArg _ (of_decide_eq_true h)
  | fault _ => exact absurd h (by simp [goes, ends])
  | refused _ => exact absurd h (by simp [goes, ends])

/-- A state with a handler at 0x4000. -/
def handling (s : State) : State := modGrid s 0 fun k => { k with kd := { k.kd with tvec := 0x4000 } }

/-- The cause that a word records. -/
def causeOf (o : Host.Outcome State Fault Refusal) : Option W32 :=
  match o with
  | .next y => some (groupOf y).cause
  | _ => none

/-- A lane at a word that names its registers within the bound, with its operands. -/
abbrev Ready (s : State) (f : FullWord) (a b : W32) : Prop :=
  AtWord s 0 0 (lane s) f.pred f.s ∧ Calm s 0 ∧ Within s 0 f.d ∧ Within s 0 f.a ∧ Within s 0 f.b ∧ Holds (lane s) f.a a ∧
    Holds (lane s) f.b b

abbrev Ready3 (s : State) (f : FullWord) (a b c : W32) : Prop :=
  Ready s f a b ∧ Within s 0 f.c ∧ Holds (lane s) f.c c

/-- The state with one register of the lane written by the word. -/
def wrote (s : State) (d : Byte) (v : W32) : State := did s 0 0 true (setV d v)

/-- Whether reading an operand gives words. -/
def gives (r : OpRes) (s : State) (ws : List Word) : Bool :=
  match r with
  | .words x l => decide (x = s) && l == ws
  | _ => false

/-- Whether a check answers a list. -/
def answers (r : Except Trap (List Nat)) (l : List Nat) : Bool :=
  match r with
  | .ok x => x == l
  | .error _ => false

/-! ### Arithmetic -/

/-- 7 + 0xFFFFFFFE wraps (R102); the quotient is exact (R110). -/
theorem witness_UnsignedArithmetic :
    let s := with_ [(1, 7), (2, 0xFFFFFFFE)]
    let f := plain 0x08 4 1 2 0
    Ready s f 7 0xFFFFFFFE ∧ Plain f 0x08 0 ∧ f.c = 0 ∧ (0xFFFFFFFE : W32) ≠ 0 ∧
      goes (exec (.add f) s) (wrote s 4 5) = true ∧ goes (exec (.rem f) s) (wrote s 4 7) = true := by
  intros; (repeat' apply And.intro) <;> decide +kernel +revert

/-- −7 / 2 is −3 with the remainder −1 (R110); the most negative word negates to itself (R105). -/
theorem witness_SignedArithmetic :
    let s := with_ [(1, 0xFFFFFFF9), (2, 2)]
    let f := plain 0x04 4 1 2 0
    let u := with_ [(1, 0x80000000)]
    let h := plain 0x04 4 1 0 0
    Ready s f 0xFFFFFFF9 2 ∧ Plain f 0x04 0 ∧ f.c = 0 ∧ (2 : W32) ≠ 0 ∧
      goes (exec (.div f) s) (wrote s 4 0xFFFFFFFD) = true ∧ goes (exec (.rem f) s) (wrote s 4 0xFFFFFFFF) = true ∧
      Ready u h 0x80000000 0 ∧ Plain h 0x04 0 ∧ h.b = 0 ∧ goes (exec (.neg h) u) (wrote u 4 0x80000000) = true := by
  intros; (repeat' apply And.intro) <;> decide +kernel +revert

/-- R105 and R102 at the limits. -/
theorem witness_SaturatingAndPacked :
    let u := with_ [(1, 0x80000000)]
    let h := word 0x04 0 0 1 4 1 0 0
    let s := with_ [(1, 0xFFFF0001), (2, 0x0001FFFF)]
    let f := plain 0x0B 4 1 2 0
    Ready u h 0x80000000 0 ∧ Plain h 0x04 1 ∧ h.b = 0 ∧
      goes (exec (.neg h) u) (did u 0 0 true fun t => flagged flagSAT (setV 4 0x7FFFFFFF t)) = true ∧
      Ready s f 0xFFFF0001 0x0001FFFF ∧ Plain f 0x0B 0 ∧ goes (exec (.add f) s) (wrote s 4 0) = true := by
  intros; (repeat' apply And.intro) <;> decide +kernel +revert

/-- R106 to R109: a product whose high word v255 drops, an odd D, a dot product that passes the limit (R108). -/
theorem witness_MultiOperandArithmetic :
    let s := with_ [(1, 0x10000), (2, 0x10001), (3, 5)]
    let f := plain 0x08 4 1 2 3
    let h := plain 0x08 4 1 2 0
    let u := with_ [(1, 0x7FFF7FFF), (2, 0x7FFF7FFF), (3, 0x7FFFFFFF)]
    let k := plain 0x0A 4 1 2 3
    Ready3 s f 0x10000 0x10001 5 ∧ Plain f 0x08 0 ∧ goes (exec (.mad f) s) (wrote s 4 0x10005) = true ∧
      Ready s h 0x10000 0x10001 ∧ Plain h 0x08 0 ∧ h.c = 0 ∧ h.d.toNat % 2 = 0 ∧ h.d.toNat + 1 < nreqOf s 0 ∧
      goes (exec (.mulw h) s) (did s 0 0 true (setPair 4 0x100010000)) = true ∧
      254 < nreqOf s 0 ∧ goes (exec (.mulw (plain 0x08 254 1 2 0)) s) (wrote s 254 0x10000) = true ∧
      causeOf (exec (.mulw (plain 0x08 5 1 2 0)) (handling s)) = some (BitVec.ofNat 32 (causeIllegalOperand + 5 * 256)) ∧
      Ready3 u k 0x7FFF7FFF 0x7FFF7FFF 0x7FFFFFFF ∧ Plain k 0x0A 0 ∧
      goes (exec (.dot2s k) u) (did u 0 0 true fun t => flagged flagSAT (setV 4 0x7FFFFFFF t)) = true := by
  intros; (repeat' apply And.intro) <;> decide +kernel +revert

/-- R103: the carry of a full sum, in p1 and in p7, whose write is dropped. -/
theorem witness_CarryChain :
    let s := bench fun t => regs [(1, 0xFFFFFFFF), (2, 0)] { t with p := t.p.set 1 ⟨true, false⟩ }
    let f := word 0x08 0 0 1 4 1 2 0
    let h := word 0x08 0 0 7 4 1 2 0
    Ready s f 0xFFFFFFFF 0 ∧ Plain f 0x08 1 ∧ f.c = 0 ∧ readP (lane s) 1 = ⟨true, false⟩ ∧
      goes (exec (.addc f) s) (did s 0 0 true fun t => setP 1 true (setV 4 0 t)) = true ∧
      Plain h 0x08 7 ∧ readP (lane s) 7 = ⟨true, false⟩ ∧ goes (exec (.addc h) s) (wrote s 4 0) = true := by
  intros; (repeat' apply And.intro) <;> decide +kernel +revert

/-- R102: a carry between the words of a pair. -/
theorem witness_PairArithmetic :
    let s := with_ [(2, 0xFFFFFFFF), (4, 1)]
    let f := plain 0x09 6 2 4 0
    AtWord s 0 0 (lane s) f.pred f.s ∧ Calm s 0 ∧ Plain f 0x09 0 ∧ f.c = 0 ∧ f.d.toNat % 2 = 0 ∧ f.a.toNat % 2 = 0 ∧
      f.b.toNat % 2 = 0 ∧ f.d.toNat + 1 < nreqOf s 0 ∧ f.a.toNat + 1 < nreqOf s 0 ∧ f.b.toNat + 1 < nreqOf s 0 ∧
      HoldsPair (lane s) f.a 0xFFFFFFFF ∧ HoldsPair (lane s) f.b 1 ∧
      goes (exec (.add f) s) (did s 0 0 true (setPair 6 0x100000000)) = true := by
  intros; (repeat' apply And.intro) <;> decide +kernel +revert

/-- R111 to R115: a majority function by lop3 (LUT 0xE8: XM 0x28, C[7:6] 3), and shifts at and beyond the width. -/
theorem witness_BitwiseResults :
    let s := with_ [(1, 0x0000FFFF), (2, 0x00FF00FF), (3, 0x0F0F0F0F)]
    let f := word 0x00 0 0 0x28 4 1 2 0xC3
    let u := with_ [(1, 0x80000001), (2, 32)]
    let h := plain 0x00 4 1 2 0
    let k := plain 0x04 4 1 2 0
    Ready s f 0x0000FFFF 0x00FF00FF ∧ Plain f 0x00 0x28 ∧ f.c.toNat % 64 < nreqOf s 0 ∧
      readV (lane s) (f.c.toNat % 64) = gen 0x0F0F0F0F ∧ goes (exec (.lop3 f) s) (wrote s 4 0x000F0FFF) = true ∧
      Ready u h 0x80000001 32 ∧ Plain h 0x00 0 ∧ h.c = 0 ∧ goes (exec (.shl h) u) (wrote u 4 0) = true ∧
      goes (exec (.rot h) u) (wrote u 4 0x80000001) = true ∧
      goes (exec (.popc (plain 0x00 4 1 0 0)) u) (wrote u 4 2) = true ∧
      Ready u k 0x80000001 32 ∧ Plain k 0x04 0 ∧ goes (exec (.sar k) u) (wrote u 4 0xFFFFFFFF) = true := by
  intros; (repeat' apply And.intro) <;> decide +kernel +revert

/-- R113 to R118. -/
theorem witness_FieldResults :
    let s := with_ [(1, 0x12345678), (2, 0xABCD), (3, 0x0808)]
    let f := plain 0x00 4 1 2 3
    let u := with_ [(1, 0x12345678), (2, 0x1004)]
    let h := plain 0x08 4 1 2 0
    let v := with_ [(1, 0), (2, 0x11223344), (3, 0x00010203)]
    let x := with_ [(1, 0x00000080), (2, 0x0000FF01), (3, 0x19100C00)]
    Ready3 s f 0x12345678 0xABCD 0x0808 ∧ Plain f 0x00 0 ∧ goes (exec (.bins f) s) (wrote s 4 0x1234CD78) = true ∧
      goes (exec (.shf (word 0x00 0 0 1 4 1 2 3)) s) (wrote s 4 0) = true ∧
      Ready u h 0x12345678 0x1004 ∧ Plain h 0x08 0 ∧ h.c = 0 ∧ goes (exec (.bext h) u) (wrote u 4 0x4567) = true ∧
      Ready3 v f 0 0x11223344 0x00010203 ∧ goes (exec (.perm f) v) (wrote v 4 0x44332211) = true ∧
      Ready3 x f 0x00000080 0x0000FF01 0x19100C00 ∧ goes (exec (.perm f) x) (wrote x 4 0xFF00FF01) = true := by
  intros; (repeat' apply And.intro) <;> decide +kernel +revert

/-- R119 to R122. -/
theorem witness_MoveResults :
    let s := bench fun t => regs [(1, 0xFFFFFFFF), (2, 1)] { t with p := t.p.set 1 ⟨false, false⟩ }
    let f := word 0x04 0 0 2 2 1 2 0
    let h := plain 0x00 4 1 2 1
    let k := word 0x00 0 0 1 3 1 0 0
    Ready s f 0xFFFFFFFF 1 ∧ Plain f 0x04 2 ∧ f.c = 0 ∧ f.d.toNat < 8 ∧
      goes (exec (.setc f) s) (did s 0 0 true (setP 2 true)) = true ∧
      Ready s h 0xFFFFFFFF 1 ∧ Plain h 0x00 0 ∧ h.c.toNat < 8 ∧ readP (lane s) h.c.toNat = ⟨false, false⟩ ∧
      goes (exec (.sel h) s) (wrote s 4 1) = true ∧
      Plain k 0x00 1 ∧ k.b = 0 ∧ k.c = 0 ∧ k.d.toNat < 4 ∧
      goes (exec (.mov k) s) (did s 0 0 true fun t => writeX t 3 0xFF) = true ∧
      goes (exec (.pset k) s) (did s 0 0 true (setP 3 true)) = true := by
  intros; (repeat' apply And.intro) <;> decide +kernel +revert

/-- R18: poison of a predicate passes on. -/
theorem witness_PredicateResults :
    let s := bench fun t => { t with p := (t.p.set 1 ⟨true, false⟩).set 2 ⟨false, true⟩ }
    let f := word 0x00 0 0 1 3 1 2 0
    AtWord s 0 0 (lane s) f.pred f.s ∧ Calm s 0 ∧ Plain f 0x00 (true.toNat + 2 * false.toNat) ∧ f.c = 0 ∧ f.d.toNat < 8 ∧
      f.a.toNat < 8 ∧ f.b.toNat < 8 ∧ readP (lane s) 1 = ⟨true, false⟩ ∧ readP (lane s) 2 = ⟨false, true⟩ ∧
      goes (exec (.por f) s) (did s 0 0 true fun t => writeP t 3 ⟨false, true⟩) = true := by
  intros; (repeat' apply And.intro) <;> decide +kernel +revert

/-- R18, R129: a poisoned operand gives a poisoned sum, in the sixteenth word of a run too (R71). -/
theorem witness_LaneArithmetic :
    let s := bench fun t => { t with v := ((regs [(1, 3)] t).v).set 2 ⟨5, 0xF⟩ }
    let u := modT s 0 0 fun t => { t with run := { t.run with len := 15 } }
    let f := plain 0x08 4 1 2 0
    let o := aluAdd (intTy 0x08) [gen 3] [⟨5, 0xF⟩]
    (r75Op (.add f)).map (·.f) = some f ∧ AtWord s 0 0 (lane s) f.pred f.s ∧ Calm s 0 ∧
      r75Pre (rowDAB typesI 0 f) f (taken s) 0 0 = none ∧ omodeOf f ≠ 4 ∧
      answers (destRegs (rowDAB typesI 0 f) f (nreqOf s 0) (lane s)) [4] = true ∧
      gives (readOperand (rowDAB typesI 0 f) f (taken s) 0 0 (lane s) 0) (taken s) [gen 3] = true ∧
      gives (readOperand (rowDAB typesI 0 f) f (taken s) 0 0 (lane s) 1) (taken s) [⟨5, 0xF⟩] = true ∧
      gives (readOperand (rowDAB typesI 0 f) f (taken s) 0 0 (lane s) 2) (taken s) [] = true ∧
      o.trap.isNone = true ∧ settleAll true o.words = some [⟨8, 0xF⟩] ∧
      ends (exec (.add f) s) (fun y => readV (lane y) 4 == ⟨8, 0xF⟩) = true ∧
      (lane u).run.len = 15 ∧ AtWord u 0 0 (lane u) f.pred f.s ∧
      ends (exec (.add f) u) (fun y => readV (lane y) 4 == ⟨8, 0xF⟩ && (lane y).run.len == 0) = true := by
  intros; (repeat' apply And.intro) <;> decide +kernel +revert

/-- R77 to R80. -/
theorem witness_OperandModes :
    let s := bench fun t => regs [(1, 3), (2, 0x30000000), (5, 0x77)] { t with x := t.x.set 1 7 }
    let ind := word 0x00 1 0 0 4 0x7E 0 0
    let cb := word 0x00 2 0 0 4 1 0 0x20
    let nib := word 0x00 2 0 0 4 2 0 0x2F
    let uni := word 0x00 5 0 0 4 31 0 0
    let imm := word 0x00 6 0 0 4 0xFE 0 0
    let u := setEntries s 0 2 [(3, halves 0xABCD)]
    let w := modWg s 0 fun W => { W with g := W.g.set 31 (gen 0x99) }
    AtWord s 0 0 (lane s) 7 true ∧ Calm s 0 ∧ Within s 0 4 ∧
      Moded ind 0x00 1 0 0 ∧ (5 : Int) = (readX (lane s) (ind.a.toNat / 64)).toNat + (ind.a.setWidth 6).toInt ∧
      readV (lane s) 5 = gen 0x77 ∧ goes (exec (.mov ind) s) (wrote s 4 0x77) = true ∧
      Moded cb 0x00 2 0 0 ∧ ownsBank u 0 (cb.c.toNat / 16) = true ∧ bankEntry u (coreOf u 0) 2 3 = halves 0xABCD ∧
      entryTrap (halves 0xABCD) = none ∧ (cb.c.getLsbD 2 && !cb.c.getLsbD 3) = false ∧
      goes (exec (.mov cb) u) (wrote u 4 0xABCD) = true ∧
      Moded nib 0x00 2 0 0 ∧ (nib.c.getLsbD 2 && !nib.c.getLsbD 3) = false ∧ (0x30000000 : Nat) / 16 ^ 7 % 16 = 3 ∧
      goes (exec (.mov nib) u) (wrote u 4 0xABCD) = true ∧
      Moded uni 0x00 5 0 0 ∧ ((wgOf w 0).map fun W => W.g.getD 31 .zero) = some (gen 0x99) ∧
      goes (exec (.mov uni) w) (wrote w 4 0x99) = true ∧
      Moded imm 0x00 6 0 0 ∧ goes (exec (.mov imm) s) (wrote s 4 0xFFFFFFFE) = true := by
  intros; (repeat' apply And.intro) <;> decide +kernel +revert

/-- R67, R123. -/
theorem witness_LongImmediates :
    let s := with_ [(1, 2)]
    let w : LongWord := ⟨true, 7, 4, 1, 0xFFFFFFFF⟩
    let z : LongWord := ⟨true, 7, 4, 0, 0xFFFFFFFF⟩
    AtWord s 0 0 (lane s) w.pred w.s ∧ Calm s 0 ∧ w.pred ≠ 0xF ∧ Within s 0 w.d ∧ Within s 0 w.a ∧ Holds (lane s) w.a 2 ∧
      goes (exec (.addLong w) s) (wrote s 4 1) = true ∧ goes (exec (.movi z) s) (wrote s 4 0xFFFFFFFF) = true := by
  intros; (repeat' apply And.intro) <;> decide +kernel +revert

/-- R83, R84: slot Y reads v4 as it stood before slot X wrote it; a store in slot X, and one in slot Y. -/
theorem witness_PairedWords :
    let s := with_ [(1, 16), (2, 7), (4, 8)]
    let p : PairWord := ⟨true, ⟨4, 1, 2⟩, .add, ⟨5, 4, 2⟩⟩
    let q : PairWord := ⟨true, ⟨2, 1, 3⟩, .mov, ⟨5, 4, 0⟩⟩
    let r : PairWord := ⟨true, ⟨5, 4, 2⟩, .stCs, ⟨2, 1, 3⟩⟩
    AtWord s 0 0 (lane s) 7 true ∧ Calm s 0 ∧ pairPre .sub p (taken s) 0 0 = none ∧ Holds (lane s) 1 16 ∧
      slotB (lane s) .sub p.x = gen 7 ∧ slotValue .sub 16 7 = some 9 ∧ Holds (lane s) 4 8 ∧
      slotB (lane s) .add p.y = gen 7 ∧ slotValue .add 8 7 = some 15 ∧
      goes (exec (.pairedSub p) s) (did s 0 0 true fun t => setV 5 15 (setV 4 9 t)) = true ∧
      pairPre .stCs q (taken s) 0 0 = none ∧ 28 + 4 ≤ localSize s 0 1 ∧ readV (lane s) 2 = gen 7 ∧
      goes (exec (.pairedStCs q) s)
        (past (modT (localPut (taken s) 0 0 1 (localAt s 0 1 28) (gen 7)) 0 0 (setV 5 8)) 0 0 true) = true ∧
      pairPre .add r (taken s) 0 0 = none ∧
      goes (exec (.pairedAdd r) s)
        (past (localPut (modT (taken s) 0 0 (setV 5 15)) 0 0 1 (localAt s 0 1 28) (gen 7)) 0 0 true) = true := by
  intros; (repeat' apply And.intro) <;> decide +kernel +revert

/-! ### Loads, stores, atomics -/

/-- A load or store word: the space and MOD[7:0]. -/
def mem (space low : Nat) (d a b c : Byte) : FullWord := ⟨true, 7, d, a, b, c, BitVec.ofNat 16 (space * 2 ^ 8 + low)⟩

/-- v1 is 16, v2 is 7; 0x1234 stands in the scratchpad and 0x77 in `.lp`, both at byte 28. -/
def memBench : State :=
  let s := bench fun t => regs [(1, 16), (2, 7), (3, 0x1234), (6, 3)] { t with lp := t.lp.set 7 (gen 0x77) }
  { s with cs := writeWord s.cs 28 (gen 0x1234) }

/-- The word at byte 28 of `.cs`, by ld, ldx and lda, and that of `.lp`; byte 124 is the last word of `.lp`. -/
theorem witness_LocalLoads :
    let s := memBench
    let f := mem 1 0 4 1 0 3
    let x := mem 1 2 4 1 6 0
    let a := mem 1 1 4 1 0 3
    let e := mem 0 0 4 1 0 27
    AtWord s 0 0 (lane s) f.pred f.s ∧ Calm s 0 ∧ spaceOf f = 1 ∧ tyOf f = 0 ∧ vecOf f = 0 ∧ ubOf f = false ∧
      Holds (lane s) f.a 16 ∧ 28 + 4 ≤ localSize s 0 1 ∧ localWord s 0 (lane s) 1 28 = gen 0x1234 ∧
      mismatch (gen 0x1234) = false ∧ memPre false false f s 0 0 = none ∧ (28 : Int) = 16 + 4 * f.c.toInt ∧
      goes (exec (.ld f) s) (did s 0 0 true (late s [(4, gen 0x1234)] [])) = true ∧
      memPre false true x s 0 0 = none ∧ Holds (lane s) x.b 3 ∧ (28 : Int) = 16 + 4 * x.c.toInt + 3 * 2 ^ scOf x ∧
      goes (exec (.ldx x) s) (did s 0 0 true (late s [(4, gen 0x1234)] [])) = true ∧
      memPre true false a s 0 0 = none ∧ scOf a = 1 ∧
      goes (exec (.lda a) s) (past (acquireAt (modT (taken s) 0 0 (late s [(4, gen 0x1234)] [])) 0 1) 0 0 true) = true ∧
      124 + 4 ≤ localSize s 0 0 ∧ (124 : Int) = 16 + 4 * e.c.toInt ∧
      goes (exec (.ld e) s) (did s 0 0 true (late s [(4, .zero)] [])) = true := by
  intros; (repeat' apply And.intro) <;> decide +kernel +revert

theorem witness_LocalStores :
    let s := memBench
    let f := mem 1 0 2 1 0 3
    let r := mem 1 1 2 1 0 3
    AtWord s 0 0 (lane s) f.pred f.s ∧ spaceOf f = 1 ∧ tyOf f = 0 ∧ vecOf f = 0 ∧ ubOf f = false ∧ Holds (lane s) f.a 16 ∧
      (28 : Int) = 16 + 4 * f.c.toInt ∧ 28 + 4 ≤ localSize s 0 1 ∧ readV (lane s) f.d.toNat = gen 7 ∧
      memPre false false f s 0 0 = none ∧ memPre true false r s 0 0 = none ∧
      goes (exec (.st f) s) (past (localPut (taken s) 0 0 1 28 (gen 7)) 0 0 true) = true ∧
      goes (exec (.stl r) s) (past (localPut (releaseAt (taken s) 0 1) 0 0 1 28 (gen 7)) 0 0 true) = true := by
  intros; (repeat' apply And.intro) <;> decide +kernel +revert

/-- The stored word is read back, and the one before it is as it was. -/
theorem witness_ScratchStoreFrame :
    let s := memBench
    let f := mem 1 0 2 1 0 4
    AtWord s 0 0 (lane s) f.pred f.s ∧ spaceOf f = 1 ∧ Holds (lane s) f.a 16 ∧ (32 : Int) = 16 + 4 * f.c.toInt ∧
      32 + 4 ≤ scratchOf s 0 ∧ readV (lane s) f.d.toNat = gen 7 ∧ memPre false false f s 0 0 = none ∧
      Memory.allWf s = true ∧
      ends (exec (.st f) s) (fun y => readWord y.cs 32 == gen 7 && readWord y.cs 28 == gen 0x1234 &&
        decide ({ y with cs := s.cs, groups := s.groups, coach := s.coach } = s) && (lane y).pc == 0x1008) = true := by
  intros; (repeat' apply And.intro) <;> decide +kernel +revert

/-- Beyond the region and below it (R154), and a misaligned word, the last of them at byte 127 of 128. -/
theorem witness_AddressTraps :
    let s := memBench
    let hi := mem 0 0 4 1 0 28
    let lo := mem 0 0 4 1 0 0xFB
    let odd := mem 0 0 4 2 0 0
    let end_ := mem 0 0 4 2 0 30
    AtWord s 0 0 (lane s) 7 true ∧ memPre false false hi s 0 0 = none ∧ (128 : Int) = 16 + 4 * hi.c.toInt ∧
      (localSize s 0 0 : Int) < 128 + 4 ∧
      goes (exec (.ld hi) s) (trapped s 0 0 0x1000 (trapAt causeProtection 0 128) (ending true (dead [4]))) = true ∧
      memPre false false lo s 0 0 = none ∧ (-4 : Int) = 16 + 4 * lo.c.toInt ∧
      goes (exec (.st lo) s) (trapped s 0 0 0x1000 (trapAt causeProtection 0 (BitVec.ofInt 64 (-4))) (ending true .none)) = true ∧
      memPre false false odd s 0 0 = none ∧ Holds (lane s) odd.a 7 ∧
      goes (exec (.ld odd) s) (trapped s 0 0 0x1000 (trapAt causeMisaligned 0 7) (ending true (dead [4]))) = true ∧
      memPre false false end_ s 0 0 = none ∧ (127 : Int) = 7 + 4 * end_.c.toInt ∧ localSize s 0 0 = 128 ∧
      goes (exec (.ld end_) s) (trapped s 0 0 0x1000 (trapAt causeMisaligned 0 127) (ending true (dead [4]))) = true := by
  intros; (repeat' apply And.intro) <;> decide +kernel +revert

/-- 0x1234 at byte 28 of `.cs`: an addition, a maximum without result, an exchange when equal (R160 to R163). -/
theorem witness_Atomics :
    let s := modT memBench 0 0 fun t => regs [(1, 28)] t
    let at_ (ty aop : Nat) (d c : Byte) : FullWord := ⟨true, 7, d, 1, 2, c, BitVec.ofNat 16 (ty * 2 ^ 11 + 2 ^ 8 + aop * 2 ^ 4)⟩
    let add := at_ 8 0 4 1
    let cas : FullWord := ⟨true, 7, 4, 1, 3, 2, BitVec.ofNat 16 (2 ^ 8 + 2 ^ 4)⟩
    AtWord s 0 0 (lane s) 7 true ∧ Calm s 0 ∧ Within s 0 1 ∧ Within s 0 2 ∧ Holds (lane s) 1 28 ∧ Holds (lane s) 2 7 ∧
      28 + 4 ≤ localSize s 0 1 ∧ localWord s 0 (lane s) 1 28 = gen 0x1234 ∧ atomValue 0 0x1234 7 = 0x123B ∧
      goes (exec (.atom add) s) (past (localPut (modT (taken s) 0 0 (late s [(4, gen 0x1234)] [])) 0 0 1 28
        (gen 0x123B)) 0 0 true) = true ∧
      (List.range 9).all (fun o => goes (exec (.atom (at_ (if o < 3 ∨ 6 < o then 8 else 0) o 4 1)) s)
        (past (localPut (modT (taken s) 0 0 (late s [(4, gen 0x1234)] [])) 0 0 1 28 (gen (atomValue o 0x1234 7))) 0 0 true)) = true ∧
      goes (exec (.red (at_ 8 2 0 1)) s) (past (modT (localPut (taken s) 0 0 1 28 (gen 0x1234)) 0 0
        fun t => { t with reds := t.reds + 1 }) 0 0 true) = true ∧
      Holds (lane s) 3 0x1234 ∧
      goes (exec (.acas cas) s) (past (localPut (modT (taken s) 0 0 (late s [(4, gen 0x1234)] [])) 0 0 1 28 (gen 7)) 0 0 true) = true := by
  intros; (repeat' apply And.intro) <;> decide +kernel +revert

/-! ### Tiles, codebooks, control -/

/-- Tile 3 over bytes 64 to 191 of `.cs`. -/
theorem witness_TileResults :
    let s := with_ [(1, 64), (2, 128)]
    let f := mem 1 0 3 1 2 0
    let u : Tile := ⟨0, 3, 0, false, 64, 128, false, .ready, none⟩
    let r := { s with tiles := [u] }
    let k : FullWord := ⟨true, 7, 4, 3, 0, 0, 0⟩
    let e : FullWord := ⟨true, 7, 0, 3, 0, 0, 0⟩
    AtWord s 0 0 (lane s) f.pred f.s ∧ tbindPre f s 0 0 = none ∧ spaceOf f = 1 ∧ Holds (lane s) f.a 64 ∧ Holds (lane s) f.b 128 ∧
      tileOf s 0 3 = none ∧ 64 + 128 ≤ scratchOf s 0 ∧
      goes (exec (.tbind f) s) (past { taken s with tiles := [⟨0, 3, 0, false, 64, 128, false, .empty, none⟩] } 0 0 true) = true ∧
      tstatePre k r 0 0 = none ∧ foreignTrap r 0 3 = none ∧ AtWord r 0 0 (lane r) k.pred k.s ∧
      goes (exec (.tstate k) r) (wrote r 4 (tileWord (some u))) = true ∧
      tfreePre e r 0 0 = none ∧ tileOf r 0 3 = some u ∧
      goes (exec (.tfree e) r) (past (setTile (taken r) { u with st := .empty, stopped := none }) 0 0 true) = true := by
  intros; (repeat' apply And.intro) <;> decide +kernel +revert

/-- R183: a full fence, an acquire and a release at the die. -/
theorem witness_Fences :
    let s := bench id
    let f (m : Nat) : FullWord := ⟨true, 7, 0, 0, 0, 0, BitVec.ofNat 16 (3 * 2 ^ 8 + m * 2 ^ 6)⟩
    let a : WcBuf := ⟨0, true, 2, 0, false, false, false, 0, 0, [(3, ⟨true, 15, gen 9⟩)]⟩
    let b : WcBuf := { a with line := 3 }
    let w := { s with wc := [a, b, { a with core := 1 }], dcache := [⟨0, 4, [], false, 0, 0⟩, ⟨1, 5, [], false, 0, 0⟩] }
    AtWord s 0 0 (lane s) 7 true ∧ subTrap (fenceSubs (f 0)) = none ∧ vecOf (f 1) = 1 ∧ spaceOf (f 0) = 3 ∧
      getG (releaseAt (taken s) (coreOf s 0) 3) 0 = getG s 0 ∧
      goes (exec (.fence (f 0)) s) (past (acquireAt (releaseAt (taken s) 0 3) 0 3) 0 0 true) = true ∧
      goes (exec (.fence (f 1)) s) (past (acquireAt (taken s) 0 3) 0 0 true) = true ∧
      w.wc.find? (fun x => x.core == 0) = some a ∧
      w.wc.filter (fun x => x.core == 0 && x.xs == a.xs && x.line == a.line) = [a] ∧
      releaseAt w 0 1 = w ∧ (releaseAt w 0 2).wc = [{ a with core := 1 }] ∧ readWord (releaseAt w 0 2).xs 140 = gen 9 ∧
      ends (exec (.storePathFlush 0 true 2) w) (fun y => y.wc == [b, { a with core := 1 }] &&
        decide (releaseAt y 0 2 = releaseAt w 0 2)) = true ∧
      (acquireAt w 0 2).dcache = [⟨1, 5, [], false, 0, 0⟩] ∧ releaseAt w 2 2 = w := by
  intros; (repeat' apply And.intro) <;> decide +kernel +revert

/-- SHARED 254 takes one more, 255 none more; EXCL excludes (R184). -/
theorem witness_SyncWords :
    (0x00FE0001 : W32) &&& 0x7F000000 = 0 ∧ syncGrant false 0x00FE0001 = some 0x00FF0001 ∧ syncGrant true 0x00FE0001 = none ∧
      syncGrant true 0x0000FFFF = some 0x8000FFFF ∧ syncRelease 0x8000FFFF = 0 ∧ syncGrant false 0x80000000 = none := by
  decide +kernel

/-- A partition with 4 KiB of chip scratchpad; v1 is byte 128 of it, where 0x55 stands. -/
def xsBench : State :=
  let s := with_ [(1, 128), (2, 7)]
  { s with parts := [{ bootPart with xs := [(0, ⟨0, 4096⟩)] }], xs := writeWord s.xs 128 (gen 0x55) }

def placeOk (r : Except Trap Loc × State) (at_ : Nat) (s : State) : Bool :=
  match r.1 with
  | .ok p => p.at_ == at_ && p.space == 3 && decide (r.2 = s)
  | .error _ => false

def xsLoc : Loc := ⟨3, 128, 128, noAttr, false⟩

theorem witness_SharedAccesses :
    let s := xsBench
    let f := mem 3 0 4 1 0 0
    let g := mem 3 0 2 1 0 0
    AtWord s 0 0 (lane s) f.pred f.s ∧ tyOf f = 0 ∧ vecOf f = 0 ∧ memPre false false f s 0 0 = none ∧
      effAddr false f s 0 (lane s) = (false, 128) ∧
      placeOk (locate (taken s) 0 3 4 ⟨true, false, false, isUser s 0 0⟩ 128) 128 (taken s) = true ∧ Calm s 0 ∧
      (loadWord (taken s) 0 0 0 (chOf f) xsLoc 0).1 = gen 0x55 ∧
      getG (loadWord (taken s) 0 0 0 (chOf f) xsLoc 0).2 0 = getG s 0 ∧
      goes (exec (.ld f) s) (past (modT (loadWord (taken s) 0 0 0 (chOf f) xsLoc 0).2 0 0 (late s [(4, gen 0x55)] [])) 0 0 true) = true ∧
      placeOk (locate (taken s) 0 3 4 ⟨false, true, false, isUser s 0 0⟩ 128) 128 (taken s) = true ∧
      readV (lane s) 2 = gen 7 ∧ getG (storePatch (taken s) 0 0 0 xsLoc 0 (wholePatch (gen 7)) false) 0 = getG s 0 ∧
      goes (exec (.st g) s) (past (storePatch (taken s) 0 0 0 xsLoc 0 (wholePatch (gen 7)) false) 0 0 true) = true := by
  intros; (repeat' apply And.intro) <;> decide +kernel +revert

/-- A sync object at byte 128 of the chip scratchpad: free, held, released (R184, R186). -/
theorem witness_SyncObjects :
    let s := xsBench
    let f (xm : Nat) (d : Byte) : FullWord := ⟨true, 7, d, 1, 0, 0, BitVec.ofNat 16 (3 * 2 ^ 8 + xm * 2 ^ 6 + 3 * 8)⟩
    let free := { s with xs := writeWord s.xs 128 (gen 5) }
    let held := { s with xs := writeWord s.xs 128 (gen 0x80000005) }
    AtWord free 0 0 (lane free) 7 true ∧ syncPre 0 (f 2 0) free 0 0 = none ∧ syncPre 2 (f 1 1) free 0 0 = none ∧
      syncPre 1 (f 0 0) held 0 0 = none ∧ placeOk (syncPlace false (f 2 0) (taken free) 0 0 (lane free)) 128 (taken free) = true ∧
      (homeWord (taken free) 0 xsLoc).1 = gen 5 ∧ isFirst (taken free) true 2 0 0 = true ∧
      syncGrant true 5 = some 0x80000005 ∧
      goes (exec (.sacq (f 2 0)) free)
        (past (acquireAt (dropWait (putState (taken free) 0 xsLoc 0x80000005) 0 0) 0 3) 0 0 true) = true ∧
      goes (exec (.stry (f 1 1)) free)
        (past (modT (acquireAt (dropWait (putState (taken free) 0 xsLoc 0x10005) 0 0) 0 3) 0 0 (setP 1 true)) 0 0 true) = true ∧
      syncPre 0 (f 0 0) held 0 0 = none ∧
      goes (exec (.sacq (f 0 0)) held) (past (acquireAt (dropWait (taken held) 0 0) 0 3) 0 0 true) = true ∧
      syncGrant true 0x80000005 = none ∧
      goes (exec (.stry (f 2 1)) held) (did held 0 0 true (setP 1 false)) = true ∧
      ends (exec (.sacq (f 2 0)) held) (fun y => y.syncWaits == [⟨true, 2, 0, 0, true, 3, 0, 0, false⟩] && (lane y).wait == .sacq) = true ∧
      placeOk (syncPlace true (f 0 0) (taken held) 0 0 (lane held)) 128 (taken held) = true ∧
      goes (exec (.srel (f 0 0)) held) (past (putRec_ (putState (taken held) 0 xsLoc 6) 0 3 true 2) 0 0 true) = true := by
  intros; (repeat' apply And.intro) <;> decide +kernel +revert

theorem witness_CacheControl :
    let s := bench fun t => regs [(2, 0x10000), (4, 128)] t
    let f : FullWord := ⟨true, 7, 0, 2, 4, 0, BitVec.ofNat 16 (4 * 2 ^ 8)⟩
    let x := { f with mod := BitVec.ofNat 16 (3 * 2 ^ 8) }
    AtWord s 0 0 (lane s) 7 true ∧ baseIn s 0 (lane s) 4 false 2 = (false, 0x10000) ∧ Holds (lane s) 4 128 ∧
      cachePre false f s 0 0 = none ∧ cachePre true f s 0 0 = none ∧
      (List.range 3).all (fun o => decide
        (getG (cacheLines o f 0 0 (isUser s 0 0) 0x10000 128 (taken s)) 0 = getG s 0)) = true ∧
      goes (exec (.cinv f) s) (past (cacheLines 0 f 0 0 (isUser s 0 0) 0x10000 128 (taken s)) 0 0 true) = true ∧
      cacheTrap f s 0 0x10000 = none ∧
      goes (exec (.cwb f) s) (past (cacheLines 1 f 0 0 (isUser s 0 0) 0x10000 128 (taken s)) 0 0 true) = true ∧
      goes (exec (.chint f) s) (past (cacheLines 2 f 0 0 (isUser s 0 0) 0x10000 128 (taken s)) 0 0 true) = true ∧
      baseIn s 0 (lane s) 3 false 2 = (false, 0x10000) ∧ cachePre false x s 0 0 = none ∧
      cacheTrap x s 0 0x10000 = some (trapAt causeProtection 0 0x10000) ∧
      goes (exec (.cinv x) s) (trapped s 0 0 0x1000 (trapAt causeProtection 0 0x10000) (ending true .none)) = true := by
  intros; (repeat' apply And.intro) <;> decide +kernel +revert

/-- Entry 255 of bank 3. -/
theorem witness_Codebooks :
    let s := with_ [(1, 64), (2, 0x1FF), (3, 0x3C00)]
    let ld : FullWord := ⟨true, 7, 3, 1, 2, 0, BitVec.ofNat 16 (2 ^ 8)⟩
    let w : FullWord := ⟨true, 7, 3, 1, 3, 0, 0⟩
    let inv : FullWord := ⟨true, 7, 3, 0, 2, 0, 0⟩
    let fen : FullWord := ⟨true, 7, 0, 0, 0, 0, 0⟩
    let r := setEntries s 0 3 [(255, halves 0x3C00)]
    let p := { bankWrite s 0 3 0 [(9, halves 0x3C00)] with cycle := 1 }
    AtWord s 0 0 (lane s) 7 true ∧ Holds (lane s) 1 64 ∧ Holds (lane s) 2 0x1FF ∧ (0x1FF : W32).toNat % 2 ^ 17 = 255 + 256 ∧
      spaceOf ld = 1 ∧ 64 + 8 ≤ scratchOf s 0 ∧ cbMemPre ld s 0 0 = none ∧
      goes (exec (.cbld ld) s) (past (bankWrite (taken s) 0 3 0 [(255, entryOf .zero .zero)]) 0 0 true) = true ∧
      (imageOf (bankEntry r 0 3 255)).any mismatch = false ∧
      goes (exec (.cbst ld) r) (past { taken r with
        cs := writeWord (writeWord r.cs 64 ((imageOf (halves 0x3C00)).getD 0 .zero)) 68 ((imageOf (halves 0x3C00)).getD 1 .zero) }
        0 0 true) = true ∧
      cbwPre w s 0 0 = none ∧ Holds (lane s) 3 0x3C00 ∧
      goes (exec (.cbw w) s) (past (bankWrite (taken s) 0 3 0 [(64, halves 0x3C00)]) 0 0 true) = true ∧
      cbinvPre inv r 0 0 = none ∧
      goes (exec (.cbinv inv) r) (past (bankWrite (taken r) 0 3 0 [(255, ⟨(halves 0x3C00).val, 0xF, 0xF⟩)]) 0 0 true) = true ∧
      subTrap (cbfenceSubs fen) = none ∧ bankPending s 0 = false ∧
      goes (exec (.cbfence fen) s) (past (taken s) 0 0 true) = true ∧
      ((oldestWrite p 0 3).map fun w => (w.ents, writeWaits p w)) = some ([(9, halves 0x3C00)], false) ∧
      ends (exec (.bankWriteComplete 0 3) p) (fun y => bankEntry y 0 3 9 == halves 0x3C00 && y.bankWrites.isEmpty) = true := by
  intros; (repeat' apply And.intro) <;> decide +kernel +revert

/-- A branch back over two words, calls with and without a link, indirect branches, a return, and the targets that are no multiple of 8. -/
theorem witness_ControlTransfers :
    let s := with_ [(2, 0x2008), (4, 0x2004), (8, 0x18), (9, 0xFFFFFFFC)]
    let rel (a : Byte) : FullWord := ⟨true, 7, 0, a, 0, 0, 1⟩
    let b : LongWord := ⟨true, 7, 0, 0, 0xFFFFFFFE⟩
    let c : LongWord := ⟨true, 7, 6, 0, 4⟩
    let r : FullWord := ⟨true, 7, 0, 2, 0, 0, 0⟩
    let m : FullWord := ⟨true, 7, 0, 4, 0, 0, 0⟩
    let h := modT s 0 0 fun t => { t with pc := 0x1004 }
    AtWord s 0 0 (lane s) 7 true ∧ braPre false b s 0 0 = none ∧
      goes (exec (.bra b) s) (modT (taken s) 0 0 (jumpTo 0xFF0)) = true ∧
      braPre true c s 0 0 = none ∧ c.d ≠ 255 ∧
      goes (exec (.call c) s) (modT (modT (taken s) 0 0 (setPair 6 0x1008)) 0 0 (jumpTo 0x1020)) = true ∧
      braPre true { c with d := 255 } s 0 0 = none ∧
      goes (exec (.call { c with d := 255 }) s) (modT (taken s) 0 0 (jumpTo 0x1020)) = true ∧
      brxPre true (rel 8) s 0 0 = none ∧ brxRel (rel 8) = true ∧ Holds (lane s) 8 0x18 ∧
      goes (exec (.brx (rel 8)) s) (modT (taken s) 0 0 (jumpTo 0x1018)) = true ∧
      brxPre true (rel 9) s 0 0 = none ∧ Holds (lane s) 9 0xFFFFFFFC ∧
      goes (exec (.brx (rel 9)) s) (trapped s 0 0 0x1000 (trapAt causeMisaligned 0 0xFFC) (ending true .none)) = true ∧
      brxPre true r s 0 0 = none ∧ brxRel r = false ∧ HoldsPair (lane s) 2 0x2008 ∧ (0x2008 : W64) &&& 7 = 0 ∧
      goes (exec (.brx r) s) (modT (taken s) 0 0 (jumpTo 0x2008)) = true ∧
      brxPre false r s 0 0 = none ∧ goes (exec (.ret r) s) (modT (taken s) 0 0 (jumpTo 0x2008)) = true ∧
      brxPre false m s 0 0 = none ∧ HoldsPair (lane s) 4 0x2004 ∧ (0x2004 : W64) &&& 7 ≠ 0 ∧
      goes (exec (.ret m) s) (trapped s 0 0 0x1000 (trapAt causeMisaligned 0 0x2004) (ending true .none)) = true ∧
      brxPre true m s 0 0 = none ∧
      goes (exec (.brx m) s) (trapped s 0 0 0x1000 (trapAt causeMisaligned 0 0x2004) (ending true .none)) = true ∧
      AtWord h 0 0 (lane h) 7 true ∧ braPre false b h 0 0 = none ∧ braPre true c h 0 0 = none ∧
      goes (exec (.bra b) h) (trapped h 0 0 0x1004 (trapAt causeMisaligned 0 0xFF4) (ending true .none)) = true ∧
      goes (exec (.call c) h) (trapped h 0 0 0x1004 (trapAt causeMisaligned 0 0x1024)
        (ending true (zeroed [6, 7] []))) = true := by
  intros; (repeat' apply And.intro) <;> decide +kernel +revert

/-- The boot group with lane 1 alive as well. -/
def twoLanes : State := modT (bench id) 0 1 fun t => { t with live := true }

theorem witness_ThreadControl :
    let s := twoLanes
    let b := bench id
    let u := { b with groups := b.groups ++ [(1, { bootGroup 0 with idx := 1, slot := 1 })], bars := [⟨1, 0, 0, 2, 2, 0, 0, false, false⟩] }
    let f : FullWord := ⟨true, 7, 0, 0, 0, 0, 0⟩
    let w : FullWord := ⟨true, 7, 0, 0, 0, 0, 1⟩
    AtWord s 0 0 (lane s) 7 true ∧ subTrap (plainSubs f) = none ∧ isSuper (groupOf s) 0 = false ∧ 1 ∈ liveLanes (groupOf s) ∧
      ends (exec (.exit f) s) (fun y => !(lane y).live && (laneOf y 1).live) = true ∧
      AtWord u 0 0 (lane u) 7 true ∧ liveLanes (groupOf u) = [0] ∧
      (aget u.wgs 0).map (fun W => (barOwner u W 0 1 0, (groupsOf { u with groups := adel u.groups 0 } 0).map (·.1))) =
        some (some 0, [1]) ∧
      ends (exec (.exit f) u) (fun y => y.groups.map (·.1) == [1] && y.bars == [⟨1, 0, 0, 1, 1, 0, 0, false, false⟩]) = true ∧
      waitPre w s 0 0 = none ∧ goes (exec (.wait w) s) (modT (past (taken s) 0 0 true) 0 0
        fun u => { u with wait := waitOf w s (lane s), cls := .normal }) = true ∧
      goes (exec (.yield f) s) (modT (past (taken s) 0 0 true) 0 0 fun t => { t with wait := .none, cls := .yielded }) = true ∧
      goes (exec (.nop f) s) (past (taken s) 0 0 true) = true := by
  intros; (repeat' apply And.intro) <;> decide +kernel +revert

/-- A kernel with a handler at 0x4000. -/
def handled : State := handling (bench id)

theorem witness_TrapEntry :
    let s := handled
    let f : FullWord := ⟨true, 7, 0, 0, 0, 0, 0x2A⟩
    AtWord s 0 0 (lane s) 7 true ∧ (groupOf s).trap = none ∧ (gridOf s 0).map (·.kd.tvec) = some 0x4000 ∧
      subTrap (trapSubs f) = none ∧
      ends (exec (.trap f) s) (fun y => (lane y).pc == 0x4000 && (groupOf y).cause == 0x2A10 && (groupOf y).tpc == 0x1000 &&
        (groupOf y).tmask == 1 && isSuper (groupOf y) 0) = true := by
  intros; (repeat' apply And.intro) <;> decide +kernel +revert

/-- The state at the first word of the handler of that trap. -/
def inHandler (cause : Nat) : State :=
  match exec (.trap ⟨true, 7, 0, 0, 0, 0, BitVec.ofNat 16 cause⟩) handled with
  | .next s => modT { s with coach := some ⟨0, 0, [(0, 0)]⟩ } 0 0 fun t => { t with ibuf := some ⟨gen 0, gen 0⟩ }
  | _ => handled

theorem witness_TrapReturn :
    let s := inHandler 1
    let f : FullWord := ⟨true, 7, 0, 0, 0, 0, 0⟩
    AtWord s 0 0 (lane s) 7 true ∧ (groupOf s).trap.isSome = true ∧
      ((groupOf s).trap.map fun c => (liveLanes (groupOf s)).filter c.entry.getLsbD) = some [0] ∧
      (groupOf s).tmask.getLsbD 0 = true ∧ tretPre f s 0 0 = none ∧
      ends (exec (.tret f) s) (fun y => (lane y).pc == 0x1008 && (groupOf y).trap.isNone) = true ∧
      isSuper (groupOf s) 0 = true ∧ ends (exec (.exit f) s) (fun y => y.groups.isEmpty) = true := by
  intros; (repeat' apply And.intro) <;> decide +kernel +revert

theorem witness_Privilege :
    let s := handled
    let f (a : Byte) : FullWord := ⟨true, 7, 3, a, 0, 0, 0⟩
    let denied (y : State) : Bool :=
      (groupOf y).cause == BitVec.ofNat 32 causePrivilege && (lane y).pc == 0x4000 && (groupOf y).tpc == 0x1000
    AtWord s 0 0 (lane s) 7 true ∧ isSuper (groupOf s) 0 = false ∧
      ends (exec (.tret (f 0)) s) denied = true ∧ ends (exec (.sinj (f 0)) s) denied = true ∧
      ([0x20, 0x21, 0x22, 0x23, 0x24, 0x25, 0x26, 0x27] : List Byte).all (fun a => ends (exec (.swr (f a)) s) denied) = true ∧
      copyPch 0x20 = true ∧ ends (exec (.cpyc { f 0 with mod := 0x20 }) s) denied = true ∧
      ([0x20, 0x21, 0x22, 0x23, 0x24, 0x25, 0x26, 0x27] : List Byte).all (fun a => ends (exec (.srd (f a)) s) denied) = true := by
  intros; (repeat' apply And.intro) <;> decide +kernel +revert

/-- A program at user level writes `%sticky`, and in a handler the vector; what the package holds for it stays. -/
theorem witness_ProgramBounds :
    let s := with_ [(2, 0x15)]
    let h := modT (inHandler 1) 0 0 (regs [(2, 0x5000)])
    let f (a : Byte) : FullWord := ⟨true, 7, 0, a, 2, 0, 0⟩
    (encode (.swr (f 0x17))).isSome = true ∧ (s.coach.map fun c => c.lanes) = some [(0, 0)] ∧ isSuper (groupOf s) 0 = false ∧
      ends (exec (.swr (f 0x17)) s) (fun y => y.grids == s.grids && (lane y).sticky == 0x15) = true ∧
      (encode (.swr (f 0x26))).isSome = true ∧
      ends (exec (.swr (f 0x26)) h) (fun y => y.parts == h.parts && y.grids.map (·.2.kd.tvec) == [0x5000]) = true := by
  intros; (repeat' apply And.intro) <;> decide +kernel +revert

theorem witness_SystemResults :
    let s := { with_ [(2, 0x15)] with cycle := 2 ^ 32 + 9 }
    let rd (a : Byte) : FullWord := ⟨true, 7, 4, a, 0, 0, 0⟩
    let wr (a : Byte) : FullWord := ⟨true, 7, 0, a, 2, 0, 0⟩
    let h := modT (inHandler 1) 0 0 (regs [(2, 0x81000000)])
    let j : FullWord := ⟨true, 7, 0, 2, 0, 0, 0⟩
    let g : FullWord := ⟨true, 7, 31, 2, 0, 0, 0⟩
    AtWord s 0 0 (lane s) 7 true ∧ specialPre false (srdSubs (rd 0)) 4 0 s 0 0 = none ∧
      goes (exec (.srd (rd 0)) s) (wrote s 4 (specialValue s 0 0 0)) = true ∧
      specialPre false (srdSubs (rd 0x14)) 4 0x14 s 0 0 = none ∧
      goes (exec (.srd (rd 0x14)) s) (did s 0 0 true fun t => setV 4 9 { t with clockh := 1 }) = true ∧
      specialPre true (swrSubs (wr 0x17)) 2 0x17 s 0 0 = none ∧
      goes (exec (.swr (wr 0x17)) s) (did s 0 0 true fun t => { t with sticky := 0x15 }) = true ∧
      specialPre true (swrSubs (wr 0x18)) 2 0x18 s 0 0 = none ∧
      goes (exec (.swr (wr 0x18)) s) (did s 0 0 true fun t => { t with seed := 0x15 }) = true ∧
      isSuper (groupOf h) 0 = true ∧ AtWord h 0 0 (lane h) 7 true ∧ sinjPre j h 0 0 = none ∧ Holds (lane h) 2 0x81000000 ∧
      (0x81000000 : W32) &&& 0x38E0C0FF = 0 ∧
      goes (exec (.sinj j) h) (past (modG (taken h) 0 fun G => { G with inj := some 0x81000000 }) 0 0 true) = true ∧
      gsetPre g s 0 0 = none ∧ (groupsOf s 0).map (·.1) = [0] ∧ (liveLanes (groupOf s)).headD 0 = 0 ∧
      goes (exec (.gset g) s) (past (modWg (taken s) 0 fun W => { W with g := W.g.set 31 (gen 0x15) }) 0 0 true) = true := by
  intros; (repeat' apply And.intro) <;> decide +kernel +revert

/-- R30 and R31: what each special register of the boot lane reads, the selectors that name none, and the writes. -/
theorem witness_SpecialRegisters :
    let s := handling (with_ [(2, 0x15)])
    let h := modT (inHandler 1) 0 0 (regs [(2, 0x81000003)])
    let rd (a : Byte) : FullWord := ⟨true, 7, 4, a, 0, 0, 0⟩
    let wr (a : Byte) : FullWord := ⟨true, 7, 0, a, 2, 0, 0⟩
    let reads (s : State) (a : Byte) (v : W32) : Bool := decide (specialPre false (srdSubs (rd a)) 4 a.toNat s 0 0 = none) &&
      goes (exec (.srd (rd a)) s) (did s 0 0 true (setV 4 v))
    let illegal (s : State) (i : Instr) : Bool := ends (exec i s) fun y =>
      (groupOf y).cause == BitVec.ofNat 32 (causeIllegalOperand + 0x0A * 256) && (lane y).pc == 0x4000
    ([(0, 0), (1, 0), (2, 0), (4, 1), (6, 1), (7, 0xFFFFFFFF), (8, 0xFFFFFFFF), (0xB, 0), (0x10, 0), (0x16, 255), (0x19, 0)] :
      List (Byte × W32)).all (fun x => reads s x.1 x.2) = true ∧
      reads h 0x19 1 = true ∧ reads h 0x20 (groupOf h).cause = true ∧ reads h 0x21 ((groupOf h).tpc.setWidth 32) = true ∧
      reads h 0x23 (groupOf h).tmask = true ∧ reads h 0x26 0x4000 = true ∧
      srdSubs (rd 0x1A) = [] ∧ illegal s (.srd (rd 0x1A)) = true ∧
      illegal s (.srd (rd 0xFF)) = true ∧ swrSubs (wr 0x28) = [] ∧ illegal s (.swr (wr 0x28)) = true ∧
      illegal s (.swr (wr 0)) = true ∧ illegal s (.swr (wr 0x19)) = true ∧ isSuper (groupOf h) 0 = true ∧ swrSubs (wr 0x20) = [] ∧
      AtWord h 0 0 (lane h) 7 true ∧ Holds (lane h) 2 0x81000003 ∧
      ([0x23, 0x26, 0x27] : List Byte).all (fun a => decide (specialPre true (swrSubs (wr a)) 2 a.toNat h 0 0 = none)) = true ∧
      (((groupOf h).trap.map (·.entry)).getD 0) = 1 ∧
      goes (exec (.swr (wr 0x23)) h) (past (modG (taken h) 0 fun G => { G with tmask := 1 }) 0 0 true) = true ∧
      goes (exec (.swr (wr 0x26)) h) (past (modGrid (taken h) 0 fun K =>
        { K with kd := { K.kd with tvec := 0x81000003 } }) 0 0 true) = true ∧
      goes (exec (.swr (wr 0x27)) h) (past (modGrid (taken h) 0 fun K =>
        { K with kd := { K.kd with tvec := 0x8100000300004000 } }) 0 0 true) = true := by
  intros; (repeat' apply And.intro) <;> decide +kernel +revert

/-- R224: one group gives the word, and a lane whose gset has completed only passes. -/
theorem witness_Gset :
    let s := with_ [(2, 0x15)]
    let g : FullWord := ⟨true, 7, 31, 2, 0, 0, 0⟩
    let w := modT s 0 0 fun t => { t with wait := .gset }
    (lane s).wait ≠ .gset ∧ groupsOf s 0 = [(0, groupOf s)] ∧ liveLanes (groupOf s) = [0] ∧ Holds (lane s) 2 0x15 ∧
      gsetPre g s 0 0 = none ∧
      goes (exec (.gset g) s) (past (modWg (taken s) 0 fun W => { W with g := W.g.set 31 (gen 0x15) }) 0 0 true) = true ∧
      AtWord w 0 0 (lane w) 7 true ∧ gsetPre g w 0 0 = none ∧ (lane w).wait = .gset ∧
      goes (exec (.gset g) w) (past (taken w) 0 0 true) = true := by
  intros; (repeat' apply And.intro) <;> decide +kernel +revert

/-! ### Encoding and checks -/

/-- A well-formed word of each format, and its bytes. -/
theorem witness_DecodeEncode :
    let i : Instr := .add ⟨true, 7, 1, 2, 3, 0, 0x2000⟩
    i.wf = true ∧ encode i = some 0x8007010203002000 ∧ decodeWord 0x8007010203002000 = i := by
  decide +kernel

/-- The boot state fetches and issues `add.n32 v1, v2, v3` (R65, R85). -/
theorem witness_StepRunsDecoded :
    let s := State.reset.withFetchWord 64 0x8007010203004000
    s.power ≠ .off ∧ s.coach.isSome = true ∧ coachInstr s = .add ⟨true, 7, 1, 2, 3, 0, 0x4000⟩ ∧
      ends (step s) (fun y => (lane y).pc == 0x1008) = true := by
  intros; (repeat' apply And.intro) <;> decide +kernel +revert

theorem witness_StepKeepsMemory : Memory.allWf (State.reset.withFetchWord 64 0x8007010203004000) = true := by
  decide +kernel

/-- 1.5 and 2.5 (R134, R135, R142): the quotient 0.6 is inexact. -/
theorem witness_FloatResults :
    let s := with_ [(1, 0x3FC00000), (2, 0x40200000), (3, 0x3F800000)]
    let f := plain 0x0E 4 1 2 0
    let u := with_ [(1, 0x40003C00), (2, 0x44004200), (3, 0x3F000000)]
    Ready s f 0x3FC00000 0x40200000 ∧ Plain f 0x0E 0 ∧ f.c = 0 ∧
      goes (exec (.fadd f) s) (wrote s 4 0x40800000) = true ∧ goes (exec (.fsub f) s) (wrote s 4 0xBF800000) = true ∧
      goes (exec (.fmul f) s) (wrote s 4 0x40700000) = true ∧
      goes (exec (.fdiv f) s) (did s 0 0 true fun t => flagged flagNX (setV 4 0x3F19999A t)) = true ∧
      Ready3 s (plain 0x0E 4 1 2 3) 0x3FC00000 0x40200000 0x3F800000 ∧
      goes (exec (.ffma (plain 0x0E 4 1 2 3)) s) (wrote s 4 0x40980000) = true ∧
      goes (exec (.fcmp (word 0x0E 0 0 2 3 1 2 0)) s) (did s 0 0 true (setP 3 true)) = true ∧
      Ready3 u (plain 0x10 4 1 2 3) 0x40003C00 0x44004200 0x3F000000 ∧
      goes (exec (.fdot2 (plain 0x10 4 1 2 3)) u) (wrote u 4 0x41380000) = true := by
  intros; (repeat' apply And.intro) <;> decide +kernel +revert

/-- R47, R61 to R63, R134, R144: NaNs, infinities, zeros, an overflow under two modes, a flushed product. -/
theorem witness_FloatSpecials :
    let f (m : Nat) := word 0x0E 0 0 m 4 1 2 0
    let at_ (i : Instr) (a b r : W32) (fl : BitVec 6) : Bool :=
      goes (exec i (with_ [(1, a), (2, b)])) (did (with_ [(1, a), (2, b)]) 0 0 true fun t => flagged fl (setV 4 r t))
    Plain (f 2) 0x0E 2 ∧ Ready (with_ [(1, 0x7F800001), (2, 0)]) (f 2) 0x7F800001 0 ∧ isNan32 0x7F800001 = true ∧
      isSig32 0x7F800001 = true ∧ isInf32 0xFF800000 = true ∧ isZero32 0x80000000 = true ∧ exp32 0x60000000 = 192 ∧
      at_ (.fadd (f 2)) 0x7F800001 0 0x7FC00000 flagNV = true ∧ at_ (.fmul (f 0)) 0x7FC00000 5 0x7FC00000 0 = true ∧
      at_ (.fadd (f 1)) 0xFF800000 5 0xFF800000 0 = true ∧ at_ (.fmul (f 0)) 0xFF800000 0x80000000 0x7FC00000 flagNV = true ∧
      at_ (.fsub (f 0)) 5 0xFF800000 0x7F800000 0 = true ∧ at_ (.fsub (f 0)) 0x7F800000 0x7F800000 0x7FC00000 flagNV = true ∧
      at_ (.fsub (f 2)) 5 5 0x80000000 0 = true ∧ at_ (.fdiv (f 0)) 0xBF800000 0 0xFF800000 flagDZ = true ∧
      at_ (.fmul (f 0)) 0x60000000 0xDF800000 0xFF800000 (flagOF ||| flagNX) = true ∧
      at_ (.fmul (f 3)) 0x60000000 0xDF800000 0xFF7FFFFF (flagOF ||| flagNX) = true ∧ Plain (f 8) 0x0E 8 ∧
      at_ (.fmul (f 8)) 0x00800000 0x80800000 0x80000000 (flagUF ||| flagNX) = true ∧ at_ (.fmul (f 8)) 1 0xC0000000 0x80000000 0 = true := by
  intros; (repeat' apply And.intro) <;> decide +kernel +revert

/-- The functions of one operand at values with exact results (R137 to R144). -/
theorem witness_FloatFunctions :
    let f := plain 0x0E 4 1 0 0
    let at_ (i : Instr) (a r : W32) : Bool := goes (exec i (with_ [(1, a)])) (wrote (with_ [(1, a)]) 4 r)
    Ready (with_ [(1, 0x40800000)]) f 0x40800000 0 ∧ Plain f 0x0E 0 ∧ f.b = 0 ∧
      at_ (.fclass f) 0xFF800000 1 = true ∧ at_ (.frnd f) 0x40200000 0x40000000 = true ∧
      at_ (.frcp f) 0x40000000 0x3F000000 = true ∧ at_ (.fsqrt f) 0x40800000 0x40000000 = true ∧
      at_ (.frsq f) 0x40800000 0x3F000000 = true ∧ at_ (.fexp2 f) 0x40400000 0x41000000 = true ∧
      at_ (.flog2 f) 0x41000000 0x40400000 = true ∧ at_ (.fsin f) 0 0 = true ∧ at_ (.fcos f) 0 0x3F800000 = true ∧
      at_ (.ftanh f) 0 0 = true ∧ at_ (.fsigm f) 0 0x3F000000 = true := by
  intros; (repeat' apply And.intro) <;> decide +kernel +revert

/-- 1.125 in the format of R61's record e4m3 (R150). -/
theorem witness_Conversions :
    let s := modWg (with_ [(1, 0x3900), (2, 1)]) 0 fun W => { W with g := W.g.set 31 (gen 0x10070343) }
    let f := word 0x0E 5 2 8 4 1 2 31
    let u := with_ [(1, 0xFFFFFF00)]
    let k := plain 0x02 4 1 4 0
    let n := with_ [(1, 0xC0700000)]
    AtWord s 0 0 (lane s) 7 true ∧ Calm s 0 ∧ Moded f 0x0E 5 2 8 ∧ f.c.toNat < 32 ∧
      ((wgOf s 0).map fun W => W.g.getD 31 .zero) = some (gen 0x10070343) ∧ Holds (lane s) 1 0x3900 ∧ Holds (lane s) 2 1 ∧
      goes (exec (.cvtx f) s) (wrote s 4 0x3F900000) = true ∧ Plain k 0x02 0 ∧ k.b = 0x04 ∧
      goes (exec (.cvti k) u) (did u 0 0 true fun t => flagged flagSAT (setV 4 0xFFFFFF80 t)) = true ∧
      goes (exec (.cvt (plain 0x0E 4 1 4 0)) (with_ [(1, 0xFFFFFFFD)])) (wrote (with_ [(1, 0xFFFFFFFD)]) 4 0xC0400000) = true ∧
      goes (exec (.cvt (plain 0x04 4 1 0x0E 0)) n) (wrote n 4 0xFFFFFFFC) = true∧
      goes (exec (.cvti k) (with_ [(1, 0xFFFFFF81)])) (wrote (with_ [(1, 0xFFFFFF81)]) 4 0xFFFFFF81) = true ∧
      goes (exec (.cvti k) (with_ [(1, 200)])) (did (with_ [(1, 200)]) 0 0 true fun t => flagged flagSAT (setV 4 0x7F t)) = true ∧
      (roundMag 0 0 false 5 0 false 1).m = 2 ∧ (roundMag 0 0 false 7 0 false 1).m = 4 ∧ (roundMag 1 0 false 7 0 false 1).m = 3 ∧
      (roundMag 2 0 true 5 0 false 1).m = 3 ∧ (roundMag 3 0 true 5 0 false 1).m = 2 ∧ (roundMag 3 0 false 3 4 false 2).m = 12 := by
  intros; (repeat' apply And.intro) <;> decide +kernel +revert

/-- A false and a poisoned guard, a poisoned and an altered fetch, a run of fifteen words without a marker and with one, v41
beyond 40 registers. -/
theorem witness_IssueChecks :
    let s := modT (modG handled 0 fun G => { G with nreq := 40 }) 0 0 fun t => { t with p := (t.p.set 1 ⟨false, false⟩).set 2 ⟨true, true⟩ }
    let f (pred : BitVec 4) (d : Byte) : FullWord := ⟨false, pred, d, 2, 3, 0, 0x4000⟩
    let raw (lo : Word) : State := modT s 0 0 fun t => { t with ibuf := some ⟨lo, gen 0⟩ }
    let full := modT s 0 0 fun t => { t with run := { t.run with len := 15 } }
    let e (pred : BitVec 4) (d : Byte) : FullWord := { f pred d with s := true }
    let cause (i : Instr) (s : State) : Option W32 := causeOf (exec i s)
    Lone s 0 0 (lane s) ∧ InRun (lane s) false ∧ r75Pre (rowDAB typesI 0 (f 1 4)) (f 1 4) (taken s) 0 0 = none ∧
      guardOf 2 (lane s) = none ∧ guardOf 1 (lane s) = some false ∧
      goes (exec (.add (f 1 4)) s) (past (taken s) 0 0 false) = true ∧
      cause (.add (f 2 4)) s = some (BitVec.ofNat 32 causePoison) ∧
      cause (.add (f 7 4)) (raw ⟨0, 0xF⟩) = some (BitVec.ofNat 32 causePoison) ∧
      cause (.add (f 7 4)) (raw ⟨0, 1⟩) = some (BitVec.ofNat 32 (causeCheck + 256)) ∧
      cause (.add (f 7 4)) (modT s 0 0 fun t => { t with run := { t.run with len := 15 } }) =
        some (BitVec.ofNat 32 (causeIllegalOpcode + 4 * 256)) ∧
      r75Subs (rowDAB typesI 0 (f 7 41)) (f 7 41) = [] ∧
      outOfBound (nreqOf s 0) (r75Regs (rowDAB typesI 0 (f 7 41)) (f 7 41)) = [41] ∧
      cause (.add (f 7 41)) s = some (BitVec.ofNat 32 causeRegBound) ∧
      cause (.unassignedOpcode (BitVec.ofNat 64 (2 ^ 62))) s = some (BitVec.ofNat 32 (causeIllegalOpcode + 2 * 256)) ∧
      slotClass .faddF32 = slotClass .fmulF32 ∧
      cause (.pairedFaddF32 ⟨true, ⟨4, 1, 2⟩, .fmulF32, ⟨5, 1, 2⟩⟩) s = some (BitVec.ofNat 32 (causeIllegalOpcode + 3 * 256)) ∧
      Lone full 0 0 (lane full) ∧ InRun (lane full) true ∧ r75Pre (rowDAB typesI 0 (e 1 4)) (e 1 4) (taken full) 0 0 = none ∧
      goes (exec (.add (e 1 4)) full) (past (taken full) 0 0 true) = true ∧
      cause (.add (e 2 4)) full = some (BitVec.ofNat 32 causePoison) ∧
      r75Subs (rowDAB typesI 0 (e 7 41)) (e 7 41) = [] ∧
      cause (.add (e 7 41)) full = some (BitVec.ofNat 32 causeRegBound) ∧
      cause (.unassignedOpcode (BitVec.ofNat 64 (2 ^ 63))) full = some (BitVec.ofNat 32 (causeIllegalOpcode + 256)) ∧
      cause (.pairedFaddF32 ⟨true, ⟨4, 1, 2⟩, .fmulF32, ⟨5, 1, 2⟩⟩) full =
        some (BitVec.ofNat 32 (causeIllegalOpcode + 3 * 256)) := by
  intros; (repeat' apply And.intro) <;> decide +kernel +revert

/-! ### Barriers, lanes, queues -/

/-- Barrier 0 of level 1 with one more participant to come. -/
def barBench : State :=
  { with_ [(1, 64)] with bars := [⟨1, 0, 0, 2, 2, 0, 0, false, false⟩, ⟨1, 0, 1, 1, 1, 0, 0, false, false⟩] }

theorem witness_Barriers :
    let s := barBench
    let f (a b d : Byte) (m : W16) : FullWord := ⟨true, 7, d, a, b, 0, m⟩
    let rel := releaseAt (taken s) 0 1
    let bar (y : State) (n : Nat) : Option (Nat × Int × Nat) := (findBar y 1 0 n).map fun b => (b.pa, b.pb, b.ph.toNat)
    let rec_ (y : State) (n : Nat) : Option BarRec := getRec (groupOf y) 1 n
    let r : BarRec := ⟨1, 0, 0, true, false, false, none⟩
    let w := modG s 0 fun G => putRec G r
    let v := modG s 0 fun G => putRec G { r with done := false }
    let e := modG (handling s) 0 fun G => putRec G { r with err := true }
    AtWord s 0 0 (lane s) 7 true ∧ groupBar s 0 1 0 = some ⟨1, 0, 0, 2, 2, 0, 0, false, false⟩ ∧
      groupBar s 0 1 1 = some ⟨1, 0, 1, 1, 1, 0, 0, false, false⟩ ∧
      barPre false false 1 (f 0 0x90 0 0) (taken s) 0 0 = none ∧
      arrived ⟨1, 0, 0, 2, 2, 0, 0, false, false⟩ (groupOf s) = false ∧
      rel.groups = s.groups ∧ rel.bars = s.bars ∧ rel.wgs = s.wgs ∧ rel.grids = s.grids ∧ rel.podBars = s.podBars ∧
      ends (exec (.barArr (f 0 0x90 0 0)) s) (fun y => bar y 0 == some (1, 0, 0) && (rec_ y 0).map (·.done) == some false &&
        decide ({ y with groups := rel.groups, bars := rel.bars } = rel)) = true ∧
      ends (exec (.barArr (f 0 0x91 0 0)) s) (fun y => bar y 1 == some (0, 0, 0) &&
        (let z := (findBar y 1 0 1).elim y (barTest y)
         bar z 1 == some (1, 0, 1) && (rec_ z 1).map (·.done) == some true && bar z 0 == bar y 0)) = true ∧
      ((findBar s 1 0 0).map fun b => decide (barTest s b = s)) = some true ∧
      barPre false true 3 (f 1 0x90 0 0) (taken s) 0 0 = none ∧ Holds (lane s) 1 64 ∧
      ends (exec (.barExp (f 1 0x90 0 0)) s) (fun y => bar y 0 == some (2, 64, 0)) = true ∧
      barPre false true 3 (f 1 0x90 0 3) (taken s) 0 0 = none ∧
      ends (exec (.barExp (f 1 0x90 0 3)) s) (fun y => bar y 0 == some (1, 64, 0) && (rec_ y 0).isSome &&
        (findBar y 1 0 0).any (·.ef) && decide ({ y with groups := rel.groups, bars := rel.bars } = rel)) = true ∧
      barPre true false 1 (f 0 0x90 4 0) (taken w) 0 0 = none ∧ getRec (groupOf w) 1 0 = some r ∧
      ends (exec (.barWait (f 0 0x90 4 0)) w) (fun y => readV (lane y) 4 == gen 2 && (lane y).pc == 0x1008) = true ∧
      getRec (groupOf v) 1 0 = some { r with done := false } ∧
      ends (exec (.barWait (f 0 0x90 4 0)) v) (fun y => (lane y).wait == .bar 1 0 && (lane y).pc == 0x1000) = true ∧
      rec_ s 0 = none ∧
      ends (exec (.barWait (f 0 0x90 4 0)) s) (fun y => rec_ y 0 == some ⟨1, 0, 0, false, false, true, some 0x1000⟩) = true ∧
      barPre true false 1 (f 0 0x90 4 1) (taken e) 0 0 = none ∧
      causeOf (exec (.barWait (f 0 0x90 4 1)) e) = some (BitVec.ofNat 32 (causeBarrier + 2 * 256)) := by
  intros; (repeat' apply And.intro) <;> decide +kernel +revert

theorem witness_BarrierSync :
    let s := barBench
    let f (b d : Byte) (m : W16) : FullWord := ⟨true, 7, d, 0, b, 0, m⟩
    let v := modG s 0 fun G => putRec G ⟨1, 0, 0, true, false, false, some 0x1000⟩
    AtWord s 0 0 (lane s) 7 true ∧ barPre true false 3 (f 0x90 4 0) (taken s) 0 0 = none ∧
      barBegun (taken s) 0 [0] ⟨1, 0, 0, 2, 2, 0, 0, false, false⟩ = false ∧
      ends (exec (.barSync (f 0x90 4 0)) s) (fun y => (lane y).wait == .bar 1 0 && (lane y).pc == 0x1000) = true ∧
      getRec (groupOf v) 1 0 = some ⟨1, 0, 0, true, false, false, some 0x1000⟩ ∧
      ends (exec (.barSync (f 0x90 4 0)) v) (fun y => readV (lane y) 4 == gen 2 && (lane y).pc == 0x1008) = true ∧
      barStatPre (f 0x90 4 0) (taken s) 0 0 = none ∧
      goes (exec (.barStat (f 0x90 4 0)) s) (did s 0 0 true fun t =>
        ((barWords ⟨1, 0, 0, 2, 2, 0, 0, false, false⟩).zipIdx).foldl (fun t x => writeV t (4 + x.2) (gen x.1)) t) = true := by
  intros; (repeat' apply And.intro) <;> decide +kernel +revert

/-- Lanes 0 and 1 at one word, with v1 5 and 0xFFFFFFFE, and p1 true and false. -/
def pairBench : State :=
  let one (l : Nat) (a : W32) (b : Bool) (s : State) : State := modT s 0 l fun t =>
    regs [(1, a)] { Thread.initial 0x1000 255 0 with ibuf := (lane (bench id)).ibuf, p := t.p.set 1 ⟨b, false⟩ }
  { one 1 0xFFFFFFFE false (one 0 5 true (bench id)) with coach := some ⟨0, 0, [(0, 0), (0, 1)]⟩ }

theorem witness_CrossLane :
    let s := pairBench
    let th : Nat → Thread := laneOf s
    let f (d a b : Byte) (ty m : Nat) : FullWord := ⟨true, 7, d, a, b, 0, BitVec.ofNat 16 (ty * 2 ^ 11 + m)⟩
    let put (F : Nat → Thread → Thread) : State := allDid s 0 [0, 1] true F
    let word_ (F : Nat → W32) : State := put fun k => late s [(4, gen (F k))] []
    Gathered s 0 [0, 1] th true ∧ Calm s 0 ∧ mmkOf (f 2 1 0 0 0) = false ∧ pvOf (f 2 1 0 0 0) = false ∧
      readP (th 0) 1 = ⟨true, false⟩ ∧ readP (th 1) 1 = ⟨false, false⟩ ∧ readV (th 0) 1 = gen 5 ∧ readV (th 1) 1 = gen 0xFFFFFFFE ∧
      xPre .vote (f 2 1 0 0 0) (taken s) 0 0 = none ∧ xPre .vote (f 4 1 0 0 2) (taken s) 0 0 = none ∧
      goes (exec (.xvote (f 2 1 0 0 0)) s) (put fun _ => late s [] [(2, ⟨false, false⟩)]) = true ∧
      goes (exec (.xvote (f 2 1 0 0 1)) s) (put fun _ => late s [] [(2, ⟨true, false⟩)]) = true ∧
      goes (exec (.xvote (f 4 1 0 0 2)) s) (word_ fun _ => 1) = true ∧
      xPre .elect (f 2 1 0 0 0) (taken s) 0 0 = none ∧
      goes (exec (.xelect (f 2 1 0 0 0)) s) (put fun k => late s [] [(2, ⟨k == 0, false⟩)]) = true ∧
      xPre .bpc (f 4 1 0 0 0) (taken s) 0 0 = none ∧
      goes (exec (.xbpc (f 4 1 0 0 0)) s) (word_ fun k => BitVec.ofNat 32 k) = true := by
  intros; (repeat' apply And.intro) <;> decide +kernel +revert

theorem witness_CrossLaneWords :
    let s := pairBench
    let f (b : Byte) (ty m : Nat) : FullWord := ⟨true, 7, 4, 1, b, 0, BitVec.ofNat 16 (ty * 2 ^ 11 + m)⟩
    let word_ (F : Nat → W32) : State := allDid s 0 [0, 1] true fun k => late s [(4, gen (F k))] []
    xPre .shf (f 1 0 128) (taken s) 0 0 = none ∧ biOf (f 1 0 128) = true ∧ xSubOf (f 1 0 128) = 0 ∧
      goes (exec (.xshf (f 1 0 128)) s) (word_ fun _ => 0xFFFFFFFE) = true ∧
      goes (exec (.xshf (f 31 0 128)) s) (word_ fun k => if k = 0 then 5 else 0xFFFFFFFE) = true ∧
      xPre .red (f 0 0 5) (taken s) 0 0 = none ∧ goes (exec (.xred (f 0 0 5)) s) (word_ fun _ => 0xFFFFFFFB) = true ∧
      xPre .match_ (f 0 0 0) (taken s) 0 0 = none ∧ goes (exec (.xmatch (f 0 0 0)) s) (word_ fun k => BitVec.ofNat 32 (2 ^ k)) = true ∧
      xPre .red (f 0 4 0) (taken s) 0 0 = none ∧ goes (exec (.xred (f 0 4 0)) s) (word_ fun _ => 3) = true ∧
      xPre .scan (f 0 4 0) (taken s) 0 0 = none ∧
      goes (exec (.xscan (f 0 4 0)) s) (word_ fun k => if k = 0 then 5 else 3) = true := by
  intros; (repeat' apply And.intro) <;> decide +kernel +revert

/-- Queue 2 of a pipeline, four elements in the chip scratchpad at 256, bound to the workgroup both ways. -/
def queueBench (count : Nat) : State :=
  let s := with_ [(1, 0x99)]
  let st : PStage := ⟨0, 1, 1, 0, 4, [0], 0, false, 0, 0⟩
  modWg { s with
    queues := [(9, ⟨8, 2, true, 256, 4, 3, count, []⟩)], pipes := [(8, ⟨8, 0, 0, [st], 0, []⟩)],
    xs := writeWord s.xs 268 (gen 0x33) } 0 fun W => { W with q := [(2, ⟨9, true, true⟩)] }

theorem witness_QueuesAndAllotment :
    let s := queueBench 1
    let e := queueBench 0
    let full := queueBench 4
    let q : Queue := ⟨8, 2, true, 256, 4, 3, 1, []⟩
    let push : FullWord := ⟨true, 7, 0, 1, 2, 0, 0⟩
    let pop : FullWord := ⟨true, 7, 4, 0, 2, 0, 0⟩
    let peek : FullWord := ⟨true, 7, 4, 0, 0x92, 0, 0⟩
    let mv := word 0x00 4 0 0 4 2 0 0
    let un := qUnwait (taken s) 0 0 9
    AtWord s 0 0 (lane s) 7 true ∧ Calm s 0 ∧ qOf s 0 2 = some (9, q) ∧ qNum 2 = 2 ∧ qNB 2 = false ∧
      qPre true false push (taken s) 0 0 = none ∧ Holds (lane s) 1 0x99 ∧ getG (qPut un 0 9 q (gen 0x99)) 0 = getG un 0 ∧
      goes (exec (.qpush push) s) (past (qPut un 0 9 q (gen 0x99)) 0 0 true) = true ∧
      goes (exec (.qpush push) full) (modT (qWait (taken full) 0 0 9 true) 0 0 fun t => { t with cls := .normal, w := 0 }) = true ∧
      qPre false false pop (taken s) 0 0 = none ∧ qElem s q 3 = gen 0x33 ∧ getG (qTake un 0 9 q).2 0 = getG un 0 ∧
      goes (exec (.qpop pop) s) (past (modT (qTake un 0 9 q).2 0 0 (late s [(4, gen 0x33)] [])) 0 0 true) = true ∧
      qClosed e { q with count := 0 } = false ∧
      goes (exec (.qpop pop) e) (modT (qWait (taken e) 0 0 9 false) 0 0 fun t => { t with cls := .normal, w := 0 }) = true ∧
      qPre false true peek (taken s) 0 0 = none ∧
      goes (exec (.qpeek peek) s) (did s 0 0 true fun t => late s [] [(1, ⟨false, false⟩)] (late s [(4, gen 0x33)] [] t)) = true ∧
      Moded mv 0x00 4 0 0 ∧ r75Pre (rowMov mv) mv (taken s) 0 0 = none ∧
      goes (exec (.mov mv) s) (past (modT (qTake un 0 9 q).2 0 0 (late s [(4, gen 0x33)] [])) 0 0 true) = true := by
  intros; (repeat' apply And.intro) <;> decide +kernel +revert

/-- R79: a queue as D of a move, with room and without; a sum whose A pops the queue, as LaneArithmetic chains its operands. -/
theorem witness_QueueOperands :
    let s := queueBench 1
    let full := queueBench 4
    let q : Queue := ⟨8, 2, true, 256, 4, 3, 1, []⟩
    let mv := word 0x00 4 3 0 2 1 0 0
    let un := qUnwait (taken s) 0 0 9
    let sum := word 0x08 4 0 0 4 2 1 0
    let o := aluAdd (intTy 0x08) [gen 0x33] [gen 0x99]
    let x := (qTake un 0 9 q).2
    AtWord s 0 0 (lane s) 7 true ∧ Moded mv 0x00 4 3 0 ∧ qOf s 0 (qNum mv.d) = some (9, q) ∧ qNB mv.d = false ∧
      r75Pre (rowMov mv) mv (taken s) 0 0 = none ∧ getG (qPut un 0 9 q (gen 0x99)) 0 = getG un 0 ∧
      goes (exec (.mov mv) s) (past (qPut un 0 9 q (gen 0x99)) 0 0 true) = true ∧
      goes (exec (.mov mv) full) (modT (qWait (taken full) 0 0 9 true) 0 0 fun t => { t with cls := .normal, w := 0 }) = true ∧
      (r75Op (.add sum)).map (·.f) = some sum ∧ r75Pre (rowDAB typesI 0 sum) sum (taken s) 0 0 = none ∧
      popsQueue sum = true ∧ oselOf sum ≠ 3 ∧
      answers (destRegs (rowDAB typesI 0 sum) sum (nreqOf s 0) (lane s)) [4] = true ∧
      gives (readOperand (rowDAB typesI 0 sum) sum (taken s) 0 0 (lane s) 0) x [gen 0x33] = true ∧
      gives (readOperand (rowDAB typesI 0 sum) sum x 0 0 (lane s) 1) x [gen 0x99] = true ∧
      gives (readOperand (rowDAB typesI 0 sum) sum x 0 0 (lane s) 2) x [] = true ∧ getG x 0 = getG s 0 ∧
      o.trap.isNone = true ∧ o.bad.isNone = true ∧ settleAll false o.words = some [gen 0xCC] ∧
      goes (exec (.add sum) s) (past (qFlag (modT x 0 0 (commit (some x.cycle) false [(4, gen 0xCC)] o)) 0 0 2 false) 0 0 true) =
        true := by
  intros; (repeat' apply And.intro) <;> decide +kernel +revert

theorem witness_Allotment :
    let s := modG (bench id) 0 fun G => { G with nreq := 40 }
    let f (d : Byte) (n : Nat) : FullWord := ⟨true, 7, d, 0, 0, 0, BitVec.ofNat 16 n⟩
    let u := modG s 0 fun G => { G with nreq := 38 }
    let asked := modG s 0 fun G => { G with agrow := some ⟨64, 1⟩ }
    let w (push : Bool) (n : Nat) : State := modT { queueBench 1 with
      queues := [(9, ⟨8, 2, true, 256, 4, 3, n, [⟨0, 0, push, false⟩, ⟨0, 1, push, false⟩]⟩)], coach := none } 0 0 fun t =>
        { t with wait := .queue }
    let turn (push : Bool) (n : Nat) : Bool := ends (exec (.queueWaitService 9) (w push n)) fun y =>
      decide (y = modQ (w push n) 9 fun q => { q with waiters := [⟨0, 0, push, true⟩, ⟨0, 1, push, false⟩] }) &&
      waitOver y 0 (groupOf (w push n)) 0 (lane (w push n))
    AtWord s 0 0 (lane s) 7 true ∧ subTrap (allotSubs true (f 2 40)) = none ∧ (groupOf s).agrow = none ∧
      goes (exec (.agrow (f 2 40)) s) (did s 0 0 true (late s [] [(2, ⟨true, false⟩)])) = true ∧
      allot 39 = allot 38 ∧ goes (exec (.agrow (f 2 39)) u)
        (past (modT (modG (taken u) 0 (resize 39)) 0 0 (late s [] [(2, ⟨true, false⟩)])) 0 0 true) = true ∧
      subTrap (allotSubs false (f 0 16)) = none ∧ shrinkWaits 16 (groupOf s) = false ∧
      goes (exec (.ashrink (f 0 16)) s) (past (modG (taken s) 0 (resize 16)) 0 0 true) = true ∧
      grantable asked 0 0 = some (0, 64) ∧
      goes (exec (.agrowGrant 0 0) asked) (modG asked 0 fun G => answerGrow true (resize 64 G)) = true ∧
      turn false 1 = true ∧ turn true 3 = true := by
  intros; (repeat' apply And.intro) <;> decide +kernel +revert

/-! ### Matrix -/

/-- A gang on cores 0 to 3; operand A as reservation 0 of cores 0 and 1, B as reservation 1 of core 0, 64 rows of 64 bytes
each, in `.f16`. -/
def matBench : State :=
  let s := with_ [(1, 32), (2, 0)]
  let r (core num owner off : Nat) : Resv := ⟨core, num, owner, 0, 0x0C, false, 0, false, false, 0, 0, off, 4096, 0, 64, 0⟩
  let W := (aget s.wgs 0).getD bootWg
  { s with
    gangs := [(5, ⟨0, 0, 0, 0, true⟩)],
    wgs := [(0, { W with gang := some 5 }), (1, { W with gang := some 5, core := 1, index := 1 })],
    resvs := [r 0 0 0 0, r 0 1 0 4096, r 1 0 1 0], cycle := 100 }

def mmaWord : FullWord := ⟨true, 7, 2, 0, 1, 1, 0⟩

/-- mma, mzero, mqry, mrel (R231 to R236, R244, R245). -/
theorem witness_MatrixWords :
    let s := matBench
    let q := { s with carriages := [⟨0, [], none, [], 9, some (8, 60)⟩] }
    let z : FullWord := ⟨true, 7, 2, 0, 0, 0, 0⟩
    let n : FullWord := ⟨true, 7, 4, 2, 0, 0, 0⟩
    let ra : Resv := ⟨0, 0, 0, 0, 0x0C, false, 0, false, false, 0, 0, 0, 4096, 0, 64, 0⟩
    let rb : Resv := { ra with num := 1, off := 4096 }
    let rf : Resv := { ra with core := 1, owner := 1 }
    AtWord s 0 0 (lane s) 7 true ∧ mmaPre mmaWord s 0 0 = none ∧ Holds (lane s) 1 32 ∧ queueFull s 0 = false ∧
      ownResv s 0 0 = some ra ∧ ownResv s 0 1 = some rb ∧ bankOk s 0 ra = true ∧ bankOk s 0 rb = true ∧
      (memberOn s 0 1).map (·.1) = some 1 ∧ wgOwnsAcc s 1 2 = true ∧ resvOf s 1 0 = some rf ∧ bankOk s 1 rf = true ∧
      mmaBad mmaWord 32 s 0 ra rb rf = [] ∧
      ends (exec (.mma mmaWord) s) (fun y => (carriageOps (carriageAt y 0)).map (fun o => (o.mtrq, o.acc, o.kw, o.mode)) ==
        [(false, 2, 32, .f64)] && (lane y).pc == 0x1008) = true ∧
      subTrap (mzeroSubs z) = none ∧ accTrap s 0 2 = none ∧ accBusy s 0 2 = false ∧
      goes (exec (.mzero z) s) (past (clearAcc (taken s) 0 2) 0 0 true) = true ∧
      mqryPre n q 0 0 = none ∧ groupNames q 0 0 2 = false ∧ (carriageAt q (carriageOf 0)).retired = some (8, 60) ∧
      goes (exec (.mqry n) q) (past (modT { taken q with free := q.free + 1 } 0 0
        (late q [(4, gen 8), (5, gen 0)] [])) 0 0 true) = true ∧
      mrelPre ⟨true, 7, 1, 0, 0, 0, 0⟩ s 0 0 = none ∧
      resvBusy s 0 1 = false ∧
      ends (exec (.mrel ⟨true, 7, 1, 0, 0, 0, 0⟩) s) (fun y => y.resvs == [ra, rf]) = true := by
  intros; (repeat' apply And.intro) <;> decide +kernel +revert

/-- An accumulator named by an op: mzero waits. -/
def matBusy : State := match exec (.mma mmaWord) matBench with
  | .next y => modT { y with coach := some ⟨0, 0, [(0, 0)]⟩ } 0 0 fun _ => lane (with_ [(1, 32)])
  | _ => matBench

/-- mres from a descriptor at byte 32, mfill of a ready tile, mtrq of 32 by 32 (R230, R233, R246). -/
theorem witness_MatrixFills :
    let s := { with_ [(1, 32), (2, 0), (3, 0x00200020)] with
      cs := writeWords .empty 32 [.zero, gen 0x60000000, gen 64, gen 128, gen 16] }
    let f : FullWord := ⟨true, 7, 7, 1, 0, 0, 0⟩
    let r : Resv := ⟨0, 7, 0, 0, 0x0C, false, 0, false, false, 0, 0, 64, 128, 0, 16, 0⟩
    let u := { s with resvs := [r], tiles := [⟨0, 3, 0, false, 64, 128, false, .ready, none⟩] }
    let m : FullWord := ⟨true, 7, 7, 3, 2, 0, 0⟩
    let a : Resv := ⟨0, 0, 0, 0x10070343, 0x12, false, 2, false, false, 0, 0, 0, 2048, 1, 32, 1024⟩
    let q := { s with resvs := [a, { a with num := 1, off := 4096 }] }
    let t : FullWord := ⟨true, 7, 4, 0, 1, 3, 0⟩
    AtWord s 0 0 (lane s) 7 true ∧ mresPre f s 0 0 = none ∧ Holds (lane s) 1 32 ∧ 32 + 32 ≤ scratchOf s 0 ∧ resvOf s 0 7 = none ∧
      resvFrom 0 7 0 (readWords s.cs (csAddr s 0 + 32) 8) = (r, false) ∧
      goes (exec (.mres f) s) (past { taken s with resvs := [r] } 0 0 true) = true ∧
      mfillPre m u 0 0 = none ∧ (mfillInfo m).own u 0 = none ∧ Holds (lane u) 2 0 ∧ ownResv u 0 7 = some r ∧
      resvBusy u 0 7 = false ∧
      ends (exec (.mfill m) u) (fun y => y.mfills == [⟨0, 0, 3, 7, 0, 1, true⟩] && (lane y).wait == .mfill && (lane y).pc == 0x1000) = true ∧
      mtrqPre t q 0 0 = none ∧ Holds (lane q) 3 0x00200020 ∧ ownResv q 0 0 = some a ∧ mtrqAccepts a = true ∧
      fits a 32 32 = true ∧
      ends (exec (.mtrq t) q) (fun y => (carriageOps (carriageAt y 0)).map (fun o => (o.mtrq, o.ra, o.rb, o.kw)) ==
        [(true, 0, 1, 0x00200020)] && (lane y).pend == [⟨.mtrq q.uid, [(4, .zero), (5, .zero)], [], [], q.cycle⟩]) = true := by
  intros; (repeat' apply And.intro) <;> decide +kernel +revert

/-- mdrain of entry (0, 1) = 1.0, which takes 8 bytes (R242); mzero behind an op waits. -/
theorem witness_MatrixDrain :
    let s := with_ [(1, 512)]
    let a : Acc := { Acc.clear 0 2 with mode := .f64, ents := [(1, 0x3FF0000000000000, 3)] }
    let u := { s with accs := [a], tiles := [⟨0, 3, 0, false, 0, 32768, false, .empty, none⟩] }
    let f : FullWord := ⟨true, 7, 2, 3, 1, 0, 0x0800⟩
    AtWord u 0 0 (lane u) 7 true ∧ mdrainPre f u 0 0 = none ∧ tileTrap u 0 3 = none ∧ Holds (lane u) 1 512 ∧ tyOf f = 1 ∧
      accBusy u 0 2 = false ∧ accOf u 0 2 = a ∧ drainCheck a = a ∧ drainTrap a = none ∧ a.spc = 0 ∧ a.psn = 0 ∧
      ends (exec (.mdrain f) u) (fun y => (tileOf y 0 3).map (·.st) == some .filling && accOf y 0 2 == a &&
        (y.mdrains.head?.map fun m => (m.words.take 4, m.words.length)) ==
          some ([(0, gen 0), (4, gen 0), (8, gen 0), (12, gen 0x3FF00000)], 8192)) = true ∧
      accBusy matBusy 0 2 = true ∧ AtWord matBusy 0 0 (lane matBusy) 7 true ∧
      goes (exec (.mzero ⟨true, 7, 2, 0, 0, 0, 0⟩) matBusy)
        (modT (taken matBusy) 0 0 fun t => { t with cls := .normal, w := 0 }) = true := by
  intros; (repeat' apply And.intro) <;> decide +kernel +revert

/-- R237's example and R238's: products 2^53, 1, 1, −2^53 sum to 1, then 2; 4,608 − 512 on the grid 2^−9 is 4,096 with column 1. A
transpose of 1.0, 2.0 over 1.5, 0.5 (R246): scales 2^−8 and 2^−7, codes 256, 384 and 256, 64. -/
theorem witness_MatrixValues :
    let row (l : List (Int × Int)) : ORow := ⟨l, false, false, false, false, false⟩
    let a := row [(1, 53), (1, 0), (1, 0), (1, 53)]
    let b := row [(1, 0), (1, 0), (1, 0), (-1, 0)]
    let o : Op := { newOp matBench 0 0 mmaWord 4 with mode := .f64, ovw := true, grid := 0 }
    let q : Op := { o with mode := .x64, grid := -9 }
    let old : Acc := { Acc.clear 0 2 with mode := .f64, ents := [(0, 0x3FF0000000000000, 3)] }
    let x := opArray q (Acc.clear 0 2) [row [(12, -2), (8, -4)]] [row [(3, 0), (-2, 0)]]
    let rs : Resv := ⟨0, 0, 0, 0x16070343, 0x12, false, 2, false, false, 0, 0, 0, 2048, 4, 32, 1024⟩
    let rd : Resv := { rs with num := 1, off := 4096 }
    let w (m : Mem) (a : Nat) (v : W32) : Mem := writeWord m a (gen v)
    let t : Op := { o with mtrq := true, kw := 0x00020002, ra := 0, rb := 1, rm := 0, pos := ⟨0, 0, 0, 0, 0, 7⟩, id := 5, grp := 0 }
    let s := { matBusy with
      cycle := 200, resvs := [rs, rd], carriages := [⟨0, [], none, [(t, 150)], 1, none⟩],
      ob := w (w (w (w .empty 0 0x4038) 32 0x303C) 1024 127) 1028 127 }
    let s := modT s 0 0 fun u => { u with pend := [⟨.mtrq 5, [(4, .zero), (5, .zero)], [], [], 3⟩] }
    (accEntry (opArray o old [a] [b]) 0).1 = 0x3FF0000000000000 ∧
      (accEntry (opArray { o with ovw := false } old [a] [b]) 0).1 = 0x4000000000000000 ∧
      accEntry x 0 = (4096, 1) ∧ satSum (-9) 0 [((12, -2), (3, 0)), ((8, -4), (-2, 0))] = 4096 ∧
      satSum 0 (2 ^ 63 - 5) [((3, 1), (1, 0)), ((-1, 0), (1, 0))] = 2 ^ 63 - 2 ∧ entryRes .x64 4096 = 1 ∧
      resvOf s 0 0 = some rs ∧ resvOf s 0 1 = some rd ∧ Narrow rs ∧ Narrow rd ∧ Memory.wf s.ob = true ∧
      resvBase s rs + 1032 ≤ resvBase s rd ∧ readWord s.ob 0 = gen 0x4038 ∧
      ends (exec (.mmaOpRetire 0) s) (fun y => [4096, 4097, 4128, 4129, 5120, 5124].map (readByte y.ob) ==
        [0x78, 0x7C, 0x78, 0x68, 119, 120] && (lane y).pend.isEmpty && readV (lane y) 4 == gen 0 && readV (lane y) 5 == gen 0 &&
        y.ob.data.length == s.ob.data.length + 6) = true := by
  intros; (repeat' apply And.intro) <;> (try unfold Narrow) <;> decide +kernel +revert

/-- mdrain of the entry 4,096 on the grid 2^−9 as binary32 and, rounded to nearest, bfloat16: 8.0 (R242, R246). -/
theorem witness_MatrixConvert :
    let s := with_ [(1, 256)]
    let a : Acc := { Acc.clear 0 2 with mode := .x64, g := -9, ents := [(1, 4096, 1)] }
    let u := { s with accs := [a], tiles := [⟨0, 3, 0, false, 0, 16384, false, .empty, none⟩] }
    let f : FullWord := ⟨true, 7, 2, 3, 1, 0, 0x7000⟩
    AtWord u 0 0 (lane u) 7 true ∧ mdrainPre f u 0 0 = none ∧ tileTrap u 0 3 = none ∧ Holds (lane u) 1 256 ∧ tyOf f = 0x0E ∧
      spaceOf f = 0 ∧ accBusy u 0 2 = false ∧ accOf u 0 2 = a ∧ drainCheck a = a ∧ drainTrap a = none ∧
      ends (exec (.mdrain f) u) (fun y => (tileOf y 0 3).map (·.st) == some .filling &&
        (y.mdrains.head?.map fun m => (m.words.take 2, m.words.length)) ==
          some ([(0, gen 0), (4, gen 0x41000000)], 4096)) = true := by
  intros; (repeat' apply And.intro) <;> decide +kernel +revert

/-- The op of `matBusy` begins to execute once fetched, and retires (R336, R338). -/
theorem witness_MatrixEvents :
    let s := { matBusy with cycle := 200 }
    let o : Op := ((carriageOps (carriageAt s 0)).head?).getD
      (newOp s 0 0 mmaWord 32)
    let d : OpData := ⟨[], [], []⟩
    let e := { s with carriages := [⟨0, [], none, [({ o with data := some d }, 150)], 1, none⟩] }
    let x := { s with carriages := [⟨0, [], none, [(o, 250)], 1, none⟩] }
    let m := { s with
      mfills := [⟨0, 0, 3, 1, 64, 1, true⟩], tiles := [⟨0, 3, 0, false, 0, 8, false, .ready, none⟩],
      cs := writeWord .empty 0 (gen 0x77) }
    let w := { s with mdrains := [⟨0, 3, false, [(4, gen 9)]⟩], tiles := [⟨0, 3, 0, false, 0, 64, false, .filling, none⟩] }
    (carriageAt s 0).fetch.map (fun x => (x.1, decide (x.2 ≤ s.cycle))) = some (o, true) ∧ o.mtrq = false ∧ o.data = none ∧
      goes (exec (.opOperandFetchComplete 0) x)
        { x with carriages := [⟨0, [], none, [({ o with data := some (fetchOp x o) }, 250)], 1, none⟩] } = true ∧
      opWaits s o = false ∧ executing s (carriageAt s 0) = false ∧
      ends (exec (.mmaExecuteStart 0) s) (fun y => (carriageAt y 0).exec.map (fun x => (x.1.id, x.2)) == [(o.id, 235)]) = true ∧
      ends (exec (.mmaOpRetire 0) e) (fun y => (carriageAt y 0).retired == some (o.seq, 200) &&
        (accOf y 0 2).mode == .f64 && (accOf y 1 2).mode == .f64) = true ∧
      (m.mfills.find? fun x => x.grp == 0).isSome = true ∧
      ends (exec (.mfillComplete 0) m) (fun y => readWord y.ob (4096 + 64) == gen 0x77 && (lane y).pc == 0x1008) = true ∧
      ends (exec (.mdrainComplete 0 3) w) (fun y => readWord y.cs 4 == gen 9 && (tileOf y 0 3).map (·.st) == some .ready) = true := by
  intros; (repeat' apply And.intro) <;> decide +kernel +revert

/-! ### Copies -/

def copyBench : State :=
  let s := with_ [(1, 64), (2, 3)]
  let d : List W32 := [128, 0, 256, 0, 4, 1, 0, 0, 4, 1, 64, 64, BitVec.ofNat 32 (3 * 2 ^ 19 + 2 ^ 16), 0, 0, 0]
  { s with
    parts := [{ bootPart with xs := [(0, ⟨0, 4096⟩)] }], xs := writeWords .empty 128 [gen 11, gen 22, gen 33, gen 44],
    cs := writeWords .empty 64 (d.map gen), tiles := [⟨0, 3, 0, false, 1024, 128, false, .ready, none⟩] }

/-- The six copy words with the same descriptor at byte 64, one with a barrier, and one that fills a tile. -/
theorem witness_CopyStarts :
    let s := copyBench
    let f (c : Byte) (m : W16) : FullWord := ⟨true, 7, 4, 1, 0, c, m⟩
    let n : FullWord := { f 0 0 with b := 0x90 }
    let e := { s with tiles := s.tiles.map fun u => { u with st := .empty } }
    let starts (k : CopyKind) (i : Instr) (f : FullWord) : Bool :=
      copyPre k f s 0 0 == none && namesTile k f == (k == .tdrain) && (formingOf s 0 k).isNone && !copyBlocked k f s 0 &&
      ends (exec i s) (fun y => y.copies.map (fun c => (c.kind, c.forming, c.mod, c.carts.map (·.desc))) ==
        [(k, false, f.mod, [readWords s.cs 64 16])] && (lane y).pc == 0x1008)
    AtWord s 0 0 (lane s) 7 true ∧ Holds (lane s) 1 64 ∧ 64 + 64 ≤ scratchOf s 0 ∧ ownsTile s 0 3 = true ∧
      copyPre .cpyc (f 0x83 0) e 0 0 = none ∧ copyBlocked .cpyc (f 0x83 0) e 0 = false ∧
      ends (exec (.cpyc (f 0x83 0)) e) (fun y => y.copies.map (·.tile) == [0x83] && y.tiles.map (·.st) == [.filling]) = true ∧
      starts .cpy (.cpy (f 0 0)) (f 0 0) = true ∧ starts .cpyc (.cpyc (f 0 0)) (f 0 0) = true ∧
      starts .gath (.gath (f 2 0x1000)) (f 2 0x1000) = true ∧ starts .scat (.scat (f 2 0x1000)) (f 2 0x1000) = true ∧
      starts .cpys (.cpys (f 6 0)) (f 6 0) = true ∧ (groupBar s 0 1 0).isSome = true ∧ starts .cpy (.cpy n) n = true ∧
      ends (exec (.cpy n) s) (fun y => y.copies.map (·.bar) == [0x90]) = true ∧ starts .tdrain (.tdrain (f 0x83 0)) (f 0x83 0) = true := by
  intros; (repeat' apply And.intro) <;> decide +kernel +revert

theorem witness_CopyPrefetch :
    let s := copyBench
    let f : FullWord := ⟨true, 7, 0, 1, 0, 0, 0⟩
    let a : FullWord := { f with mod := 0x0380 }
    let e := { s with cs := .empty }
    let d := descOf (readWords s.cs 64 16)
    let c : Copy := ⟨0, .cpy, 0, 0, 0, false, false, [], 0, 0, 0, false, none⟩
    AtWord s 0 0 (lane s) 7 true ∧ cprePre f s 0 0 = none ∧ copyAcq f.mod = false ∧ Holds (lane s) 1 64 ∧ inFlight s 0 < 64 ∧
      descError .cpy 0 false none d = false ∧ getG (prefetch c d (taken s)) 0 = getG s 0 ∧
      goes (exec (.cpre f) s) (past (prefetch c d (taken s)) 0 0 true) = true ∧
      cprePre a s 0 0 = none ∧ copyAcq a.mod = true ∧
      goes (exec (.cpre a) s) (past (prefetch c d (acquireAt (taken s) 0 3)) 0 0 true) = true ∧
      descError .cpy 0 false none (descOf (readWords e.cs 64 16)) = true ∧
      goes (exec (.cpre f) e) (past (taken e) 0 0 true) = true := by
  intros; (repeat' apply And.intro) <;> decide +kernel +revert

/-- The state with a copy under way. -/
def copying (i : Instr) : State := match exec i copyBench with
  | .next y => y
  | _ => copyBench

/-- Four words from the chip scratchpad to byte 256 of `.cs`; a descriptor of zeros is in error; cpys does not take `.xs` as a source
(R178) and reports twice. -/
theorem witness_CopyEvents :
    let s := copying (.cpy ⟨true, 7, 4, 1, 0, 0, 0⟩)
    let u := copying (.cpys ⟨true, 7, 4, 1, 0, 6, 0⟩)
    let id := ((s.copies.head?).map (·.id)).getD 0
    let bad := { s with copies := s.copies.map fun c => { c with carts := c.carts.map fun k => { k with desc := List.replicate 16 .zero } } }
    (findCopy s id).any (copyReady s) = true ∧
      ((findCopy s id).map fun c => ((runCopy s c).2.stopped, (runCopy s c).2.st)) = some (false, 0) ∧
      ends (exec (.copyCompletion id) s) (fun y => y.copies.isEmpty && readWord y.cs 268 == gen 44 &&
        readV (lane y) 4 == gen 0 && (lane y).pend.isEmpty) = true ∧
      goes (exec (.copyStop id) s) s = true ∧
      ((findCopy bad id).map fun c => (decide ((runCopy bad c).1 = bad), (runCopy bad c).2.st)) = some (true, 2) ∧
      ends (exec (.copyCompletion id) bad) (fun y => readV (lane y) 4 == gen 0x20000000) = true ∧
      ends (exec (.cpysSourceReadDone id) u) (fun y => ((findCopy y id).map fun c => (c.srcDone, c.result.isSome)) == some (true, true) &&
        ends (exec (.copyCompletion id) y) (fun z => z.copies.isEmpty && readV (lane z) 6 == gen 0x20000000)) = true := by
  intros; (repeat' apply And.intro) <;> decide +kernel +revert

/-- A copy of a row of words within `.cs`: a window one column left of its source, a conversion, a gathered and a scattered
row, a sum. -/
def movedTo (kind : CopyKind) (mod : W16) (d : List W32) (rows : AList Word) (F : State → CopyResult → Bool) : Bool :=
  let k : Cart := ⟨0, 0, d.map gen, 1, rows, 4, 0, none, 0, 0, false⟩
  let c : Copy := ⟨0, kind, 0, 0, 0, false, false, [k], 0, 0, mod, false, none⟩
  let s := { with_ [] with copies := [c], cs := writeWords .empty 64 [gen 11, ⟨22, 0xF⟩, gen 0xC0200000, gen 0x7FC00000] }
  match aget s.wgs 0, aget s.grids 0 with
  | some W, some K =>
    let x := runCopy s c
    decide (ScratchCopy s c k W K) && copyReady s c && decide (InScratch K 128) && copyAt c W 128 == 128 &&
      decide ({ x.1 with cs := s.cs } = s) && readWord x.1.cs 72 == gen 0xC0200000 && !x.2.stopped && F x.1 x.2
  | _, _ => false

theorem witness_CopyData :
    let fm (sf df : Nat) : W32 := BitVec.ofNat 32 (2 ^ 27 * sf + 2 ^ 22 * df + 2 ^ 19 + 2 ^ 16)
    let d (src ox wx : W32) (sf df : Nat) : List W32 := [src, 0, 128, 0, 2, 4, ox, 0, wx, 1, 2, 2, fm sf df, 0, 0, 0]
    movedTo .cpy 0 (d 64 (-1) 4 0 0) [] (fun s r => r.st == 0 &&
      readWords s.cs 128 4 == [gen 0, gen 11, ⟨22, 0xF⟩, gen 0]) = true ∧
    movedTo .cpyc 0 (d 72 0 1 0x0E 0x04) [] (fun s r => r.st == 0 && readWord s.cs 128 == gen 0xFFFFFFFE) = true ∧
    movedTo .cpyc 0 (d 76 0 1 0x0E 0x04) [] (fun s r => r.st == 1 && readWord s.cs 128 == gen 0) = true ∧
    movedTo .gath 0 (d 64 0 1 4 4) [(3, gen 1)] (fun s r => r.st == 0 && readWord s.cs (128 + 24) == gen 0xC0200000) = true ∧
    movedTo .gath 0 (d 64 0 1 4 4) [(3, gen 4)] (fun s r => r.st == 0 && readWord s.cs (128 + 24) == gen 0) = true ∧
    movedTo .gath 0 (d 64 0 1 4 4) [(3, ⟨1, 0xF⟩)] (fun _ r => r.st == 5) = true ∧
    movedTo .scat 0 (d 64 0 1 4 4) [(0, gen 2)] (fun s r => r.st == 0 && readWord s.cs (128 + 16) == gen 11) = true ∧
    movedTo .scat 4 ((d 64 0 1 4 4).set 2 76) [(0, gen 0)] (fun s r => r.st == 0 && readWord s.cs 76 == gen 0x7FC0000B) = true ∧
    movedTo .scat 0 (d 64 0 1 4 4) [(0, gen 4)] (fun s r => r.st == 0 && readWord s.cs 128 == gen 0) = true := by
  intros; (repeat' apply And.intro) <;> decide +kernel +revert

/-! ### Steps of the hardware's agents -/

/-- Promotion at 4,096, a result of `.direct`, one red, a fetch, a wait that is over, an overdue barrier wait, a free sync object,
a workgroup that is done (R72, R198, R225, R287, R288, R290, R352). -/
theorem witness_SchedulerEvents :
    let s := { with_ [(1, 5)] with coach := none }
    let at_ (F : Thread → Thread) : State := modT s 0 0 F
    let e := at_ fun t => { t with elg := true }
    let p := at_ fun t => { t with pend := [⟨.direct, [(4, gen 9)], [], [], 0⟩], reds := 2, w := 4096 }
    let f := { at_ fun t => { t with ibuf := none } with
      tlb := [⟨0, 0, 0, 3, 0x103C2⟩], hbm := writeWords .empty 0x11000 [gen 7, gen 8] }
    let half := fetchHalf f 0 0 false 0x1000
    let c := at_ fun t => { t with wait := .cond 1 100 0 }
    let w := modGrid (at_ fun t => { t with wait := .bar 1 0, stuck := 9 }) 0 fun k => { k with kd := { k.kd with wdog := 8, tvec := 0x4000 } }
    let q := { at_ fun t => { t with wait := .sacq } with
      syncWaits := [⟨true, 2, 0, 0, true, 3, 0, 0, false⟩], xs := writeWord .empty 128 (gen 0) }
    let x := modWg { s with groups := [], tiles := [⟨0, 3, 0, false, 0, 8, false, .ready, none⟩] } 0 fun W => { W with status := .exitPending }
    (coachOf e 0 0).map (·.lanes) = some [(0, 0)] ∧
      ends (exec (.coachFormation 0 0) e) (fun y => y.coach.map (·.lanes) == some [(0, 0)] && y.issued == [(0, 0)]) = true ∧
      coachOf s 0 0 = none ∧
      ends (exec (.agePromotion 0 0) p) (fun y => (lane y).cls == .promoted) = true ∧
      ends (exec (.variableLatencyResult 0 0) p) (fun y => readV (lane y) 4 == gen 9 && (lane y).pend.isEmpty) = true ∧
      ends (exec (.redPerformed 0 0) p) (fun y => (lane y).reds == 1) = true ∧
      fetchLanes f 0 0 = [0] ∧ lineMates f 0 0 = [0] ∧ half.1.toOption = some (gen 7) ∧ (fetchHalf half.2 0 0 false 0x1004).1.toOption = some (gen 8) ∧
      partOf half.2 0 = partOf f 0 ∧ (getG (fetchHalf half.2 0 0 false 0x1004).2 0).isSome = true ∧
      ends (exec (.instructionFetchComplete 0 0) f) (fun y => (lane y).ibuf == some ⟨gen 7, gen 8⟩) = true ∧
      waitDone { c with cycle := 200 } 0 (lane c) = true ∧
      overdue w 0 0 = [0] ∧
      ends (exec (.watchdog 0 0) w) (fun y => (lane y).pc == 0x4000 && (groupOf y).cause == BitVec.ofNat 32 causeWatchdog) = true ∧
      (waiters q true 2).map (·.grp) = [0] ∧ ((waiters q true 2).all fun w => (syncGrant w.excl (objectWord q w)).isSome) = true ∧
      ends (exec (.sacqGrant true 2) q) (fun y => y.syncWaits.map (·.granted) == [true] &&
        waitOver y 0 (groupOf q) 0 (lane q)) = true ∧
      (aget x.wgs 0).map (fun W => (decide (W.status = .exitPending), wgBusy x 0 W)) = some (true, false) ∧
      ends (exec (.exitPendingRelease 0) x) (fun y => y.tiles.isEmpty && y.wgs.isEmpty) = true := by
  intros; (repeat' apply And.intro) <;> decide +kernel +revert

/-- A buffered word for `.xs`, a walk through three tables, a clean and a dirty line, a scrub, a line with sixteen bad words
(R272 to R275, R307, R311). -/
theorem witness_MemoryEvents :
    let s := bench id
    let b : WcBuf := ⟨0, true, 2, 0, false, false, false, 0, 0, [(3, ⟨true, 15, gen 9⟩)]⟩
    let w := { s with wc := [b] }
    let v := { s with wc := [{ b with xs := false, line := 5 }] }
    let pte (n ty : Nat) : List Word := [gen (BitVec.ofNat 32 (n * 2 ^ 16 + ty)), gen 0]
    let x := { s with
      parts := [{ bootPart with loc := some ⟨0, 2 ^ 30⟩, root := 0x10001 }],
      hbm := writeWords (writeWords (writeWords .empty 0x10000 (pte 2 1)) 0x20000 (pte 3 1)) 0x30008 (pte 7 0x3C2) }
    let d : CLine := ⟨0, 5, List.replicate 16 (gen 1), true, 0, 0⟩
    let l := { s with l2 := [d] }
    let h := { v with l2 := [d] }
    let bad (m : Mem) (at_ : Nat) : Mem := writeWords m at_ (List.replicate 16 ⟨0, 1⟩)
    let q := { s with hbm := bad (bad .empty 0) 64 }
    wcFind w 0 true 2 = some b ∧ Memory.allWf w = true ∧
      ends (exec (.storePathFlush 0 true 2) w) (fun y => y.wc.isEmpty && readWord y.xs 140 == gen 9) = true ∧
      (wcFind h 0 false 5).isSome = true ∧ l2Find h 5 = some d ∧
      ends (exec (.storePathFlush 0 false 5) h) (fun y => y.wc.isEmpty &&
        ((l2Find y 5).map fun c => (c.words.take 4, c.dirty)) == some ([gen 1, gen 1, gen 1, gen 9], true)) = true ∧
      canonical 0x1F010 = true ∧ tlbFind x 0 0 0x1F010 = none ∧
      ((partIx x 0).map fun p => decide ((walk x (baseOf (dieOf 0)) p 0x1F010).1 = .ok 0x7F010 0x703C2 3)) = some true ∧
      ends (exec (.translationWalk 0 0 0x1F010) x) (fun y => y.tlb == [⟨0, 0, 1, 3, 0x703C2⟩]) = true ∧
      lineSound s 5 = true ∧ goes (exec (.hbmLineRead 5) s) s = true ∧
      l2Find l 5 = some d ∧ ends (exec (.hbmLineWrite 5) l) (fun y => readWord y.hbm 324 == gen 1 && l2Find y 5 == some { d with dirty := false }) = true ∧
      ((s.ctrls[2]?).map fun c => (c.scrubbed, lineSound s (lineAt 2 c.scrubbed))) = some (0, true) ∧
      goes (exec (.patrolScrub 2) s) { s with ctrls := lmod s.ctrls 2 fun c => { c with scrubbed := 1 } } = true ∧
      opens q 0 0 = true ∧ (badWords (plainLine q 0)).length = 16 ∧
      ((groupLines 0).filter (· != 0)).any (fun m => !lineSound q m) = true ∧
      (hbmRead q 0 0 0).1.all isPoison = true ∧ opens s 5 7 = false ∧ (hbmRead s 5 7 0).1.all isPoison = true := by
  intros; (repeat' apply And.intro) <;> decide +kernel +revert

/-- R272 to R276: a dirty line whose third word mismatches goes to its cells and its parity line; a line with one bad word comes
back from the parity of its group, by a read and by the scrubber. -/
theorem witness_HbmEvents :
    let old := List.replicate 16 (gen 3)
    let s := { bench id with
      hbm := writeWords .empty 320 old, parity := writeWords .empty (parityAddr 5) old }
    let c : CLine := ⟨0, 5, (List.replicate 16 (gen 1)).set 2 ⟨6, 0⟩, true, 0, 0⟩
    let new := (List.replicate 16 (gen 1)).set 2 ⟨6, 0xF⟩
    let l := { s with l2 := [c] }
    let r := { s with hbm := writeWords .empty 320 (old.set 2 ⟨9, 1⟩) }
    let off5 := { r with parity := writeWords .empty (parityAddr 5) (old.set 7 (gen 4)) }
    let torn := { r with hbm := writeWords r.hbm 384 [⟨1, 0⟩] }
    let found (s : State) (src : Nat) : State := report (hbmPut s 5 old) 0 src 5 4
    let at5 (s : State) : State := { s with ctrls := lmod s.ctrls 0 fun c => { c with scrubbed := 5 } }
    l2Find l 5 = some c ∧ c.words.length = 16 ∧ opens l 5 c.key = true ∧ lineSound l 5 = true ∧ l.armings = [] ∧
      Memory.allWf l = true ∧
      ends (exec (.hbmLineWrite 5) l) (fun y => l2Find y 5 == some { c with dirty := false } && plainLine y 5 == new &&
        hbmLine y 6 == hbmLine l 6 && readWords y.parity (parityAddr 5) 16 == new) = true ∧
      old.length = 16 ∧ opens r 5 0 = true ∧ badWords (plainLine r 5) = [2] ∧ maskOf [2] = 4 ∧
      cipherLine false (lineKey r 5) 5 old = old ∧ badWords old = [] ∧
      ((List.range 16).all fun i => i == 2 || old.getD i .zero == (plainLine r 5).getD i .zero) = true ∧
      (hbmRead off5 5 0 0).1 = ((old.set 2 ⟨9, 0xF⟩).set 7 ⟨3, 0xF⟩) ∧ hbmLine (hbmRead off5 5 0 0).2 5 = (hbmRead off5 5 0 0).1 ∧
      off5.armings = [] ∧ Memory.allWf off5 = true ∧ opens off5 5 0 = true ∧
      lineSound torn 6 = false ∧ (hbmRead torn 5 0 0).1 = old.set 2 ⟨9, 0xF⟩ ∧
      (((groupLines 5).filter (· != 5)).all fun m => lineSound r m) = true ∧
      readWords r.parity (parityAddr 5) 16 = ((groupLines 5).filter (· != 5)).foldl (fun acc m => xorLine acc (hbmLine r m)) old ∧
      (hbmRead r 5 0 0).1 = old ∧ goes (exec (.hbmLineRead 5) r) (found r 0) = true ∧
      ((at5 r).ctrls[0]?).map (fun c => lineAt 0 c.scrubbed) = some 5 ∧
      ends (exec (.patrolScrub 0) (at5 r)) (fun y => plainLine y 5 == old && (y.ctrls[0]?).map (·.scrubbed) == some 6) = true ∧
      ((report r 0 0 5 4).ctrls[stackOf 320]?).map (·.corrected) = some 1 := by
  intros; (repeat' apply And.intro) <;> decide +kernel +revert

/-! ### Messages -/

/-- A request of the physical function at member 0. -/
def req (type op : Nat) (ws : List W32) : Request :=
  ⟨BitVec.ofNat 8 type, BitVec.ofNat 8 op, ws.length, false, ⟨0, 5, 0, ws⟩⟩

/-- The package with partition 0 on quad 0 and a request at the head of its member's inbox. -/
def asking (r : Request) (F : State → State) : State :=
  let s := F { State.reset with parts := [{ bootPart with loc := some ⟨0, 2 ^ 30⟩ }] }
  { s with inboxes := [[r], [], [], []], subj := { s.subj with msg := r.msg } }

/-- Whether a request is answered with a status, and its effect meets a test. -/
def told (i : Instr) (s : State) (status : Nat) (p : State → Bool) : Bool :=
  ends (exec i s) fun y => ((getIface y 0).mbrep.getD 1 0).toNat / 2 ^ 24 == status && p y

/-- R403, R409, R410. -/
theorem witness_Requests :
    let r := req 1 1 [0x101, 2, 0, 0, 0]
    let s := asking r id
    let bad := { r with nw := 4 }
    let vf := { r with msg := { r.msg with vi := 1 } }
    let odd := req 9 1 []
    let inv : Request := { req 1 9 [0x100, 0, 0, 0, 0] with msg := { (req 1 9 [0x100, 0, 0, 0, 0]).msg with vi := 1 } }
    let fw := req 8 1 [0, 0, 4]
    let x : Stream := { newStream (req 2 1 [3, 0, 0, 16, 0, 0, 0, 0, 0, 0, 0]) false with st := .run, firmware := false }
    let w := { s with streams := [x] }
    0 < s.ifaces.length ∧ atHead s 1 1 = some r ∧ s.power = .running ∧
      atHead (asking bad id) 1 1 = some bad ∧ shaped 5 [0x33F] bad = false ∧
      told .partitionCreate (asking bad id) stBadMessage (fun y => y.parts.length == 1) = true ∧
      atHead (asking vf id) 1 1 = some vf ∧ shaped 5 [0x33F] vf = true ∧
      ends (exec .partitionCreate (asking vf id)) (fun y => ((getIface y 1).mbrep.getD 1 0) == 0x04000000) = true ∧
      told .partitionCreate (asking r fun s => { s with power := .recovery }) stState (fun y => y.parts.length == 1) = true ∧
      known odd = false ∧ told .badMessage (asking odd id) stBadMessage (fun y => y.inboxes == [[], [], [], []]) = true ∧
      ifaceOpen s 0 = true ∧ (getIface s 0).busy = false ∧
      ends (exec (.registerWrite 0 0x10004 7) s) (fun y => aget (getIface y 0).mbreq 1 == some 7) = true ∧
      ends (exec (.registerWrite 0 0x10200 1) s) (fun y => (getIface y 0).busy && (y.inboxes.getD 0 []).length == 2) = true ∧
      streamAt w 0 48 = some 3 ∧ getStream w 3 = some x ∧
      ends (exec (.sqtail 0 48 16) w) (fun y => (getStream y 3).map (·.tail) == some 16) = true ∧
      ends (exec (.sqtail 0 48 17) w) (fun y => (getStream y 3).map (·.ovr) == some true) = true ∧
      told .scrub (asking (req 4 2 [13, 1]) id) stBadMessage (fun y => decide (y.ctrls = s.ctrls)) = true ∧
      pfOnly 1 9 = false ∧ ownPart (takeHead (asking inv id) inv) inv = false ∧
      ends (exec .tlbinv (asking inv id)) (fun y => ((getIface y 1).mbrep.getD 1 0) == 0x04000000) = true ∧
      told .podkey (asking (req 6 4 []) fun s => { s with power := .recovery }) stState (fun _ => true) = true ∧
      told .fwimage (asking (req 8 1 []) fun s => { s with power := .recovery }) stBadMessage (fun _ => true) = true ∧
      shaped 3 [] fw = true ∧ atHead (asking fw fun s => { s with power := .recovery }) 8 1 = some fw := by
  intros; (repeat' apply And.intro) <;> decide +kernel +revert

/-- As `told` with OK, of a request that meets `Asked`. -/
def served (i : Instr) (s : State) (p : State → Bool) : Bool :=
  ((s.inboxes.getD 0 []).head?).any (fun r => decide (Asked s r.type.toNat r.op.toNat r)) && told i s stOK p

/-- CREATE to SHRINK, HALT and RESUME. -/
theorem witness_PartitionMessages :
    let at_ (op : Nat) (ws : List W32) (F : State → State) : State := asking (req 1 op ws) F
    let halt (h : HaltSt) (s : State) : State := { s with parts := s.parts.map fun p => { p with halt := h } }
    let one (y : State) (p : Part → Bool) : Bool := (partIx y 0).any p
    let c := at_ 1 [0x101, 2, 0, 0, 0] id
    let ring (y : State) : Bool := y.replies.length == 1
    let member : Request := { req 1 3 [0, 1, 0, 0, 0] with msg := { (req 1 3 [0, 1, 0, 0, 0]).msg with vi := 64 } }
    Asked c 1 1 (req 1 1 [0x101, 2, 0, 0, 0]) ∧ shaped 5 [0x33F] (req 1 1 [0x101, 2, 0, 0, 0]) = true ∧
      partIx c 1 = none ∧ quadsFree c 2 = true ∧
      served .partitionCreate c (fun y => (partIx y 1).map (·.quads) == some 2) = true ∧
      (AskedOf (at_ 2 [0] id) 2 (req 1 2 [0]) { bootPart with loc := some ⟨0, 2 ^ 30⟩ }) ∧
      served .partitionDestroy (at_ 2 [0] id) (fun y => y.parts.isEmpty) = true ∧
      served .shrink (at_ 3 [0, 1, 0, 0, 0] id) (one · (·.quads == 0)) = true ∧
      64 ≤ member.msg.vi ∧ atHead (asking member id) 1 3 = some member ∧
      ends (exec .shrink (asking member id)) (one · (·.quads == 0)) = true ∧
      (AskedOf (at_ 7 [0, 0, 0] (halt .halted)) 7 (req 1 7 [0, 0, 0]) { bootPart with loc := some ⟨0, 2 ^ 30⟩, halt := .halted }) ∧
      served .grow (at_ 4 [0, 6, 0, 0, 0] id) (one · (·.quads == 7)) = true ∧
      ends (exec .halt (at_ 5 [0] id)) (fun y => one y (·.halt == .halting) && ring y) = true ∧
      haltedUnits (at_ 6 [0] (halt .halted)) 0 = [] ∧
      served .resume (at_ 6 [0] (halt .halted)) (one · (·.halt == .running)) = true ∧
      served .setroot (at_ 8 [0, 0x10001, 0] id) (one · (·.root == 0x10001)) = true ∧
      served .tlbinv (at_ 9 [0x100, 0, 0, 0, 0] fun s => { s with tlb := [⟨0, 0, 0, 3, 0⟩, ⟨4, 1, 0, 3, 0⟩] })
        (fun y => y.tlb == [⟨4, 1, 0, 3, 0⟩]) = true ∧
      bufferForm (req 1 10 [0x01000000, 65536, 0]) = true ∧
      served .addbuf (at_ 10 [0x01000000, 65536, 0] id) (fun y => (getIface y 0).mbrep.getD 2 0 == 1 && (freeList y 0 0 0).bufs == [65536]) = true ∧
      windowOk 2 0 (2 ^ 51) 65536 = true ∧
      served .setwin (at_ 11 [0x200, 0, 0x80000, 65536, 0] id) (one · (·.host == some ⟨2 ^ 51, 65536⟩)) = true ∧
      xsForm (req 1 12 [0, 0, 65536, 0, 0, 0, 0, 0, 0]) = true ∧
      served .setxs (at_ 12 [0, 0, 65536, 0, 0, 0, 0, 0, 0] fun s => { s with xs := writeWord (writeWord s.xs 8 (gen 5)) 65536 (gen 6) })
        (fun y => one y (fun p => aget p.xs 0 == some ⟨0, 65536⟩) && readWord y.xs 8 == .zero && readWord y.xs 65536 == gen 6) = true ∧
      served .setxs (at_ 12 [0, 0, 131072, 0, 0, 0, 0, 0, 0] fun s => { s with
          xs := writeWord (writeWord s.xs 8 (gen 5)) 65536 (gen 6),
          parts := s.parts.map fun p => { p with xs := [(0, ⟨0, 65536⟩)] } })
        (fun y => readWord y.xs 8 == gen 5 && readWord y.xs 65536 == .zero) = true ∧
      served .setresume (at_ 13 [0, 128, 0] id) (one · (·.resumeRec == some 128)) = true ∧
      served .setreserve (at_ 14 [3, 0x0001] id) (fun y => (getDie y 3).reserve == 1) = true ∧
      served .bindvi (at_ 15 [0x200, 0x00040008] id) (fun y => ((getIface y 2).part, (getIface y 2).first, (getIface y 2).count) == (some 0, 8, 4)) = true ∧
      ends (exec (.contextSave 0) (halt .halting (at_ 5 [0] id))) (one · (·.halt == .halted)) = true := by
  intros; (repeat' apply And.intro) <;> decide +kernel +revert

/-- R390, R394: what a halt saved is back on its core, and the resume record tells that no word was bad; a context whose quad has
left the partition goes back to the global dispatcher. -/
theorem witness_ResumeSaved :
    let small : Grid := { bootGrid with kd := { bootKernel with nreq := 8, accmask := 0, cbmask := 0, bcmask := 0, scratch := 0 } }
    let ask (op : Nat) : Request := req 1 op [0]
    let v : Saved := ⟨20, { bootWg with core := 2, status := .exitPending }, [], [], [], [], [], [], [], [], [], [], [], 0, none⟩
    let s := asking (ask 6) fun s => { s with
      grids := [(0, small)], shadow := [v], parts := s.parts.map fun p => { p with halt := .halted, quads := 1 } }
    let p : Part := (partIx s 0).getD bootPart
    let gone := { p with quads := 2 }
    let rec_ := modPart s 0 fun p => { p with resumeRec := some 128 }
    AskedOf s 6 (ask 6) p ∧ p.stopped = false ∧ haltedUnits (takeHead s (ask 6)) 0 = [v] ∧ placeKept p v = true ∧
      (partIx s 0).map (·.resumeRec) = some none ∧
      served .resume s (fun y => y.shadow.isEmpty && (aget y.wgs 20).any fun W => W.core == 2 && W.status == .exitPending) = true ∧
      placeKept gone v = false ∧ ((aget (restoreHalted gone s v).grids 0).map (·.returned)) = some [0] ∧
      (partIx rec_ 0).map (·.resumeRec) = some (some 128) := by
  intros; (repeat' apply And.intro) <;> decide +kernel +revert

/-- Stream 3 of partition 0, with 16 ring entries at 0. -/
def idleStream : Stream :=
  { newStream (req 2 1 [3, 0, 0, 16, 0, 0, 0, 0, 0, 0, 0]) false with firmware := false }

/-- A request about that stream in a state. -/
def about (op : Nat) (x : Stream) : State := asking (req 2 op [3]) fun s => { s with streams := [x] }

/-- A task that has faulted in it. -/
def faultyTask : Task :=
  { stream := 3, seq := 1, win := 0, part := 0, entry := List.replicate 16 (gen 0), addr := 0, after := 32, fetchNo := 0, age := 0,
    st := .complete, fault := none, reads := [], ins := [], outs := [], drawn := [], kd := none, lr := none, stages := [],
    queues := [], grid := none, pipe := none, chunks := 0, tested := none, pollBy := 0, events := none, wrote := false, slot := false,
    restored := [] }

/-- Streams, telemetry, keys and the pod (R365, R401, R411, R415). -/
theorem witness_ServiceMessages :
    let f := { idleStream with st := .faulted, faulted := [faultyTask] }
    let st (y : State) (v : StreamSt) : Bool := (getStream y 3).any (·.st == v)
    let inj := req 4 3 [0x10200, 0, 0]
    let att := req 5 2 (List.replicate 38 0)
    let die (v : DieSt) : State := asking (req 4 1 [0x10000, 8]) fun s => modDie s 0 fun D => { D with st := v }
    streamForm (req 2 1 [3, 0, 0, 16, 0, 0, 0, 0, 0, 0, 0]) = true ∧
      served .streamCreate (asking (req 2 1 [3, 0, 0, 16, 0, 0, 0, 0, 0, 0, 0]) id) (fun y => st y .idle) = true ∧
      served .streamDestroy (about 2 idleStream) (fun y => y.streams.isEmpty) = true ∧
      served .clear (about 6 { idleStream with ovr := true }) (fun y => (getStream y 3).map (·.ovr) == some false) = true ∧
      served .restart (about 3 f) (fun y => st y .run) = true ∧
      served .skip (about 4 f) (fun y => (getStream y 3).map (·.fp) == some 32) = true ∧
      served .abort (about 5 { idleStream with st := .run }) (fun y => st y .idle) = true ∧
      told .restart (about 3 { idleStream with st := .halted }) stAccepted
        (fun y => (getStream y 3).map (·.deferred) == some [.restart]) = true ∧
      served .peek (asking (req 4 1 [0x10000, 8]) fun s => { s with cs := writeWord .empty 8 (gen 6) })
        (fun y => (getIface y 0).mbrep.getD 3 0 == 6) = true ∧
      goes (exec .peek (die .quiesced)) (die .quiesced) = true ∧ dieSilent (die .offline) 0 = true ∧
      told .peek (die .offline) stDieOffline (fun y => (getIface y 0).mbrep.getD 2 0 == 1) = true ∧
      served .scrub (asking (req 4 2 [2, 24]) id) (fun y => (y.ctrls[2]?).map (·.period) == some 24) = true ∧
      armingForm inj = true ∧ served .inject (asking inj id) (fun y => y.armings == [⟨0, 0, false, 1, 1⟩]) = true ∧
      (Asked (asking (req 5 1 [0, 0, 4]) id) 5 1 (req 5 1 [0, 0, 4])) ∧ shaped 3 [] (req 5 1 [0, 0, 4]) = true ∧
      (Asked (asking att id) 5 2 att) ∧ shaped 38 [] att = true ∧ pd att 38 % 64 = 0 ∧
      ends (exec .attest (asking att id)) (fun y => y.session.isSome) = true ∧
      (Asked (asking (req 6 1 (List.replicate 24 1)) id) 6 1 (req 6 1 (List.replicate 24 1))) ∧
      shaped 24 [0xFF] (req 6 1 (List.replicate 24 1)) = true ∧
      served .grant (asking (req 6 2 [5]) id) (fun y => (partIx y 0).any (·.keys == [5])) = true ∧
      served .revoke (asking (req 6 3 [5]) fun s => { s with parts := s.parts.map fun p => { p with keys := [5] } })
        (fun y => (partIx y 0).any (·.keys == [])) = true ∧
      (Asked (asking (req 6 4 (List.replicate 16 0)) id) 6 4 (req 6 4 (List.replicate 16 0))) ∧
      shaped 16 [0x3F] (req 6 4 (List.replicate 16 0)) = true ∧
      served .join (asking (req 7 1 [0x00120013, 7]) id)
        (fun y => y.pkg == 0x12 && y.pod == 7 && (getPort y 3).ethernet && (getPort y 3).pkg == 0x12) = true ∧
      served .join (asking (req 7 1 [0x00120003, 7]) id) (fun y => !(getPort y 3).ethernet && y.pkg == 0x12) = true ∧
      served .barreg (asking (req 7 2 [0x100, 9, 16]) id)
        (fun y => (findBar y 5 0 1).map (fun b => (b.tgt, b.pa)) == some (16, 16)) = true := by
  intros; (repeat' apply And.intro) <;> decide +kernel +revert

/-- The host link, a pod port, Ethernet rings (R277, R402, R405, R406). Ring entries stand at 0 of the local window, frames at 0x100. -/
theorem witness_LinksAndPower :
    let s := { State.reset with parts := [{ bootPart with loc := some ⟨0, 2 ^ 30⟩, root := 0x10001 }] }
    let h := 2 ^ 51 + 64
    let pte (n ty : Nat) : List Word := [gen (BitVec.ofNat 32 (n * 2 ^ 16 + ty)), gen 0]
    let ring : Ring := ⟨0, 0, 0, 4, 0, 0⟩
    let e := { s with
      hbm := writeWords (writeWords (writeWords (writeWords (writeWords .empty 0x10000 (pte 2 1)) 0x20000 (pte 3 1)) 0x30000 (pte 7 0x3C2))
        0x70000 [gen 0x100, gen 0, gen 64, gen 3]) 0x70100 [gen 0x11, gen 0x22],
      ports := lmod s.ports 1 fun p => { p with ethernet := true, tx := [ring], rx := [ring] } }
    let x : RingEntry := ⟨0x100, 64, true, true⟩
    let out : List Byte := [0x11, 0, 0, 0, 0x22] ++ List.replicate 59 0
    let down := modPort s 0 fun p => { p with failed := [2] }
    let back := readEntry e ring 0
    windowOf h = 2 ∧ h % 4 = 0 ∧
      ends (exec (.hostIngress 0 h [(7, false)]) s) (fun y => readWord y.hostMem 64 == gen 7) = true ∧
      ends (exec (.hostIngress 0 h [(7, true)]) s) (fun y => readWord y.hostMem 64 == ⟨7, 0xF⟩) = true ∧
      isPoison (readWord s.hostMem (h % 2 ^ 50)) = false ∧ mismatch (readWord s.hostMem (h % 2 ^ 50)) = false ∧
      ends (exec (.hostEgress 0 h 1) s) (fun y => y.hostOut == [(0, false)]) = true ∧
      64 < hbmBytes ∧ ends (exec (.cxlMemAccess 0 64 (some (7, false))) s) (fun y =>
        ends (exec (.cxlMemAccess 0 64 none) y) fun z => z.hostOut == (7, false) :: List.replicate 15 (0, false) && !z.hostErr) = true ∧
      goes (exec (.cxlMemAccess 0 hbmBytes (some (7, false))) s) { s with hostErr := true } = true ∧
      goes (exec (.podPacketReceive 0 2 64 none []) down) { down with podOut := (true, List.replicate 16 ⟨0, 0xF⟩) } = true ∧
      isPoison ((homeRead s 64 (hostAttr s 64)).1.getD 0 .zero) = false ∧
      mismatch ((homeRead s 64 (hostAttr s 64)).1.getD 0 .zero) = false ∧
      (getPort s 0).ethernet = false ∧ (getPort s 0).failed = [] ∧ (aget (getPort s 0).tries 2).getD 0 + 1 ≠ 4 ∧
      (getPort e 1).ethernet = true ∧ (getPort e 1).tx.find? (fun r => r.num == 0) = some ring ∧ back.1 = some x ∧
      (frameBytes back.2 0 x.addr x.len).1 = some (out, false) ∧
      ends (exec (.ethernetFrameTransmit 1 0) e) (fun y => y.sent == [(1, out, false)]) = true ∧
      (getPort e 1).rx.find? (fun r => r.num == 0) = some ring ∧
      ends (exec (.ethernetFrameReceive 1 0 ([9, 8, 7, 6] ++ List.replicate 60 0)) e) (fun y =>
        (getPort y 1).rx.map (·.next) == [1] && ((homeRead y 0x70100 ⟨0, false, 0, 0⟩).1.getD 0 .zero) == gen 0x06070809) = true := by
  intros; (repeat' apply And.intro) <;> decide +kernel +revert

/-- Host accesses through a virtual function, assigned and not (R402), and what recovery keeps (R421). -/
theorem witness_HostFunctions :
    let pte (n ty : Nat) : List Word := [gen (BitVec.ofNat 32 (n * 2 ^ 16 + ty)), gen 0]
    let s := modIface { State.reset with
      parts := [{ bootPart with loc := some ⟨0, 2 ^ 30⟩, root := 0x10001 }],
      hbm := writeWords (writeWords (writeWords .empty 0x10000 (pte 2 1)) 0x20000 (pte 3 1)) 0x30000 (pte 7 0x3C2) } 3
        fun f => { f with part := some 0 }
    let r := { s with power := .recovery }
    s.power ≠ .recovery ∧ (getIface s 4).part = none ∧
      goes (exec (.hostIngress 4 64 [(7, false)]) s) { s with hostErr := true } = true ∧
      ends (exec (.hostEgress 4 64 1) s) (fun y => y.hostErr && y.hostOut.map (·.2) == [true]) = true ∧
      (decoderLoc { s with hostErr := false } 3 64 true).1.map (·.1) = some 0x70040 ∧
      ends (exec (.hostIngress 3 64 [(7, false)]) s) (fun y => (homeRead y 0x70040 ⟨0, false, 0, 0⟩).1.getD 0 .zero == gen 7) = true ∧
      goes (exec (.meshLinkFailure 0) r) r = true ∧ goes (exec .computeDieLinkFailure r) r = true ∧
      ends (exec (.securityAlarm 3) r) (fun y => y.power == .recovery && y.alarm == 3) = true := by
  intros; (repeat' apply And.intro) <;> decide +kernel +revert

/-- A warm reset from its request to the end of training, a failed link, an alarm (R400, R413, R420). -/
theorem witness_WarmReset :
    let r := req 3 1 [1, 100]
    let s := asking r fun s => { s with parts := s.parts.map fun p => { p with quads := 0x30000 } }
    let sub (ok : Bool) (y : State) : State := { y with subj := { y.subj with die := 1, ok } }
    let c : ResetCtx := ⟨0, 5, 100, 0, false, [(0, 0x30000)], 0, 0, 0, 0, 0, 0, 0, []⟩
    let at_ (st : DieSt) : State := sub true { s with dies := lmod s.dies 1 fun D => { D with st, reset := some c } }
    let goesTo (a b : DieSt) : Bool := ends (exec .dieDrainExpiry (at_ a)) fun y => (getDie y 1).st == b
    let t := at_ .training
    Asked s 3 1 r ∧ shaped 2 [0x117] r = true ∧ (pw r 2).testBit 4 = false ∧ memberOf r.msg = baseOf (pw r 2 % 8) ∧
      (s.dies.all fun D => D.reset == none) = true ∧ (getDie s 1).st ≠ .offline ∧
      told .resetDie s stAccepted (fun y => (getDie y 1).st == .shrinking && (getDie y 1).reset == some { c with waits := 1 }) = true ∧
      goesTo .shrinking .draining = true ∧ drainOver (at_ .draining) 1 = true ∧ goesTo .draining .empty = true ∧
      goesTo .empty .quiesced = true ∧ goesTo .quiesced .silent = true ∧ goesTo .silent .inReset = true ∧
      goesTo .inReset .training = true ∧
      (getDie t 1).st = .training ∧ (getDie t 1).reset = some c ∧
      ends (exec .linkRetrainComplete t) (fun y => (getDie y 1).st == .up) = true ∧
      ends (exec .linkRetrainComplete (at_ .up)) (fun y => (getDie y 1).reset.isNone) = true ∧
      ends (exec .linkRetrainComplete (sub false t)) (fun y => (getDie y 1).st == .offline) = true ∧
      (getDie (sub true s) 1).st = .up ∧
      ends (exec .computeDieLinkFailure (sub true s)) (fun y => (getDie y 1).st == .shrinking) = true ∧
      ends (exec (.meshLinkFailure 0) s) (fun y => y.power == .meshFault && (partIx y 0).any (·.stopped)) = true ∧
      ends (exec (.securityAlarm 3) s) (fun y => y.power == .alarmed && y.alarm == 3 && y.jobKey.isNone) = true ∧
      ends (exec .powerLoss s) (fun y => y.power == .off && y.jobKey.isNone) = true := by
  intros; (repeat' apply And.intro) <;> decide +kernel +revert

/-- The base point of RFC 5639 is on the curve, and its order takes it to infinity; two and five times it agree with sums. -/
theorem test_curve_base : onCurve bpX bpY = true ∧ (bpMul bpBase bpQ 384).z = 0 ∧
    bpCoords (bpMul bpBase 5 384) = bpCoords (bpAdd (bpMul bpBase 2 384) (bpMul bpBase 3 384)) ∧
    onCurve (bpCoords (bpMul bpBase 5 384)).1 (bpCoords (bpMul bpBase 5 384)).2 = true := by
  (repeat' apply And.intro) <;> decide +kernel

/-! ### Placement -/

/-- A kernel of one group that takes a whole scratchpad, and its grid of two workgroups. -/
def bigGrid : Grid :=
  { bootGrid with
    nwg := 2, nextWg := 0, shares := 0, arrivals := [],
    kd := { bootKernel with nreq := 8, accmask := 0, cbmask := 0, bcmask := 0 } }

/-- Partition 0 on a quad, with that grid as number 7. -/
def yard (quad : Nat) (F : State → State) : State :=
  F { State.reset with
    parts := [{ bootPart with quads := BitVec.ofNat 128 (2 ^ quad) }], grids := [(7, bigGrid)], uid := 40 }

def onDie (f : Die → Die) (s : State) : State := modDie s 0 f

/-- A workgroup of the grid on a core. -/
def wgOn (core : Nat) : Wg := { bootWg with grid := 7, core }

/-- With nothing pending at a die its report is what it can place (R293). -/
theorem witness_bestDie : bestDie (dieReport (yard 0 id) 7 bigGrid) (yard 0 id) bigGrid = some (0, 4) := by
  have h : openDies (yard 0 id) bigGrid = [0] := by decide +kernel
  have p : pendingAt (yard 0 id) 7 0 = 0 := by decide +kernel
  have r : dieRoom (yard 0 id) bigGrid 0 = 4 := by decide +kernel
  simp [bestDie, h, dieReport, p, Nat.mod_one, show bigGrid.latency = false from rfl, r]

theorem witness_Placement :
    let s := yard 0 id
    let cor := { bigGrid with cor := true }
    let p : PendWg := ⟨7, 0, false, 30, 0, false⟩
    let q := yard 0 (onDie fun D => { D with pending := [p] })
    let sp := (placeOf q (getDie q 0) p).map fun x => x.1.map (·.core)
    s.subj.die = 0 ∧ (aget s.grids 7) = some bigGrid ∧ undispatched bigGrid = true ∧ partRuns s 0 = true ∧
      openDies s bigGrid = [0] ∧ dieRoom s bigGrid 0 = 4 ∧ pendingAt s 7 0 = 0 ∧ heldBack s 7 = [] ∧ (nextBatch [] bigGrid 4).1 = [0, 1] ∧
      ends (.next (receive { s with free := 8 } 7 0 (nextBatch [] bigGrid 4).2 [0, 1]))
        (fun y => (getDie y 0).pending.map (·.wg) == [0, 1] && (aget y.grids 7).any (·.nextWg == 2)) = true ∧
      cor.cor = true ∧ unstarted s 7 cor = 2 ∧ roomFor s cor = 4 ∧
      unstarted s 7 { cor with nwg := 5 } = 5 ∧
      goes (exec (.dispatchBatch 7) { s with grids := [(7, { cor with nwg := 5 })] }) { s with grids := [(7, { cor with nwg := 5 })] } = true ∧
      (getDie q 0).st = .up ∧ heads (getDie q 0).pending = [p] ∧ sp = some [0] ∧
      ends (exec .placeWorkgroup q) (fun y => y.wgs.map (fun x => (x.2.index, x.2.core)) == [(0, 0)] && (getDie y 0).pending.isEmpty) = true ∧
      (aget (launchWg s ⟨7, 1, 0, 0, none, []⟩ ⟨2, [3], 0⟩).wgs s.uid).map (fun W => (W.grid, W.index, W.core)) = some (7, 1, 2)∧
      s.groups = [] ∧ (launchWg { s with grids := [(7, { bigGrid with seed := 6 })] } ⟨7, 1, 0, 0, none, []⟩ ⟨2, [3], 0⟩).groups.map
        (fun x => (x.2.wg == s.uid, x.2.core, x.2.threads.map (·.seed))) =
          [(true, 2, (List.range 32).map fun l => BitVec.ofNat 32 l ^^^ 6)] := by
  intros; (repeat' apply And.intro) <;> decide +kernel +revert

/-- A gang that does not fit since core 1 is taken; four workgroups on the reserve quad that give way to latency work. -/
theorem witness_HoldAndPreempt :
    let p : PendWg := ⟨8, 0, false, 30, 0, false⟩
    let gang : Grid := { bigGrid with nwg := 4, kd := { bigGrid.kd with gang := true } }
    let h := yard 0 fun s => { onDie (fun D => { D with pending := (List.range 4).map fun i => { p with wg := i }, headSince := some (8, 0, 0) }) s with
      grids := s.grids ++ [(8, gang)], wgs := [(20, wgOn 1)], cycle := 65536 }
    let v := { h with cycle := 2 ^ 21, dies := h.dies.map fun D => if D.id == 0 then { D with hold := some (8, 0, 65536) } else D }
    let l := yard 15 fun s => { onDie (fun D => { D with pending := [{ p with latency := true }] }) s with
      grids := s.grids ++ [(8, { bigGrid with latency := true })],
      wgs := [(20, wgOn 60), (21, wgOn 61), (22, wgOn 62), (23, wgOn 63)] }
    let D := getDie l 0
    holdOf (getDie h 0) = none ∧ (heads (getDie h 0).pending).head? = some p ∧ isGang h p = true ∧
      fitOf h (getDie h 0) p = none ∧
      ends (exec .gangHold h) (fun y => (getDie y 0).hold == some (8, 0, 65536)) = true ∧
      holdOf (getDie v 0) = some (8, 0, 65536) ∧ (getDie v 0).starved = false ∧ (aget v.grids 8) = some gang ∧
      ends (exec .placementStarvation v) (fun y => (getDie y 0).starved) = true ∧
      (heads D.pending).head? = some { p with latency := true } ∧ (placeOf l D { p with latency := true }).isNone = true ∧
      reserveBulk l D 0 = [20, 21, 22, 23] ∧ (placeOf (evict l D.id 20) D { p with latency := true }).isSome = true ∧
      ends (exec .latencyReservePreemption l) (fun y => y.wgs.map (·.1) == [21, 22, 23] && y.shadow.length == 1) = true := by
  intros; (repeat' apply And.intro) <;> decide +kernel +revert

/-- A source stage launches; a review that finds nothing to move, and one with a stage that waits and one that is behind. -/
theorem witness_PipelineStages :
    let pipe (a b : PStage) (since : Nat) : State := yard 0 fun s => { s with
      grids := [(7, { bigGrid with pipe := some (9, 0) })], queues := [(3, ⟨9, 2, true, 0, 4, 0, 0, []⟩)],
      pipes := [(9, ⟨9, 0, 0, [a, b], since, []⟩)] }
    let src : PStage := ⟨7, 1, 2, 0, 4, [2], 0, false, 0, 0⟩
    let snk : PStage := ⟨8, 1, 2, 4, 0, [0, 1], 0, false, 0, 16384⟩
    let s := pipe src snk 5
    let p : Pipe := ⟨9, 0, 0, [src, snk], 16384, []⟩
    let r := pipe src { snk with waits := 0, cores := [0] } 16384
    let q : Pipe := ⟨9, 0, 0, [src, { snk with waits := 0, cores := [0] }], 16384, []⟩
    (aget s.pipes 9).isSome = true ∧ (aget s.grids 7).isSome = true ∧
      ((aget s.pipes 9).bind fun p => (aget s.grids 7).map fun K => (stageHas s p src K, (stageSpot s p src K).map (·.core))) =
        some (true, some 2) ∧
      ends (exec (.pipelineStageLaunch 9 0) s) (fun y => (aget y.wgs 40).map (fun W => (W.grid, W.index, W.core, W.q)) ==
        some (7, 0, 2, [(2, ⟨3, true, false⟩)])) = true ∧
      goes (exec (.pipelineReview 9) s) s = true ∧ richest r q = none ∧
      ends (exec (.pipelineReview 9) r) (fun y => (aget y.pipes 9).map (·.since) == some 0) = true ∧
      neediest (pipe src snk 16384) p = some 0 ∧ richest (pipe src snk 16384) p = some 1 := by
  intros; (repeat' apply And.intro) <;> decide +kernel +revert

/-! ### Tasks -/

/-- The words of a task entry. -/
def entry (ws : List W32) : List Word := (ws ++ List.replicate (8 - ws.length) 0).map gen

/-- Stream 3, running, with one entry in a ring at 0x100000; pages 0 and 16 are mapped to HBM4 pages 7 and 8. -/
def fed (ws : List W32) (x : Stream) : State :=
  let pte (n ty : Nat) : List Word := [gen (BitVec.ofNat 32 (n * 2 ^ 16 + ty)), gen 0]
  { State.reset with
    parts := [{ bootPart with loc := some ⟨0, 2 ^ 30⟩, root := 0x10001, free := [⟨0, 0, [65536, 131072], [131072]⟩] }],
    streams := [{ x with st := .run, ring := 0x100000, fp := 0x100000, tail := 1 }],
    hbm := writeWords (writeWords (writeWords (writeWords (writeWords .empty 0x10000 (pte 2 1)) 0x20000 (pte 3 1)) 0x30000 (pte 7 0x3C2))
      0x30080 (pte 8 0x3C2)) 0x80000 (entry ws),
    subj := { Subject.none with stream := 3, seq := 1 } }

/-- That stream with tasks in the window. -/
def busy (ts : List Task) : State := { fed [] { idleStream with cword := 0x100 } with tasks := ts }

/-- A task of the stream with an entry. -/
def taskOf (st : TaskSt) (ws : List W32) : Task := { faultyTask with entry := entry ws, st, fault := none }

/-- Entries (R247 to R249, R259, R260, R368, R371 to R373). -/
theorem witness_TaskEntries :
    let at_ (s : State) (p : Stream → List Word → State → Bool) : Bool :=
      ((getStream s 3).map fun x => let r := entryWords s x (nextAddr x); fetchTurn s x && r.1 && p x r.2.1 r.2.2).getD false
    let fleets (s : State) (top : Nat) : Bool := at_ s fun x e _ => topOf e == top && (entryReason (ctxOf x (!x.slots.isEmpty)) e).isNone
    let one (y : State) (p : Task → Bool) : Bool := (getTask y 3 1).any p
    let nop := fed [0] idleStream
    let link := fed [0x0A, 0, 0x200, 0] idleStream
    let succ := fed [0x0002000C, 0, 0x200, 0] { idleStream with last := 1, nextSeq := 2 }
    let after (v : TaskSt) : State := { succ with tasks := [taskOf v [1]], hbm := writeWord succ.hbm 0x70200 (gen 5) }
    let slot (y : State) : Word := (homeRead y 0x70200 ⟨0, false, 0, 0⟩).1.getD 0 .zero
    let fence := fed [0x0300000D] idleStream
    let odd := fed [0x20] idleStream
    let far := { fence with streams := fence.streams.map fun x => { x with fp := 0x200000 } }
    let fill := taskOf .decoded [0xFFFF0504, 0xFFFFFFFF]
    let rn := busy [fill]
    let re := busy [{ fill with entry := entry [0xFFFFFF0D] }]
    let bare := { rn with parts := rn.parts.map fun p => { p with free := [] } }
    fleets nop 0 = true ∧ ends (exec .tkNop nop) (fun y => (getStream y 3).any fun x => x.fp == 0x100020 && x.st == .idle) = true ∧
      fleets link 0x0A = true ∧ ends (exec .tkLink link) (fun y => (getStream y 3).any fun x => x.fp == 0x200 && x.fetched == 1) = true ∧
      fleets succ 0x0C = true ∧ (getTask succ 3 1).isNone = true ∧
      ends (exec .tkSucc succ) (fun y => (getStream y 3).any (·.hold == some (1, 2, 0x200))) = true ∧
      fleets (after .decoded) 0x0C = true ∧
      ends (exec .tkSucc (after .decoded)) (fun y => (getStream y 3).any (·.hold == some (1, 2, 0x200)) && slot y == gen 5) = true ∧
      fleets (after .issued) 0x0C = true ∧
      ends (exec .tkSucc (after .issued)) (fun y => (getStream y 3).any (·.hold == some (1, 2, 0x200)) && slot y == gen 0) = true ∧
      fleets (after .complete) 0x0C = true ∧
      ends (exec .tkSucc (after .complete)) (fun y => (getStream y 3).any (·.hold == none)) = true ∧
      at_ fence (fun _ e _ => !fleeting (topOf e)) = true ∧
      ends (exec .taskEntryFetch fence) (one · fun t => t.st == .decoded && t.fault.isNone) = true ∧
      ends (exec .taskEntryFetch odd) (one · fun t => t.st == .complete && t.fault.map (·.reason) == some 1) = true ∧
      ((getStream far 3).map fun x => (entryWords far x (nextAddr x)).1) = some false ∧
      ends (exec .taskEntryFetch far) (one · fun t => t.fault.map (·.reason) == some 0x0B) = true ∧
      toRename re 3 = some { fill with entry := entry [0xFFFFFF0D] } ∧
      ends (exec .taskRename re) (one · fun t => t.st == .renamed) = true ∧
      toRename rn 3 = some fill ∧ outsLeft fill = [(5, 0)] ∧ (freeList rn 0 0 0).bufs = [131072] ∧ listTaken rn fill 0 = false ∧
      ends (exec .taskRename rn) (fun y => one y (fun t => t.drawn == [⟨5, some 131072, 0, none⟩] && t.st == .renamed) &&
        (getStream y 3).any (fun x => aget x.map 5 == some 131072) && (freeList y 0 0 0).bufs.isEmpty) = true ∧
      toRename bare 3 = some fill ∧ (freeList bare 0 0 0).own = [] ∧
      ends (exec .taskRename bare) (one · fun t => t.fault.map (·.reason) == some 8) = true := by
  intros; (repeat' apply And.intro) <;> decide +kernel +revert

/-- The waiting task of stream 3 is oldest, both buffers are with younger tasks of stream 4, the youngest of which is discarded. -/
theorem witness_Discard :
    let w := { taskOf .decoded [0xFFFF0504, 0xFFFFFFFF] with ins := [0, 0, 0, 0] }
    let young (seq b : Nat) : Task := { w with stream := 4, seq, age := seq, st := .renamed, drawn := [⟨6, some b, 0, none⟩] }
    let s := busy [w, young 1 65536, young 2 131072]
    let s := { s with
      parts := s.parts.map fun p => { p with free := [⟨0, 0, [65536, 131072], []⟩] }, streams := s.streams ++ [{ idleStream with id := 4, nextSeq := 3, st := .run }] }
    let cs := candidates s w 0
    toRename s 3 = some w ∧ wantsClass w = some 0 ∧ isOldest s w = true ∧ starved s w 0 = true ∧
      cs.find? (fun t => !cs.any fun u => olderThan t u) = some (young 2 131072) ∧
      ends (exec .bufferStarvationDiscard s) (fun y => (getTask y 4 2).isNone && (freeList y 0 0 0).bufs == [131072]) = true := by
  intros; (repeat' apply And.intro) <;> decide +kernel +revert

/-- A launch record of one workgroup. -/
def oneWg : LRec := ⟨1, 0, [], []⟩

/-- Tasks as they issue (R253 to R258, R263, R376, R393). -/
theorem witness_TaskIssue :
    let at_ (top : Nat) (ws : List W32) (f : Task → Task) : State := busy [f (taskOf .renamed (BitVec.ofNat 32 (0x03FFFF00 + top) :: ws))]
    let issues (s : State) (top : Nat) : Bool := (getTask s 3 1).any fun t => decide (Issues s top t)
    let one (y : State) (p : Task → Bool) : Bool := (getTask y 3 1).any p
    let is_ (top : Nat) (i : Instr) (st : TaskSt) : Bool :=
      let s := at_ top [0xFFFFFFFF, 0, 0, 64, 0, 4] id
      issues s top && ends (exec i s) (one · (·.st == st))
    let run := at_ 1 [0xFFFFFFFF] fun t => { t with kd := some bigGrid.kd, lr := some oneWg }
    let cor := at_ 1 [0xFFFFFFFF] fun t => { t with entry := entry [0x13FFFF01, 0xFFFFFFFF], kd := some bigGrid.kd, lr := some { oneWg with nwg := 5 } }
    let pipe := at_ 2 [0xFFFFFFFF] fun t => { t with
      lr := some oneWg, stages := [⟨0, bigGrid.kd, 1, 1, 0, 4⟩, ⟨64, bigGrid.kd, 1, 1, 4, 0⟩], queues := [⟨2, true, 0, 4⟩] }
    let ord := at_ 2 [0xFFFFFFFF] fun t => { t with lr := some oneWg, stages := [⟨0, bigGrid.kd, 1, 1, 0, 0⟩] }
    let sig := at_ 8 [0, 64, 0, 9, 0] id
    let wait := at_ 9 [0, 64, 0, 0, 1, 1] id
    let unmet := at_ 9 [0, 64, 0, 9, 0, 1] id
    let late := busy [{ taskOf .renamed [9, 0, 64, 0, 9, 0, 1] with tested := some 1024 }]
    let image : Image := ⟨0, 4096, 4096, 0, sha384 [], [], [], [], [], [], [], [], [], [], [], [], []⟩
    let res := at_ 0x0B [0, 4096, 0] id
    let res := { res with images := [image], hbm := writeWords res.hbm 0x71000 ((imageHeader image 0).map gen |>.take 28) }
    is_ 3 .tkCopy .issued = true ∧ is_ 4 .tkFill .issued = true ∧ is_ 5 .tkFree .complete = true ∧
      is_ 6 .tkBind .complete = true ∧ is_ 7 .tkUnbind .complete = true ∧ is_ 0x0D .tkFence .complete = true ∧ is_ 0x0E .tkRec .complete = true ∧
      issues run 1 = true ∧ (getTask run 3 1).any (fun t => !corHopeless run t && (taskRun run t).isSome) = true ∧
      ends (exec .tkRun run) (fun y => one y (·.grid == some 1) && (aget y.grids 1).any (·.nwg == 1) && y.bars.length == 4) = true ∧
      issues cor 1 = true ∧ (getTask cor 3 1).any (corHopeless cor) = true ∧
      ends (exec .tkRun cor) (one · fun t => t.fault.map (·.reason) == some 7) = true ∧
      issues pipe 2 = true ∧ (getTask pipe 3 1).bind (pipeCoresFor pipe) = some [[0], [1]] ∧ (aget pipe.pipes pipe.uid).isNone = true ∧
      ends (exec .tkPipe pipe) (fun y => (aget y.pipes 1).any (fun p => p.stages.map (·.cores) == [[0], [1]]) && y.queues.length == 1) = true ∧
      issues ord 2 = true ∧ (getTask ord 3 1).any (fun t => (taskRun ord t).isSome && !corHopeless ord t) = true ∧
      ends (exec .tkPipe ord) (fun y => one y (·.grid == some 1) && y.pipes.isEmpty && (aget y.grids 1).any (·.pipe == none)) = true ∧
      issues sig 8 = true ∧ okOf ((match (winLoc sig 0 64 true).1 with | .ok x => .ok x.1 | .error _ => .error 0) : Except Nat Nat) = some 0x70040 ∧
      ends (exec .tkSignal sig) (fun y => one y (·.wrote) && (homeRead y 0x70040 ⟨0, false, 0, 0⟩).1.getD 0 .zero == gen 9) = true ∧
      issues wait 9 = true ∧ (winRead wait 0 64).1.toOption = some (gen 0) ∧ (getTask wait 3 1).any (fun t => waitTest t 0 && freeToIssue wait t) = true ∧
      ends (exec .tkWait wait) (one · (·.st == .issued)) = true ∧ ends (exec .tkWaitPoll wait) (one · (·.st == .issued)) = true ∧
      (getTask unmet 3 1).any (fun t => !waitTest t 0 && freeToIssue unmet t) = true ∧
      ends (exec .tkWaitPoll unmet) (one · fun t => t.st == .renamed && t.pollBy == 1024) = true ∧
      (getTask late 3 1).any waitExpired = true ∧ partRuns late 0 = true ∧
      ends (exec .tkWaitTimeout late) (one · fun t => t.fault.map (·.cause) == some causeWatchdog) = true ∧
      issues res 0x0B = true ∧ (readImage res 0 4096).1 = some [] ∧ imageIn (readImage res 0 4096).2 0 [] = some image ∧ imageFits res image = true ∧
      ends (exec .tkResume res) (one · fun t => t.st == .issued && t.restored == [0, 0, 0, 0]) = true := by
  intros; (repeat' apply And.intro) <;> decide +kernel +revert

/-- Tasks as they end (R365, R377, R379, R380, R382). -/
theorem witness_TaskLife :
    let one (y : State) (p : Task → Bool) : Bool := (getTask y 3 1).any p
    let st (y : State) (v : StreamSt) : Bool := (getStream y 3).any (·.st == v)
    let sig := busy [taskOf .issued [0x03000008, 0, 64, 0, 9, 0]]
    let fill := taskOf .issued [0x03FFFF04, 0xFFFFFFFF, 7, 0, 64, 0, 8]
    let f := busy [fill]
    let run := { busy [{ taskOf .issued [1] with grid := some 7 }] with grids := [(7, { bigGrid with ended := 2 })] }
    let ab := { sig with streams := sig.streams.map fun x => { x with st := .aborting } }
    let done := taskOf .complete [0x0300000D]
    let d := busy [done]
    let hold := { d with streams := d.streams.map fun x => { x with hold := some (1, 1, 64) }, hbm := writeWords d.hbm 0x70040 (entry [0x0300000D]) }
    let word := { d with streams := d.streams.map fun x => { x with word := some 1 } }
    let chk := busy [{ fill with st := .complete, entry := entry [0x0BFFFF04, 0xFFFFFFFF, 7, 0, 64, 0, 8] }]
    let chk := { chk with hbm := writeWord chk.hbm 0x70040 ⟨0, 0xF⟩ }
    let flt := { done with fault := some (descFault 7) }
    let b := busy [flt]
    let oldest (s : State) : Bool := (getStream s 3).any fun x => (getTask s 3 1).any fun t => decide (Oldest s x t)
    isPoison (gen 3) = false ∧ ends (exec .taskCompletion sig) (one · (·.st == .complete)) = true ∧
      ends (exec .taskCompletion f) (fun y => one y (fun t => t.st == .complete && t.chunks == 0xFFFFFFFFFFFFFFFF) &&
        (homeRead y 0x70040 ⟨0, false, 0, 0⟩).1.take 3 == [gen 7, gen 7, gen 0]) = true ∧
      gridsOf run { taskOf .issued [1] with grid := some 7 } = [(7, { bigGrid with ended := 2 })] ∧
      ends (exec .taskCompletion run) (one · (·.st == .complete)) = true ∧
      ends (exec .taskCompletion ab) (st · .idle) = true ∧
      (getStream hold 3).any (slotsLeft hold) = true ∧
      ends (exec .taskCompletion hold) (fun y => (getStream y 3).any fun x => x.hold == none && x.slots.length == 0 && y.tasks.length == 2) = true ∧
      (getStream word 3).map (·.word) = some (some 1) ∧
      (let y := writeSeq word 3
       (getStream y 3).map (·.word) == some none && (homeRead y 0x70100 ⟨0, false, 0, 0⟩).1.getD 0 .zero == gen 1) = true ∧
      oldest d = true ∧ (chkFails d done).1 = false ∧ bindClash d done = false ∧
      ends (exec .taskRetire d) (fun y => y.tasks.isEmpty && (getStream y 3).map (·.retired) == some 1) = true ∧
      oldest chk = true ∧ (getTask chk 3 1).any (fun t => (chkFails chk t).1) = true ∧
      ends (exec .taskRetire chk) (one · fun t => t.fault.map (·.cause) == some causePoison) = true ∧
      oldest b = true ∧ streamTasks b 3 = [flt] ∧
      ends (exec .takeFault b) (fun y => st y .faulted && y.tasks.isEmpty && (getStream y 3).any (·.faulted == [flt])) = true := by
  intros; (repeat' apply And.intro) <;> decide +kernel +revert

/-! ### Encodings and ill-formed terms -/

/-- A word of R65 by its fields: S, P = 0, OPC, PRED, D, A, B, C, MOD from bit 63 down. -/
def fullBits (op : Nat) : W64 :=
  1#1 ++ 0#1 ++ BitVec.ofNat 10 op ++ 0x9#4 ++ 0x11#8 ++ 0x22#8 ++ 0x33#8 ++ 0x44#8 ++ 0x5566#16

/-- Those fields. -/
def fullOf : FullWord := ⟨true, 9, 0x11, 0x22, 0x33, 0x44, 0x5566⟩

/-- The same word in the long format of R67: IMM in bits 31 to 0. -/
def longOf : LongWord := ⟨true, 9, 0x11, 0x22, 0x33445566⟩

/-- Full-form opcodes, group by group in the order in which R85 lists their mnemonics. -/
def r85 : List (Nat × List (FullWord → Instr)) :=
  [(0x000, [.add, .sub, .addc, .subb, .mul, .mulh, .mulw, .mad, .madh, .div, .rem, .neg, .abs, .min, .max, .clamp, .sadd, .ssub,
      .dot2s, .sad]),
   (0x040, [.and, .or, .xor, .not, .lop3, .shl, .shr, .sar, .rot, .shf, .rshr, .bext, .bins, .bmsk, .brev, .popc, .clz, .ctz, .perm,
      .sext, .zext]),
   (0x080, [.setc, .sel, .mov, .pset, .pand, .por, .pxor, .pnot]),
   (0x0C0, [.fadd, .fsub, .fmul, .ffma, .fmin, .fmax, .fcmp, .fclass, .fcopysign, .fscale, .frnd, .fdot2]),
   (0x100, [.frcp, .frsq, .fsqrt, .fdiv, .fexp2, .flog2, .fsin, .fcos, .ftanh, .fsigm, .cvt, .cvti, .cvtx]),
   (0x140, [.ld, .st, .ldx, .lda, .stl, .atom, .acas, .red]),
   (0x180, [.tbind, .tstate, .tdrain, .tfree, .cpy, .cpyc, .gath, .scat, .cpys, .cpre, .fence, .sacq, .srel, .stry, .cinv, .cwb,
      .chint, .cbld, .cbst, .cbw, .cbinv, .cbfence]),
   (0x1C0, [fun _ => .bra longOf, .brx, fun _ => .call longOf, .ret, .exit, .yield, .wait, .nop, .barArr, .barWait, .barSync, .barExp,
      .barStat]),
   (0x200, [.xshf, .xred, .xscan, .xvote, .xmatch, .xelect, .xbpc, .qpush, .qpop, .qpeek, .agrow, .ashrink]),
   (0x240, [.trap, .tret, .sinj, .srd, .swr, .gset]),
   (0x280, [.mres, .mrel, .mfill, .mma, .mtrq, .mdrain, .mzero, .mqry]),
   (0x2C0, [fun _ => .movi longOf, fun _ => .addLong longOf, fun _ => .mulLong longOf, fun _ => .andLong longOf,
      fun _ => .orLong longOf, fun _ => .xorLong longOf])]

theorem test_decodes_r85 :
    (r85.all fun g => g.2.zipIdx.all fun x => decodeWord (fullBits (g.1 + x.2)) == x.1 fullOf) = true := by decide +kernel

/-- The codes that follow each row of R85, and every later group, are unassigned (R86). -/
theorem test_unassigned_r85 :
    ([0x014, 0x055, 0x088, 0x0CC, 0x10D, 0x148, 0x196, 0x1CD, 0x20C, 0x246, 0x288, 0x2C6, 0x300, 0x3FF].all fun op =>
      decodeWord (fullBits op) == .unassignedOpcode (fullBits op)) = true := by decide +kernel

/-- A paired word by its fields (R68). -/
def pairBits (x y : Nat) : W64 :=
  0#1 ++ 1#1 ++ BitVec.ofNat 7 x ++ 0x11#8 ++ 0x22#8 ++ 0x33#8 ++ BitVec.ofNat 7 y ++ 0x44#8 ++ 0x55#8 ++ 0x66#8

/-- Restricted opcodes in the order of R88, from the first code of each run. -/
def r88 : List (Nat × List SlotOp) :=
  [(0x00, [.add, .sub, .mul, .minI32, .maxI32, .minN32, .maxN32, .and, .or, .xor, .shl, .shr, .sar, .popc, .clz, .mov, .addImm, .andImm,
      .orImm, .xorImm, .shlImm, .shrImm, .sarImm]),
   (0x20, [.faddF32, .fsubF32, .fmulF32, .fminF32, .fmaxF32, .faddF16x2, .fmulF16x2, .faddBf16x2, .fmulBf16x2, .cvtF32I32, .cvtI32F32]),
   (0x40, [.ldCs, .stCs, .ldKs, .stKs, .ldLp, .stLp]),
   (0x60, [.srd, .pand, .por, .pxor, .pnot, .setcEq, .setcNe, .setcLtI32, .setcLtN32, .setcLeI32, .setcLeN32])]

theorem test_decodes_r88 :
    (r88.all fun g => g.2.zipIdx.all fun o =>
      decodeWord (pairBits (g.1 + o.2) 0x65) == pairInstr o.1 ⟨false, ⟨0x11, 0x22, 0x33⟩, .setcEq, ⟨0x44, 0x55, 0x66⟩⟩ &&
      decodeWord (pairBits 0x00 (g.1 + o.2)) == .pairedAdd ⟨false, ⟨0x11, 0x22, 0x33⟩, o.1, ⟨0x44, 0x55, 0x66⟩⟩) = true := by
  decide +kernel

theorem test_unassigned_r88 :
    ([0x17, 0x1F, 0x2B, 0x3F, 0x46, 0x5F, 0x6B, 0x7F].all fun o =>
      decodeWord (pairBits o 0) == .unassignedOpcode (pairBits o 0) && decodeWord (pairBits 0 o) == .unassignedOpcode (pairBits 0 o)) =
      true := by decide +kernel

/-- One ill-formed term for each check of `Instr.wf`. -/
theorem test_ill_formed :
    ([.unassignedOpcode (fullBits 0), .unassignedOpcode (pairBits 0 0), .coachFormation 512 0, .coachFormation 0 4, .agePromotion 0 32,
      .variableLatencyResult 0 32, .agrowGrant 512 0, .agrowGrant 0 4, .waitCyclesElapsed 0 32, .watchdog 0 32,
      .storePathFlush 512 false 0, .translationWalk 512 0 0, .translationWalk 0 64 0, .mmaExecuteStart 256, .mmaOpRetire 256,
      .mdrainComplete 512 0, .mdrainComplete 0 64, .sqtail 64 0 0, .sqtail 0 0x10000 0, .sqtail 0 4 0, .registerWrite 64 0 0,
      .registerWrite 0 0x20000 0, .registerWrite 0 2 0, .pipelineStageLaunch 0 8, .hbmLineRead (720 * 2 ^ 24),
      .hbmLineWrite (720 * 2 ^ 24), .patrolScrub 12, .hostIngress 64 0 [], .hostEgress 64 0 0, .cxlMemAccess 64 0 none,
      .cxlMemAccess 0 2 none, .podPacketReceive 16 0 0 none [], .podPacketReceive 0 512 0 none [],
      .ethernetFrameReceive 16 0 (List.replicate 64 0), .ethernetFrameReceive 0 8 (List.replicate 64 0),
      .ethernetFrameReceive 0 0 (List.replicate 63 0), .ethernetFrameTransmit 16 0, .ethernetFrameTransmit 0 8, .meshLinkFailure 4,
      .contextSave 64, .instructionFetchComplete 0 32, .opOperandFetchComplete 256, .bankWriteComplete 512 0, .bankWriteComplete 0 16,
      .redPerformed 0 32, .mbrepRead 64].all fun (i : Instr) => !i.wf) = true ∧
    (Instr.ethernetFrameReceive 0 0 (List.replicate 9217 0)).wf = false ∧
    (Msg.wf ⟨64, 0, 0, []⟩ || Msg.wf ⟨0, 0, 0, List.replicate 63 0⟩) = false := by
  refine ⟨by decide +kernel, by decide +kernel, by decide +kernel⟩

end Sys2Proof.Tests
end

section
/-! PROOF. Decode of encode (O35): the bytes of a word, the fields of a packed word, and the words that are left unassigned. -/
namespace Sys2Proof

/-! ### The bytes of a word (R7) -/

/-- Bit `j` of the word that a byte string holds: of the first byte, or of the word that the rest holds. -/
theorem getLsbD_wordOfBytes_cons (b : Byte) (bs : List Byte) (j : Nat) :
    (wordOfBytes (b :: bs)).getLsbD j =
      if j < 8 then b.getLsbD j else decide (j < 64) && (wordOfBytes bs).getLsbD (j - 8) := by
  have hw : wordOfBytes (b :: bs) = wordOfBytes bs <<< 8 ||| b.zeroExtend 64 := rfl
  by_cases hj : j < 8
  · have h64 : j < 64 := by omega
    simp [hw, hj, h64]
  · have hb : b.getLsbD j = false := BitVec.getLsbD_of_ge _ _ (by omega)
    simp [hw, hj, hb]

/-- Consecutive bytes of a word hold its bits from the first of them on. -/
theorem getLsbD_wordOfBytes_range (w : W64) (k n j : Nat) (hj : j < 64) :
    (wordOfBytes ((List.range' k n).map fun i => w.extractLsb' (8 * i) 8)).getLsbD j =
      (decide (j < 8 * n) && w.getLsbD (8 * k + j)) := by
  induction n generalizing k j with
  | zero => simp [wordOfBytes]
  | succ n ih =>
    rw [List.range'_succ, List.map_cons, getLsbD_wordOfBytes_cons]
    split
    · next h8 => simp [h8, show j < 8 * (n + 1) by omega]
    · next h8 =>
      rw [ih (k + 1) (j - 8) (by omega), show 8 * (k + 1) + (j - 8) = 8 * k + j by omega]
      simp [hj, show j - 8 < 8 * n ↔ j < 8 * (n + 1) by omega]

theorem wordOfBytes_bytesOfWord (w : W64) : wordOfBytes (bytesOfWord w) = w := by
  apply BitVec.eq_of_getLsbD_eq
  intro j hj
  have h := getLsbD_wordOfBytes_range w 0 8 j hj
  rw [← List.range_eq_range'] at h
  simpa [bytesOfWord, hj] using h

theorem length_bytesOfWord (w : W64) : (bytesOfWord w).length = 8 := by
  simp [bytesOfWord]

/-- The decoder reads the word whose bytes stand first and leaves the rest. -/
theorem decode_bytesOfWord_append (w : W64) (rest : List Byte) :
    decode (bytesOfWord w ++ rest) = .ok (decodeWord w, rest) := by
  have hn : ¬ (bytesOfWord w ++ rest).length < 8 := by simp [length_bytesOfWord]
  rw [decode, if_neg hn, List.take_left' (length_bytesOfWord w), List.drop_left' (length_bytesOfWord w),
    wordOfBytes_bytesOfWord]

/-! ### Assigned words

Of a full-form or long-immediate opcode it is enough to know the row of `decodeFull` that its code selects. -/

theorem decodeWord_packFull_of_arm (op : BitVec 10) (f : FullWord) (mk : FullWord → Instr)
    (arm : ∀ w : W64, w.extractLsb' 52 10 = op → decodeFull w = mk (fullFields w)) :
    decodeWord (packFull op f) = mk f := by
  rw [decodeWord_packFull, arm _ (packFull_opcode op f), packFull_fields]

theorem decodeWord_packLong_of_arm (op : BitVec 10) (f : LongWord) (mk : LongWord → Instr)
    (arm : ∀ w : W64, w.extractLsb' 52 10 = op → decodeFull w = mk (longFields w)) :
    decodeWord (packLong op f) = mk f := by
  rw [decodeWord, packLong_bit62, if_neg (by simp), arm _ (packLong_opcode op f), packLong_fields]

theorem packPair_slotX (x : SlotOp) (p : PairWord) : (packPair x p).extractLsb' 55 7 = slotCode x := by
  unfold packPair
  rw [extract_above _ _ 47 7 rfl, extract_above _ _ 39 7 rfl, extract_above _ _ 31 7 rfl, extract_above _ _ 24 7 rfl,
    extract_above _ _ 16 7 rfl, extract_above _ _ 8 7 rfl, extract_above _ _ 0 7 rfl, extract_low]

theorem packPair_slotY (x : SlotOp) (p : PairWord) : (packPair x p).extractLsb' 24 7 = slotCode p.opY := by
  unfold packPair
  rw [extract_above _ _ 16 7 rfl, extract_above _ _ 8 7 rfl, extract_above _ _ 0 7 rfl, extract_low]

theorem packPair_bit63 (x : SlotOp) (p : PairWord) : (packPair x p).getLsbD 63 = p.s := by
  unfold packPair
  rw [bit_above _ _ 55 rfl, bit_above _ _ 47 rfl, bit_above _ _ 39 rfl, bit_above _ _ 32 rfl, bit_above _ _ 24 rfl,
    bit_above _ _ 16 rfl, bit_above _ _ 8 rfl, bit_above _ _ 1 rfl, bit_above _ _ 0 rfl]
  cases p.s <;> rfl

theorem packPair_fieldsX (x : SlotOp) (p : PairWord) :
    (⟨(packPair x p).extractLsb' 47 8, (packPair x p).extractLsb' 39 8, (packPair x p).extractLsb' 31 8⟩ : Slot) = p.x := by
  unfold packPair
  rw [extract_above _ _ 39 8 rfl, extract_above _ _ 31 8 rfl, extract_above _ _ 23 8 rfl, extract_above _ _ 16 8 rfl,
    extract_above _ _ 8 8 rfl, extract_above _ _ 0 8 rfl, extract_low]
  rw [extract_above _ _ 31 8 rfl, extract_above _ _ 23 8 rfl, extract_above _ _ 15 8 rfl, extract_above _ _ 8 8 rfl,
    extract_above _ _ 0 8 rfl, extract_low]
  rw [extract_above _ _ 23 8 rfl, extract_above _ _ 15 8 rfl, extract_above _ _ 7 8 rfl, extract_above _ _ 0 8 rfl,
    extract_low]

theorem packPair_fieldsY (x : SlotOp) (p : PairWord) :
    (⟨(packPair x p).extractLsb' 16 8, (packPair x p).extractLsb' 8 8, (packPair x p).extractLsb' 0 8⟩ : Slot) = p.y := by
  unfold packPair
  rw [extract_above _ _ 8 8 rfl, extract_above _ _ 0 8 rfl, extract_low, extract_above _ _ 0 8 rfl, extract_low,
    extract_low]

theorem decodeWord_packPair_eq (x : SlotOp) (p : PairWord) : decodeWord (packPair x p) = pairInstr x p := by
  rw [decodeWord_packPair, decodePair, packPair_slotX, packPair_slotY, slotOp_slotCode, slotOp_slotCode]
  dsimp only
  rw [packPair_fieldsX, packPair_fieldsY, packPair_bit63]

/-! ### Unassigned words (R86, R88) -/

theorem slotOp_eq_none {n : Nat} (h : assignedSlot n = false) : slotOp n = none := by
  unfold slotOp
  split
  case h_52 => rfl
  all_goals simp [assignedSlot] at h

theorem decodePair_unassigned {w : W64}
    (h : (assignedSlot (w.extractLsb' 55 7).toNat && assignedSlot (w.extractLsb' 24 7).toNat) = false) :
    decodePair w = .unassignedOpcode w := by
  unfold decodePair
  rcases Bool.and_eq_false_iff.mp h with hx | hy
  · rw [slotOp_eq_none hx]
  · rw [slotOp_eq_none hy]
    cases slotOp (w.extractLsb' 55 7).toNat <;> rfl

theorem decodeFull_unassigned {w : W64} (h : assignedFull (w.extractLsb' 52 10).toNat = false) :
    decodeFull w = .unassignedOpcode w := by
  unfold decodeFull
  split
  case h_150 => rfl
  all_goals next hop => simp [hop, assignedFull] at h

theorem decodeWord_unassigned {w : W64} (h : assignedWord w = false) : decodeWord w = .unassignedOpcode w := by
  unfold assignedWord at h
  unfold decodeWord
  split at h
  · next hp => rw [if_pos hp, decodePair_unassigned h]
  · next hp => rw [if_neg hp, decodeFull_unassigned h]

/-! ### Decode of encode -/

/-- Each row of R85 and R88 in turn: the word of an instruction decodes to it. -/
theorem decodeWord_encode {i : Instr} {w : W64} (hi : i.wf = true) (h : encode i = some w) : decodeWord w = i := by
  cases i
  case unassignedOpcode v =>
    obtain rfl : v = w := Option.some.inj h
    exact decodeWord_unassigned ((Bool.not_eq_true' _).mp hi)
  case pairedAdd | pairedSub | pairedMul | pairedMinI32 | pairedMaxI32 | pairedMinN32 | pairedMaxN32 | pairedAnd |
      pairedOr | pairedXor | pairedShl | pairedShr | pairedSar | pairedPopc | pairedClz | pairedMov | pairedAddImm |
      pairedAndImm | pairedOrImm | pairedXorImm | pairedShlImm | pairedShrImm | pairedSarImm | pairedFaddF32 |
      pairedFsubF32 | pairedFmulF32 | pairedFminF32 | pairedFmaxF32 | pairedFaddF16x2 | pairedFmulF16x2 |
      pairedFaddBf16x2 | pairedFmulBf16x2 | pairedCvtF32I32 | pairedCvtI32F32 | pairedLdCs | pairedStCs | pairedLdKs |
      pairedStKs | pairedLdLp | pairedStLp | pairedSrd | pairedPand | pairedPor | pairedPxor | pairedPnot |
      pairedSetcEq | pairedSetcNe | pairedSetcLtI32 | pairedSetcLtN32 | pairedSetcLeI32 | pairedSetcLeN32 =>
    obtain rfl := Option.some.inj h
    exact decodeWord_packPair_eq _ _
  case bra | call | movi | addLong | mulLong | andLong | orLong | xorLong =>
    obtain rfl := Option.some.inj h
    exact decodeWord_packLong_of_arm _ _ _ fun w hw => by rw [decodeFull, hw]; rfl
  case add | sub | addc | subb | mul | mulh | mulw | mad | madh | div | rem | neg | abs | min | max | clamp | sadd |
      ssub | dot2s | sad | and | or | xor | not | lop3 | shl | shr | sar | rot | shf | rshr | bext | bins | bmsk |
      brev | popc | clz | ctz | perm | sext | zext | setc | sel | mov | pset | pand | por | pxor | pnot | fadd | fsub |
      fmul | ffma | fmin | fmax | fcmp | fclass | fcopysign | fscale | frnd | fdot2 | frcp | frsq | fsqrt | fdiv |
      fexp2 | flog2 | fsin | fcos | ftanh | fsigm | cvt | cvti | cvtx | ld | st | ldx | lda | stl | atom | acas | red |
      tbind | tstate | tdrain | tfree | cpy | cpyc | gath | scat | cpys | cpre | fence | sacq | srel | stry | cinv |
      cwb | chint | cbld | cbst | cbw | cbinv | cbfence | brx | ret | exit | yield | wait | nop | barArr | barWait |
      barSync | barExp | barStat | xshf | xred | xscan | xvote | xmatch | xelect | xbpc | qpush | qpop | qpeek | agrow |
      ashrink | trap | tret | sinj | srd | swr | gset | mres | mrel | mfill | mma | mtrq | mdrain | mzero | mqry =>
    obtain rfl := Option.some.inj h
    exact decodeWord_packFull_of_arm _ _ _ fun w hw => by rw [decodeFull, hw]; rfl
  all_goals exact nomatch h

/-- Settles O35: by the rows of R85 and R88 for the word, and by R7 for its eight bytes. -/
theorem decodeEncode : Obligations.DecodeEncode := by
  unfold Obligations.DecodeEncode
  intro i w rest hi h
  have hw := decodeWord_encode hi h
  exact ⟨hw, by rw [decode_bytesOfWord_append, hw]⟩

end Sys2Proof
end

section

/-! PROOF. Every step keeps every memory in its canonical form (R7, R269, R304). `Canonical` names the eight memories
of the package; one lemma per function of the model that yields a state says that the function keeps them, cited by
the lemmas of its callers up to `step`. A function that touches no memory keeps them because `mems` stays
(`Canonical.congr`); one that writes goes through the laws of `writeWords` and its kin. -/

namespace Sys2Proof.Machine

/-- Every memory of the package is in canonical form. -/
structure Canonical (s : State) : Prop where
  hbm : Memory.wf s.hbm = true
  parity : Memory.wf s.parity = true
  podMem : Memory.wf s.podMem = true
  hostMem : Memory.wf s.hostMem = true
  xs : Memory.wf s.xs = true
  cs : Memory.wf s.cs = true
  ks : Memory.wf s.ks = true
  ob : Memory.wf s.ob = true

theorem canonical_iff (s : State) : Canonical s ↔ Memory.allWf s = true := by
  simp only [Memory.allWf, mems, List.all_cons, List.all_nil, Bool.and_true, Bool.and_eq_true]
  constructor
  · rintro ⟨h1, h2, h3, h4, h5, h6, h7, h8⟩
    exact ⟨h1, h2, h3, h4, h5, h6, h7, h8⟩
  · rintro ⟨h1, h2, h3, h4, h5, h6, h7, h8⟩
    exact ⟨h1, h2, h3, h4, h5, h6, h7, h8⟩

theorem Canonical.congr {s s' : State} (h : Canonical s) (e : mems s' = mems s) : Canonical s' := by
  rw [canonical_iff, Memory.allWf, e]
  exact (canonical_iff s).mp h

/-! ### Results that carry a state -/

/-- The state a lane's result leaves. -/
def LaneRes.state : LaneRes → State
  | .done s | .park s _ _ | .jump s _ | .hold s | .trap s _ _ => s

/-- The state a pop leaves. -/
def QRes.state : QRes → State
  | .got _ _ s | .dry s | .wait s | .trap s _ => s

/-- The state the reading of an operand leaves. -/
def OpRes.state : OpRes → State
  | .words s _ => s
  | .stop r => r.state

/-- The outcome has no next state, or a canonical one. -/
def Keeps (o : Host.Outcome State Fault Refusal) : Prop := ∀ s', o = .next s' → Canonical s'

theorem keeps_next {s : State} : Keeps (.next s) ↔ Canonical s := by
  simp [Keeps]

theorem snd_canonical {α : Type} {p : α × State} {a : α} {s : State} (e : p = (a, s)) (h : Canonical p.2) :
    Canonical s := by
  subst e
  exact h

theorem done_canonical {r : LaneRes} {s : State} (e : r = .done s) (h : Canonical r.state) : Canonical s := by
  subst e
  exact h

theorem ite_canonical {c : Prop} [Decidable c] {s s' : State} (h : Canonical s) (h' : Canonical s') :
    Canonical (if c then s else s') := by
  split
  · exact h
  · exact h'

/-- A change under a condition, as the model writes it: `if c then f s else s`. -/
theorem when_canonical {c : Prop} [Decidable c] {s s' : State} (hs : Canonical s → Canonical s') (h : Canonical s) :
    Canonical (if c then s' else s) :=
  ite_canonical (hs h) h

/-! ### Folds -/

/-- A fold whose accumulator holds a state at `p`. -/
theorem foldl_canonical_of {α β : Type} (p : β → State) {f : β → α → β}
    (hf : ∀ b x, Canonical (p b) → Canonical (p (f b x))) (l : List α) {b : β} (h : Canonical (p b)) :
    Canonical (p (l.foldl f b)) := by
  induction l generalizing b with
  | nil => exact h
  | cons x l ih => exact ih (hf _ _ h)

section

variable {α β : Type}

theorem foldl_canonical {f : State → α → State} (hf : ∀ s x, Canonical s → Canonical (f s x)) (l : List α) {s : State}
    (h : Canonical s) : Canonical (l.foldl f s) :=
  foldl_canonical_of (fun s => s) hf l h

theorem foldl_fst_canonical {f : State × β → α → State × β} (hf : ∀ b x, Canonical b.1 → Canonical (f b x).1)
    (l : List α) {b : State × β} (h : Canonical b.1) : Canonical (l.foldl f b).1 :=
  foldl_canonical_of Prod.fst hf l h

theorem foldl_snd_canonical {f : β × State → α → β × State} (hf : ∀ b x, Canonical b.2 → Canonical (f b x).2)
    (l : List α) {b : β × State} (h : Canonical b.2) : Canonical (l.foldl f b).2 :=
  foldl_canonical_of Prod.snd hf l h

theorem foldl_work_canonical {f : Work → α → Work} (hf : ∀ w x, Canonical w.s → Canonical (f w x).s) (l : List α)
    {w : Work} (h : Canonical w.s) : Canonical (l.foldl f w).s :=
  foldl_canonical_of Work.s hf l h

theorem foldl_fst_work_canonical {f : Work × β → α → Work × β} (hf : ∀ b x, Canonical b.1.s → Canonical (f b x).1.s)
    (l : List α) {b : Work × β} (h : Canonical b.1.s) : Canonical (l.foldl f b).1.s :=
  foldl_canonical_of (fun b : Work × β => b.1.s) hf l h

theorem foldl_snd_work_canonical {f : β × Work → α → β × Work} (hf : ∀ b x, Canonical b.2.s → Canonical (f b x).2.s)
    (l : List α) {b : β × Work} (h : Canonical b.2.s) : Canonical (l.foldl f b).2.s :=
  foldl_canonical_of (fun b : β × Work => b.2.s) hf l h

theorem foldl_group_canonical {f : GroupRes → α → GroupRes} (hf : ∀ r x, Canonical r.s → Canonical (f r x).s)
    (l : List α) {r : GroupRes} (h : Canonical r.s) : Canonical (l.foldl f r).s :=
  foldl_canonical_of GroupRes.s hf l h

end

section

variable {s : State} {addr cls core g grid grp l lane line n op pa part port space status va vi wg : Nat}
  {f : FullWord} {t : Task} {ws : List Word} {c : Copy} {ls : List Nat}

/-! ### Machine.Reg -/

theorem modG_canonical {f : Group → Group} (h : Canonical s) : Canonical (modG s g f) :=
  h.congr rfl

theorem modT_canonical {f : Thread → Thread} (h : Canonical s) : Canonical (modT s g l f) :=
  modG_canonical h

theorem modWg_canonical {w : Nat} {f : Wg → Wg} (h : Canonical s) : Canonical (modWg s w f) :=
  h.congr rfl

theorem modGrid_canonical {k : Nat} {f : Grid → Grid} (h : Canonical s) : Canonical (modGrid s k f) :=
  h.congr rfl

/-! ### Machine.Mem -/

theorem hostStore_canonical {a : Nat} (h : Canonical s) : Canonical (hostStore s a ws) :=
  { h with hostMem := writeWords_wf h.hostMem _ _ }

theorem notifyWith_canonical {type tag member : Nat} {payload : List W32} (h : Canonical s) :
    Canonical (notifyWith s vi type op tag member status payload) := by
  unfold notifyWith
  grind [hostStore_canonical, Canonical]

theorem notify_canonical {type tag member : Nat} {payload : List W32} (h : Canonical s) :
    Canonical (notify s vi type op tag member payload) :=
  notifyWith_canonical h

/-! ### Machine.Home -/

theorem report_canonical {kind src mask : Nat} (h : Canonical s) : Canonical (report s kind src line mask) := by
  unfold report
  split
  · exact notify_canonical (h.congr rfl)
  · exact notify_canonical h

theorem hbmPut_canonical (h : Canonical s) : Canonical (hbmPut s line ws) :=
  { h with hbm := writeWords_wf h.hbm _ _ }

theorem parityUpdate_canonical {old new : List Word} (h : Canonical s) : Canonical (parityUpdate s line old new) :=
  { h with parity := writeWords_wf h.parity _ _ }

theorem openLine_canonical (h : Canonical s) : Canonical (openLine s).2 := by
  unfold openLine
  grind [Canonical]

theorem sealLine_canonical {key : Nat} (h : Canonical s) : Canonical (sealLine s line key ws).2 := by
  unfold sealLine
  grind [openLine_canonical, Canonical]

theorem hbmRead_canonical {key src : Nat} (h : Canonical s) : Canonical (hbmRead s line key src).2 := by
  unfold hbmRead
  grind [openLine_canonical, report_canonical, hbmPut_canonical, sealLine_canonical, parityUpdate_canonical]

theorem hbmWrite_canonical {key : Nat} {ps : AList Patch} (h : Canonical s) : Canonical (hbmWrite s line key ps) := by
  unfold hbmWrite
  grind [hbmRead_canonical, sealLine_canonical, hbmPut_canonical, parityUpdate_canonical, report_canonical]

theorem l2Put_canonical {c : CLine} (h : Canonical s) : Canonical (l2Put s c) :=
  h.congr rfl

theorem l2Drop_canonical (h : Canonical s) : Canonical (l2Drop s line) :=
  h.congr rfl

theorem l2Clean_canonical (h : Canonical s) : Canonical (l2Clean s line) := by
  unfold l2Clean
  split
  · split
    · exact l2Put_canonical (hbmWrite_canonical h)
    · exact h
  · exact h

theorem l2Fill_canonical {c : CLine} (h : Canonical s) : Canonical (l2Fill s c) := by
  unfold l2Fill
  grind [l2Drop_canonical, l2Clean_canonical, l2Put_canonical]

theorem l2Read_canonical {key prio : Nat} (h : Canonical s) : Canonical (l2Read s line key prio).2 := by
  unfold l2Read
  grind [hbmRead_canonical, l2Fill_canonical]

theorem podTrip_canonical (h : Canonical s) : Canonical (podTrip s pa) := by
  unfold podTrip
  split
  · exact h
  · exact h.congr rfl

theorem hostRead_canonical {prio : Nat} (h : Canonical s) : Canonical (hostRead s pa prio).2 := by
  unfold hostRead
  grind [l2Fill_canonical]

theorem l2Out_canonical (h : Canonical s) : Canonical (l2Out s line) :=
  l2Drop_canonical (l2Clean_canonical h)

theorem homeRead_canonical {at_ : LineAttr} (h : Canonical s) : Canonical (homeRead s pa at_).2 := by
  unfold homeRead
  grind [hbmRead_canonical, l2Out_canonical, l2Read_canonical, podTrip_canonical, hostRead_canonical]

theorem egressPatch_canonical {ps : AList Patch} (h : Canonical s) : Canonical (egressPatch s pa ps) :=
  ite_canonical (hostStore_canonical h) (report_canonical (hostStore_canonical h))

theorem homeWrite_canonical {at_ : LineAttr} {ps : AList Patch} (h : Canonical s) :
    Canonical (homeWrite s pa at_ ps) := by
  unfold homeWrite
  grind [hbmWrite_canonical, l2Out_canonical, l2Read_canonical, l2Put_canonical, l2Clean_canonical,
    podTrip_canonical, egressPatch_canonical, Canonical, writeWords_wf]

theorem dcDrop_canonical (h : Canonical s) : Canonical (dcDrop s core line) :=
  h.congr rfl

theorem dcDropAll_canonical (h : Canonical s) : Canonical (dcDropAll s core) :=
  h.congr rfl

theorem dcPut_canonical {prio : Nat} {evf : Bool} (h : Canonical s) : Canonical (dcPut s core line ws prio evf) :=
  h.congr rfl

theorem dcUpdate_canonical {b : WcBuf} (h : Canonical s) : Canonical (dcUpdate s b) := by
  unfold dcUpdate
  grind [dcDrop_canonical, dcPut_canonical, Canonical]

theorem wcSend_canonical {b : WcBuf} (h : Canonical s) : Canonical (wcSend s b) := by
  unfold wcSend
  split
  · exact { h.congr rfl with xs := writeWords_wf ((h.congr rfl).xs) _ _ }
  · exact homeWrite_canonical (dcUpdate_canonical (h.congr rfl))

theorem flushLine_canonical {xs : Bool} (h : Canonical s) : Canonical (flushLine s core xs line) := by
  unfold flushLine
  split
  · exact wcSend_canonical h
  · exact h

theorem flushCore_canonical (h : Canonical s) : Canonical (flushCore s core) :=
  foldl_canonical (fun _ _ => wcSend_canonical) _ h

theorem wcStore_canonical {xs : Bool} {at_ : LineAttr} {i : Nat} {p : Patch} {evf : Bool} (h : Canonical s) :
    Canonical (wcStore s core xs line at_ i p evf) := by
  unfold wcStore
  grind [wcSend_canonical, Canonical]

theorem gmLoad_canonical {at_ : LineAttr} {ch : Nat} (h : Canonical s) : Canonical (gmLoad s core pa at_ ch).2 := by
  unfold gmLoad
  grind [dcPut_canonical, homeRead_canonical, dcDrop_canonical]

/-! ### Machine.Xlate -/

theorem walkPut_canonical {w : WalkEnt} (h : Canonical s) : Canonical (walkPut s w) :=
  h.congr rfl

theorem walkFrom_canonical {base : Nat} {part : Part} {va fuel L t : Nat} {s : State} (h : Canonical s) :
    Canonical (walkFrom base part va fuel L t s).2 := by
  induction fuel generalizing L t s with
  | zero => exact h
  | succ fuel ih =>
    unfold walkFrom
    grind [homeRead_canonical, walkPut_canonical]

theorem walk_canonical {base : Nat} {part : Part} (h : Canonical s) : Canonical (walk s base part va).2 := by
  unfold walk
  grind [walkFrom_canonical]

theorem tlbPut_canonical {t : Tlb} (h : Canonical s) : Canonical (tlbPut s t) :=
  h.congr rfl

theorem translate_canonical (h : Canonical s) : Canonical (translate s core part va).2 := by
  unfold translate
  grind [walk_canonical, tlbPut_canonical]

theorem resolve_canonical {n : Need} (h : Canonical s) : Canonical (resolve s core part n va).2 := by
  unfold resolve
  grind [translate_canonical]

/-! ### Machine.Access -/

theorem locate_canonical {z : Nat} {n : Need} {a : Int} (h : Canonical s) : Canonical (locate s g space z n a).2 := by
  unfold locate
  grind [resolve_canonical]

theorem loadWord_canonical {ch : Nat} {p : Loc} {d : Nat} (h : Canonical s) :
    Canonical (loadWord s g l core ch p d).2 := by
  unfold loadWord
  split
  · exact h
  · exact h
  · exact h
  · exact h
  · exact gmLoad_canonical h

theorem loadWords_canonical {s : State} {g l core ch : Nat} {p : Loc} {n : Nat} (h : Canonical s) :
    Canonical (loadWords s g l core ch p n).2 := by
  induction n with
  | zero => exact h
  | succ n ih => exact loadWord_canonical ih

theorem storePatch_canonical {p : Loc} {d : Nat} {x : Patch} {evf : Bool} (h : Canonical s) :
    Canonical (storePatch s g l core p d x evf) := by
  unfold storePatch
  grind [modT_canonical, wcStore_canonical, Canonical, writeWord_wf]

theorem storeWords_canonical {p : Loc} (h : Canonical s) : Canonical (storeWords s g l core p ws) := by
  unfold storeWords
  grind [storePatch_canonical, foldl_fst_canonical]

theorem releaseAt_canonical {scope : Nat} (h : Canonical s) : Canonical (releaseAt s core scope) :=
  when_canonical flushCore_canonical h

theorem acquireAt_canonical {scope : Nat} (h : Canonical s) : Canonical (acquireAt s core scope) :=
  when_canonical dcDropAll_canonical h

theorem homeWord_canonical {p : Loc} (h : Canonical s) : Canonical (homeWord s core p).2 := by
  unfold homeWord
  grind [flushLine_canonical, dcDrop_canonical, homeRead_canonical]

theorem homePut_canonical {p : Loc} {ps : AList Patch} (h : Canonical s) : Canonical (homePut s core p ps) := by
  unfold homePut
  grind [homeWrite_canonical, dcDrop_canonical, Canonical, writeWord_wf, foldl_wf]

/-! ### Machine.Barrier -/

theorem setBar_canonical {x : Barrier} (h : Canonical s) : Canonical (setBar s x) :=
  h.congr rfl

theorem barTest_canonical {b : Barrier} (h : Canonical s) : Canonical (barTest s b) := by
  unfold barTest
  grind [setBar_canonical, Canonical]

theorem testBars_canonical (h : Canonical s) : Canonical (testBars s) :=
  foldl_canonical (fun _ _ => barTest_canonical) _ h

theorem noteBars_canonical (h : Canonical s) : Canonical (noteBars s) :=
  h.congr rfl

theorem barRaise_canonical {lvl owner : Nat} (h : Canonical s) : Canonical (barRaise s lvl owner n) :=
  h.congr rfl

theorem barLower_canonical {lvl owner : Nat} (h : Canonical s) : Canonical (barLower s lvl owner n) := by
  unfold barLower
  grind [setBar_canonical, foldl_canonical]

theorem barBytes_canonical {b : Barrier} {d : Int} {err : Bool} (h : Canonical s) :
    Canonical (barBytes s b d err) :=
  setBar_canonical h

theorem regExit_canonical {b : Barrier} (h : Canonical s) : Canonical (regExit s b) :=
  ite_canonical (h.congr rfl) h

theorem barExit_canonical {G : Group} {b : Barrier} (h : Canonical s) : Canonical (barExit s G b) :=
  setBar_canonical (regExit_canonical h)

theorem barExitOf_canonical {W : Wg} {G : Group} (h : Canonical s) : Canonical (barExitOf s W G) := by
  unfold barExitOf
  grind [barExit_canonical, foldl_canonical]

theorem barExitAll_canonical {G : Group} (h : Canonical s) : Canonical (barExitAll s G) := by
  unfold barExitAll
  split
  · exact h
  · exact barExitOf_canonical h

/-! ### Machine.Life -/

theorem gangRelease_canonical {k : Nat} (h : Canonical s) : Canonical (gangRelease s k) := by
  unfold gangRelease
  grind [Canonical, clearWords_wf]

theorem gridEnded_canonical {k ix : Nat} (h : Canonical s) : Canonical (gridEnded s k ix) :=
  modGrid_canonical h

theorem gridGone_canonical {k : Nat} (h : Canonical s) : Canonical (gridGone s k) :=
  modGrid_canonical h

theorem setEntries_canonical {bank : Nat} {es : AList CbEntry} (h : Canonical s) :
    Canonical (setEntries s core bank es) :=
  h.congr rfl

theorem settleWrites_canonical {W : Wg} (h : Canonical s) : Canonical (settleWrites s W) :=
  foldl_canonical (fun _ _ => setEntries_canonical) _ (h.congr rfl)

theorem wgRelease_canonical (h : Canonical s) : Canonical (wgRelease s wg) := by
  unfold wgRelease
  grind [settleWrites_canonical, gridEnded_canonical, gangRelease_canonical, Canonical, clearWords_wf]

theorem wgEmptied_canonical (h : Canonical s) : Canonical (wgEmptied s wg) := by
  unfold wgEmptied
  grind [modWg_canonical, wgRelease_canonical]

theorem endGroup_canonical (h : Canonical s) : Canonical (endGroup s g) := by
  unfold endGroup
  split
  · exact h
  · exact wgEmptied_canonical ((barExitAll_canonical h).congr rfl)

theorem endThread_canonical (h : Canonical s) : Canonical (endThread s g l) := by
  unfold endThread
  grind [modT_canonical, endGroup_canonical, Canonical]

theorem endThreads_canonical (h : Canonical s) : Canonical (endThreads s g ls) :=
  foldl_canonical (fun _ _ => endThread_canonical) _ h

theorem killWgs_canonical {sel : Nat → Wg → Bool} (h : Canonical s) : Canonical (killWgs s sel) := by
  unfold killWgs
  grind [endGroup_canonical, barExitOf_canonical, gridEnded_canonical, gangRelease_canonical, foldl_canonical,
    Canonical]

theorem lowerFor_canonical {lvl owner : Nat} (h : Canonical s) : Canonical (lowerFor s lvl owner grid n) :=
  barLower_canonical h

theorem unpend_canonical {d : Nat} (h : Canonical s) : Canonical (unpend s grid d).2 := by
  unfold unpend
  grind [lowerFor_canonical, Canonical]

theorem cancelPending_canonical {mask : Byte} (h : Canonical s) : Canonical (cancelPending s grid mask) := by
  unfold cancelPending
  grind [unpend_canonical, gridGone_canonical, lowerFor_canonical, foldl_canonical]

theorem cancelGlobal_canonical (h : Canonical s) : Canonical (cancelGlobal s grid) := by
  unfold cancelGlobal
  split
  · exact h
  · exact foldl_canonical (fun _ _ => gridGone_canonical) _ (lowerFor_canonical (modGrid_canonical h))

theorem stopGrid_canonical (h : Canonical s) : Canonical (stopGrid s grid) := by
  unfold stopGrid
  exact killWgs_canonical (cancelGlobal_canonical (cancelPending_canonical (modGrid_canonical h)))

theorem killUnit_canonical {level : Nat} (h : Canonical s) : Canonical (killUnit s g level) := by
  unfold killUnit
  grind [endGroup_canonical, killWgs_canonical, modGrid_canonical, cancelPending_canonical,
    cancelGlobal_canonical, stopGrid_canonical, foldl_canonical]

/-! ### Machine.Ops -/

theorem recordEvent_canonical {e : Event} (h : Canonical s) : Canonical (recordEvent s grid e) :=
  modGrid_canonical h

theorem modQ_canonical {k : Nat} {f : Queue → Queue} (h : Canonical s) : Canonical (modQ s k f) :=
  h.congr rfl

theorem qBack_canonical {x : Nat × Word} (h : Canonical s) : Canonical (qBack s x) := by
  unfold qBack
  grind [modQ_canonical, Canonical, writeWord_wf]

theorem contain_canonical {s : State} {g : Nat} {ls : List Nat} {e : Event} {ign : List (Nat × Ign)} (h : Canonical s) :
    Canonical (contain s g ls e ign) := by
  unfold contain
  split
  · exact h
  split
  · exact h
  split
  · exact h
  next K _ =>
  dsimp only
  split
  · split
    · exact foldl_canonical (fun _ _ => modT_canonical) _ (recordEvent_canonical h)
    · exact foldl_canonical (fun _ _ => modT_canonical) _
        (foldl_canonical (fun _ _ => qBack_canonical) _ (recordEvent_canonical h))
  · exact foldl_canonical (fun _ _ => modT_canonical) _ h
  · exact killUnit_canonical (recordEvent_canonical h)
  · exact killUnit_canonical (recordEvent_canonical h)

theorem takeTrap_canonical {pc : W64} {ts : List (Nat × Trap × Ign)} (h : Canonical s) :
    Canonical (takeTrap s g pc ts) := by
  unfold takeTrap
  grind [modG_canonical, modT_canonical, contain_canonical, foldl_canonical, Canonical]

theorem tretComplete_canonical (h : Canonical s) : Canonical (tretComplete s g) := by
  unfold tretComplete
  grind [modG_canonical, modT_canonical, endThreads_canonical, foldl_canonical]

theorem disarm_canonical (h : Canonical s) : Canonical (disarm s g l cls) := by
  unfold disarm
  split
  · exact modG_canonical h
  · exact h

theorem writeBack_canonical {late psn : Bool} {ds : List Nat} {o : AluOut} (h : Canonical s) :
    Canonical (writeBack s g l cls late psn ds o).state := by
  unfold writeBack
  grind [disarm_canonical, modT_canonical, LaneRes.state]

theorem landWords_canonical {wide : Bool} {sub : Nat} {tv : Nat → Option W64} {ds : List Nat} (h : Canonical s) :
    Canonical (landWords s g l cls wide sub tv ds ws).state := by
  unfold landWords
  grind [disarm_canonical, modT_canonical, LaneRes.state]

theorem retryDone_canonical (h : Canonical s) : Canonical (retryDone s g l) := by
  unfold retryDone
  grind [modT_canonical, recordEvent_canonical]

theorem settleLane_canonical {i : WordInfo} {r : LaneRes} (h : Canonical r.state) :
    Canonical (settleLane i g l r).1 := by
  unfold settleLane
  grind [modT_canonical, retryDone_canonical, LaneRes.state]

/-- A lane keeps the memories when the body of its word does. -/
theorem laneStep_canonical {i : WordInfo} {pre : State → Nat → Nat → Option Trap} {body : State → Nat → Nat → LaneRes}
    {s : State} {g l : Nat} (hb : ∀ s g l, Canonical s → Canonical (body s g l).state) (h : Canonical s) :
    Canonical (laneStep i pre body s g l).state := by
  unfold laneStep
  grind [LaneRes.state]

theorem runLanes_canonical {i : WordInfo} {pre : State → Nat → Nat → Option Trap} {body : State → Nat → Nat → LaneRes}
    {ls : List (Nat × Nat)} {s : State} (hb : ∀ s g l, Canonical s → Canonical (body s g l).state) (h : Canonical s) :
    Canonical (runLanes i pre body ls s).1 := by
  induction ls generalizing s with
  | nil => exact h
  | cons x r ih => exact ih (settleLane_canonical (laneStep_canonical hb h))

theorem takeTraps_canonical {s0 : State} {lanes : List (Nat × Nat)} {ts : List (Nat × Nat × Trap × Ign)}
    (h : Canonical s) : Canonical (takeTraps s0 lanes ts s) := by
  unfold takeTraps
  grind [modT_canonical, takeTrap_canonical, foldl_canonical]

/-- A word issued lane by lane keeps the memories when its body does. -/
theorem issueLanes_canonical {i : WordInfo} {pre : State → Nat → Nat → Option Trap}
    {body : State → Nat → Nat → LaneRes} {s : State} (hb : ∀ s g l, Canonical s → Canonical (body s g l).state)
    (h : Canonical s) : Canonical (issueLanes i pre body s) := by
  unfold issueLanes
  split
  · exact h
  · have h1 : Canonical { s with coach := none } := h.congr rfl
    exact takeTraps_canonical (runLanes_canonical hb h1)

theorem groupRes_done_canonical (h : Canonical s) : Canonical (GroupRes.done s).s :=
  h

theorem groupRes_holdAll_canonical (h : Canonical s) : Canonical (GroupRes.holdAll s ls).s :=
  h

theorem groupRes_trapAll_canonical {t : Trap} {ign : Ign} (h : Canonical s) :
    Canonical (GroupRes.trapAll s ls t ign).s :=
  h

theorem groupRes_trapOne_canonical {t : Trap} {ign : Ign} (h : Canonical s) :
    Canonical (GroupRes.trapOne s l t ign).s :=
  h

theorem groupStep_canonical {i : WordInfo} {pre : State → Nat → Nat → Option Trap}
    {body : State → Nat → List Nat → GroupRes} {g : Nat} {ls : List Nat} {s : State}
    (hb : ∀ s g ls, Canonical s → Canonical (body s g ls).s) (h : Canonical s) :
    Canonical (groupStep i pre body g ls s).1 := by
  have settle {i g l r} (h : Canonical r.state) : Canonical (settleLane i g l r).1 := settleLane_canonical h
  unfold groupStep
  grind [foldl_canonical, LaneRes.state]

/-- A word issued group by group keeps the memories when its body does. -/
theorem issueGroups_canonical {i : WordInfo} {pre : State → Nat → Nat → Option Trap}
    {body : State → Nat → List Nat → GroupRes} {s : State} (hb : ∀ s g ls, Canonical s → Canonical (body s g ls).s)
    (h : Canonical s) : Canonical (issueGroups i pre body s) := by
  unfold issueGroups
  split
  · exact h
  · have h1 : Canonical { s with coach := none } := h.congr rfl
    refine takeTraps_canonical (foldl_fst_canonical (fun _ _ h => ?_) _ h1)
    exact groupStep_canonical hb h

/-! ### Machine.Queue -/

theorem qTake_canonical {k : Nat} {q : Queue} (h : Canonical s) : Canonical (qTake s g k q).2 := by
  unfold qTake
  grind [acquireAt_canonical, modQ_canonical]

theorem qPut_canonical {k : Nat} {q : Queue} {w : Word} (h : Canonical s) : Canonical (qPut s g k q w) := by
  unfold qPut
  split
  · exact modQ_canonical { releaseAt_canonical h with xs := writeWord_wf ((releaseAt_canonical h).xs) _ _ }
  · exact modQ_canonical { releaseAt_canonical h with ks := writeWord_wf ((releaseAt_canonical h).ks) _ _ }

theorem qWait_canonical {k : Nat} {push : Bool} (h : Canonical s) : Canonical (qWait s g l k push) := by
  unfold qWait
  grind [modT_canonical, modQ_canonical, Canonical]

theorem qUnwait_canonical {k : Nat} (h : Canonical s) : Canonical (qUnwait s g l k) :=
  modQ_canonical (modT_canonical h)

theorem qPopLane_canonical {f : Byte} (h : Canonical s) : Canonical (qPopLane s g l f).state := by
  unfold qPopLane
  grind [qTake_canonical, qUnwait_canonical, qWait_canonical, QRes.state]

theorem taking_canonical {q : List (Nat × Word)} {r : LaneRes} (h : Canonical r.state) :
    Canonical (LaneRes.taking q r).state := by
  unfold LaneRes.taking
  grind [LaneRes.state]

theorem qPushLane_canonical {f : Byte} {w : Word} (h : Canonical s) : Canonical (qPushLane s g l f w) := by
  unfold qPushLane
  split
  · exact h
  · exact qPut_canonical (qUnwait_canonical h)

theorem qWaitPush_canonical {f : Byte} (h : Canonical s) : Canonical (qWaitPush s g l f) := by
  unfold qWaitPush
  split
  · exact h
  · exact qWait_canonical h

theorem qFlag_canonical {f : Byte} {b : Bool} (h : Canonical s) : Canonical (qFlag s g l f b) :=
  when_canonical modT_canonical h

/-! ### Machine.Operands -/

theorem openHigh_canonical {ty : Nat} {w : Word} (h : Canonical s) : Canonical (openHigh s ty w).state := by
  unfold openHigh
  split
  · exact h.congr rfl
  · exact h

theorem popOperand_canonical {ty : Nat} {x : Byte} (h : Canonical s) : Canonical (popOperand s g l ty x).state := by
  unfold popOperand
  grind [qPopLane_canonical, qFlag_canonical, openHigh_canonical, LaneRes.state, QRes.state, OpRes.state]

theorem readOperand_canonical {r : Row} {t : Thread} {i : Nat} (h : Canonical s) :
    Canonical (readOperand r f s g l t i).state := by
  unfold readOperand
  grind [popOperand_canonical, openHigh_canonical, LaneRes.state, OpRes.state]

theorem pushResult_canonical {x : Byte} {r : LaneRes} {ws : Option (List Word)} (h : Canonical s)
    (h2 : Canonical r.state) : Canonical (pushResult s g l x r ws).state := by
  unfold pushResult
  grind [qFlag_canonical, qPushLane_canonical, qWaitPush_canonical, LaneRes.state]

theorem popDone_canonical {x : Byte} {r : LaneRes} (h : Canonical r.state) : Canonical (popDone g l x r).state := by
  unfold popDone
  grind [qFlag_canonical, LaneRes.state]

theorem aluLane_canonical {r : Row} {cls : Nat} {run : Ctx → AluOut} {f : FullWord} {s : State} {g l : Nat}
    (h : Canonical s) : Canonical (aluLane r cls run f s g l).state := by
  unfold aluLane
  split
  · exact h
  next t _ =>
  split
  · exact h
  next ds _ =>
  dsimp only
  have h0 := readOperand_canonical (r := r) (f := f) (g := g) (l := l) (t := t) (i := 0) h
  cases e0 : readOperand r f s g l t 0 with
  | stop x => exact taking_canonical (by rw [e0] at h0; exact h0)
  | words s0 a =>
    rw [e0] at h0
    have h1 := readOperand_canonical (r := r) (f := f) (g := g) (l := l) (t := t) (i := 1) h0
    dsimp only [OpRes.state] at h1 ⊢
    cases e1 : readOperand r f s0 g l t 1 with
    | stop x => exact taking_canonical (by rw [e1] at h1; exact h1)
    | words s1 b =>
      rw [e1] at h1
      have h2 := readOperand_canonical (r := r) (f := f) (g := g) (l := l) (t := t) (i := 2) h1
      dsimp only [OpRes.state] at h2 ⊢
      cases e2 : readOperand r f s1 g l t 2 with
      | stop x => exact taking_canonical (by rw [e2] at h2; exact h2)
      | words s2 c =>
        rw [e2] at h2
        dsimp only [OpRes.state] at h2 ⊢
        split
        · exact pushResult_canonical h2 (writeBack_canonical h2)
        · split
          · exact popDone_canonical (taking_canonical (writeBack_canonical h2))
          · exact writeBack_canonical h2

theorem issueR75_keeps {row : FullWord → Row} {run : Ctx → AluOut} (h : Canonical s) :
    Keeps (issueR75 row cls run f s) :=
  keeps_next.mpr (issueLanes_canonical (fun _ _ _ => aluLane_canonical) h)

/-! ### Machine.LoadStore -/

theorem memLoad_canonical {ty vec ch d : Nat} {bad : Bool} {addr : Int} (h : Canonical s) :
    Canonical (memLoad s g l space ty vec ch d bad addr).state := by
  unfold memLoad
  grind [locate_canonical, loadWord_canonical, landWords_canonical, loadWords_canonical, LaneRes.state]

theorem storeParts_canonical {p : Loc} {ps : List Patch} {evf : Bool} (h : Canonical s) :
    Canonical (storeParts' s g l core p ps evf) := by
  unfold storeParts'
  grind [storePatch_canonical, foldl_fst_canonical]

theorem memStore_canonical {ty vec rel : Nat} {bad : Bool} {addr : Int} {evf : Bool} (h : Canonical s) :
    Canonical (memStore s g l space ty vec rel ws bad addr evf).state := by
  unfold memStore
  grind [locate_canonical, storeParts_canonical, releaseAt_canonical, LaneRes.state]

theorem loadBody_canonical {ix : Bool} {acq : Nat} (h : Canonical s) : Canonical (loadBody ix acq f s g l).state := by
  unfold loadBody
  grind [memLoad_canonical, acquireAt_canonical, LaneRes.state]

theorem storeBody_canonical {rel : Nat} (h : Canonical s) : Canonical (storeBody rel f s g l).state := by
  unfold storeBody
  split
  · exact h
  · split
    · exact memStore_canonical h

theorem issueMem_keeps {load sync ix : Bool} {body : FullWord → State → Nat → Nat → LaneRes} {f : FullWord} {s : State}
    (hb : ∀ s g l, Canonical s → Canonical (body f s g l).state) (h : Canonical s) :
    Keeps (issueMem load sync ix body f s) :=
  keeps_next.mpr (issueLanes_canonical hb h)

/-! ### Machine.Control -/

theorem braBody_canonical {link : Bool} {w : LongWord} (h : Canonical s) :
    Canonical (braBody link w s g l).state := by
  unfold braBody
  grind [modT_canonical, LaneRes.state]

theorem brxBody_canonical {rel : Bool} (h : Canonical s) : Canonical (brxBody rel f s g l).state := by
  unfold brxBody
  grind [LaneRes.state]

theorem exitBody_canonical (h : Canonical s) : Canonical (exitBody s g l).state := by
  unfold exitBody
  grind [retryDone_canonical, endGroup_canonical, endThread_canonical, LaneRes.state]

theorem waitBody_canonical (h : Canonical s) : Canonical (waitBody f s g l).state := by
  unfold waitBody
  split
  · exact h
  · exact h

theorem execWaitCyclesElapsed_keeps (h : Canonical s) : Keeps (execWaitCyclesElapsed grp lane s) := by
  unfold execWaitCyclesElapsed
  refine keeps_next.mpr ?_
  split
  · exact h
  · split
    · exact modT_canonical h
    · exact h

theorem tretBody_canonical (h : Canonical s) : Canonical (tretBody f s g l).state :=
  tretComplete_canonical (modG_canonical h)

/-! ### Machine.CopyUnit -/

theorem copyLoc_canonical {rd wr : Bool} {k : Int} (h : Canonical s) : Canonical (copyLoc s c space rd wr k).2 := by
  unfold copyLoc
  grind [resolve_canonical]

theorem flush_canonical {w : Work} (h : Canonical w.s) : Canonical (Work.flush w core).s := by
  unfold Work.flush
  grind [homeWord_canonical, homePut_canonical, foldl_canonical]

theorem readSide_canonical {c : Copy} {space side base : Nat} {wr : Bool} {k : Int} {n : Nat} {w : Work}
    (h : Canonical w.s) : Canonical (readSide c space side base wr k n w).2.s := by
  induction n generalizing k w with
  | zero => exact h
  | succ n ih =>
    unfold readSide
    grind [copyLoc_canonical, homeWord_canonical]

theorem readElem_canonical {side base : Nat} {wr : Bool} {bit : Int} {w : Work} (h : Canonical w.s) :
    Canonical (readElem c space side base wr bit n w).2.s := by
  unfold readElem
  grind [readSide_canonical]

theorem writeLocs_canonical {c : Copy} {space base : Nat} {k : Int} {n : Nat} {w : Work} (h : Canonical w.s) :
    Canonical (writeLocs c space base k n w).2.s := by
  induction n generalizing k w with
  | zero => exact h
  | succ n ih =>
    unfold writeLocs
    grind [copyLoc_canonical]

theorem writeElem_canonical {base : Nat} {bit : Int} {ix : Nat} {e : Elem} {w : Work} (h : Canonical w.s) :
    Canonical (writeElem c space base bit n ix e w).s := by
  unfold writeElem
  grind [writeLocs_canonical]

theorem readRow_canonical {d : Desc} {sb i : Nat} {w : Work} (h : Canonical w.s) :
    Canonical (readRow c d sb i w).2.s := by
  unfold readRow
  grind [readElem_canonical, foldl_snd_work_canonical]

theorem convElem_canonical {d : Desc} {ix : Nat} {sc : Option FVal} {e : Option Elem} {w : Work} (h : Canonical w.s) :
    Canonical (convElem c d ix sc e w).2.s := by
  unfold convElem
  grind

theorem convRun_canonical {c : Copy} {d : Desc} {sc : Option FVal} {ix : Nat} {es : List (Option Elem)} {w : Work}
    (h : Canonical w.s) : Canonical (convRun c d sc ix es w).2.s := by
  induction es generalizing ix w with
  | nil => exact h
  | cons e r ih => exact ih (convElem_canonical h)

theorem convBlocks_canonical {c : Copy} {d : Desc} {L fuel ix : Nat} {es : List (Option Elem)} {w : Work}
    (h : Canonical w.s) : Canonical (convBlocks c d L fuel ix es w).2.2.s := by
  induction fuel generalizing ix es w with
  | zero => exact h
  | succ fuel ih =>
    unfold convBlocks
    split
    · exact h
    · exact ih (convRun_canonical h)

theorem moveRow_canonical {d : Desc} {sb db skipped : Nat} {w : Work} {i : Nat} (h : Canonical w.s) :
    Canonical (moveRow c d sb db skipped w i).s := by
  unfold moveRow
  grind [readRow_canonical, convRun_canonical, convBlocks_canonical, writeElem_canonical, foldl_fst_work_canonical]

theorem moveRows_canonical {c : Copy} {d : Desc} {sb db skipped : Nat} {is : List Nat} {w : Work} (h : Canonical w.s) :
    Canonical (moveRows c d sb db skipped is w).1.s := by
  induction is generalizing w with
  | nil => exact h
  | cons i r ih =>
    unfold moveRows
    dsimp only
    split
    · exact moveRow_canonical h
    · exact ih (moveRow_canonical h)

theorem moveWindow_canonical {t : Option Tile} {k : Cart} {d : Desc} {w : Work} (h : Canonical w.s) :
    Canonical (moveWindow c t k d w).1.s := by
  unfold moveWindow
  grind [moveRows_canonical, flush_canonical]

theorem readRows_canonical {c : Copy} {d : Desc} {k : Cart} {w : Work} (h : Canonical w.s) :
    Canonical (readRows c d k w).2.2.s := by
  unfold readRows
  refine foldl_canonical_of (fun b : List RowJob × List Nat × Work => b.2.2.s) (fun b x h => ?_) _ h
  obtain ⟨js, done, w⟩ := b
  grind [foldl_snd_work_canonical, readElem_canonical]

theorem applyRow_canonical {d : Desc} {sop : Nat} {acc : List Nat × Work} {j : RowJob} (h : Canonical acc.2.s) :
    Canonical (applyRow c d sop acc j).2.s := by
  unfold applyRow
  grind [readElem_canonical, writeElem_canonical, flush_canonical, foldl_fst_work_canonical]

theorem moveLanes_canonical {k : Cart} {d : Desc} {w : Work} (h : Canonical w.s) :
    Canonical (moveLanes c k d w).1.s := by
  unfold moveLanes
  grind [readRows_canonical, applyRow_canonical, flush_canonical, foldl_snd_work_canonical]

theorem runCopy_canonical (h : Canonical s) : Canonical (runCopy s c).1 := by
  unfold runCopy
  grind [acquireAt_canonical, moveLanes_canonical, moveWindow_canonical, foldl_fst_canonical]

/-! ### Machine.Copy -/

theorem setTile_canonical {x : Tile} (h : Canonical s) : Canonical (setTile s x) :=
  h.congr rfl

theorem tileIssue_canonical {k : CopyKind} (h : Canonical s) : Canonical (tileIssue s g k f) := by
  unfold tileIssue
  split
  · split
    · exact h
    · exact setTile_canonical h
  · exact h

theorem pendStatus_canonical {id : Nat} {second : Bool} {d : Byte} (h : Canonical s) :
    Canonical (pendStatus s g id second d ls) :=
  ite_canonical h (foldl_canonical (fun _ _ => modT_canonical) _ h)

theorem modCopy_canonical {id : Nat} {f : Copy → Copy} (h : Canonical s) : Canonical (modCopy s id f) :=
  h.congr rfl

theorem addCart_canonical {k : CopyKind} {a : Nat} (h : Canonical s) : Canonical (addCart k f s g ls a) := by
  unfold addCart
  grind [modCopy_canonical, tileIssue_canonical, pendStatus_canonical, Canonical]

theorem copyBody_canonical {k : CopyKind} (h : Canonical s) : Canonical (copyBody k f s g ls).s := by
  unfold copyBody
  grind [groupRes_trapOne_canonical, groupRes_trapAll_canonical, modCopy_canonical, groupRes_holdAll_canonical,
    groupRes_done_canonical, addCart_canonical]

theorem issueCopy_keeps {k : CopyKind} (h : Canonical s) : Keeps (issueCopy k f s) :=
  keeps_next.mpr (issueGroups_canonical (fun _ _ _ => copyBody_canonical) h)

theorem prefetch_canonical {d : Desc} (h : Canonical s) : Canonical (prefetch c d s) := by
  unfold prefetch
  grind [readRow_canonical, foldl_work_canonical]

theorem cpreBody_canonical (h : Canonical s) : Canonical (cpreBody f s g ls).s := by
  unfold cpreBody
  grind [groupRes_done_canonical, groupRes_trapOne_canonical, groupRes_holdAll_canonical, acquireAt_canonical,
    prefetch_canonical]

theorem landStatus_canonical {second : Bool} {w0 w1 : Word} (h : Canonical s) :
    Canonical (landStatus s c second w0 w1) :=
  foldl_canonical (fun _ _ => modG_canonical) _ h

theorem copyTileEnd_canonical {r : CopyResult} (h : Canonical s) : Canonical (copyTileEnd s c r) := by
  unfold copyTileEnd
  grind [setTile_canonical]

theorem copyTaken_canonical {r : CopyResult} (h : Canonical s) : Canonical (copyTaken s c r) :=
  ite_canonical (h.congr rfl) h

theorem finishCopy_canonical {r : CopyResult} (h : Canonical s) : Canonical (finishCopy s c r) := by
  unfold finishCopy
  grind [releaseAt_canonical, barBytes_canonical, landStatus_canonical, modG_canonical, copyTaken_canonical,
    copyTileEnd_canonical, wgEmptied_canonical, foldl_canonical, Canonical]

theorem endCopy_canonical {stop : Bool} {id : Nat} (h : Canonical s) : Canonical (endCopy stop id s) := by
  unfold endCopy
  grind [finishCopy_canonical, runCopy_canonical]

theorem execCopyCompletion_keeps {copy : Nat} (h : Canonical s) : Keeps (execCopyCompletion copy s) :=
  keeps_next.mpr (endCopy_canonical h)

theorem execCopyStop_keeps {copy : Nat} (h : Canonical s) : Keeps (execCopyStop copy s) :=
  keeps_next.mpr (endCopy_canonical h)

theorem execCpysSourceReadDone_keeps {copy : Nat} (h : Canonical s) : Keeps (execCpysSourceReadDone copy s) := by
  unfold execCpysSourceReadDone
  grind [runCopy_canonical, landStatus_canonical, modCopy_canonical, keeps_next]

/-! ### Machine.BarrierOps -/

theorem barPass_canonical {r : BarRec} (h : Canonical s) : Canonical (barPass f s g ls r).s := by
  unfold barPass
  grind [acquireAt_canonical, modG_canonical, groupRes_trapAll_canonical, groupRes_done_canonical, modT_canonical,
    foldl_canonical]

theorem barHold_canonical {r : BarRec} (h : Canonical s) : Canonical (barHold s g ls r).s := by
  unfold barHold
  grind [modG_canonical, groupRes_holdAll_canonical, modT_canonical, foldl_canonical]

theorem barWaitOn_canonical {b : Barrier} (h : Canonical s) : Canonical (barWaitOn f s g ls b).s := by
  unfold barWaitOn
  grind [barHold_canonical, barPass_canonical]

theorem barApply_canonical {b : Barrier} {arr err : Bool} {bytes : Int} (h : Canonical s) :
    Canonical (barApply s g b arr err bytes) := by
  unfold barApply
  split
  · exact setBar_canonical (modG_canonical (releaseAt_canonical h))
  · exact setBar_canonical h

theorem barArrBody_canonical (h : Canonical s) : Canonical (barArrBody f s g ls).s := by
  unfold barArrBody
  split
  · exact groupRes_trapAll_canonical h
  · split
    · exact groupRes_trapAll_canonical h
    · exact groupRes_done_canonical (barApply_canonical h)

theorem barWaitBody_canonical (h : Canonical s) : Canonical (barWaitBody f s g ls).s := by
  unfold barWaitBody
  split
  · exact groupRes_trapAll_canonical h
  · exact barWaitOn_canonical h

theorem barSyncBody_canonical (h : Canonical s) : Canonical (barSyncBody f s g ls).s := by
  unfold barSyncBody
  grind [groupRes_trapAll_canonical, barWaitOn_canonical, barApply_canonical, groupRes_done_canonical]

theorem barExpBody_canonical (h : Canonical s) : Canonical (barExpBody f s g ls).s := by
  unfold barExpBody
  grind [groupRes_trapAll_canonical, groupRes_trapOne_canonical, groupRes_done_canonical, barApply_canonical]

theorem barStatBody_canonical (h : Canonical s) : Canonical (barStatBody f s g l).state := by
  unfold barStatBody
  split
  · exact h
  · exact modT_canonical h

/-! ### Machine.Allot -/

theorem agrowBody_canonical (h : Canonical s) : Canonical (agrowBody f s g ls).s := by
  unfold agrowBody
  grind [groupRes_done_canonical, modT_canonical, groupRes_holdAll_canonical, modG_canonical, foldl_canonical,
    Canonical]

theorem ashrinkBody_canonical (h : Canonical s) : Canonical (ashrinkBody f s g ls).s := by
  unfold ashrinkBody
  grind [groupRes_done_canonical, groupRes_holdAll_canonical, modG_canonical]

/-! ### Machine.Atomic -/

theorem homeWords_canonical {p : Loc} (h : Canonical s) : Canonical (homeWords s core p n).2 := by
  unfold homeWords
  grind [homeWord_canonical]

theorem offlineAtom_canonical {isRed : Bool} {ds : List Nat} (h : Canonical s) :
    Canonical (offlineAtom isRed s g l n ds).state := by
  unfold offlineAtom
  split
  · exact modT_canonical h
  · exact landWords_canonical h

theorem atomBody_canonical {cas isRed : Bool} {f : FullWord} {s : State} {g l : Nat} (h : Canonical s) :
    Canonical (atomBody cas isRed f s g l).state := by
  unfold atomBody
  split
  · exact h
  dsimp only
  split
  · exact h
  split
  · next e => exact snd_canonical e (locate_canonical h)
  next p s1 e =>
  have h1 : Canonical s1 := snd_canonical e (locate_canonical h)
  have h2 : Canonical (if ordOf f / 2 = 1 then releaseAt s1 (coreOf s1 g) (atomScope cas f) else s1) :=
    when_canonical releaseAt_canonical h1
  have h3 := homeWords_canonical (core := coreOf s1 g) (p := p) (n := nRegs (tyOf f)) h2
  generalize homeWords _ (coreOf s1 g) p (nRegs (tyOf f)) = m at h3 ⊢
  split
  · exact offlineAtom_canonical h3
  split
  · split
    · exact landWords_canonical h3
    · exact ite_canonical h3 (disarm_canonical h3)
  split
  · exact h3
  split
  · next s4 e =>
    have h4 : Canonical s4 := by
      refine done_canonical e ?_
      split
      · exact h3
      · exact landWords_canonical h3
    exact when_canonical acquireAt_canonical (when_canonical modT_canonical (when_canonical homePut_canonical h4))
  · split
    · exact h3
    · exact landWords_canonical h3

theorem issueAtom_keeps {cas isRed : Bool} (h : Canonical s) : Keeps (issueAtom cas isRed f s) :=
  keeps_next.mpr (issueLanes_canonical (fun _ _ _ => atomBody_canonical) h)

/-! ### Machine.Codebook -/

theorem bankWrite_canonical {bank : Nat} {ents : AList CbEntry} (h : Canonical s) :
    Canonical (bankWrite s core bank g ents) :=
  h.congr rfl

theorem cbPlaces_canonical {s : State} {g l space : Nat} {need : Need} {addr n : Nat} (h : Canonical s) :
    Canonical (cbPlaces s g l space need addr n).2 := by
  induction n with
  | zero => exact h
  | succ n ih =>
    unfold cbPlaces
    grind [locate_canonical]

theorem cbMemBody_canonical {load : Bool} (h : Canonical s) : Canonical (cbMemBody load f s g ls).s := by
  unfold cbMemBody
  grind [groupRes_trapOne_canonical, cbPlaces_canonical, loadWords_canonical, groupRes_done_canonical,
    bankWrite_canonical, storeWords_canonical, foldl_canonical, foldl_snd_canonical]

theorem cbwBody_canonical (h : Canonical s) : Canonical (cbwBody f s g l).state := by
  unfold cbwBody
  grind [bankWrite_canonical, LaneRes.state]

theorem joinWrites_canonical {since : Nat} (h : Canonical s) : Canonical (joinWrites since s) := by
  unfold joinWrites
  split
  · exact h
  · exact h.congr rfl

theorem cbinvBody_canonical (h : Canonical s) : Canonical (cbinvBody f s g ls).s := by
  unfold cbinvBody
  grind [groupRes_done_canonical, groupRes_trapOne_canonical, bankWrite_canonical]

theorem cbfenceBody_canonical (h : Canonical s) : Canonical (cbfenceBody s g l).state := by
  unfold cbfenceBody
  split
  · exact modT_canonical h
  · exact h

theorem cbRelease_canonical (h : Canonical s) : Canonical (cbRelease s) :=
  h.congr rfl

theorem execBankWriteComplete_keeps {bank : Nat} (h : Canonical s) : Keeps (execBankWriteComplete core bank s) := by
  unfold execBankWriteComplete
  refine keeps_next.mpr ?_
  split
  · exact h
  · split
    · exact h
    · exact cbRelease_canonical (setEntries_canonical (h.congr rfl))

/-! ### Machine.Cross -/

theorem xLand_canonical {r : XRes} (h : Canonical s) : Canonical (xLand f s g l r).1 := by
  unfold xLand
  grind [disarm_canonical, landWords_canonical, modT_canonical, LaneRes.state]

theorem xBody_canonical {k : XOp} {s0 : State} (h : Canonical s0) : Canonical (xBody k f s0 g ls).s := by
  unfold xBody
  grind [xLand_canonical, groupRes_done_canonical, foldl_group_canonical]

theorem issueCross_keeps {k : XOp} (h : Canonical s) : Keeps (issueCross k f s) :=
  keeps_next.mpr (issueGroups_canonical (fun _ _ _ => xBody_canonical) h)

/-! ### Machine.Long -/

theorem issueLong_keeps {noA : Bool} {run : List Word → List Word → AluOut} {w : LongWord} (h : Canonical s) :
    Keeps (issueLong cls noA run w s) := by
  unfold issueLong
  grind [issueLanes_canonical, writeBack_canonical, LaneRes.state, keeps_next]

theorem execMovi_keeps {w : LongWord} (h : Canonical s) : Keeps (execMovi w s) :=
  issueLong_keeps h

theorem execAddLong_keeps {w : LongWord} (h : Canonical s) : Keeps (execAddLong w s) :=
  issueLong_keeps h

theorem execMulLong_keeps {w : LongWord} (h : Canonical s) : Keeps (execMulLong w s) :=
  issueLong_keeps h

theorem execAndLong_keeps {w : LongWord} (h : Canonical s) : Keeps (execAndLong w s) :=
  issueLong_keeps h

theorem execOrLong_keeps {w : LongWord} (h : Canonical s) : Keeps (execOrLong w s) :=
  issueLong_keeps h

theorem execXorLong_keeps {w : LongWord} (h : Canonical s) : Keeps (execXorLong w s) :=
  issueLong_keeps h

/-! ### Machine.MatrixOp -/

theorem setAcc_canonical {a : Acc} (h : Canonical s) : Canonical (setAcc s a) :=
  h.congr rfl

theorem clearAcc_canonical {num : Nat} (h : Canonical s) : Canonical (clearAcc s core num) :=
  h.congr rfl

theorem trqStep_canonical {R : Nat} {o : Op} {rs rd : Resv} {p : TrqPos} (h : Canonical s) :
    Canonical (trqStep R o rs rd s p).1 := by
  unfold trqStep
  grind [Canonical, putRun_wf]

theorem trqRun_canonical {o : Op} {upto : Nat} (h : Canonical s) : Canonical (trqRun o upto s).1 := by
  unfold trqRun
  grind [trqStep_canonical, foldl_fst_canonical]

/-! ### Machine.Tile -/

theorem tbindBody_canonical (h : Canonical s) : Canonical (tbindBody f s g ls).s := by
  unfold tbindBody
  grind [groupRes_trapOne_canonical, groupRes_done_canonical, groupRes_holdAll_canonical, setTile_canonical,
    Canonical]

theorem tstateBody_canonical (h : Canonical s) : Canonical (tstateBody f s g ls).s := by
  unfold tstateBody
  grind [groupRes_done_canonical, modT_canonical, foldl_canonical]

theorem endResume_canonical {t : Tile} (h : Canonical s) : Canonical (endResume s t) :=
  h.congr rfl

theorem tfreeBody_canonical (h : Canonical s) : Canonical (tfreeBody f s g ls).s := by
  unfold tfreeBody
  split
  · exact groupRes_done_canonical h
  · split
    · exact groupRes_done_canonical (endResume_canonical (setTile_canonical h))
    · exact groupRes_holdAll_canonical h

/-! ### Machine.Matrix -/

theorem setCarriage_canonical {c : Carriage} (h : Canonical s) : Canonical (setCarriage s c) :=
  h.congr rfl

theorem subLead_canonical {sub : Nat} (h : Canonical s) : Canonical (subLead s ls sub).s :=
  groupRes_trapOne_canonical h

theorem mresBody_canonical {f : FullWord} {s : State} {g : Nat} {ls : List Nat} (h : Canonical s) :
    Canonical (mresBody f s g ls).s := by
  unfold mresBody
  dsimp only
  split
  · exact h
  split
  · exact h
  split
  · exact h
  split
  · exact h
  split
  · exact h
  split
  · exact h
  split
  · split
    · exact h
    · exact h
  split
  · split
    · exact h
    · exact h.congr rfl
  split
  · exact h
  split
  · exact h
  · exact h.congr rfl

theorem mrelBody_canonical (h : Canonical s) : Canonical (mrelBody f s g ls).s := by
  unfold mrelBody
  grind [groupRes_holdAll_canonical, groupRes_done_canonical, Canonical]

theorem mfillBody_canonical (h : Canonical s) : Canonical (mfillBody f s g ls).s := by
  unfold mfillBody
  grind [groupRes_trapOne_canonical, groupRes_done_canonical, subLead_canonical, groupRes_holdAll_canonical,
    modT_canonical, foldl_canonical, Canonical]

theorem execMfillComplete_keeps (h : Canonical s) : Keeps (execMfillComplete grp s) := by
  unfold execMfillComplete
  grind [settleLane_canonical, Canonical, writeWords_wf, foldl_canonical, LaneRes.state, keeps_next]

theorem startFetch_canonical {id at_ : Nat} (h : Canonical s) : Canonical (startFetch s id at_) := by
  unfold startFetch
  grind [setCarriage_canonical]

theorem enqueue_canonical {o : Op} (h : Canonical s) : Canonical (enqueue s o) :=
  startFetch_canonical (setCarriage_canonical (h.congr rfl))

theorem mmaBody_canonical {f : FullWord} {s : State} {g : Nat} {ls : List Nat} (h : Canonical s) :
    Canonical (mmaBody f s g ls).s := by
  unfold mmaBody
  dsimp only
  split
  · exact h
  split
  · split
    · exact h
    split
    · exact h
    split
    · exact h
    split
    · exact h
    split
    · exact h
    split
    · exact h
    · exact enqueue_canonical (h.congr rfl)
  · exact h

theorem mtrqBody_canonical (h : Canonical s) : Canonical (mtrqBody f s g ls).s := by
  unfold mtrqBody
  grind [groupRes_trapOne_canonical, groupRes_holdAll_canonical, modT_canonical, groupRes_done_canonical,
    enqueue_canonical, foldl_canonical, Canonical]

theorem execMmaExecuteStart_keeps {carriage : Nat} (h : Canonical s) : Keeps (execMmaExecuteStart carriage s) := by
  unfold execMmaExecuteStart
  grind [setCarriage_canonical, startFetch_canonical, keeps_next]

theorem execOpOperandFetchComplete_keeps {carriage : Nat} (h : Canonical s) :
    Keeps (execOpOperandFetchComplete carriage s) := by
  unfold execOpOperandFetchComplete
  grind [setCarriage_canonical, keeps_next]

theorem retireOp_canonical {o : Op} (h : Canonical s) : Canonical (retireOp s o) := by
  unfold retireOp
  grind [trqRun_canonical, modG_canonical, setAcc_canonical]

theorem execMmaOpRetire_keeps {carriage : Nat} (h : Canonical s) : Keeps (execMmaOpRetire carriage s) := by
  unfold execMmaOpRetire
  grind [retireOp_canonical, setCarriage_canonical, keeps_next]

theorem mdrainBody_canonical (h : Canonical s) : Canonical (mdrainBody f s g ls).s := by
  unfold mdrainBody
  grind [groupRes_trapOne_canonical, groupRes_done_canonical, subLead_canonical, groupRes_holdAll_canonical,
    setAcc_canonical, modT_canonical, setTile_canonical, clearAcc_canonical, Canonical]

theorem finishDrain_canonical {m : Mdrain} (h : Canonical s) : Canonical (finishDrain s m) := by
  unfold finishDrain
  grind [setTile_canonical, Canonical, writeWord_wf, foldl_wf]

theorem execMdrainComplete_keeps {tile : Nat} (h : Canonical s) : Keeps (execMdrainComplete core tile s) := by
  unfold execMdrainComplete
  refine keeps_next.mpr ?_
  split
  · exact h
  · exact finishDrain_canonical h

theorem mzeroBody_canonical (h : Canonical s) : Canonical (mzeroBody f s g ls).s := by
  unfold mzeroBody
  grind [groupRes_holdAll_canonical, groupRes_done_canonical, clearAcc_canonical]

theorem mqryBody_canonical (h : Canonical s) : Canonical (mqryBody f s g ls).s := by
  unfold mqryBody
  grind [groupRes_holdAll_canonical, groupRes_done_canonical, modT_canonical, foldl_canonical, Canonical]

/-! ### Machine.System -/

theorem latchClock_canonical {sel : Nat} (h : Canonical s) : Canonical (latchClock sel s g l) :=
  when_canonical modT_canonical h

theorem srdBody_canonical {d sel : Nat} (h : Canonical s) : Canonical (srdBody d sel s g l).state :=
  modT_canonical (latchClock_canonical h)

theorem specialWrite_canonical {sel : Nat} {v : W32} (h : Canonical s) : Canonical (specialWrite s g l sel v) := by
  unfold specialWrite
  grind [modGrid_canonical, modT_canonical, modG_canonical]

theorem swrBody_canonical (h : Canonical s) : Canonical (swrBody f s g l).state := by
  unfold swrBody
  grind [specialWrite_canonical, LaneRes.state]

theorem sinjBody_canonical (h : Canonical s) : Canonical (sinjBody f s g ls).s := by
  unfold sinjBody
  grind [groupRes_done_canonical, groupRes_trapOne_canonical, modG_canonical]

theorem gsetBody_canonical (h : Canonical s) : Canonical (gsetBody f s g ls).s := by
  unfold gsetBody
  grind [groupRes_done_canonical, groupRes_holdAll_canonical, groupRes_trapOne_canonical, modWg_canonical,
    modT_canonical, foldl_canonical]

/-! ### Machine.Paired -/

theorem slotRun_canonical {o : SlotOp} {x : Slot} (h : Canonical s) : Canonical (slotRun o x s g l).state := by
  unfold slotRun
  grind [memLoad_canonical, memStore_canonical, srdBody_canonical, writeBack_canonical, LaneRes.state]

theorem outcomeOf_canonical {r : LaneRes} (h : Canonical r.state) : Canonical (outcomeOf r).1 := by
  unfold outcomeOf
  grind [LaneRes.state]

theorem pairBody_canonical {ox : SlotOp} {p : PairWord} (h : Canonical s) :
    Canonical (pairBody ox p s g l).state := by
  unfold pairBody
  grind [outcomeOf_canonical, slotRun_canonical, modG_canonical, LaneRes.state]

theorem issuePair_keeps {ox : SlotOp} {p : PairWord} (h : Canonical s) : Keeps (issuePair ox p s) :=
  keeps_next.mpr (issueLanes_canonical (fun _ _ _ => pairBody_canonical) h)

/-! ### Machine.QueueOps -/

theorem qpushBody_canonical (h : Canonical s) : Canonical (qpushBody f s g l).state := by
  unfold qpushBody
  grind [qFlag_canonical, qPushLane_canonical, qWaitPush_canonical, LaneRes.state]

theorem qLand_canonical {w : Word} {a : W64} {empty : Bool} (h : Canonical s) :
    Canonical (qLand cls f s g l w a empty).state := by
  unfold qLand
  grind [landWords_canonical, qFlag_canonical, LaneRes.state]

theorem qpopBody_canonical (h : Canonical s) : Canonical (qpopBody f s g l).state := by
  unfold qpopBody
  grind [qPopLane_canonical, qLand_canonical, taking_canonical, LaneRes.state, QRes.state]

theorem qpeekBody_canonical {s0 : State} (h : Canonical s) : Canonical (qpeekBody f s0 s g l).state := by
  unfold qpeekBody
  grind [qLand_canonical, LaneRes.state]

theorem execQueueWaitService_keeps {queue : Nat} (h : Canonical s) : Keeps (execQueueWaitService queue s) := by
  unfold execQueueWaitService
  refine keeps_next.mpr ?_
  split
  · exact h
  · exact modQ_canonical h

/-! ### Machine.Sync -/

theorem fenceBody_canonical (h : Canonical s) : Canonical (fenceBody f s g l).state := by
  unfold fenceBody
  split
  · split
    · exact h
    · exact acquireAt_canonical h
  · split
    · exact releaseAt_canonical h
    · exact acquireAt_canonical (releaseAt_canonical h)

theorem putRec_canonical {scope : Nat} {xs : Bool} (h : Canonical s) : Canonical (putRec_ s core scope xs line) :=
  h.congr rfl

theorem syncWait_canonical {w : SyncWait} (h : Canonical s) : Canonical (syncWait s g l w) :=
  ite_canonical (h.congr rfl) (modT_canonical (h.congr rfl))

theorem dropWait_canonical (h : Canonical s) : Canonical (dropWait s g l) :=
  modT_canonical (h.congr rfl)

theorem syncPlace_canonical {rel : Bool} {t : Thread} (h : Canonical s) : Canonical (syncPlace rel f s g l t).2 := by
  unfold syncPlace
  grind [locate_canonical]

theorem putState_canonical {p : Loc} {v : W32} (h : Canonical s) : Canonical (putState s core p v) :=
  homePut_canonical h

theorem sacqBody_canonical {try_ : Bool} (h : Canonical s) : Canonical (sacqBody try_ f s g l).state := by
  unfold sacqBody
  grind [syncPlace_canonical, homeWord_canonical, modT_canonical, putState_canonical, acquireAt_canonical,
    dropWait_canonical, syncWait_canonical, LaneRes.state]

theorem srelBody_canonical (h : Canonical s) : Canonical (srelBody f s g l).state := by
  unfold srelBody
  grind [syncPlace_canonical, releaseAt_canonical, homeWord_canonical, putRec_canonical, putState_canonical,
    LaneRes.state]

theorem execSacqGrant_keeps {xs : Bool} (h : Canonical s) : Keeps (execSacqGrant xs line s) := by
  unfold execSacqGrant
  refine keeps_next.mpr ?_
  split
  · exact h
  · split
    · exact h.congr rfl
    · exact h

theorem cacheLine_canonical {at_ : LineAttr} (h : Canonical s) : Canonical (cacheLine op f core at_ line s) := by
  unfold cacheLine
  grind [flushLine_canonical, dcDrop_canonical, l2Drop_canonical, l2Clean_canonical, gmLoad_canonical,
    homeRead_canonical, Canonical]

theorem cacheLines_canonical {user : Bool} {a : Nat} (h : Canonical s) :
    Canonical (cacheLines op f core part user a n s) := by
  unfold cacheLines
  grind [flushLine_canonical, resolve_canonical, cacheLine_canonical, foldl_canonical]

theorem cacheBody_canonical (h : Canonical s) : Canonical (cacheBody op f s g l).state := by
  unfold cacheBody
  grind [cacheLines_canonical, LaneRes.state]

theorem issueCache_keeps (h : Canonical s) : Keeps (issueCache op f s) :=
  keeps_next.mpr (issueLanes_canonical (fun _ _ _ => cacheBody_canonical) h)

/-! ### Machine.Sched -/

theorem tick_canonical (h : Canonical s) : Canonical (tick s) :=
  ((noteBars_canonical (testBars_canonical h)).congr rfl).congr rfl

theorem execCoachFormation_keeps {qtr : Nat} (h : Canonical s) : Keeps (execCoachFormation core qtr s) := by
  unfold execCoachFormation
  refine keeps_next.mpr ?_
  split
  · exact h
  · split
    · exact h
    · exact h.congr rfl

theorem execAgePromotion_keeps (h : Canonical s) : Keeps (execAgePromotion grp lane s) := by
  unfold execAgePromotion
  refine keeps_next.mpr ?_
  split
  · exact h
  · split
    · exact modT_canonical h
    · exact h

theorem execVariableLatencyResult_keeps (h : Canonical s) : Keeps (execVariableLatencyResult grp lane s) := by
  unfold execVariableLatencyResult
  refine keeps_next.mpr ?_
  split
  · exact h
  · exact modG_canonical h

theorem execRedPerformed_keeps (h : Canonical s) : Keeps (execRedPerformed grp lane s) :=
  keeps_next.mpr (modT_canonical h)

theorem execExitPendingRelease_keeps (h : Canonical s) : Keeps (execExitPendingRelease wg s) := by
  unfold execExitPendingRelease
  refine keeps_next.mpr ?_
  split
  · exact h
  · split
    · exact wgRelease_canonical h
    · exact h

theorem execStorePathFlush_keeps {xs : Bool} (h : Canonical s) : Keeps (execStorePathFlush core xs line s) :=
  keeps_next.mpr (flushLine_canonical h)

theorem execTranslationWalk_keeps (h : Canonical s) : Keeps (execTranslationWalk core part va s) :=
  keeps_next.mpr (translate_canonical h)

theorem execAgrowGrant_keeps {qtr : Nat} (h : Canonical s) : Keeps (execAgrowGrant core qtr s) := by
  unfold execAgrowGrant
  grind [modG_canonical, keeps_next]

theorem dropStale_canonical (h : Canonical s) : Canonical (dropStale s) :=
  h.congr rfl

theorem execWatchdog_keeps (h : Canonical s) : Keeps (execWatchdog grp lane s) := by
  unfold execWatchdog
  grind [dropStale_canonical, takeTrap_canonical, keeps_next]

theorem icLine_canonical {at_ : LineAttr} (h : Canonical s) : Canonical (icLine s core pa at_).2 := by
  unfold icLine
  grind [homeRead_canonical, Canonical]

theorem icDrop_canonical (h : Canonical s) : Canonical (icDrop s core) :=
  h.congr rfl

theorem fetchHalf_canonical {sup : Bool} (h : Canonical s) : Canonical (fetchHalf s core part sup va).2 := by
  unfold fetchHalf
  grind [resolve_canonical, icLine_canonical]

theorem notePage_canonical {page : Nat} {sup : Bool} (h : Canonical s) : Canonical (notePage s g page sup) := by
  unfold notePage
  split
  · exact h
  · exact modGrid_canonical h

theorem fetchGroup_canonical (h : Canonical s) : Canonical (fetchGroup s g l) := by
  unfold fetchGroup
  grind [takeTrap_canonical, fetchHalf_canonical, modT_canonical, notePage_canonical, foldl_canonical]

theorem execInstructionFetchComplete_keeps (h : Canonical s) : Keeps (execInstructionFetchComplete grp lane s) := by
  unfold execInstructionFetchComplete
  grind [fetchGroup_canonical, foldl_canonical, keeps_next]

/-! ### Machine.Room -/

theorem modDie_canonical {d : Nat} {f : Die → Die} (h : Canonical s) : Canonical (modDie s d f) :=
  h.congr rfl

theorem withoutBorrowers_canonical {d : Nat} (h : Canonical s) : Canonical (withoutBorrowers s d) :=
  h.congr rfl

/-! ### Machine.Image -/

theorem putLines_canonical {fuel pa : Nat} {s : State} {ws : List Word} (h : Canonical s) :
    Canonical (putLines fuel s pa ws) := by
  induction fuel generalizing s pa ws with
  | zero => exact h
  | succ fuel ih =>
    unfold putLines
    split
    · exact h
    · exact ih (homeWrite_canonical h)

theorem getLines_canonical {fuel pa : Nat} {s : State} (h : Canonical s) : Canonical (getLines fuel s pa).2 := by
  induction fuel generalizing s pa with
  | zero => exact h
  | succ fuel ih => exact ih (homeRead_canonical h)

theorem stow_canonical {v : Saved} (h : Canonical s) : Canonical (stow s v) := by
  unfold stow
  grind [putLines_canonical, Canonical]

theorem recallCells_canonical {v : Saved} (h : Canonical s) : Canonical (recallCells s v).2 := by
  unfold recallCells
  grind [getLines_canonical]

theorem recallImage_canonical {v : Saved} (h : Canonical s) : Canonical (recallImage s v).2 := by
  unfold recallImage
  grind [recallCells_canonical]

/-! ### Machine.Preempt -/

theorem stopTrq_canonical {o : Op} (h : Canonical s) : Canonical (stopTrq s o).1 := by
  unfold stopTrq
  grind [trqRun_canonical, Canonical]

theorem haltOp_canonical {x : Op × Nat} (h : Canonical s) : Canonical (haltOp s x).1 := by
  unfold haltOp
  grind [stopTrq_canonical, retireOp_canonical]

theorem haltCarriage_canonical {ws : List Nat} {id : Nat} (h : Canonical s) : Canonical (haltCarriage ws s id) := by
  unfold haltCarriage
  grind [haltOp_canonical, setCarriage_canonical, foldl_fst_canonical]

theorem takeOps_canonical (h : Canonical s) : Canonical (takeOps s wg core).1 := by
  unfold takeOps
  grind [startFetch_canonical, setCarriage_canonical]

theorem drainWg_canonical {W : Wg} (h : Canonical s) : Canonical (drainWg s wg W) :=
  flushCore_canonical ((foldl_canonical (fun _ _ => finishDrain_canonical) _ h).congr rfl)

theorem saveWg_canonical (h : Canonical s) : Canonical (saveWg s wg) := by
  unfold saveWg
  grind [drainWg_canonical, takeOps_canonical, stow_canonical, Canonical, clearWords_wf]

theorem saveGang_canonical {k : Nat} (h : Canonical s) : Canonical (saveGang s k) := by
  unfold saveGang
  split
  · exact h
  · exact { h with ks := clearWords_wf h.ks _ _ }

theorem saveUnit_canonical (h : Canonical s) : Canonical (saveUnit s wg) := by
  unfold saveUnit
  grind [drainWg_canonical, haltCarriage_canonical, saveWg_canonical, saveGang_canonical, foldl_canonical]

theorem restoreGroup_canonical {x : (Nat × Group) × Nat} (h : Canonical s) : Canonical (restoreGroup core s x) :=
  h.congr rfl

theorem requeue_canonical {o : Op} (h : Canonical s) : Canonical (requeue core s o) :=
  startFetch_canonical (setCarriage_canonical h)

theorem requeueAll_canonical {vs : List (Saved × Nat)} (h : Canonical s) : Canonical (requeueAll s vs) :=
  foldl_canonical (fun _ _ => requeue_canonical) _ h

theorem meetGrid_canonical {K : Grid} (h : Canonical s) : Canonical (meetGrid s grid core K) :=
  ite_canonical (dcDropAll_canonical h) (icDrop_canonical (modGrid_canonical (dcDropAll_canonical h)))

theorem restoreWg_canonical {v : Saved} {sp : Spot} (h : Canonical s) : Canonical (restoreWg s v sp) := by
  unfold restoreWg
  grind [recallImage_canonical, restoreGroup_canonical, meetGrid_canonical, dcDropAll_canonical, Canonical,
    writeWord_wf, putSlice_wf, foldl_wf, foldl_canonical]

/-! ### Machine.Place -/

theorem inherit_canonical {kd : KDesc} (h : Canonical s) : Canonical (inherit s core part kd) :=
  h.congr rfl

theorem launchWg_canonical {b : Birth} {sp : Spot} (h : Canonical s) : Canonical (launchWg s b sp) := by
  unfold launchWg
  grind [inherit_canonical, meetGrid_canonical, Canonical, clearWords_wf, foldl_canonical]

theorem launchGang_canonical {index quad ksBase : Nat} {K : Grid} (h : Canonical s) :
    Canonical (launchGang s grid index quad ksBase K).2 := by
  unfold launchGang
  grind [Canonical, clearWords_wf]

theorem placeMember_canonical {d : Nat} {gang : Option Nat} {x : PendWg × Spot} (h : Canonical s) :
    Canonical (placeMember d gang s x) := by
  unfold placeMember
  split
  · exact restoreWg_canonical h
  · exact launchWg_canonical h

theorem seatGang_canonical {p : PendWg} {quad ksBase : Nat} (h : Canonical s) :
    Canonical (seatGang s p quad ksBase).2 := by
  unfold seatGang
  grind [launchGang_canonical, Canonical]

theorem seat_canonical {D : Die} {p : PendWg} {spots : List Spot} {ksBase : Nat} (h : Canonical s) :
    Canonical (seat s D p spots ksBase) := by
  unfold seat
  grind [seatGang_canonical, requeueAll_canonical, placeMember_canonical, modDie_canonical, foldl_canonical]

theorem placeNext_canonical {d : Nat} (h : Canonical s) : Canonical (placeNext s d) := by
  unfold placeNext
  grind [seat_canonical]

theorem execPlaceWorkgroup_keeps (h : Canonical s) : Keeps (execPlaceWorkgroup s) :=
  keeps_next.mpr (placeNext_canonical h)

theorem receive_canonical {d : Nat} {K : Grid} {ws : List Nat} (h : Canonical s) :
    Canonical (receive s grid d K ws) := by
  unfold receive
  grind [barRaise_canonical, modDie_canonical, Canonical]

theorem dispatchNext_canonical {report : Nat → Nat} {K : Grid} (h : Canonical s) :
    Canonical (dispatchNext report s grid K) := by
  unfold dispatchNext
  grind [receive_canonical, Canonical]

theorem placeGrid_canonical (h : Canonical s) : Canonical (placeGrid grid s) := by
  unfold placeGrid
  grind [seat_canonical, foldl_canonical]

theorem dispatchWhole_canonical {K : Grid} (h : Canonical s) : Canonical (dispatchWhole s grid K) := by
  unfold dispatchWhole
  grind [placeGrid_canonical, dispatchNext_canonical, foldl_canonical]

theorem execDispatchBatch_keeps (h : Canonical s) : Keeps (execDispatchBatch grid s) := by
  unfold execDispatchBatch
  grind [dispatchWhole_canonical, dispatchNext_canonical, keeps_next]

theorem watchHeads_canonical (h : Canonical s) : Canonical (watchHeads s) :=
  h.congr rfl

theorem execGangHold_keeps (h : Canonical s) : Keeps (execGangHold s) := by
  unfold execGangHold
  refine keeps_next.mpr ?_
  split
  · exact modDie_canonical h
  · exact h

theorem execPlacementStarvation_keeps (h : Canonical s) : Keeps (execPlacementStarvation s) := by
  unfold execPlacementStarvation
  grind [modDie_canonical, notify_canonical, keeps_next]

theorem repend_canonical {d : Nat} {ws : List Wg} (h : Canonical s) : Canonical (repend s d ws) :=
  modDie_canonical (h.congr rfl)

theorem evict_canonical {d : Nat} (h : Canonical s) : Canonical (evict s d wg) :=
  repend_canonical (saveUnit_canonical h)

theorem evictAll_canonical {d : Nat} {ws : List Nat} (h : Canonical s) : Canonical (evictAll s d ws) := by
  unfold evictAll
  grind [evict_canonical, foldl_canonical]

theorem execLatencyReservePreemption_keeps {s : State} (h : Canonical s) : Keeps (execLatencyReservePreemption s) := by
  unfold execLatencyReservePreemption
  rw [keeps_next]
  dsimp only
  split
  · exact h
  · split
    · exact h
    · next p _ =>
      cases roomMakers s (getDie s s.subj.die) p (reserveBulk s (getDie s s.subj.die) (gridPart s p.grid)) with
      | none => exact h
      | some ws => exact evictAll_canonical h

/-! ### Machine.Window -/

theorem winLoc_canonical {wr : Bool} (h : Canonical s) : Canonical (winLoc s part va wr).2 := by
  unfold winLoc
  grind [walk_canonical]

theorem winRead_canonical (h : Canonical s) : Canonical (winRead s part va).2 := by
  unfold winRead
  grind [winLoc_canonical, homeRead_canonical]

theorem winReads_canonical {s : State} {part va n : Nat} (h : Canonical s) : Canonical (winReads s part va n).2 := by
  induction n with
  | zero => exact h
  | succ n ih =>
    unfold winReads
    grind [winRead_canonical]

theorem winPut_canonical {at_ : LineAttr} {w : Word} (h : Canonical s) : Canonical (winPut s pa at_ w) :=
  homeWrite_canonical h

theorem winWrite_canonical {w : Word} (h : Canonical s) : Canonical (winWrite s part va w).2 := by
  unfold winWrite
  grind [winLoc_canonical, winPut_canonical]

theorem winPatch_canonical {p : Patch} (h : Canonical s) : Canonical (winPatch s part va p) := by
  unfold winPatch
  grind [winLoc_canonical, homeWrite_canonical]

theorem winRefused_canonical {s : State} {part va n : Nat} (h : Canonical s) :
    Canonical (winRefused s part va n).2 := by
  induction n with
  | zero => exact h
  | succ n ih =>
    unfold winRefused
    grind [winLoc_canonical]

theorem winWrites_canonical (h : Canonical s) : Canonical (winWrites s part va ws).2 := by
  unfold winWrites
  grind [winRefused_canonical, winWrite_canonical, foldl_canonical]

theorem winRecord_canonical {stream member kind : Nat} {ws : List W32} (h : Canonical s) :
    Canonical (winRecord s stream part member kind va ws) := by
  unfold winRecord
  grind [winWrites_canonical, notify_canonical]

theorem readRecord_canonical (h : Canonical s) : Canonical (readRecord s part addr n).2 := by
  unfold readRecord
  grind [winReads_canonical]

theorem readKdesc_canonical (h : Canonical s) : Canonical (readKdesc s part addr).2 := by
  unfold readKdesc
  grind [readRecord_canonical]

theorem readLrec_canonical {gang : Bool} (h : Canonical s) : Canonical (readLrec s part addr gang).2 := by
  unfold readLrec
  grind [readRecord_canonical, winReads_canonical]

/-- The equation of a `KDESC` list by hand: `readKdesc` must stay closed, for its 16 words unfold without end. -/
theorem readKdescs_cons (s part a r) : readKdescs s part (a :: r) = (match readKdesc s part a with
    | (.error e, s) => (.error e, s)
    | (.ok kd, s) => match readKdescs s part r with
      | (.error e, s) => (.error e, s)
      | (.ok l, s) => (.ok (kd :: l), s)) := by
  delta readKdescs readKdescs._f
  generalize readKdesc = k
  rfl

theorem readKdescs_canonical {part : Nat} {as : List Nat} {s : State} (h : Canonical s) :
    Canonical (readKdescs s part as).2 := by
  induction as generalizing s with
  | nil => exact h
  | cons a r ih =>
    have h1 := readKdesc_canonical (part := part) (addr := a) h
    rw [readKdescs_cons]
    generalize readKdesc s part a = p at h1 ⊢
    obtain ⟨_ | d, s1⟩ := p
    · exact h1
    · have h2 := ih h1
      dsimp only at h2 ⊢
      generalize readKdescs s1 part r = p at h2 ⊢
      obtain ⟨_ | l, s2⟩ := p <;> exact h2

theorem decodeRun_canonical {e : List Word} (h : Canonical s) : Canonical (decodeRun s part e).2 := by
  unfold decodeRun
  grind [readKdesc_canonical, readLrec_canonical]

theorem decodePipe_canonical {e : List Word} (h : Canonical s) : Canonical (decodePipe s part e).2 := by
  unfold decodePipe
  grind [readRecord_canonical, readKdescs_canonical, readLrec_canonical]

theorem decodeEntry_canonical {x : EntryCtx} {e : List Word} (h : Canonical s) :
    Canonical (decodeEntry s part x e).2 := by
  unfold decodeEntry
  grind [decodeRun_canonical, decodePipe_canonical]

theorem modStream_canonical {i : Nat} {f : Stream → Stream} (h : Canonical s) : Canonical (modStream s i f) :=
  h.congr rfl

theorem modTask_canonical {i seq : Nat} {f : Task → Task} (h : Canonical s) : Canonical (modTask s i seq f) :=
  h.congr rfl

theorem modWindow_canonical {w : Nat} {f : WinTurn → WinTurn} (h : Canonical s) : Canonical (modWindow s w f) :=
  h.congr rfl

theorem noteFetch_canonical {x : Stream} (h : Canonical s) : Canonical (noteFetch s x) :=
  modWindow_canonical h

theorem entryWords_canonical {x : Stream} {a : Nat} (h : Canonical s) : Canonical (entryWords s x a).2.2 := by
  unfold entryWords
  grind [winReads_canonical, Canonical]

theorem settleIdle_canonical {i : Nat} (h : Canonical s) : Canonical (settleIdle s i) :=
  modStream_canonical h

theorem addTask_canonical {i : Nat} {slot : Bool} {e : List Word} {d : Decoded} (h : Canonical s) :
    Canonical (addTask s i slot addr e d) := by
  unfold addTask
  split
  · exact h
  · exact modStream_canonical (h.congr rfl)

theorem passEntry_canonical {i : Nat} (h : Canonical s) : Canonical (passEntry s i) :=
  modStream_canonical h

theorem execTaskEntryFetch_keeps (h : Canonical s) : Keeps (execTaskEntryFetch s) := by
  unfold execTaskEntryFetch
  grind [entryWords_canonical, decodeEntry_canonical, passEntry_canonical, addTask_canonical, noteFetch_canonical,
    keeps_next]

theorem fleetingAt_canonical {s : State} {i top : Nat} {r : Stream × List Word × State} (h : Canonical s)
    (e : fleetingAt s i top = some r) : Canonical r.2.2 := by
  unfold fleetingAt at e
  obtain ⟨x, -, e⟩ := Option.bind_eq_some_iff.mp e
  grind [entryWords_canonical]

theorem execTkNop_keeps {s : State} (h : Canonical s) : Keeps (execTkNop s) := by
  unfold execTkNop
  rw [keeps_next]
  split
  · exact h
  · next e =>
    exact settleIdle_canonical
      (modStream_canonical (passEntry_canonical (noteFetch_canonical (fleetingAt_canonical h e))))

theorem execTkLink_keeps {s : State} (h : Canonical s) : Keeps (execTkLink s) := by
  unfold execTkLink
  rw [keeps_next]
  split
  · exact h
  · next e => exact settleIdle_canonical (modStream_canonical (noteFetch_canonical (fleetingAt_canonical h e)))

theorem clearSlots_canonical {a : Nat} (h : Canonical s) : Canonical (clearSlots s part n a) :=
  winWrites_canonical h

theorem insertSlots_canonical {i a : Nat} (h : Canonical s) : Canonical (insertSlots s i a n) := by
  unfold insertSlots
  grind [entryWords_canonical, decodeEntry_canonical, addTask_canonical, settleIdle_canonical,
    modStream_canonical, foldl_canonical]

theorem readSlots_canonical {i : Nat} (h : Canonical s) : Canonical (readSlots s i) := by
  unfold readSlots
  grind [insertSlots_canonical]

theorem execTkSucc_keeps {s : State} (h : Canonical s) : Keeps (execTkSucc s) := by
  unfold execTkSucc
  rw [keeps_next]
  split
  · exact h
  next x e s1 h1 =>
  have h1 : Canonical s1 := fleetingAt_canonical h h1
  have h2 := modStream_canonical (i := x.id) (f := fun x => { x with last := 0x0C })
    (passEntry_canonical (i := x.id) (noteFetch_canonical (x := x) h1))
  dsimp only
  split
  · exact modStream_canonical h2
  split
  · exact h2
  · exact ite_canonical (clearSlots_canonical (modStream_canonical h2)) (modStream_canonical h2)

/-! ### Machine.Tasks -/

theorem setFree_canonical {f : FreeList} (h : Canonical s) : Canonical (setFree s part f) :=
  h.congr rfl

theorem giveBack_canonical {win c b : Nat} {tail : Bool} (h : Canonical s) :
    Canonical (giveBack s part win c b tail) :=
  setFree_canonical h

theorem dropHold_canonical {i seq : Nat} (h : Canonical s) : Canonical (dropHold s i seq) :=
  modStream_canonical h

theorem endTask_canonical {f : Option TaskFault} (h : Canonical s) : Canonical (endTask s t f) := by
  unfold endTask
  grind [modTask_canonical, Canonical]

theorem failTask_canonical {f : TaskFault} (h : Canonical s) : Canonical (failTask s t f) :=
  dropHold_canonical (endTask_canonical h)

theorem drawOuts_canonical {fuel : Nat} {s : State} {t : Task} (h : Canonical s) : Canonical (drawOuts fuel s t) := by
  induction fuel generalizing s t with
  | zero => exact h
  | succ fuel ih =>
    unfold drawOuts
    grind [setFree_canonical, modStream_canonical, modTask_canonical]

theorem settleRename_canonical {i seq : Nat} (h : Canonical s) : Canonical (settleRename s i seq) := by
  unfold settleRename
  grind [modStream_canonical, modTask_canonical, failTask_canonical]

theorem execTaskRename_keeps {s : State} (h : Canonical s) : Keeps (execTaskRename s) := by
  unfold execTaskRename
  rw [keeps_next]
  split
  · next x t _ _ =>
    have h1 : Canonical (if t.ins = [] then modTask s x.id t.seq fun _ => readInputs x t else s) :=
      when_canonical modTask_canonical h
    generalize (if t.ins = [] then modTask s x.id t.seq fun _ => readInputs x t else s) = s1 at h1 ⊢
    dsimp only
    split
    · exact h1
    next t' _ =>
    have h2 : Canonical (settleRename (drawOuts 2 s1 t') x.id t'.seq) :=
      settleRename_canonical (drawOuts_canonical h1)
    generalize settleRename (drawOuts 2 s1 t') x.id t'.seq = s2 at h2 ⊢
    split
    · exact h2
    split
    · exact when_canonical failTask_canonical h2
    · exact h2
  · exact h

theorem stopWork_canonical (h : Canonical s) : Canonical (stopWork s t) := by
  unfold stopWork
  grind [stopGrid_canonical, foldl_canonical, Canonical]

theorem undoDraw_canonical {i win : Nat} {d : Drawn} (h : Canonical s) : Canonical (undoDraw i part win s d) := by
  unfold undoDraw
  grind [modStream_canonical, giveBack_canonical]

theorem noteLaunches_canonical (h : Canonical s) : Canonical (noteLaunches s t) :=
  modStream_canonical h

theorem discardTask_canonical (h : Canonical s) : Canonical (discardTask s t) := by
  unfold discardTask
  grind [stopWork_canonical, noteLaunches_canonical, undoDraw_canonical, dropHold_canonical, foldl_canonical,
    Canonical]

theorem rewind_canonical {i : Nat} {ts : List Task} (h : Canonical s) : Canonical (rewind s i ts) := by
  unfold rewind
  split
  · exact h
  · exact modStream_canonical h

theorem discardFrom_canonical {i seq : Nat} (h : Canonical s) : Canonical (discardFrom s i seq) :=
  rewind_canonical (foldl_canonical (fun _ _ => discardTask_canonical) _ h)

theorem execBufferStarvationDiscard_keeps (h : Canonical s) : Keeps (execBufferStarvationDiscard s) := by
  unfold execBufferStarvationDiscard
  grind [discardFrom_canonical, keeps_next]

theorem waitWord_canonical (h : Canonical s) : Canonical (waitWord s t).2 := by
  unfold waitWord
  grind [winRead_canonical]

theorem testWait_canonical (h : Canonical s) : Canonical (testWait s t).2 := by
  unfold testWait
  grind [waitWord_canonical, failTask_canonical, modTask_canonical]

theorem emptied_canonical (h : Canonical s) : Canonical (emptied s) :=
  h.congr rfl

theorem noteIssue_canonical {st : TaskSt} (h : Canonical s) : Canonical (noteIssue s t st) := by
  unfold noteIssue
  split
  · exact endTask_canonical (modTask_canonical (modWindow_canonical h))
  · exact modTask_canonical (modWindow_canonical h)

theorem issueSlots_canonical (h : Canonical s) : Canonical (issueSlots s t) := by
  unfold issueSlots
  split
  · split
    · exact clearSlots_canonical h
    · exact h
  · exact h

theorem launchGrid_canonical {K : Grid} (h : Canonical s) : Canonical (launchGrid s t K) :=
  ite_canonical (failTask_canonical h) (modTask_canonical ((issueSlots_canonical (noteIssue_canonical h)).congr rfl))

theorem execTkRun_keeps {s : State} (h : Canonical s) : Keeps (execTkRun s) := by
  unfold execTkRun
  rw [keeps_next]
  split
  · exact h
  · next t _ =>
    cases taskRun s t with
    | none => exact h
    | some K => exact launchGrid_canonical h

theorem execTkPipe_keeps (h : Canonical s) : Keeps (execTkPipe s) := by
  unfold execTkPipe
  refine keeps_next.mpr ?_
  split
  · exact h
  · split
    · exact launchGrid_canonical h
    · exact modTask_canonical ((issueSlots_canonical (noteIssue_canonical h)).congr rfl)
    · exact h

theorem issueAs_keeps {top : Nat} {st : TaskSt} (h : Canonical s) : Keeps (issueAs top st s) := by
  unfold issueAs
  refine keeps_next.mpr ?_
  split
  · exact h
  · exact noteIssue_canonical h

theorem ringBells_canonical {a : Nat} (h : Canonical s) : Canonical (ringBells s part a) :=
  h.congr rfl

theorem execTkSignal_keeps (h : Canonical s) : Keeps (execTkSignal s) := by
  unfold execTkSignal
  grind [failTask_canonical, winLoc_canonical, homeRead_canonical, ringBells_canonical, winPut_canonical,
    noteIssue_canonical, modTask_canonical, keeps_next]

theorem execTkWait_keeps (h : Canonical s) : Keeps (execTkWait s) := by
  unfold execTkWait
  grind [testWait_canonical, noteIssue_canonical, keeps_next]

theorem pollWait_canonical (h : Canonical s) : Canonical (pollWait s t).2 := by
  unfold pollWait
  grind [testWait_canonical, noteIssue_canonical]

theorem execTkWaitPoll_keeps (h : Canonical s) : Keeps (execTkWaitPoll s) := by
  unfold execTkWaitPoll
  refine keeps_next.mpr ?_
  split
  · exact h
  · split
    · exact pollWait_canonical h
    · exact h

theorem execTkWaitTimeout_keeps (h : Canonical s) : Keeps (execTkWaitTimeout s) := by
  unfold execTkWaitTimeout
  grind [pollWait_canonical, failTask_canonical, keeps_next]

/-! ### Machine.Mail -/

theorem modIface_canonical {f : Iface → Iface} (h : Canonical s) : Canonical (modIface s vi f) :=
  h.congr rfl

theorem answered_canonical {d : Nat} (h : Canonical s) : Canonical (answered s d) :=
  modDie_canonical h

theorem reply_canonical {m : Msg} {type : Nat} {payload : List W32} (h : Canonical s) :
    Canonical (reply s m type op status payload) :=
  ite_canonical (answered_canonical h) (modIface_canonical h)

theorem answerPending_canonical {sel : PendReply → Bool} {payload : List W32} (h : Canonical s) :
    Canonical (answerPending s sel status payload) :=
  foldl_canonical (fun _ _ => reply_canonical) _ (h.congr rfl)

/-! ### Machine.Retire -/

theorem moveWords_canonical {part src dst n : Nat} {s : State} (h : Canonical s) :
    Canonical (moveWords part src dst n s).2.2 := by
  induction n with
  | zero => exact h
  | succ n ih =>
    unfold moveWords
    grind [winRead_canonical, winWrite_canonical]

theorem fillWords_canonical {part dst n : Nat} {w : Word} {s : State} (h : Canonical s) :
    Canonical (fillWords part dst w n s).2.2 := by
  induction n with
  | zero => exact h
  | succ n ih =>
    unfold fillWords
    grind [winWrite_canonical]

theorem engine_canonical (h : Canonical s) : Canonical (engine s t n).2.2 := by
  unfold engine
  grind [moveWords_canonical, fillWords_canonical]

theorem runEngine_canonical (h : Canonical s) : Canonical (runEngine s t n) := by
  unfold runEngine
  grind [engine_canonical, modTask_canonical]

theorem stopEngine_canonical (h : Canonical s) : Canonical (stopEngine s t) :=
  runEngine_canonical (h.congr rfl)

theorem dropGridBars_canonical {k : Nat} (h : Canonical s) : Canonical (dropGridBars s k) :=
  h.congr rfl

theorem completeRun_canonical (h : Canonical s) : Canonical (completeRun s t) := by
  unfold completeRun
  grind [flushCore_canonical, dropGridBars_canonical, endTask_canonical, readSlots_canonical, foldl_canonical,
    Canonical]

theorem resumeRecord_canonical {member src : Nat} {t : Tally} (h : Canonical s) :
    Canonical (resumeRecord s part member src t) := by
  unfold resumeRecord
  split
  · exact h
  · split
    · exact h
    · exact winRecord_canonical (h.congr rfl)

theorem complete_canonical (h : Canonical s) : Canonical (complete s t) := by
  unfold complete
  split
  · exact completeRun_canonical h
  · exact completeRun_canonical h
  · exact endTask_canonical (runEngine_canonical h)
  · exact endTask_canonical (runEngine_canonical h)
  · exact endTask_canonical (resumeRecord_canonical h)
  · exact endTask_canonical h

theorem sweepGrids_canonical (h : Canonical s) : Canonical (sweepGrids s) :=
  foldl_canonical (fun _ _ => dropGridBars_canonical) _ (h.congr rfl)

theorem finishAbort_canonical {i : Nat} (h : Canonical s) : Canonical (finishAbort s i) := by
  unfold finishAbort
  split
  · exact h
  · split
    · exact h
    · exact answerPending_canonical (sweepGrids_canonical (winRecord_canonical (modStream_canonical h)))

theorem beginAbort_canonical {i : Nat} (h : Canonical s) : Canonical (beginAbort s i) := by
  unfold beginAbort
  grind [discardTask_canonical, stopEngine_canonical, modStream_canonical, foldl_canonical]

theorem execTaskCompletion_keeps (h : Canonical s) : Keeps (execTaskCompletion s) := by
  unfold execTaskCompletion
  grind [finishAbort_canonical, readSlots_canonical, complete_canonical, keeps_next]

theorem anyPoison_canonical {part a n : Nat} {s : State} (h : Canonical s) : Canonical (anyPoison part a n s).2 := by
  induction n with
  | zero => exact h
  | succ n ih =>
    unfold anyPoison
    grind [winRead_canonical]

theorem chkFails_canonical (h : Canonical s) : Canonical (chkFails s t).2 := by
  unfold chkFails
  grind [anyPoison_canonical, foldl_snd_canonical]

theorem applyBind_canonical (h : Canonical s) : Canonical (applyBind s t) := by
  unfold applyBind
  split
  · exact h.congr rfl
  · exact h.congr rfl
  · exact h

theorem returnDisplaced_canonical (h : Canonical s) : Canonical (returnDisplaced s t) := by
  unfold returnDisplaced
  grind [giveBack_canonical, foldl_canonical]

theorem retireRecord_canonical {x : Stream} (h : Canonical s) : Canonical (retireRecord s x t) := by
  unfold retireRecord
  split
  · exact h
  · split
    · exact h
    · exact modStream_canonical (winRecord_canonical h)

theorem setFault_canonical {f : TaskFault} (h : Canonical s) : Canonical (setFault s t f) :=
  modTask_canonical h

theorem writeJob_canonical {x : Stream} (h : Canonical s) : Canonical (writeJob s x t).2 := by
  unfold writeJob
  grind [winWrites_canonical, Canonical]

theorem countRetired_canonical {x : Stream} (h : Canonical s) : Canonical (countRetired s x t) :=
  modStream_canonical h

theorem leaveStream_canonical {i seq : Nat} (h : Canonical s) : Canonical (leaveStream s i seq) := by
  unfold leaveStream
  grind [settleIdle_canonical, sweepGrids_canonical, modStream_canonical, Canonical]

theorem writeSeq_canonical {i : Nat} (h : Canonical s) : Canonical (writeSeq s i) := by
  unfold writeSeq
  split
  · exact h
  · split
    · exact h
    · exact winRecord_canonical (modStream_canonical h)

theorem writeSeqs_canonical (h : Canonical s) : Canonical (writeSeqs s) :=
  foldl_canonical (fun _ _ => writeSeq_canonical) _ h

theorem retire_canonical {x : Stream} (h : Canonical s) : Canonical (retire s x t) := by
  unfold retire
  grind [applyBind_canonical, returnDisplaced_canonical, writeJob_canonical, setFault_canonical,
    retireRecord_canonical, modStream_canonical, leaveStream_canonical, countRetired_canonical]

theorem execTaskRetire_keeps (h : Canonical s) : Keeps (execTaskRetire s) := by
  unfold execTaskRetire
  grind [chkFails_canonical, setFault_canonical, retire_canonical, keeps_next]

theorem stopEngines_canonical {ts : List Task} (h : Canonical s) : Canonical (stopEngines s ts) := by
  unfold stopEngines
  grind [stopEngine_canonical, foldl_canonical]

theorem takeFault_canonical {x : Stream} {f : TaskFault} (h : Canonical s) : Canonical (takeFault s x t f) := by
  unfold takeFault
  grind [stopEngines_canonical, discardTask_canonical, winRecord_canonical, modStream_canonical,
    sweepGrids_canonical, finishAbort_canonical, beginAbort_canonical, foldl_canonical]

theorem execTakeFault_keeps (h : Canonical s) : Keeps (execTakeFault s) := by
  unfold execTakeFault
  grind [takeFault_canonical, keeps_next]

/-! ### Machine.Pipes -/

theorem modPipe_canonical {p : Nat} {f : Pipe → Pipe} (h : Canonical s) : Canonical (modPipe s p f) :=
  h.congr rfl

theorem growShare_canonical {d : Nat} {K : Grid} (h : Canonical s) : Canonical (growShare s grid d K) := by
  unfold growShare
  grind [barRaise_canonical, modGrid_canonical, Canonical]

theorem takeBack_canonical {index : Nat} (h : Canonical s) : Canonical (takeBack s grid index) :=
  modGrid_canonical h

theorem stageLaunch_canonical {p : Pipe} {i : Nat} {st : PStage} {K : Grid} {sp : Spot} (h : Canonical s) :
    Canonical (stageLaunch s p i st K sp) := by
  unfold stageLaunch
  split
  · exact requeueAll_canonical (restoreWg_canonical (takeBack_canonical h))
  · exact launchWg_canonical (modPipe_canonical (modGrid_canonical (growShare_canonical h)))

theorem execPipelineStageLaunch_keeps {pipe stage : Nat} {s : State} (h : Canonical s) :
    Keeps (execPipelineStageLaunch pipe stage s) := by
  unfold execPipelineStageLaunch
  rw [keeps_next]
  split
  · exact h
  split
  · exact h
  split
  · exact h
  split
  · exact h
  split
  · exact h
  exact stageLaunch_canonical h

theorem agePipes_canonical (h : Canonical s) : Canonical (agePipes s) :=
  h.congr rfl

theorem moveCore_canonical {p : Pipe} (h : Canonical s) : Canonical (moveCore s p).1 := by
  unfold moveCore
  grind [Canonical]

theorem execPipelineReview_keeps {pipe : Nat} (h : Canonical s) : Keeps (execPipelineReview pipe s) := by
  unfold execPipelineReview
  grind [moveCore_canonical, modPipe_canonical, keeps_next]

/-! ### Machine.Message -/

theorem writeTail_canonical {x : Stream} {n : W32} (h : Canonical s) : Canonical (writeTail s x n) :=
  modStream_canonical h

theorem execSqtail_keeps {offset : Nat} {value : W32} (h : Canonical s) : Keeps (execSqtail vi offset value s) := by
  unfold execSqtail
  refine keeps_next.mpr ?_
  split
  · exact h
  · split
    · exact writeTail_canonical h
    · exact h

theorem submit_canonical (h : Canonical s) : Canonical (submit s vi) := by
  unfold submit
  grind [modIface_canonical, Canonical]

theorem execRegisterWrite_keeps {offset : Nat} {value : W32} (h : Canonical s) :
    Keeps (execRegisterWrite vi offset value s) := by
  unfold execRegisterWrite
  grind [modIface_canonical, submit_canonical, keeps_next]

theorem execMbrepRead_keeps (h : Canonical s) : Keeps (execMbrepRead vi s) := by
  unfold execMbrepRead
  refine keeps_next.mpr ?_
  split
  · exact modIface_canonical h
  · exact h

theorem say_canonical {r : Request} {payload : List W32} (h : Canonical s) : Canonical (say r status payload s) :=
  reply_canonical h

theorem takeHead_canonical {r : Request} (h : Canonical s) : Canonical (takeHead s r) :=
  h.congr rfl

theorem serve_keeps {type op : Nat} {well : Request → Bool} {own : State → Request → Bool}
    {act : Request → State → State}
    {s : State} (ha : ∀ r s, Canonical s → Canonical (act r s)) (h : Canonical s) :
    Keeps (serve type op well own act s) := by
  unfold serve
  grind [keeps_next, takeHead_canonical, say_canonical]

theorem execBadMessage_keeps (h : Canonical s) : Keeps (execBadMessage s) := by
  unfold execBadMessage
  refine keeps_next.mpr ?_
  split
  · exact h
  · split
    · exact h
    · exact say_canonical (takeHead_canonical h)

theorem onPart_canonical {act : Request → Part → State → State} {r : Request} {s : State}
    (ha : ∀ r p s, Canonical s → Canonical (act r p s)) (h : Canonical s) : Canonical (onPart act r s) := by
  unfold onPart
  split
  · exact say_canonical h
  · exact ha _ _ _ h

theorem modPart_canonical {i : Nat} {f : Part → Part} (h : Canonical s) : Canonical (modPart s i f) :=
  h.congr rfl

/-! ### Machine.Reshape -/

theorem clearWgs_canonical {sel : Wg → Bool} (h : Canonical s) : Canonical (clearWgs s sel).2 := by
  unfold clearWgs
  grind [saveUnit_canonical, foldl_snd_canonical]

theorem sendBack_canonical {ws : List (Nat × Nat)} (h : Canonical s) : Canonical (sendBack s ws) :=
  foldl_canonical (fun _ _ => modGrid_canonical) _ h

theorem unpendGrid_canonical {d : Nat} (h : Canonical s) : Canonical (unpendGrid s d grid) := by
  unfold unpendGrid
  grind [unpend_canonical, modDie_canonical, modGrid_canonical]

theorem unpendPart_canonical {d : Nat} (h : Canonical s) : Canonical (unpendPart s d part).2 := by
  unfold unpendPart
  grind [unpendGrid_canonical, foldl_canonical]

theorem liftRings_canonical {pipe : Nat} (h : Canonical s) : Canonical (liftRings s pipe) := by
  unfold liftRings
  grind [modPipe_canonical, Canonical, clearWords_wf, foldl_wf]

theorem unseat_canonical {gone : Nat → Bool} (h : Canonical s) : Canonical (unseat s gone) := by
  unfold unseat
  grind [liftRings_canonical, modPipe_canonical, foldl_canonical]

theorem seatRings_canonical {p : Pipe} {free : List Nat} (h : Canonical s) : Canonical (seatRings s p free) := by
  unfold seatRings
  grind [modPipe_canonical, Canonical, putSlice_wf, foldl_wf]

theorem reseat_canonical {pipe : Nat} {want : PStage → Nat} (h : Canonical s) : Canonical (reseat s pipe want) := by
  unfold reseat
  grind [seatRings_canonical, modPipe_canonical]

theorem seatPipes_canonical (h : Canonical s) : Canonical (seatPipes s) :=
  foldl_canonical (fun _ _ => reseat_canonical) _ h

theorem refill_canonical {s0 : State} (h : Canonical s) : Canonical (refill s0 s) := by
  unfold refill
  grind [reseat_canonical, foldl_canonical]

theorem vacate_canonical {gone : Nat → Bool} (h : Canonical s) : Canonical (vacate s gone).2 := by
  unfold vacate
  grind [clearWgs_canonical, refill_canonical, unseat_canonical, sendBack_canonical]

theorem shrinkPart_canonical {p : Part} {q : BitVec 128} (h : Canonical s) : Canonical (shrinkPart s p q) :=
  foldl_canonical (fun _ _ => unpendPart_canonical) _ (vacate_canonical (modPart_canonical h))

theorem holdBack_canonical {d : Nat} (h : Canonical s) : Canonical (holdBack part s d) :=
  modDie_canonical (unpendPart_canonical h)

theorem leaveDies_canonical {p : Part} {q : BitVec 128} (h : Canonical s) : Canonical (leaveDies s p q) :=
  foldl_canonical (fun _ _ => holdBack_canonical) _ (modPart_canonical h)

theorem growPart_canonical {q : BitVec 128} (h : Canonical s) : Canonical (growPart s part q) :=
  modPart_canonical h

/-! ### Machine.Partition -/

theorem execPartitionCreate_keeps (h : Canonical s) : Keeps (execPartitionCreate s) := by
  unfold execPartitionCreate
  grind [serve_keeps, say_canonical, Canonical]

theorem dropPart_canonical {p : Part} (h : Canonical s) : Canonical (dropPart s p) := by
  unfold dropPart
  grind [Canonical, clearWords_wf, foldl_wf]

theorem execPartitionDestroy_keeps (h : Canonical s) : Keeps (execPartitionDestroy s) := by
  unfold execPartitionDestroy
  grind [serve_keeps, onPart_canonical, say_canonical, dropPart_canonical]

theorem execShrink_keeps (h : Canonical s) : Keeps (execShrink s) := by
  unfold execShrink
  grind [serve_keeps, onPart_canonical, say_canonical, leaveDies_canonical, shrinkPart_canonical]

theorem execGrow_keeps (h : Canonical s) : Keeps (execGrow s) := by
  unfold execGrow
  grind [serve_keeps, onPart_canonical, say_canonical, growPart_canonical]

theorem execSetroot_keeps (h : Canonical s) : Keeps (execSetroot s) := by
  unfold execSetroot
  grind [serve_keeps, onPart_canonical, say_canonical, modPart_canonical, Canonical]

theorem invalidate_canonical {p : Part} {sel : Tlb → Bool} {selW : WalkEnt → Bool} (h : Canonical s) :
    Canonical (invalidate s p sel selW) :=
  foldl_canonical (fun _ _ h => icDrop_canonical (flushCore_canonical h)) _ (h.congr rfl)

theorem execTlbinv_keeps (h : Canonical s) : Keeps (execTlbinv s) :=
  serve_keeps (fun _ _ h => onPart_canonical (fun _ _ _ h => say_canonical (invalidate_canonical h)) h) h

theorem execAddbuf_keeps (h : Canonical s) : Keeps (execAddbuf s) := by
  unfold execAddbuf
  grind [serve_keeps, onPart_canonical, say_canonical, setFree_canonical]

theorem execSetwin_keeps (h : Canonical s) : Keeps (execSetwin s) :=
  serve_keeps (fun _ _ h => onPart_canonical (fun _ _ _ h => say_canonical (modPart_canonical h)) h) h

theorem execSetxs_keeps (h : Canonical s) : Keeps (execSetxs s) := by
  unfold execSetxs
  grind [serve_keeps, onPart_canonical, say_canonical, modPart_canonical, Canonical, clearGained_wf, foldl_wf]

theorem execSetresume_keeps (h : Canonical s) : Keeps (execSetresume s) :=
  serve_keeps (fun _ _ h => onPart_canonical (fun _ _ _ h => say_canonical (modPart_canonical h)) h) h

theorem execSetreserve_keeps (h : Canonical s) : Keeps (execSetreserve s) :=
  serve_keeps (fun _ _ h => say_canonical (modDie_canonical h)) h

theorem execBindvi_keeps (h : Canonical s) : Keeps (execBindvi s) :=
  serve_keeps (fun _ _ h => onPart_canonical (fun _ _ _ h => say_canonical (modIface_canonical h)) h) h

/-! ### Machine.StreamOps -/

theorem execStreamCreate_keeps (h : Canonical s) : Keeps (execStreamCreate s) := by
  unfold execStreamCreate
  grind [serve_keeps, say_canonical, Canonical]

theorem onStream_canonical {act : Request → Stream → State → State} {r : Request} {s : State}
    (ha : ∀ r x s, Canonical s → Canonical (act r x s)) (h : Canonical s) : Canonical (onStream act r s) := by
  unfold onStream
  split
  · exact say_canonical h
  · exact ha _ _ _ h

theorem sayStat_canonical {r : Request} (h : Canonical s) : Canonical (sayStat r status s) :=
  say_canonical h

theorem execStreamDestroy_keeps (h : Canonical s) : Keeps (execStreamDestroy s) := by
  unfold execStreamDestroy
  grind [serve_keeps, onStream_canonical, writeSeq_canonical, sayStat_canonical, say_canonical, Canonical]

theorem restartStream_canonical {i : Nat} (h : Canonical s) : Canonical (restartStream s i) := by
  unfold restartStream
  split
  · exact h
  · exact modStream_canonical (rewind_canonical h)

theorem skipTask_canonical {x : Stream} (h : Canonical s) : Canonical (skipTask s x t) := by
  unfold skipTask
  grind [retireRecord_canonical, writeSeq_canonical, rewind_canonical, winRecord_canonical, settleIdle_canonical,
    modStream_canonical]

theorem streamAct_canonical {s s' : State} {i : Nat} {d : Deferred} (h : Canonical s) (e : streamAct s i d = some s') :
    Canonical s' := by
  unfold streamAct at e
  obtain ⟨x, -, e⟩ := Option.bind_eq_some_iff.mp e
  split at e
  · exact Option.some.inj e ▸ restartStream_canonical h
  · obtain ⟨t, -, rfl⟩ := Option.map_eq_some_iff.mp e
    exact skipTask_canonical h
  · exact Option.some.inj e ▸ beginAbort_canonical h
  · exact Option.some.inj e ▸ beginAbort_canonical h
  · cases e

theorem streamOp_canonical {d : Deferred} {r : Request} {x : Stream} {s : State} (h : Canonical s) :
    Canonical (streamOp d r x s) := by
  unfold streamOp
  split
  · exact sayStat_canonical (modStream_canonical h)
  · split
    · exact say_canonical h
    · next e =>
      have h' := streamAct_canonical h e
      split
      · exact finishAbort_canonical (h'.congr rfl)
      · exact sayStat_canonical h'

theorem execRestart_keeps (h : Canonical s) : Keeps (execRestart s) :=
  serve_keeps (fun _ _ h => onStream_canonical (fun _ _ _ => streamOp_canonical) h) h

theorem execSkip_keeps (h : Canonical s) : Keeps (execSkip s) :=
  serve_keeps (fun _ _ h => onStream_canonical (fun _ _ _ => streamOp_canonical) h) h

theorem execAbort_keeps (h : Canonical s) : Keeps (execAbort s) :=
  serve_keeps (fun _ _ h => onStream_canonical (fun _ _ _ => streamOp_canonical) h) h

theorem execClear_keeps (h : Canonical s) : Keeps (execClear s) :=
  serve_keeps (fun _ _ h => onStream_canonical (fun _ _ _ h => sayStat_canonical (modStream_canonical h)) h) h

theorem runDeferred_canonical {i : Nat} (h : Canonical s) : Canonical (runDeferred s i) := by
  unfold runDeferred
  grind [modStream_canonical, streamAct_canonical, finishAbort_canonical, foldl_canonical]

/-! ### Machine.Halt -/

theorem execHalt_keeps (h : Canonical s) : Keeps (execHalt s) := by
  unfold execHalt
  grind [serve_keeps, onPart_canonical, say_canonical, modPart_canonical, Canonical]

theorem execContextSave_keeps (h : Canonical s) : Keeps (execContextSave part s) := by
  unfold execContextSave
  grind [clearWgs_canonical, modPart_canonical, answerPending_canonical, keeps_next, Canonical]

theorem restoreHalted_canonical {p : Part} {v : Saved} (h : Canonical s) : Canonical (restoreHalted p s v) := by
  unfold restoreHalted
  split
  · split
    · exact restoreWg_canonical (h.congr rfl)
    · exact restoreWg_canonical h
  · exact modGrid_canonical h

theorem recallAll_canonical {vs : List Saved} (h : Canonical s) : Canonical (recallAll s vs).2 := by
  unfold recallAll
  grind [recallImage_canonical, foldl_snd_canonical, Canonical]

theorem resumeStream_canonical {x : Stream} (h : Canonical s) : Canonical (resumeStream s x) :=
  runDeferred_canonical (modStream_canonical h)

theorem execResume_keeps (h : Canonical s) : Keeps (execResume s) := by
  unfold execResume
  grind [serve_keeps, onPart_canonical, say_canonical, recallAll_canonical, restoreHalted_canonical,
    requeueAll_canonical, modPart_canonical, resumeRecord_canonical, resumeStream_canonical, foldl_canonical]

theorem recallWords_canonical {vs : List Saved} (h : Canonical s) : Canonical (recallWords s vs).2 := by
  unfold recallWords
  grind [recallCells_canonical, foldl_snd_canonical]

theorem unpended_canonical (h : Canonical s) : Canonical (unpended s part) :=
  foldl_canonical (fun _ _ => unpendPart_canonical) _ h

theorem execCheckpoint_keeps (h : Canonical s) : Keeps (execCheckpoint s) := by
  unfold execCheckpoint
  grind [serve_keeps, onPart_canonical, say_canonical, recallWords_canonical, winWrites_canonical, Canonical]

/-- `winReads` is generalized before the case split: its 28 words and 4096 bytes must not be unfolded. -/
theorem readImage_canonical {s : State} {part addr : Nat} (h : Canonical s) : Canonical (readImage s part addr).2 := by
  have hw {s part va n} (h : Canonical s) : Canonical (winReads s part va n).2 := winReads_canonical h
  delta readImage
  generalize winReads = f at hw ⊢
  have h1 := hw (part := part) (va := addr) (n := 28) h
  generalize f s part addr 28 = p at h1 ⊢
  split
  · exact h1
  next ws s1 =>
  generalize eD ws 2 = len
  have h2 := hw (part := part) (va := addr + 4096) (n := (len - 4096) / 4) h1
  change Canonical (ite _ _ _ : Option (List Word) × State).2
  split
  · exact h1
  generalize f s1 part (addr + 4096) ((len - 4096) / 4) = p at h2 ⊢
  split
  · exact h2
  · exact h2

theorem restoreImage_canonical {i : Image} (h : Canonical s) : Canonical (restoreImage s i) := by
  unfold restoreImage
  grind [modPart_canonical, Canonical, putSlice_wf, foldl_wf]

theorem execTkResume_keeps (h : Canonical s) : Keeps (execTkResume s) := by
  unfold execTkResume
  grind [readImage_canonical, failTask_canonical, noteIssue_canonical, modTask_canonical, restoreImage_canonical,
    keeps_next]

/-! ### Machine.Frames -/

theorem modPort_canonical {p : Nat} {f : Port → Port} (h : Canonical s) : Canonical (modPort s p f) :=
  h.congr rfl

theorem readEntry_canonical {r : Ring} {i : Nat} (h : Canonical s) : Canonical (readEntry s r i).2 := by
  unfold readEntry
  grind [winReads_canonical]

theorem giveEntry_canonical {r : Ring} {i len : Nat} {eof err : Bool} (h : Canonical s) :
    Canonical (giveEntry s r i len eof err) :=
  winWrites_canonical h

theorem frameBytes_canonical {a len : Nat} (h : Canonical s) : Canonical (frameBytes s part a len).2 := by
  unfold frameBytes
  grind [winReads_canonical]

theorem gatherFrame_canonical {r : Ring} {fuel i : Nat} {bs : List Byte} {e : Bool} {s : State} (h : Canonical s) :
    Canonical (gatherFrame r fuel i bs e s).2.2.2 := by
  induction fuel generalizing i bs e s with
  | zero => exact h
  | succ fuel ih =>
    unfold gatherFrame
    grind [readEntry_canonical, giveEntry_canonical, frameBytes_canonical]

theorem sendFrame_canonical {r : Ring} (h : Canonical s) : Canonical (sendFrame s port r) := by
  unfold sendFrame
  grind [gatherFrame_canonical, modPort_canonical, Canonical]

theorem sendAll_canonical {s : State} {port ring n : Nat} (h : Canonical s) : Canonical (sendAll s port ring n) := by
  induction n with
  | zero => exact h
  | succ n ih =>
    unfold sendAll
    dsimp only
    split
    · exact sendFrame_canonical ih
    · exact ih

theorem execEthernetFrameTransmit_keeps {ring : Nat} (h : Canonical s) :
    Keeps (execEthernetFrameTransmit port ring s) := by
  unfold execEthernetFrameTransmit
  refine keeps_next.mpr ?_
  split
  · exact h
  · exact sendFrame_canonical h

theorem writeFrame_canonical {a : Nat} {bs : List Byte} (h : Canonical s) : Canonical (writeFrame s part a bs).2 := by
  unfold writeFrame
  grind [winRefused_canonical, winPatch_canonical, foldl_canonical]

theorem takeFrame_canonical {r : Ring} {frame : List Byte} (h : Canonical s) :
    Canonical (takeFrame s port r frame) := by
  unfold takeFrame
  grind [readEntry_canonical, modPort_canonical, giveEntry_canonical, writeFrame_canonical]

theorem execEthernetFrameReceive_keeps {ring : Nat} {frame : List Byte} (h : Canonical s) :
    Keeps (execEthernetFrameReceive port ring frame s) := by
  unfold execEthernetFrameReceive
  refine keeps_next.mpr ?_
  split
  · exact h
  · exact takeFrame_canonical h

/-! ### Machine.Telemetry -/

theorem execPeek_keeps (h : Canonical s) : Keeps (execPeek s) := by
  unfold execPeek
  grind [serve_keeps, say_canonical, modDie_canonical, keeps_next]

theorem execScrub_keeps (h : Canonical s) : Keeps (execScrub s) :=
  serve_keeps (fun _ _ h => say_canonical (h.congr rfl)) h

theorem execInject_keeps (h : Canonical s) : Keeps (execInject s) := by
  unfold execInject
  grind [serve_keeps, say_canonical, Canonical]

theorem execHbmLineRead_keeps (h : Canonical s) : Keeps (execHbmLineRead line s) :=
  keeps_next.mpr (hbmRead_canonical h)

theorem execHbmLineWrite_keeps (h : Canonical s) : Keeps (execHbmLineWrite line s) :=
  keeps_next.mpr (l2Clean_canonical h)

theorem execPatrolScrub_keeps {ctrl : Nat} (h : Canonical s) : Keeps (execPatrolScrub ctrl s) := by
  unfold execPatrolScrub
  refine keeps_next.mpr ?_
  split
  · exact h
  · exact hbmRead_canonical (h.congr rfl)

/-! ### Machine.Keys -/

theorem toHost_canonical {a : Nat} {bs : List Byte} (h : Canonical s) : Canonical (toHost s a bs) :=
  hostStore_canonical h

theorem execGetcert_keeps (h : Canonical s) : Keeps (execGetcert s) := by
  unfold execGetcert
  grind [serve_keeps, say_canonical, toHost_canonical]

theorem execAttest_keeps (h : Canonical s) : Keeps (execAttest s) := by
  unfold execAttest
  grind [serve_keeps, say_canonical, toHost_canonical, Canonical]

theorem execLoad_keeps (h : Canonical s) : Keeps (execLoad s) := by
  unfold execLoad
  grind [serve_keeps, say_canonical, Canonical]

theorem execGrant_keeps (h : Canonical s) : Keeps (execGrant s) := by
  unfold execGrant
  grind [serve_keeps, say_canonical, modPart_canonical]

theorem execRevoke_keeps (h : Canonical s) : Keeps (execRevoke s) := by
  unfold execRevoke
  grind [serve_keeps, say_canonical, invalidate_canonical, modPart_canonical]

theorem execPodkey_keeps (h : Canonical s) : Keeps (execPodkey s) := by
  unfold execPodkey
  grind [serve_keeps, onPart_canonical, say_canonical, Canonical]

theorem drainPort_canonical {p : Port} (h : Canonical s) : Canonical (drainPort s p) := by
  unfold drainPort
  split
  · exact foldl_canonical (fun _ _ => sendAll_canonical) _ h
  · exact foldl_canonical (fun _ _ => wcSend_canonical) _ h

theorem execJoin_keeps (h : Canonical s) : Keeps (execJoin s) := by
  unfold execJoin
  grind [serve_keeps, drainPort_canonical, say_canonical, Canonical]

theorem withPodBar_canonical {num : Nat} (h : Canonical s) : Canonical (withPodBar s part num) :=
  ite_canonical h (h.congr rfl)

theorem registerBar_canonical {num pkg : Nat} (h : Canonical s) : Canonical (registerBar s part num pkg n) := by
  unfold registerBar
  grind [withPodBar_canonical, setBar_canonical, Canonical]

theorem execBarreg_keeps (h : Canonical s) : Keeps (execBarreg s) := by
  unfold execBarreg
  grind [serve_keeps, onPart_canonical, say_canonical, registerBar_canonical]

/-! ### Machine.Reset -/

theorem sendParts_canonical {d : Nat} {ps : List (Nat × BitVec 128)} (h : Canonical s) :
    Canonical (sendParts s d op ps) := by
  unfold sendParts
  grind [modDie_canonical, foldl_canonical, Canonical]

theorem beginReset_canonical {d : Nat} {tag : Byte} {drain : Nat} {regrow : Bool} (h : Canonical s) :
    Canonical (beginReset s d vi tag drain regrow) :=
  sendParts_canonical (modDie_canonical h)

theorem execResetDie_keeps (h : Canonical s) : Keeps (execResetDie s) := by
  unfold execResetDie
  grind [serve_keeps, say_canonical, beginReset_canonical]

theorem emptyDie_canonical {d : Nat} (h : Canonical s) : Canonical (emptyDie s d) :=
  modDie_canonical (vacate_canonical h)

theorem writeDie_canonical {d : Nat} (h : Canonical s) : Canonical (writeDie s d) :=
  modDie_canonical (foldl_canonical (fun _ _ => flushCore_canonical) _ h)

theorem clearDie_canonical {d : Nat} (h : Canonical s) : Canonical (clearDie s d) :=
  { h with cs := clearWords_wf h.cs _ _, ks := clearWords_wf h.ks _ _, ob := clearWords_wf h.ob _ _ }

theorem execDieDrainExpiry_keeps (h : Canonical s) : Keeps (execDieDrainExpiry s) := by
  unfold execDieDrainExpiry
  grind [modDie_canonical, emptyDie_canonical, writeDie_canonical, clearDie_canonical, keeps_next]

theorem sayDone_canonical {d : Nat} {c : ResetCtx} (h : Canonical s) : Canonical (sayDone s d status c) :=
  notifyWith_canonical (modDie_canonical h)

theorem execLinkRetrainComplete_keeps (h : Canonical s) : Keeps (execLinkRetrainComplete s) := by
  unfold execLinkRetrainComplete
  grind [sayDone_canonical, modDie_canonical, sendParts_canonical, keeps_next]

theorem execComputeDieLinkFailure_keeps (h : Canonical s) : Keeps (execComputeDieLinkFailure s) := by
  unfold execComputeDieLinkFailure
  grind [beginReset_canonical, keeps_next, Canonical]

theorem stopAll_canonical (h : Canonical s) : Canonical (stopAll s) :=
  h.congr rfl

theorem execMeshLinkFailure_keeps {link : Nat} (h : Canonical s) : Keeps (execMeshLinkFailure link s) := by
  unfold execMeshLinkFailure
  refine keeps_next.mpr ?_
  split
  · exact h
  · exact notify_canonical ((stopAll_canonical h).congr rfl)

theorem eraseKeys_canonical (h : Canonical s) : Canonical (eraseKeys s) :=
  h.congr rfl

theorem execSecurityAlarm_keeps {sensors : BitVec 4} (h : Canonical s) : Keeps (execSecurityAlarm sensors s) := by
  unfold execSecurityAlarm
  refine keeps_next.mpr ?_
  split
  · exact h
  · exact notify_canonical ((stopAll_canonical (eraseKeys_canonical h)).congr rfl)

theorem execPowerLoss_keeps (h : Canonical s) : Keeps (execPowerLoss s) :=
  keeps_next.mpr ((eraseKeys_canonical h).congr rfl)

/-- Cold reset starts from the canonical memories of `State.reset`; pod and host memory stay (R7). -/
theorem coldState_canonical {s : State} (h : Canonical s) : Canonical (coldState s) :=
  { (canonical_iff _).mpr reset_allWf with podMem := h.podMem, hostMem := h.hostMem }

theorem recoveryState_canonical (h : Canonical s) : Canonical (recoveryState s) :=
  (coldState_canonical h).congr rfl

theorem execColdReset_keeps (h : Canonical s) : Keeps (execColdReset s) := by
  unfold execColdReset
  refine keeps_next.mpr ?_
  split
  · exact coldState_canonical h
  · exact recoveryState_canonical h

theorem execFwimage_keeps (h : Canonical s) : Keeps (execFwimage s) := by
  unfold execFwimage
  grind [serve_keeps, say_canonical, coldState_canonical, Canonical]

/-! ### Machine.Link -/

theorem hostPut_canonical {w : Word} (h : Canonical s) : Canonical (hostPut s pa w) := by
  unfold hostPut
  split
  · split
    · exact homeWrite_canonical h
    · exact h
  · exact hostStore_canonical h
  · exact h

theorem egress_canonical {w : Word} (h : Canonical s) : Canonical (egress s pa w).2 := by
  unfold egress
  grind [report_canonical]

theorem hostGet_canonical (h : Canonical s) : Canonical (hostGet s pa).2 := by
  unfold hostGet
  grind [egress_canonical, homeRead_canonical, Canonical]

theorem decoderLoc_canonical {wr : Bool} (h : Canonical s) : Canonical (decoderLoc s vi addr wr).2 := by
  unfold decoderLoc
  grind [winLoc_canonical]

theorem ingressAt_canonical {w : Word} (h : Canonical s) : Canonical (ingressAt s vi addr w) := by
  unfold ingressAt
  grind [hostPut_canonical, decoderLoc_canonical, homeWrite_canonical, Canonical]

theorem execHostIngress_keeps {data : List (W32 × Bool)} (h : Canonical s) :
    Keeps (execHostIngress vi addr data s) :=
  keeps_next.mpr (foldl_canonical (fun _ _ => ingressAt_canonical) _ (h.congr rfl))

theorem egressAt_canonical (h : Canonical s) : Canonical (egressAt s vi addr).2 := by
  unfold egressAt
  grind [hostGet_canonical, decoderLoc_canonical, homeRead_canonical, egress_canonical, Canonical]

theorem egressWords_canonical {vi addr n : Nat} {s : State} (h : Canonical s) :
    Canonical (egressWords vi addr n s).2 := by
  induction n with
  | zero => exact h
  | succ n ih => exact egressAt_canonical ih

theorem sendHost_canonical {ws : List (W32 × Bool)} (h : Canonical s) : Canonical (sendHost s ws) :=
  h.congr rfl

theorem execHostEgress_keeps {count : Nat} (h : Canonical s) : Keeps (execHostEgress vi addr count s) :=
  keeps_next.mpr (sendHost_canonical (egressWords_canonical (h.congr rfl)))

theorem egressLine_canonical (h : Canonical s) : Canonical (egressLine s pa ws).2 := by
  unfold egressLine
  grind [egress_canonical, foldl_snd_canonical]

theorem execCxlMemAccess_keeps {write : Option (W32 × Bool)} (h : Canonical s) :
    Keeps (execCxlMemAccess vi addr write s) := by
  unfold execCxlMemAccess
  grind [decoderLoc_canonical, homeWrite_canonical, homeRead_canonical, egressLine_canonical, sendHost_canonical,
    keeps_next, Canonical]

theorem tagFailed_canonical {pkg : Nat} (h : Canonical s) : Canonical (tagFailed s port pkg) :=
  ite_canonical (notify_canonical (modPort_canonical (modPort_canonical h))) (modPort_canonical h)

theorem podServe_canonical {write : Option Word} (h : Canonical s) : Canonical (podServe s addr write) := by
  unfold podServe
  grind [homeWrite_canonical, homeRead_canonical, Canonical]

theorem packetPassed_canonical {pkg : Nat} (h : Canonical s) : Canonical (packetPassed s port pkg) :=
  modPort_canonical h

theorem execPodPacketReceive_keeps {pkg : Nat} {write : Option Word} {packet : List Byte} (h : Canonical s) :
    Keeps (execPodPacketReceive port pkg addr write packet s) := by
  unfold execPodPacketReceive
  grind [podServe_canonical, packetPassed_canonical, tagFailed_canonical, keeps_next, Canonical]

/-! ### Machine.Dispatch -/

/-- Every instruction and every step of the package: most words go through an issue function, the rest have a lemma
of their own above. -/
theorem exec_keeps {i : Instr} (h : Canonical s) : Keeps (exec i s) := by
  cases i with
  | add _ | sub _ | addc _ | subb _ | mul _ | mulh _ | mulw _ | mad _ | madh _ | div _ | rem _ | neg _ | abs _
  | min _ | max _ | clamp _ | sadd _ | ssub _ | dot2s _ | sad _ | and _ | or _ | xor _ | not _ | lop3 _ | shl _
  | shr _ | sar _ | rot _ | shf _ | rshr _ | bext _ | bins _ | bmsk _ | brev _ | popc _ | clz _ | ctz _ | perm _
  | sext _ | zext _ | setc _ | sel _ | mov _ | pset _ | pand _ | por _ | pxor _ | pnot _ | fadd _ | fsub _ | fmul _
  | ffma _ | fmin _ | fmax _ | fcmp _ | fclass _ | fcopysign _ | fscale _ | frnd _ | fdot2 _ | frcp _ | frsq _
  | fsqrt _ | fdiv _ | fexp2 _ | flog2 _ | fsin _ | fcos _ | ftanh _ | fsigm _ | cvt _ | cvti _ | cvtx _ =>
    exact issueR75_keeps h
  | ld _ | ldx _ | lda _ => exact issueMem_keeps (fun _ _ _ => loadBody_canonical) h
  | st _ | stl _ => exact issueMem_keeps (fun _ _ _ => storeBody_canonical) h
  | atom _ | acas _ | red _ => exact issueAtom_keeps h
  | tbind _ => exact keeps_next.mpr (issueGroups_canonical (fun _ _ _ => tbindBody_canonical) h)
  | tstate _ => exact keeps_next.mpr (issueGroups_canonical (fun _ _ _ => tstateBody_canonical) h)
  | tdrain _ | cpy _ | cpyc _ | gath _ | scat _ | cpys _ => exact issueCopy_keeps h
  | tfree _ => exact keeps_next.mpr (issueGroups_canonical (fun _ _ _ => tfreeBody_canonical) h)
  | cpre _ => exact keeps_next.mpr (issueGroups_canonical (fun _ _ _ => cpreBody_canonical) h)
  | fence _ => exact keeps_next.mpr (issueLanes_canonical (fun _ _ _ => fenceBody_canonical) h)
  | sacq _ | stry _ => exact keeps_next.mpr (issueLanes_canonical (fun _ _ _ => sacqBody_canonical) h)
  | srel _ => exact keeps_next.mpr (issueLanes_canonical (fun _ _ _ => srelBody_canonical) h)
  | cinv _ | cwb _ | chint _ => exact issueCache_keeps h
  | cbld _ | cbst _ => exact keeps_next.mpr (issueGroups_canonical (fun _ _ _ => cbMemBody_canonical) h)
  | cbw _ => exact keeps_next.mpr (joinWrites_canonical (issueLanes_canonical (fun _ _ _ => cbwBody_canonical) h))
  | cbinv _ => exact keeps_next.mpr (issueGroups_canonical (fun _ _ _ => cbinvBody_canonical) h)
  | cbfence _ => exact keeps_next.mpr (issueLanes_canonical (fun _ _ _ => cbfenceBody_canonical) h)
  | bra _ | call _ => exact keeps_next.mpr (issueLanes_canonical (fun _ _ _ => braBody_canonical) h)
  | brx _ | ret _ => exact keeps_next.mpr (issueLanes_canonical (fun _ _ _ => brxBody_canonical) h)
  | exit _ => exact keeps_next.mpr (issueLanes_canonical (fun _ _ _ => exitBody_canonical) h)
  | yield _ | nop _ | trap _ | unassignedOpcode _ => exact keeps_next.mpr (issueLanes_canonical (fun _ _ _ h => h) h)
  | wait _ => exact keeps_next.mpr (issueLanes_canonical (fun _ _ _ => waitBody_canonical) h)
  | barArr _ => exact keeps_next.mpr (issueGroups_canonical (fun _ _ _ => barArrBody_canonical) h)
  | barWait _ => exact keeps_next.mpr (issueGroups_canonical (fun _ _ _ => barWaitBody_canonical) h)
  | barSync _ => exact keeps_next.mpr (issueGroups_canonical (fun _ _ _ => barSyncBody_canonical) h)
  | barExp _ => exact keeps_next.mpr (issueGroups_canonical (fun _ _ _ => barExpBody_canonical) h)
  | barStat _ => exact keeps_next.mpr (issueLanes_canonical (fun _ _ _ => barStatBody_canonical) h)
  | xshf _ | xred _ | xscan _ | xvote _ | xmatch _ | xelect _ | xbpc _ => exact issueCross_keeps h
  | qpush _ => exact keeps_next.mpr (issueLanes_canonical (fun _ _ _ => qpushBody_canonical) h)
  | qpop _ => exact keeps_next.mpr (issueLanes_canonical (fun _ _ _ => qpopBody_canonical) h)
  | qpeek _ => exact keeps_next.mpr (issueLanes_canonical (fun _ _ _ => qpeekBody_canonical) h)
  | agrow _ => exact keeps_next.mpr (issueGroups_canonical (fun _ _ _ => agrowBody_canonical) h)
  | ashrink _ => exact keeps_next.mpr (issueGroups_canonical (fun _ _ _ => ashrinkBody_canonical) h)
  | tret _ => exact keeps_next.mpr (issueLanes_canonical (fun _ _ _ => tretBody_canonical) h)
  | sinj _ => exact keeps_next.mpr (issueGroups_canonical (fun _ _ _ => sinjBody_canonical) h)
  | srd _ => exact keeps_next.mpr (issueLanes_canonical (fun _ _ _ => srdBody_canonical) h)
  | swr _ => exact keeps_next.mpr (issueLanes_canonical (fun _ _ _ => swrBody_canonical) h)
  | gset _ => exact keeps_next.mpr (issueGroups_canonical (fun _ _ _ => gsetBody_canonical) h)
  | mres _ => exact keeps_next.mpr (issueGroups_canonical (fun _ _ _ => mresBody_canonical) h)
  | mrel _ => exact keeps_next.mpr (issueGroups_canonical (fun _ _ _ => mrelBody_canonical) h)
  | mfill _ => exact keeps_next.mpr (issueGroups_canonical (fun _ _ _ => mfillBody_canonical) h)
  | mma _ => exact keeps_next.mpr (issueGroups_canonical (fun _ _ _ => mmaBody_canonical) h)
  | mtrq _ => exact keeps_next.mpr (issueGroups_canonical (fun _ _ _ => mtrqBody_canonical) h)
  | mdrain _ => exact keeps_next.mpr (issueGroups_canonical (fun _ _ _ => mdrainBody_canonical) h)
  | mzero _ => exact keeps_next.mpr (issueGroups_canonical (fun _ _ _ => mzeroBody_canonical) h)
  | mqry _ => exact keeps_next.mpr (issueGroups_canonical (fun _ _ _ => mqryBody_canonical) h)
  | movi _ => exact execMovi_keeps h
  | addLong _ => exact execAddLong_keeps h
  | mulLong _ => exact execMulLong_keeps h
  | andLong _ => exact execAndLong_keeps h
  | orLong _ => exact execOrLong_keeps h
  | xorLong _ => exact execXorLong_keeps h
  | pairedAdd _ | pairedSub _ | pairedMul _ | pairedMinI32 _ | pairedMaxI32 _ | pairedMinN32 _ | pairedMaxN32 _
  | pairedAnd _ | pairedOr _ | pairedXor _ | pairedShl _ | pairedShr _ | pairedSar _ | pairedPopc _ | pairedClz _
  | pairedMov _ | pairedAddImm _ | pairedAndImm _ | pairedOrImm _ | pairedXorImm _ | pairedShlImm _
  | pairedShrImm _ | pairedSarImm _ | pairedFaddF32 _ | pairedFsubF32 _ | pairedFmulF32 _ | pairedFminF32 _
  | pairedFmaxF32 _ | pairedFaddF16x2 _ | pairedFmulF16x2 _ | pairedFaddBf16x2 _ | pairedFmulBf16x2 _
  | pairedCvtF32I32 _ | pairedCvtI32F32 _ | pairedLdCs _ | pairedStCs _ | pairedLdKs _ | pairedStKs _
  | pairedLdLp _ | pairedStLp _ | pairedSrd _ | pairedPand _ | pairedPor _ | pairedPxor _ | pairedPnot _
  | pairedSetcEq _ | pairedSetcNe _ | pairedSetcLtI32 _ | pairedSetcLtN32 _ | pairedSetcLeI32 _ | pairedSetcLeN32 _ =>
    exact issuePair_keeps h
  | coachFormation _ _ => exact execCoachFormation_keeps h
  | agePromotion _ _ => exact execAgePromotion_keeps h
  | variableLatencyResult _ _ => exact execVariableLatencyResult_keeps h
  | agrowGrant _ _ => exact execAgrowGrant_keeps h
  | sacqGrant _ _ => exact execSacqGrant_keeps h
  | queueWaitService _ => exact execQueueWaitService_keeps h
  | waitCyclesElapsed _ _ => exact execWaitCyclesElapsed_keeps h
  | watchdog _ _ => exact execWatchdog_keeps h
  | storePathFlush _ _ _ => exact execStorePathFlush_keeps h
  | translationWalk _ _ _ => exact execTranslationWalk_keeps h
  | copyCompletion _ => exact execCopyCompletion_keeps h
  | copyStop _ => exact execCopyStop_keeps h
  | cpysSourceReadDone _ => exact execCpysSourceReadDone_keeps h
  | mmaExecuteStart _ => exact execMmaExecuteStart_keeps h
  | mmaOpRetire _ => exact execMmaOpRetire_keeps h
  | mdrainComplete _ _ => exact execMdrainComplete_keeps h
  | exitPendingRelease _ => exact execExitPendingRelease_keeps h
  | dispatchBatch _ => exact execDispatchBatch_keeps h
  | sqtail _ _ _ => exact execSqtail_keeps h
  | registerWrite _ _ _ => exact execRegisterWrite_keeps h
  | pipelineStageLaunch _ _ => exact execPipelineStageLaunch_keeps h
  | pipelineReview _ => exact execPipelineReview_keeps h
  | hbmLineRead _ => exact execHbmLineRead_keeps h
  | hbmLineWrite _ => exact execHbmLineWrite_keeps h
  | patrolScrub _ => exact execPatrolScrub_keeps h
  | hostIngress _ _ _ => exact execHostIngress_keeps h
  | hostEgress _ _ _ => exact execHostEgress_keeps h
  | cxlMemAccess _ _ _ => exact execCxlMemAccess_keeps h
  | podPacketReceive _ _ _ _ _ => exact execPodPacketReceive_keeps h
  | ethernetFrameReceive _ _ _ => exact execEthernetFrameReceive_keeps h
  | ethernetFrameTransmit _ _ => exact execEthernetFrameTransmit_keeps h
  | meshLinkFailure link => exact execMeshLinkFailure_keeps (link := link) h
  | contextSave _ => exact execContextSave_keeps h
  | securityAlarm _ => exact execSecurityAlarm_keeps h
  | instructionFetchComplete _ _ => exact execInstructionFetchComplete_keeps h
  | opOperandFetchComplete _ => exact execOpOperandFetchComplete_keeps h
  | mfillComplete _ => exact execMfillComplete_keeps h
  | bankWriteComplete _ _ => exact execBankWriteComplete_keeps h
  | redPerformed _ _ => exact execRedPerformed_keeps h
  | mbrepRead _ => exact execMbrepRead_keeps h
  | placeWorkgroup => exact execPlaceWorkgroup_keeps h
  | gangHold => exact execGangHold_keeps h
  | placementStarvation => exact execPlacementStarvation_keeps h
  | latencyReservePreemption => exact execLatencyReservePreemption_keeps h
  | taskEntryFetch => exact execTaskEntryFetch_keeps h
  | taskRename => exact execTaskRename_keeps h
  | bufferStarvationDiscard => exact execBufferStarvationDiscard_keeps h
  | tkNop => exact execTkNop_keeps h
  | tkRun => exact execTkRun_keeps h
  | tkPipe => exact execTkPipe_keeps h
  | tkCopy | tkFill | tkFree | tkBind | tkUnbind | tkFence | tkRec => exact issueAs_keeps h
  | tkSignal => exact execTkSignal_keeps h
  | tkWait => exact execTkWait_keeps h
  | tkWaitPoll => exact execTkWaitPoll_keeps h
  | tkWaitTimeout => exact execTkWaitTimeout_keeps h
  | tkLink => exact execTkLink_keeps h
  | tkResume => exact (execTkResume_keeps h :)
  | tkSucc => exact execTkSucc_keeps h
  | taskCompletion => exact execTaskCompletion_keeps h
  | taskRetire => exact execTaskRetire_keeps h
  | takeFault => exact execTakeFault_keeps h
  | partitionCreate => exact execPartitionCreate_keeps h
  | partitionDestroy => exact execPartitionDestroy_keeps h
  | shrink => exact execShrink_keeps h
  | grow => exact execGrow_keeps h
  | halt => exact execHalt_keeps h
  | resume => exact execResume_keeps h
  | checkpoint => exact execCheckpoint_keeps h
  | setroot => exact execSetroot_keeps h
  | tlbinv => exact execTlbinv_keeps h
  | addbuf => exact execAddbuf_keeps h
  | setwin => exact execSetwin_keeps h
  | setxs => exact execSetxs_keeps h
  | setresume => exact execSetresume_keeps h
  | setreserve => exact execSetreserve_keeps h
  | bindvi => exact execBindvi_keeps h
  | streamCreate => exact execStreamCreate_keeps h
  | streamDestroy => exact execStreamDestroy_keeps h
  | restart => exact execRestart_keeps h
  | skip => exact execSkip_keeps h
  | abort => exact execAbort_keeps h
  | clear => exact execClear_keeps h
  | resetDie => exact execResetDie_keeps h
  | dieDrainExpiry => exact execDieDrainExpiry_keeps h
  | linkRetrainComplete => exact execLinkRetrainComplete_keeps h
  | peek => exact execPeek_keeps h
  | scrub => exact execScrub_keeps h
  | inject => exact execInject_keeps h
  | getcert => exact execGetcert_keeps h
  | attest => exact execAttest_keeps h
  | load => exact execLoad_keeps h
  | grant => exact execGrant_keeps h
  | revoke => exact execRevoke_keeps h
  | podkey => exact execPodkey_keeps h
  | join => exact execJoin_keeps h
  | barreg => exact execBarreg_keeps h
  | fwimage => exact execFwimage_keeps h
  | coldReset => exact execColdReset_keeps h
  | powerLoss => exact execPowerLoss_keeps h
  | computeDieLinkFailure => exact execComputeDieLinkFailure_keeps h
  | badMessage => exact execBadMessage_keeps h

/-! ### Machine.Due -/

theorem nextStep_canonical (h : Canonical s) : Canonical (nextStep s).2 := by
  unfold nextStep
  grind [Canonical]

theorem ageWaits_canonical (h : Canonical s) : Canonical (ageWaits s) :=
  h.congr rfl

theorem holdFetch_canonical (h : Canonical s) : Canonical (holdFetch s) :=
  h.congr rfl

theorem tickAll_canonical (h : Canonical s) : Canonical (tickAll s) := by
  unfold tickAll
  grind [holdFetch_canonical, ageWaits_canonical, seatPipes_canonical, agePipes_canonical, watchHeads_canonical,
    tick_canonical, writeSeqs_canonical]

theorem turnOver_canonical (h : Canonical s) : Canonical (turnOver s) :=
  ite_canonical (h.congr rfl) (tickAll_canonical h)

theorem afterPower_canonical (h : Canonical s) : Canonical (afterPower s).2 := by
  unfold afterPower
  grind [Canonical]

/-! ### Machine.Step -/

theorem after_keeps {f : State → State} {o : Host.Outcome State Fault Refusal}
    (hf : ∀ s, Canonical s → Canonical (f s)) (h : Keeps o) : Keeps (after f o) := by
  cases o with
  | next s => exact keeps_next.mpr (hf s (keeps_next.mp h))
  | fault r => exact nofun
  | refused r => exact nofun

theorem step_keeps {s : State} (h : Canonical s) : Keeps (step s) := by
  unfold step
  split
  · split
    · next e => exact exec_keeps (snd_canonical e (afterPower_canonical h))
    · exact nofun
  split
  · exact exec_keeps h
  split
  · exact exec_keeps (h.congr rfl)
  split
  · next e => exact exec_keeps ((snd_canonical e (nextStep_canonical h)).congr rfl)
  · next e =>
    exact after_keeps (fun _ => turnOver_canonical) (exec_keeps (snd_canonical e (nextStep_canonical h)))

end

end Sys2Proof.Machine

namespace Sys2Proof

open Machine in
/-- Settles O39: `step` keeps `Canonical`, which is `Memory.allWf` under a name. -/
theorem stepKeepsMemory : Obligations.StepKeepsMemory := by
  unfold Obligations.StepKeepsMemory
  intro s s' h e
  exact (canonical_iff s').mp (step_keeps ((canonical_iff s).mpr h) s' e)

end Sys2Proof

end

section

/-! PROOF. What no word of a program changes (R37, R223, R306, R365, R415): `fixed` collects it, one lemma per function of
the model that a word reaches says that the function keeps it, and the words follow from the bodies that they issue.
`swr` alone writes the trap vector of a kernel, and at user level not even that. -/

namespace Sys2Proof.Machine

-- One proof after the other: a `grind` waits for the proofs of the lemmas that it is given, each in a thread of its own.
set_option Elab.async false

/-- What a program cannot change: the clock, partitions, streams, tasks, keys and power, and the descriptor of each
launched kernel. -/
structure Fixed where
  cycle : Nat
  epoch : Nat
  parts : List Part
  streams : List Stream
  tasks : List Task
  keySlots : AList KeySlot
  podKeys : AList Nat
  session : Option Nat
  jobKey : Option Nat
  power : Power
  flash : Option (List Byte)
  kd : Nat → Option KDesc

def fixed (s : State) : Fixed :=
  { cycle := s.cycle, epoch := s.epoch, parts := s.parts, streams := s.streams, tasks := s.tasks,
    keySlots := s.keySlots, podKeys := s.podKeys, session := s.session, jobKey := s.jobKey, power := s.power,
    flash := s.flash, kd := fun k => (aget s.grids k).map (·.kd) }

/-! ### Results and folds -/

theorem fixed_of_snd {α : Type} {p : α × State} {a : α} {s s' : State} (e : p = (a, s')) (h : fixed p.2 = fixed s) :
    fixed s' = fixed s := by
  subst e
  exact h

theorem fixed_of_done {r : LaneRes} {s : State} (e : r = .done s) : fixed s = fixed r.state := by
  subst e
  rfl

/-- A change under a condition, as the model writes it: `if c then f s else s`. -/
theorem fixed_when {c : Prop} [Decidable c] {s s' : State} (h : fixed s' = fixed s) :
    fixed (if c then s' else s) = fixed s := by
  split
  · exact h
  · rfl

/-- A fold whose accumulator holds a state at `p`. -/
theorem fixed_foldl_of {α β : Type} (p : β → State) {f : β → α → β}
    (hf : ∀ b x, fixed (p (f b x)) = fixed (p b)) (l : List α) (b : β) :
    fixed (p (l.foldl f b)) = fixed (p b) := by
  induction l generalizing b with
  | nil => rfl
  | cons x l ih => exact (ih _).trans (hf _ _)

section

variable {α β : Type}

theorem fixed_foldl {f : State → α → State} (hf : ∀ s x, fixed (f s x) = fixed s) (l : List α) (s : State) :
    fixed (l.foldl f s) = fixed s :=
  fixed_foldl_of (fun s => s) hf l s

theorem fixed_foldl_fst {f : State × β → α → State × β} (hf : ∀ b x, fixed (f b x).1 = fixed b.1)
    (l : List α) (b : State × β) : fixed (l.foldl f b).1 = fixed b.1 :=
  fixed_foldl_of Prod.fst hf l b

theorem fixed_foldl_snd {f : β × State → α → β × State} (hf : ∀ b x, fixed (f b x).2 = fixed b.2)
    (l : List α) (b : β × State) : fixed (l.foldl f b).2 = fixed b.2 :=
  fixed_foldl_of Prod.snd hf l b

theorem fixed_foldl_work {f : Work → α → Work} (hf : ∀ w x, fixed (f w x).s = fixed w.s) (l : List α)
    (w : Work) : fixed (l.foldl f w).s = fixed w.s :=
  fixed_foldl_of Work.s hf l w

theorem fixed_foldl_snd_work {f : β × Work → α → β × Work} (hf : ∀ b x, fixed (f b x).2.s = fixed b.2.s)
    (l : List α) (b : β × Work) : fixed (l.foldl f b).2.s = fixed b.2.s :=
  fixed_foldl_of (fun b : β × Work => b.2.s) hf l b

theorem fixed_foldl_group {f : GroupRes → α → GroupRes} (hf : ∀ r x, fixed (f r x).s = fixed r.s)
    (l : List α) (r : GroupRes) : fixed (l.foldl f r).s = fixed r.s :=
  fixed_foldl_of GroupRes.s hf l r

end

/-! ### Grids -/

/-- A change of one grid keeps what a function of the descriptors gives, if it keeps it in each grid. -/
theorem kd_amod {α : Type} (φ : KDesc → α) {F : Grid → Grid} (hF : ∀ K, φ (F K).kd = φ K.kd) (l : AList Grid)
    (k j : Nat) : (aget (amod l k F) j).map (fun K => φ K.kd) = (aget l j).map fun K => φ K.kd := by
  rw [aget_amod]
  split
  · next h => subst h; cases aget l j <;> simp [hF]
  · rfl

theorem fixed_modGrid {s : State} {k : Nat} {F : Grid → Grid} (hF : ∀ K, (F K).kd = K.kd) :
    fixed (modGrid s k F) = fixed s :=
  congrArg (fun m => { fixed s with kd := m }) (funext (kd_amod id hF s.grids k))

theorem fixed_gridsMap {s s' : State} {F : Nat → Grid → Grid} (hF : ∀ k K, (F k K).kd = K.kd)
    (hg : s'.grids = s.grids.map fun x => (x.1, F x.1 x.2)) (h : fixed { s' with grids := s.grids } = fixed s) :
    fixed s' = fixed s := by
  have hk (l : AList Grid) (k : Nat) :
      (aget (l.map fun x => (x.1, F x.1 x.2)) k).map (·.kd) = (aget l k).map (·.kd) := by
    induction l with
    | nil => rfl
    | cons x r ih =>
      simp only [List.map_cons, aget]
      split
      · simp [hF]
      · exact ih
  rw [← h]
  simp only [fixed, hg, hk]

section

variable {s : State} {addr cls core g grid grp l lane line n op pa part port space status va vi wg : Nat}
  {f : FullWord} {t : Task} {ws : List Word} {c : Copy} {ls : List Nat}

/-! ### Machine/Reg -/

theorem fixed_modG {f : Group → Group} : fixed (modG s g f) = fixed s := rfl

theorem fixed_modT {f : Thread → Thread} : fixed (modT s g l f) = fixed s := rfl

theorem fixed_modWg {w : Nat} {f : Wg → Wg} : fixed (modWg s w f) = fixed s := rfl

/-! ### Machine/Mem -/

theorem fixed_hostStore {a : Nat} : fixed (hostStore s a ws) = fixed s := rfl

theorem fixed_notifyWith {type tag member : Nat} {payload : List W32} :
    fixed (notifyWith s vi type op tag member status payload) = fixed s := by
  unfold notifyWith
  grind [fixed_hostStore, fixed]

theorem fixed_notify {type tag member : Nat} {payload : List W32} :
    fixed (notify s vi type op tag member payload) = fixed s := by
  unfold notify
  grind [fixed_notifyWith]

/-! ### Machine/Home -/

theorem fixed_report {kind src mask : Nat} : fixed (report s kind src line mask) = fixed s := by
  unfold report
  grind [fixed_notify, fixed]

theorem fixed_hbmPut : fixed (hbmPut s line ws) = fixed s := rfl

theorem fixed_parityUpdate {old new : List Word} : fixed (parityUpdate s line old new) = fixed s := rfl

theorem fixed_openLine : fixed (openLine s).2 = fixed s := rfl

theorem fixed_sealLine {key : Nat} : fixed (sealLine s line key ws).2 = fixed s := by
  unfold sealLine
  grind [fixed_openLine, fixed]

theorem fixed_hbmRead {key src : Nat} : fixed (hbmRead s line key src).2 = fixed s := by
  unfold hbmRead
  grind [fixed_openLine, fixed_report, fixed_hbmPut, fixed_sealLine, fixed_parityUpdate]

theorem fixed_hbmWrite {key : Nat} {ps : AList Patch} : fixed (hbmWrite s line key ps) = fixed s := by
  unfold hbmWrite
  grind [fixed_hbmRead, fixed_sealLine, fixed_hbmPut, fixed_parityUpdate, fixed_report]

theorem fixed_l2Put {c : CLine} : fixed (l2Put s c) = fixed s := rfl

theorem fixed_l2Drop : fixed (l2Drop s line) = fixed s := rfl

theorem fixed_l2Clean : fixed (l2Clean s line) = fixed s := by
  unfold l2Clean
  grind [fixed_l2Put, fixed_hbmWrite, fixed]

theorem fixed_l2Fill {c : CLine} : fixed (l2Fill s c) = fixed s := by
  unfold l2Fill
  grind [fixed_l2Drop, fixed_l2Clean, fixed_l2Put]

theorem fixed_l2Read {key prio : Nat} : fixed (l2Read s line key prio).2 = fixed s := by
  unfold l2Read
  grind [fixed_hbmRead, fixed_l2Fill]

theorem fixed_podTrip : fixed (podTrip s pa) = fixed s := by
  unfold podTrip
  grind [fixed]

theorem fixed_hostRead {prio : Nat} : fixed (hostRead s pa prio).2 = fixed s := by
  unfold hostRead
  grind [fixed_l2Fill]

theorem fixed_l2Out : fixed (l2Out s line) = fixed s := by
  unfold l2Out
  grind [fixed_l2Drop, fixed_l2Clean]

theorem fixed_homeRead {at_ : LineAttr} : fixed (homeRead s pa at_).2 = fixed s := by
  unfold homeRead
  grind [fixed_hbmRead, fixed_l2Out, fixed_l2Read, fixed_podTrip, fixed_hostRead]

theorem fixed_egressPatch {ps : AList Patch} : fixed (egressPatch s pa ps) = fixed s := by
  unfold egressPatch
  grind [fixed_report, fixed_hostStore]

theorem fixed_homeWrite {at_ : LineAttr} {ps : AList Patch} : fixed (homeWrite s pa at_ ps) = fixed s := by
  unfold homeWrite
  grind [fixed_hbmWrite, fixed_l2Out, fixed_l2Read, fixed_l2Put, fixed_l2Clean, fixed_podTrip, fixed_egressPatch,
    fixed]

theorem fixed_dcDrop : fixed (dcDrop s core line) = fixed s := rfl

theorem fixed_dcDropAll : fixed (dcDropAll s core) = fixed s := rfl

theorem fixed_dcPut {prio : Nat} {evf : Bool} : fixed (dcPut s core line ws prio evf) = fixed s := rfl

theorem fixed_dcUpdate {b : WcBuf} : fixed (dcUpdate s b) = fixed s := by
  unfold dcUpdate
  grind [fixed_dcDrop, fixed_dcPut, fixed]

theorem fixed_wcSend {b : WcBuf} : fixed (wcSend s b) = fixed s := by
  unfold wcSend
  grind [fixed_homeWrite, fixed_dcUpdate, fixed]

theorem fixed_flushLine {xs : Bool} : fixed (flushLine s core xs line) = fixed s := by
  unfold flushLine
  grind [fixed_wcSend]

theorem fixed_flushCore : fixed (flushCore s core) = fixed s := by
  unfold flushCore
  grind [fixed_foldl, fixed_wcSend]

theorem fixed_wcStore {xs : Bool} {at_ : LineAttr} {i : Nat} {p : Patch} {evf : Bool} :
    fixed (wcStore s core xs line at_ i p evf) = fixed s := by
  unfold wcStore
  grind [fixed_wcSend, fixed]

theorem fixed_gmLoad {at_ : LineAttr} {ch : Nat} : fixed (gmLoad s core pa at_ ch).2 = fixed s := by
  unfold gmLoad
  grind [fixed_dcPut, fixed_homeRead, fixed_dcDrop]

/-! ### Machine/Xlate -/

theorem fixed_walkPut {w : WalkEnt} : fixed (walkPut s w) = fixed s := rfl

theorem fixed_walkFrom {base : Nat} {part : Part} {va fuel L t : Nat} {s : State} :
    fixed (walkFrom base part va fuel L t s).2 = fixed s := by
  induction fuel generalizing L t s with
  | zero => rfl
  | succ fuel ih =>
    unfold walkFrom
    grind [fixed_homeRead, fixed_walkPut]

theorem fixed_walk {base : Nat} {part : Part} : fixed (walk s base part va).2 = fixed s := by
  unfold walk
  grind [fixed_walkFrom]

theorem fixed_tlbPut {t : Tlb} : fixed (tlbPut s t) = fixed s := rfl

theorem fixed_translate : fixed (translate s core part va).2 = fixed s := by
  unfold translate
  grind [fixed_walk, fixed_tlbPut]

theorem fixed_resolve {n : Need} : fixed (resolve s core part n va).2 = fixed s := by
  unfold resolve
  grind [fixed_translate]

/-! ### Machine/Access -/

theorem fixed_locate {z : Nat} {n : Need} {a : Int} : fixed (locate s g space z n a).2 = fixed s := by
  unfold locate
  grind [fixed_resolve]

theorem fixed_loadWord {ch : Nat} {p : Loc} {d : Nat} : fixed (loadWord s g l core ch p d).2 = fixed s := by
  unfold loadWord
  grind [fixed_gmLoad]

theorem fixed_loadWords {s : State} {g l core ch : Nat} {p : Loc} {n : Nat} :
    fixed (loadWords s g l core ch p n).2 = fixed s := by
  induction n with
  | zero => rfl
  | succ n ih => exact fixed_loadWord.trans ih

theorem fixed_storePatch {p : Loc} {d : Nat} {x : Patch} {evf : Bool} :
    fixed (storePatch s g l core p d x evf) = fixed s := by
  unfold storePatch
  grind [fixed_modT, fixed_wcStore, fixed]

theorem fixed_storeWords {p : Loc} : fixed (storeWords s g l core p ws) = fixed s := by
  unfold storeWords
  grind [fixed_storePatch, fixed_foldl_fst]

theorem fixed_releaseAt {scope : Nat} : fixed (releaseAt s core scope) = fixed s := by
  unfold releaseAt
  grind [fixed_flushCore]

theorem fixed_acquireAt {scope : Nat} : fixed (acquireAt s core scope) = fixed s := by
  unfold acquireAt
  grind [fixed_dcDropAll]

theorem fixed_homeWord {p : Loc} : fixed (homeWord s core p).2 = fixed s := by
  unfold homeWord
  grind [fixed_flushLine, fixed_dcDrop, fixed_homeRead]

theorem fixed_homePut {p : Loc} {ps : AList Patch} : fixed (homePut s core p ps) = fixed s := by
  unfold homePut
  grind [fixed_homeWrite, fixed_dcDrop, fixed]

/-! ### Machine/Barrier -/

theorem fixed_setBar {x : Barrier} : fixed (setBar s x) = fixed s := rfl

theorem fixed_barLower {lvl owner : Nat} : fixed (barLower s lvl owner n) = fixed s := by
  unfold barLower
  grind [fixed_setBar, fixed_foldl, fixed]

theorem fixed_regExit {b : Barrier} : fixed (regExit s b) = fixed s := by
  unfold regExit
  grind [fixed]

theorem fixed_barExit {G : Group} {b : Barrier} : fixed (barExit s G b) = fixed s := by
  unfold barExit
  grind [fixed_setBar, fixed_regExit, fixed]

theorem fixed_barExitOf {W : Wg} {G : Group} : fixed (barExitOf s W G) = fixed s := by
  unfold barExitOf
  grind [fixed_barExit, fixed_foldl]

theorem fixed_barExitAll {G : Group} : fixed (barExitAll s G) = fixed s := by
  unfold barExitAll
  grind [fixed_barExitOf]

/-! ### Machine/Life -/

theorem fixed_gangRelease {k : Nat} : fixed (gangRelease s k) = fixed s := by
  unfold gangRelease
  grind [fixed]

theorem fixed_gridEnded {k ix : Nat} : fixed (gridEnded s k ix) = fixed s := by
  unfold gridEnded
  grind [fixed_modGrid, fixed]

theorem fixed_gridGone {k : Nat} : fixed (gridGone s k) = fixed s := by
  unfold gridGone
  grind [fixed_modGrid, fixed]

theorem fixed_setEntries {bank : Nat} {es : AList CbEntry} : fixed (setEntries s core bank es) = fixed s := rfl

theorem fixed_settleWrites {W : Wg} : fixed (settleWrites s W) = fixed s := by
  unfold settleWrites
  grind [fixed_foldl, fixed_setEntries, fixed]

theorem fixed_wgRelease : fixed (wgRelease s wg) = fixed s := by
  unfold wgRelease
  grind [fixed_settleWrites, fixed_gridEnded, fixed_gangRelease, fixed]

theorem fixed_wgEmptied : fixed (wgEmptied s wg) = fixed s := by
  unfold wgEmptied
  grind [fixed_modWg, fixed_wgRelease, fixed]

theorem fixed_endGroup : fixed (endGroup s g) = fixed s := by
  unfold endGroup
  grind [fixed_wgEmptied, fixed_barExitAll, fixed]

theorem fixed_endThread : fixed (endThread s g l) = fixed s := by
  unfold endThread
  grind [fixed_modT, fixed_endGroup, fixed]

theorem fixed_endThreads : fixed (endThreads s g ls) = fixed s := by
  unfold endThreads
  grind [fixed_foldl, fixed_endThread]

theorem fixed_killWgs {sel : Nat → Wg → Bool} : fixed (killWgs s sel) = fixed s := by
  unfold killWgs
  extract_lets gs s1 hit works stays s2 left shadow dead gone s3
  have h1 : fixed s1 = fixed s := fixed_foldl (fun _ _ => fixed_endGroup) _ _
  have h2 : fixed s2 = fixed s1 := fixed_foldl (fun _ _ => fixed_foldl (fun _ _ => fixed_barExitOf) _ _) _ _
  have h3 : fixed s3 = fixed s2 :=
    fixed_gridsMap (F := fun k K => { K with returned := K.returned.filter fun w => !gone k w }) (fun _ _ => rfl) rfl
      rfl
  refine (fixed_foldl (fun s v => ?_) _ _).trans (h3.trans (h2.trans h1))
  grind [fixed_gridEnded, fixed_gangRelease, fixed]

theorem fixed_lowerFor {lvl owner : Nat} : fixed (lowerFor s lvl owner grid n) = fixed s := by
  unfold lowerFor
  grind [fixed_barLower]

theorem fixed_unpend {d : Nat} : fixed (unpend s grid d).2 = fixed s := by
  unfold unpend
  grind [fixed_lowerFor, fixed]

theorem fixed_cancelPending {mask : Byte} : fixed (cancelPending s grid mask) = fixed s := by
  unfold cancelPending
  grind [fixed_unpend, fixed_gridGone, fixed_lowerFor, fixed_foldl]

theorem fixed_cancelGlobal : fixed (cancelGlobal s grid) = fixed s := by
  unfold cancelGlobal
  grind [fixed_foldl, fixed_gridGone, fixed_lowerFor, fixed_modGrid, fixed]

theorem fixed_stopGrid : fixed (stopGrid s grid) = fixed s := by
  unfold stopGrid
  grind [fixed_killWgs, fixed_cancelGlobal, fixed_cancelPending, fixed_modGrid, fixed]

theorem fixed_killUnit {level : Nat} : fixed (killUnit s g level) = fixed s := by
  unfold killUnit
  grind [fixed_endGroup, fixed_killWgs, fixed_modGrid, fixed_cancelPending, fixed_cancelGlobal, fixed_stopGrid,
    fixed_foldl, fixed]

/-! ### Machine/Ops -/

theorem fixed_recordEvent {e : Event} : fixed (recordEvent s grid e) = fixed s := by
  unfold recordEvent
  grind [fixed_modGrid, fixed]

theorem fixed_modQ {k : Nat} {f : Queue → Queue} : fixed (modQ s k f) = fixed s := rfl

theorem fixed_qBack {x : Nat × Word} : fixed (qBack s x) = fixed s := by
  unfold qBack
  grind [fixed_modQ, fixed]

theorem fixed_contain {s : State} {g : Nat} {ls : List Nat} {e : Event} {ign : List (Nat × Ign)} :
    fixed (contain s g ls e ign) = fixed s := by
  unfold contain
  split
  · rfl
  split
  · rfl
  split
  · rfl
  dsimp only
  split
  · split
    · exact (fixed_foldl (fun _ _ => fixed_modT) _ _).trans fixed_recordEvent
    · exact (fixed_foldl (fun _ _ => fixed_modT) _ _).trans
        ((fixed_foldl (fun _ _ => fixed_qBack) _ _).trans fixed_recordEvent)
  · exact fixed_foldl (fun _ _ => fixed_modT) _ _
  · exact fixed_killUnit.trans fixed_recordEvent
  · exact fixed_killUnit.trans fixed_recordEvent

theorem fixed_takeTrap {pc : W64} {ts : List (Nat × Trap × Ign)} : fixed (takeTrap s g pc ts) = fixed s := by
  unfold takeTrap
  grind [fixed_modG, fixed_modT, fixed_contain, fixed_foldl, fixed]

theorem fixed_tretComplete : fixed (tretComplete s g) = fixed s := by
  unfold tretComplete
  grind [fixed_modG, fixed_modT, fixed_endThreads, fixed_foldl, fixed]

theorem fixed_disarm : fixed (disarm s g l cls) = fixed s := by
  unfold disarm
  grind [fixed_modG, fixed]

theorem fixed_writeBack {late psn : Bool} {ds : List Nat} {o : AluOut} :
    fixed (writeBack s g l cls late psn ds o).state = fixed s := by
  unfold writeBack
  grind [fixed_disarm, fixed_modT, LaneRes.state]

theorem fixed_landWords {wide : Bool} {sub : Nat} {tv : Nat → Option W64} {ds : List Nat} :
    fixed (landWords s g l cls wide sub tv ds ws).state = fixed s := by
  unfold landWords
  grind [fixed_disarm, fixed_modT, LaneRes.state]

theorem fixed_retryDone : fixed (retryDone s g l) = fixed s := by
  unfold retryDone
  grind [fixed_modT, fixed_recordEvent, fixed]

theorem fixed_settleLane {i : WordInfo} {r : LaneRes} : fixed (settleLane i g l r).1 = fixed r.state := by
  unfold settleLane
  grind [fixed_modT, fixed_retryDone, LaneRes.state, fixed]

theorem fixed_takeTraps {s0 : State} {lanes : List (Nat × Nat)} {ts : List (Nat × Nat × Trap × Ign)} :
    fixed (takeTraps s0 lanes ts s) = fixed s := by
  unfold takeTraps
  grind [fixed_modT, fixed_takeTrap, fixed_foldl]

/-! ### Machine/Queue -/

theorem fixed_qTake {k : Nat} {q : Queue} : fixed (qTake s g k q).2 = fixed s := by
  unfold qTake
  grind [fixed_acquireAt, fixed_modQ, fixed]

theorem fixed_qPut {k : Nat} {q : Queue} {w : Word} : fixed (qPut s g k q w) = fixed s := by
  unfold qPut
  grind [fixed_modQ, fixed_releaseAt, fixed]

theorem fixed_qWait {k : Nat} {push : Bool} : fixed (qWait s g l k push) = fixed s := by
  unfold qWait
  grind [fixed_modT, fixed_modQ, fixed]

theorem fixed_qUnwait {k : Nat} : fixed (qUnwait s g l k) = fixed s := rfl

theorem fixed_qPopLane {f : Byte} : fixed (qPopLane s g l f).state = fixed s := by
  unfold qPopLane
  grind [fixed_qTake, fixed_qUnwait, fixed_qWait, QRes.state]

theorem fixed_taking {q : List (Nat × Word)} {r : LaneRes} : fixed (LaneRes.taking q r).state = fixed r.state := by
  unfold LaneRes.taking
  grind [LaneRes.state, fixed]

theorem fixed_qPushLane {f : Byte} {w : Word} : fixed (qPushLane s g l f w) = fixed s := by
  unfold qPushLane
  grind [fixed_qPut, fixed_qUnwait]

theorem fixed_qWaitPush {f : Byte} : fixed (qWaitPush s g l f) = fixed s := by
  unfold qWaitPush
  grind [fixed_qWait]

theorem fixed_qFlag {f : Byte} {b : Bool} : fixed (qFlag s g l f b) = fixed s := by
  unfold qFlag
  grind [fixed_modT]

/-! ### Machine/Operands -/

theorem fixed_openHigh {ty : Nat} {w : Word} : fixed (openHigh s ty w).state = fixed s := by
  unfold openHigh
  grind [OpRes.state, fixed]

theorem fixed_popOperand {ty : Nat} {x : Byte} : fixed (popOperand s g l ty x).state = fixed s := by
  unfold popOperand
  grind [fixed_qPopLane, fixed_qFlag, fixed_openHigh, LaneRes.state, QRes.state, OpRes.state]

theorem fixed_readOperand {r : Row} {t : Thread} {i : Nat} : fixed (readOperand r f s g l t i).state = fixed s := by
  unfold readOperand
  grind [fixed_popOperand, fixed_openHigh, LaneRes.state, OpRes.state]

theorem fixed_words {r : Row} {t : Thread} {i : Nat} {s' : State} (e : readOperand r f s g l t i = .words s' ws) :
    fixed s' = fixed s := by
  simpa [e, OpRes.state] using fixed_readOperand (r := r) (f := f) (s := s) (g := g) (l := l) (t := t) (i := i)

theorem fixed_stop {r : Row} {t : Thread} {i : Nat} {x : LaneRes} (e : readOperand r f s g l t i = .stop x) :
    fixed x.state = fixed s := by
  simpa [e, OpRes.state] using fixed_readOperand (r := r) (f := f) (s := s) (g := g) (l := l) (t := t) (i := i)

theorem fixed_pushResult {x : Byte} {r : LaneRes} {ws : Option (List Word)} (h : fixed r.state = fixed s)  : fixed
    (pushResult s g l x r ws).state = fixed s := by
  unfold pushResult
  grind [fixed_qFlag, fixed_qPushLane, fixed_qWaitPush, LaneRes.state]

theorem fixed_popDone {x : Byte} {r : LaneRes} : fixed (popDone g l x r).state = fixed r.state := by
  unfold popDone
  grind [fixed_qFlag, LaneRes.state]

theorem fixed_aluLane {r : Row} {cls : Nat} {run : Ctx → AluOut} {f : FullWord} {s : State} {g l : Nat} :
    fixed (aluLane r cls run f s g l).state = fixed s := by
  unfold aluLane
  split
  · rfl
  split
  · rfl
  dsimp only
  split
  · next e => exact fixed_taking.trans (fixed_stop e)
  next e0 =>
  split
  · next e => exact fixed_taking.trans ((fixed_stop e).trans (fixed_words e0))
  next e1 =>
  split
  · next e => exact fixed_taking.trans ((fixed_stop e).trans ((fixed_words e1).trans (fixed_words e0)))
  next e2 =>
  have h := (fixed_words e2).trans ((fixed_words e1).trans (fixed_words e0))
  split
  · exact (fixed_pushResult fixed_writeBack).trans h
  split
  · exact fixed_popDone.trans (fixed_taking.trans (fixed_writeBack.trans h))
  · exact fixed_writeBack.trans h

/-! ### Machine/LoadStore -/

theorem fixed_memLoad {ty vec ch d : Nat} {bad : Bool} {addr : Int} :
    fixed (memLoad s g l space ty vec ch d bad addr).state = fixed s := by
  unfold memLoad
  grind [fixed_locate, fixed_loadWord, fixed_landWords, fixed_loadWords, LaneRes.state]

theorem fixed_storeParts {p : Loc} {ps : List Patch} {evf : Bool} :
    fixed (storeParts' s g l core p ps evf) = fixed s := by
  unfold storeParts'
  grind [fixed_storePatch, fixed_foldl_fst]

theorem fixed_memStore {ty vec rel : Nat} {bad : Bool} {addr : Int} {evf : Bool} :
    fixed (memStore s g l space ty vec rel ws bad addr evf).state = fixed s := by
  unfold memStore
  grind [fixed_locate, fixed_storeParts, fixed_releaseAt, LaneRes.state]

theorem fixed_loadBody {ix : Bool} {acq : Nat} : fixed (loadBody ix acq f s g l).state = fixed s := by
  unfold loadBody
  grind [fixed_memLoad, fixed_acquireAt, LaneRes.state]

theorem fixed_storeBody {rel : Nat} : fixed (storeBody rel f s g l).state = fixed s := by
  unfold storeBody
  grind [fixed_memStore, LaneRes.state]

/-! ### Machine/Control -/

theorem fixed_braBody {link : Bool} {w : LongWord} : fixed (braBody link w s g l).state = fixed s := by
  unfold braBody
  grind [fixed_modT, LaneRes.state]

theorem fixed_brxBody {rel : Bool} : fixed (brxBody rel f s g l).state = fixed s := by
  unfold brxBody
  grind [LaneRes.state]

theorem fixed_exitBody : fixed (exitBody s g l).state = fixed s := by
  unfold exitBody
  grind [fixed_retryDone, fixed_endGroup, fixed_endThread, LaneRes.state]

theorem fixed_waitBody : fixed (waitBody f s g l).state = fixed s := by
  unfold waitBody
  grind [LaneRes.state]

theorem fixed_tretBody : fixed (tretBody f s g l).state = fixed s := by
  unfold tretBody
  grind [fixed_tretComplete, fixed_modG, LaneRes.state, fixed]

/-! ### Machine/CopyUnit -/

theorem fixed_copyLoc {rd wr : Bool} {k : Int} : fixed (copyLoc s c space rd wr k).2 = fixed s := by
  unfold copyLoc
  grind [fixed_resolve]

theorem fixed_readSide {c : Copy} {space side base : Nat} {wr : Bool} {k : Int} {n : Nat} {w : Work} :
    fixed (readSide c space side base wr k n w).2.s = fixed w.s := by
  induction n generalizing k w with
  | zero => rfl
  | succ n ih =>
    unfold readSide
    grind [fixed_copyLoc, fixed_homeWord]

theorem fixed_readElem {side base : Nat} {wr : Bool} {bit : Int} {w : Work} :
    fixed (readElem c space side base wr bit n w).2.s = fixed w.s := by
  unfold readElem
  grind [fixed_readSide]

theorem fixed_readRow {d : Desc} {sb i : Nat} {w : Work} : fixed (readRow c d sb i w).2.s = fixed w.s := by
  unfold readRow
  grind [fixed_readElem, fixed_foldl_snd_work]

/-! ### Machine/Copy -/

theorem fixed_setTile {x : Tile} : fixed (setTile s x) = fixed s := rfl

theorem fixed_tileIssue {k : CopyKind} : fixed (tileIssue s g k f) = fixed s := by
  unfold tileIssue
  grind [fixed_setTile, fixed]

theorem fixed_pendStatus {id : Nat} {second : Bool} {d : Byte} : fixed (pendStatus s g id second d ls) = fixed s := by
  unfold pendStatus
  grind [fixed_foldl, fixed_modT]

theorem fixed_modCopy {id : Nat} {f : Copy → Copy} : fixed (modCopy s id f) = fixed s := rfl

theorem fixed_addCart {k : CopyKind} {a : Nat} : fixed (addCart k f s g ls a) = fixed s := by
  unfold addCart
  grind [fixed_modCopy, fixed_tileIssue, fixed_pendStatus, fixed]

theorem fixed_copyBody {k : CopyKind} : fixed (copyBody k f s g ls).s = fixed s := by
  unfold copyBody
  grind [fixed_modCopy, fixed_addCart, GroupRes.done, GroupRes.holdAll, GroupRes.trapAll, GroupRes.trapOne, fixed]

theorem fixed_prefetch {d : Desc} : fixed (prefetch c d s) = fixed s := by
  unfold prefetch
  grind [fixed_readRow, fixed_foldl_work]

theorem fixed_cpreBody : fixed (cpreBody f s g ls).s = fixed s := by
  unfold cpreBody
  grind [fixed_acquireAt, fixed_prefetch, GroupRes.done, GroupRes.holdAll, GroupRes.trapOne]

/-! ### Machine/BarrierOps -/

theorem fixed_barPass {r : BarRec} : fixed (barPass f s g ls r).s = fixed s := by
  unfold barPass
  grind [fixed_acquireAt, fixed_modG, fixed_modT, fixed_foldl, GroupRes.trapAll, GroupRes.done]

theorem fixed_barHold {r : BarRec} : fixed (barHold s g ls r).s = fixed s := by
  unfold barHold
  grind [fixed_modG, fixed_modT, fixed_foldl, GroupRes.holdAll]

theorem fixed_barWaitOn {b : Barrier} : fixed (barWaitOn f s g ls b).s = fixed s := by
  unfold barWaitOn
  grind [fixed_barHold, fixed_barPass, GroupRes.done, fixed]

theorem fixed_barApply {b : Barrier} {arr err : Bool} {bytes : Int} :
    fixed (barApply s g b arr err bytes) = fixed s := by
  unfold barApply
  grind [fixed_setBar, fixed_modG, fixed_releaseAt, fixed]

theorem fixed_barArrBody : fixed (barArrBody f s g ls).s = fixed s := by
  unfold barArrBody
  grind [fixed_barApply, GroupRes.done, GroupRes.trapAll]

theorem fixed_barWaitBody : fixed (barWaitBody f s g ls).s = fixed s := by
  unfold barWaitBody
  grind [fixed_barWaitOn, GroupRes.trapAll]

theorem fixed_barSyncBody : fixed (barSyncBody f s g ls).s = fixed s := by
  unfold barSyncBody
  grind [fixed_barWaitOn, fixed_barApply, GroupRes.done, GroupRes.trapAll]

theorem fixed_barExpBody : fixed (barExpBody f s g ls).s = fixed s := by
  unfold barExpBody
  grind [fixed_barApply, GroupRes.done, GroupRes.trapAll, GroupRes.trapOne]

theorem fixed_barStatBody : fixed (barStatBody f s g l).state = fixed s := by
  unfold barStatBody
  grind [fixed_modT, LaneRes.state]

/-! ### Machine/Allot -/

theorem fixed_agrowBody : fixed (agrowBody f s g ls).s = fixed s := by
  unfold agrowBody
  grind [fixed_modT, fixed_modG, fixed_foldl, GroupRes.done, GroupRes.holdAll, fixed]

theorem fixed_ashrinkBody : fixed (ashrinkBody f s g ls).s = fixed s := by
  unfold ashrinkBody
  grind [fixed_modG, GroupRes.done, GroupRes.holdAll]

/-! ### Machine/Atomic -/

theorem fixed_homeWords {p : Loc} : fixed (homeWords s core p n).2 = fixed s := by
  unfold homeWords
  grind [fixed_homeWord, fixed]

theorem fixed_offlineAtom {isRed : Bool} {ds : List Nat} : fixed (offlineAtom isRed s g l n ds).state = fixed s := by
  unfold offlineAtom
  grind [fixed_modT, fixed_landWords, LaneRes.state, fixed]

theorem fixed_atomBody {cas isRed : Bool} {f : FullWord} {s : State} {g l : Nat} :
    fixed (atomBody cas isRed f s g l).state = fixed s := by
  unfold atomBody
  split
  · rfl
  dsimp only
  split
  · rfl
  split
  · next e => exact fixed_of_snd e fixed_locate
  next p s1 e =>
  have h1 : fixed s1 = fixed s := fixed_of_snd e fixed_locate
  have h2 : fixed (if ordOf f / 2 = 1 then releaseAt s1 (coreOf s1 g) (atomScope cas f) else s1) = fixed s :=
    (fixed_when fixed_releaseAt).trans h1
  have h3 := (fixed_homeWords (core := coreOf s1 g) (p := p) (n := nRegs (tyOf f))).trans h2
  generalize homeWords _ (coreOf s1 g) p (nRegs (tyOf f)) = m at h3 ⊢
  split
  · exact fixed_offlineAtom.trans h3
  split
  · split
    · exact fixed_landWords.trans h3
    · split
      · exact h3
      · exact fixed_disarm.trans h3
  split
  · exact h3
  split
  · next s4 e =>
    have h4 : fixed s4 = fixed s := by
      refine (fixed_of_done e).trans ?_
      split
      · exact h3
      · exact fixed_landWords.trans h3
    exact (fixed_when fixed_acquireAt).trans ((fixed_when fixed_modT).trans ((fixed_when fixed_homePut).trans h4))
  · split
    · exact h3
    · exact fixed_landWords.trans h3

/-! ### Machine/Codebook -/

theorem fixed_bankWrite {bank : Nat} {ents : AList CbEntry} : fixed (bankWrite s core bank g ents) = fixed s := rfl

theorem fixed_cbPlaces {s : State} {g l space : Nat} {need : Need} {addr n : Nat} :
    fixed (cbPlaces s g l space need addr n).2 = fixed s := by
  induction n with
  | zero => rfl
  | succ n ih =>
    unfold cbPlaces
    grind [fixed_locate]

theorem fixed_cbMemBody {load : Bool} : fixed (cbMemBody load f s g ls).s = fixed s := by
  unfold cbMemBody
  grind [fixed_cbPlaces, fixed_loadWords, fixed_bankWrite, fixed_storeWords, fixed_foldl, fixed_foldl_snd,
    GroupRes.done, GroupRes.trapOne]

theorem fixed_cbwBody : fixed (cbwBody f s g l).state = fixed s := by
  unfold cbwBody
  grind [fixed_bankWrite, LaneRes.state]

theorem fixed_joinWrites {since : Nat} : fixed (joinWrites since s) = fixed s := by
  unfold joinWrites
  grind [fixed]

theorem fixed_cbinvBody : fixed (cbinvBody f s g ls).s = fixed s := by
  unfold cbinvBody
  grind [fixed_bankWrite, GroupRes.done, GroupRes.trapOne]

theorem fixed_cbfenceBody : fixed (cbfenceBody s g l).state = fixed s := by
  unfold cbfenceBody
  grind [fixed_modT, LaneRes.state, fixed]

/-! ### Machine/Cross -/

theorem fixed_xLand {r : XRes} : fixed (xLand f s g l r).1 = fixed s := by
  unfold xLand
  grind [fixed_disarm, fixed_landWords, fixed_modT, LaneRes.state]

theorem fixed_xBody {k : XOp} {s0 : State} : fixed (xBody k f s0 g ls).s = fixed s0 := by
  unfold xBody
  grind [fixed_xLand, fixed_foldl_group, GroupRes.done, fixed]

/-! ### Machine/MatrixOp -/

theorem fixed_setAcc {a : Acc} : fixed (setAcc s a) = fixed s := rfl

theorem fixed_clearAcc {num : Nat} : fixed (clearAcc s core num) = fixed s := rfl

/-! ### Machine/Tile -/

theorem fixed_tbindBody : fixed (tbindBody f s g ls).s = fixed s := by
  unfold tbindBody
  dsimp only
  repeat' split
  all_goals rfl

theorem fixed_tstateBody : fixed (tstateBody f s g ls).s = fixed s := by
  unfold tstateBody
  grind [fixed_modT, fixed_foldl, GroupRes.done]

theorem fixed_endResume {t : Tile} : fixed (endResume s t) = fixed s := rfl

theorem fixed_tfreeBody : fixed (tfreeBody f s g ls).s = fixed s := by
  unfold tfreeBody
  grind [fixed_endResume, fixed_setTile, GroupRes.done, GroupRes.holdAll, fixed]

/-! ### Machine/Matrix -/

theorem fixed_setCarriage {c : Carriage} : fixed (setCarriage s c) = fixed s := rfl

theorem fixed_subLead {sub : Nat} : fixed (subLead s ls sub).s = fixed s := rfl

theorem fixed_mresBody {f : FullWord} {s : State} {g : Nat} {ls : List Nat} :
    fixed (mresBody f s g ls).s = fixed s := by
  unfold mresBody
  dsimp only
  repeat' split
  all_goals rfl

theorem fixed_mrelBody : fixed (mrelBody f s g ls).s = fixed s := by
  unfold mrelBody
  grind [GroupRes.done, GroupRes.holdAll, fixed]

theorem fixed_mfillBody : fixed (mfillBody f s g ls).s = fixed s := by
  unfold mfillBody
  grind [fixed_subLead, fixed_modT, fixed_foldl, GroupRes.done, GroupRes.holdAll, GroupRes.trapOne, fixed]

theorem fixed_startFetch {id at_ : Nat} : fixed (startFetch s id at_) = fixed s := by
  unfold startFetch
  grind [fixed_setCarriage, fixed]

theorem fixed_enqueue {o : Op} : fixed (enqueue s o) = fixed s := by
  unfold enqueue
  grind [fixed_startFetch, fixed_setCarriage, fixed]

theorem fixed_mmaBody {f : FullWord} {s : State} {g : Nat} {ls : List Nat} :
    fixed (mmaBody f s g ls).s = fixed s := by
  unfold mmaBody
  dsimp only
  split
  · rfl
  split
  · split
    · rfl
    split
    · rfl
    split
    · rfl
    split
    · rfl
    split
    · rfl
    split
    · rfl
    · exact fixed_enqueue.trans rfl
  · rfl

theorem fixed_mtrqBody : fixed (mtrqBody f s g ls).s = fixed s := by
  unfold mtrqBody
  grind [fixed_modT, fixed_enqueue, fixed_foldl, GroupRes.done, GroupRes.holdAll, GroupRes.trapOne, fixed]

theorem fixed_mdrainBody : fixed (mdrainBody f s g ls).s = fixed s := by
  unfold mdrainBody
  grind [fixed_subLead, fixed_setAcc, fixed_modT, fixed_setTile, fixed_clearAcc, GroupRes.done, GroupRes.holdAll,
    GroupRes.trapOne, fixed]

theorem fixed_mzeroBody : fixed (mzeroBody f s g ls).s = fixed s := by
  unfold mzeroBody
  grind [fixed_clearAcc, GroupRes.done, GroupRes.holdAll]

theorem fixed_mqryBody : fixed (mqryBody f s g ls).s = fixed s := by
  unfold mqryBody
  grind [fixed_modT, fixed_foldl, GroupRes.done, GroupRes.holdAll, fixed]

/-! ### Machine/System -/

theorem fixed_latchClock {sel : Nat} : fixed (latchClock sel s g l) = fixed s := by
  unfold latchClock
  grind [fixed_modT]

theorem fixed_srdBody {d sel : Nat} : fixed (srdBody d sel s g l).state = fixed s := by
  unfold srdBody
  grind [fixed_modT, fixed_latchClock, LaneRes.state]

theorem fixed_sinjBody : fixed (sinjBody f s g ls).s = fixed s := by
  unfold sinjBody
  grind [fixed_modG, GroupRes.done, GroupRes.trapOne, fixed]

theorem fixed_gsetBody : fixed (gsetBody f s g ls).s = fixed s := by
  unfold gsetBody
  grind [fixed_modWg, fixed_modT, fixed_foldl, GroupRes.done, GroupRes.holdAll, GroupRes.trapOne, fixed]

/-! ### Machine/Paired -/

theorem fixed_slotRun {o : SlotOp} {x : Slot} : fixed (slotRun o x s g l).state = fixed s := by
  unfold slotRun
  grind [fixed_memLoad, fixed_memStore, fixed_srdBody, fixed_writeBack, LaneRes.state]

theorem fixed_outcomeOf {r : LaneRes} : fixed (outcomeOf r).1 = fixed r.state := by
  unfold outcomeOf
  grind [LaneRes.state]

theorem fixed_pairBody {ox : SlotOp} {p : PairWord} : fixed (pairBody ox p s g l).state = fixed s := by
  unfold pairBody
  grind [fixed_outcomeOf, fixed_slotRun, fixed_modG, LaneRes.state, fixed]

/-! ### Machine/QueueOps -/

theorem fixed_qpushBody : fixed (qpushBody f s g l).state = fixed s := by
  unfold qpushBody
  grind [fixed_qFlag, fixed_qPushLane, fixed_qWaitPush, LaneRes.state]

theorem fixed_qLand {w : Word} {a : W64} {empty : Bool} : fixed (qLand cls f s g l w a empty).state = fixed s := by
  unfold qLand
  grind [fixed_landWords, fixed_qFlag, LaneRes.state]

theorem fixed_qpopBody : fixed (qpopBody f s g l).state = fixed s := by
  unfold qpopBody
  grind [fixed_qPopLane, fixed_qLand, fixed_taking, LaneRes.state, QRes.state]

theorem fixed_qpeekBody {s0 : State} : fixed (qpeekBody f s0 s g l).state = fixed s := by
  unfold qpeekBody
  grind [fixed_qLand, LaneRes.state]

/-! ### Machine/Sync -/

theorem fixed_fenceBody : fixed (fenceBody f s g l).state = fixed s := by
  unfold fenceBody
  grind [fixed_acquireAt, fixed_releaseAt, LaneRes.state]

theorem fixed_putRec {scope : Nat} {xs : Bool} : fixed (putRec_ s core scope xs line) = fixed s := rfl

theorem fixed_syncWait {w : SyncWait} : fixed (syncWait s g l w) = fixed s := by
  unfold syncWait
  grind [fixed_modT, fixed]

theorem fixed_dropWait : fixed (dropWait s g l) = fixed s := rfl

theorem fixed_syncPlace {rel : Bool} {t : Thread} : fixed (syncPlace rel f s g l t).2 = fixed s := by
  unfold syncPlace
  grind [fixed_locate]

theorem fixed_putState {p : Loc} {v : W32} : fixed (putState s core p v) = fixed s := by
  unfold putState
  grind [fixed_homePut]

theorem fixed_sacqBody {try_ : Bool} : fixed (sacqBody try_ f s g l).state = fixed s := by
  unfold sacqBody
  grind [fixed_syncPlace, fixed_homeWord, fixed_modT, fixed_putState, fixed_acquireAt, fixed_dropWait, fixed_syncWait,
    LaneRes.state]

theorem fixed_srelBody : fixed (srelBody f s g l).state = fixed s := by
  unfold srelBody
  grind [fixed_syncPlace, fixed_releaseAt, fixed_homeWord, fixed_putRec, fixed_putState, LaneRes.state]

theorem fixed_cacheLine {at_ : LineAttr} : fixed (cacheLine op f core at_ line s) = fixed s := by
  unfold cacheLine
  grind [fixed_flushLine, fixed_dcDrop, fixed_l2Drop, fixed_l2Clean, fixed_gmLoad, fixed_homeRead, fixed]

theorem fixed_cacheLines {user : Bool} {a : Nat} : fixed (cacheLines op f core part user a n s) = fixed s := by
  unfold cacheLines
  grind [fixed_flushLine, fixed_resolve, fixed_cacheLine, fixed_foldl]

theorem fixed_cacheBody : fixed (cacheBody op f s g l).state = fixed s := by
  unfold cacheBody
  grind [fixed_cacheLines, LaneRes.state]

/-! ### Words issued lane by lane and group by group -/

section

variable {i : WordInfo} {pre : State → Nat → Nat → Option Trap}

theorem fixed_issueLanes_of_coach {body : State → Nat → Nat → LaneRes} {c : Coach} (hc : s.coach = some c) :
    fixed (issueLanes i pre body s) = fixed (runLanes i pre body c.lanes (taken s)).1 := by
  unfold issueLanes
  rw [hc]
  exact fixed_takeTraps

/-- What the body of a word keeps in a lane that passes checks 1 to 5, the lane keeps. -/
theorem laneStep_inv {I : State → Prop} {body : State → Nat → Nat → LaneRes}
    (hb : pre s g l = none → I (body s g l).state) (h : I s) : I (laneStep i pre body s g l).state := by
  unfold laneStep headTrap
  grind [LaneRes.state]

/-- What the body of a word and the settling of a lane keep, a run through the coach's lanes keeps. -/
theorem runLanes_inv {I : State → Prop} {body : State → Nat → Nat → LaneRes}
    (hs : ∀ g l r, I r.state → I (settleLane i g l r).1) (ls : List (Nat × Nat))
    (hb : ∀ x ∈ ls, ∀ s, I s → pre s x.1 x.2 = none → I (body s x.1 x.2).state) {s : State} (h : I s) :
    I (runLanes i pre body ls s).1 := by
  induction ls generalizing s with
  | nil => exact h
  | cons x r ih =>
    refine ih (fun y hy => hb y (List.mem_cons_of_mem x hy)) (hs _ _ _ (laneStep_inv (fun hp => ?_) h))
    exact hb x List.mem_cons_self s h hp

/-- A part of `Fixed` that the body of a word keeps, the word keeps. -/
theorem fixed_issueLanes_by {α : Type} (φ : Fixed → α) {body : State → Nat → Nat → LaneRes}
    (hb : ∀ s g l, φ (fixed (body s g l).state) = φ (fixed s)) :
    φ (fixed (issueLanes i pre body s)) = φ (fixed s) := by
  cases hc : s.coach with
  | none => rw [issueLanes, hc]
  | some c =>
    rw [fixed_issueLanes_of_coach hc]
    refine runLanes_inv (I := fun s' => φ (fixed s') = φ (fixed s)) (fun g l r h => ?_) _ (fun x _ s' h _ => ?_) rfl
    · rw [fixed_settleLane, h]
    · rw [hb, h]

theorem fixed_issueLanes {body : State → Nat → Nat → LaneRes} (hb : ∀ s g l, fixed (body s g l).state = fixed s) :
    fixed (issueLanes i pre body s) = fixed s :=
  fixed_issueLanes_by id hb

theorem fixed_groupStep {body : State → Nat → List Nat → GroupRes} (hb : ∀ s g ls, fixed (body s g ls).s = fixed s) :
    fixed (groupStep i pre body g ls s).1 = fixed s := by
  have hset {i g l r} : fixed (settleLane i g l r).1 = fixed r.state := fixed_settleLane
  unfold groupStep
  grind [fixed_foldl, LaneRes.state]

theorem fixed_issueGroups {body : State → Nat → List Nat → GroupRes}
    (hb : ∀ s g ls, fixed (body s g ls).s = fixed s) : fixed (issueGroups i pre body s) = fixed s := by
  unfold issueGroups
  split
  · rfl
  · refine fixed_takeTraps.trans (fixed_foldl_fst (fun _ _ => ?_) _ _)
    exact fixed_groupStep hb

end

/-- The outcome of a step, if it has a next state, keeps what no program changes. -/
def KeepsFixed (s : State) (o : Host.Outcome State Fault Refusal) : Prop := ∀ s', o = .next s' → fixed s' = fixed s

theorem keepsFixed_next {s s' : State} (h : fixed s' = fixed s) : KeepsFixed s (.next s') := by
  rintro _ ⟨⟩
  exact h

theorem issueLong_keepsFixed {noA : Bool} {run : List Word → List Word → AluOut} {w : LongWord} :
    KeepsFixed s (issueLong cls noA run w s) := by
  refine keepsFixed_next (fixed_issueLanes fun s g l => ?_)
  split
  · rfl
  · exact fixed_writeBack

theorem issueR75_keepsFixed {row : FullWord → Row} {run : Ctx → AluOut} : KeepsFixed s (issueR75 row cls run f s) :=
  keepsFixed_next (fixed_issueLanes fun _ _ _ => fixed_aluLane)

theorem issueMem_keepsFixed {load sync ix : Bool} {body : FullWord → State → Nat → Nat → LaneRes}
    (hb : ∀ s g l, fixed (body f s g l).state = fixed s) : KeepsFixed s (issueMem load sync ix body f s) :=
  keepsFixed_next (fixed_issueLanes hb)

theorem issueAtom_keepsFixed {cas isRed : Bool} : KeepsFixed s (issueAtom cas isRed f s) :=
  keepsFixed_next (fixed_issueLanes fun _ _ _ => fixed_atomBody)

theorem issueCopy_keepsFixed {k : CopyKind} : KeepsFixed s (issueCopy k f s) :=
  keepsFixed_next (fixed_issueGroups fun _ _ _ => fixed_copyBody)

theorem issueCache_keepsFixed : KeepsFixed s (issueCache op f s) :=
  keepsFixed_next (fixed_issueLanes fun _ _ _ => fixed_cacheBody)

theorem issueCross_keepsFixed {k : XOp} : KeepsFixed s (issueCross k f s) :=
  keepsFixed_next (fixed_issueGroups fun _ _ _ => fixed_xBody)

theorem issuePair_keepsFixed {ox : SlotOp} {p : PairWord} : KeepsFixed s (issuePair ox p s) :=
  keepsFixed_next (fixed_issueLanes fun _ _ _ => fixed_pairBody)

/-- Every instruction that has a word, save `swr`: lane by lane or group by group, its body keeps what is fixed. -/
theorem exec_keepsFixed {i : Instr} {w : W64} (h : encode i = some w) (hs : ∀ f, i ≠ .swr f) :
    KeepsFixed s (exec i s) := by
  cases i with
  | swr f => exact absurd rfl (hs f)
  | add _ | sub _ | addc _ | subb _ | mul _ | mulh _ | mulw _ | mad _ | madh _ | div _ | rem _ | neg _ | abs _
  | min _ | max _ | clamp _ | sadd _ | ssub _ | dot2s _ | sad _ | and _ | or _ | xor _ | not _ | lop3 _ | shl _
  | shr _ | sar _ | rot _ | shf _ | rshr _ | bext _ | bins _ | bmsk _ | brev _ | popc _ | clz _ | ctz _ | perm _
  | sext _ | zext _ | setc _ | sel _ | mov _ | pset _ | pand _ | por _ | pxor _ | pnot _ | fadd _ | fsub _ | fmul _
  | ffma _ | fmin _ | fmax _ | fcmp _ | fclass _ | fcopysign _ | fscale _ | frnd _ | fdot2 _ | frcp _ | frsq _
  | fsqrt _ | fdiv _ | fexp2 _ | flog2 _ | fsin _ | fcos _ | ftanh _ | fsigm _ | cvt _ | cvti _ | cvtx _ =>
    exact issueR75_keepsFixed
  | ld _ | ldx _ | lda _ => exact issueMem_keepsFixed fun _ _ _ => fixed_loadBody
  | st _ | stl _ => exact issueMem_keepsFixed fun _ _ _ => fixed_storeBody
  | atom _ | acas _ | red _ => exact issueAtom_keepsFixed
  | tbind _ => exact keepsFixed_next (fixed_issueGroups fun _ _ _ => fixed_tbindBody)
  | tstate _ => exact keepsFixed_next (fixed_issueGroups fun _ _ _ => fixed_tstateBody)
  | tdrain _ | cpy _ | cpyc _ | gath _ | scat _ | cpys _ =>
    exact issueCopy_keepsFixed
  | tfree _ => exact keepsFixed_next (fixed_issueGroups fun _ _ _ => fixed_tfreeBody)
  | cpre _ => exact keepsFixed_next (fixed_issueGroups fun _ _ _ => fixed_cpreBody)
  | fence _ => exact keepsFixed_next (fixed_issueLanes fun _ _ _ => fixed_fenceBody)
  | sacq _ | stry _ => exact keepsFixed_next (fixed_issueLanes fun _ _ _ => fixed_sacqBody)
  | srel _ => exact keepsFixed_next (fixed_issueLanes fun _ _ _ => fixed_srelBody)
  | cinv _ | cwb _ | chint _ => exact issueCache_keepsFixed
  | cbld _ | cbst _ => exact keepsFixed_next (fixed_issueGroups fun _ _ _ => fixed_cbMemBody)
  | cbw _ => exact keepsFixed_next (fixed_joinWrites.trans (fixed_issueLanes fun _ _ _ => fixed_cbwBody))
  | cbinv _ => exact keepsFixed_next (fixed_issueGroups fun _ _ _ => fixed_cbinvBody)
  | cbfence _ => exact keepsFixed_next (fixed_issueLanes fun _ _ _ => fixed_cbfenceBody)
  | bra _ | call _ => exact keepsFixed_next (fixed_issueLanes fun _ _ _ => fixed_braBody)
  | brx _ | ret _ => exact keepsFixed_next (fixed_issueLanes fun _ _ _ => fixed_brxBody)
  | exit _ => exact keepsFixed_next (fixed_issueLanes fun _ _ _ => fixed_exitBody)
  | yield _ | nop _ | trap _ | unassignedOpcode _ => exact keepsFixed_next (fixed_issueLanes fun _ _ _ => rfl)
  | wait _ => exact keepsFixed_next (fixed_issueLanes fun _ _ _ => fixed_waitBody)
  | barArr _ => exact keepsFixed_next (fixed_issueGroups fun _ _ _ => fixed_barArrBody)
  | barWait _ => exact keepsFixed_next (fixed_issueGroups fun _ _ _ => fixed_barWaitBody)
  | barSync _ => exact keepsFixed_next (fixed_issueGroups fun _ _ _ => fixed_barSyncBody)
  | barExp _ => exact keepsFixed_next (fixed_issueGroups fun _ _ _ => fixed_barExpBody)
  | barStat _ => exact keepsFixed_next (fixed_issueLanes fun _ _ _ => fixed_barStatBody)
  | xshf _ | xred _ | xscan _ | xvote _ | xmatch _ | xelect _ | xbpc _ =>
    exact issueCross_keepsFixed
  | qpush _ => exact keepsFixed_next (fixed_issueLanes fun _ _ _ => fixed_qpushBody)
  | qpop _ => exact keepsFixed_next (fixed_issueLanes fun _ _ _ => fixed_qpopBody)
  | qpeek _ => exact keepsFixed_next (fixed_issueLanes fun _ _ _ => fixed_qpeekBody)
  | agrow _ => exact keepsFixed_next (fixed_issueGroups fun _ _ _ => fixed_agrowBody)
  | ashrink _ => exact keepsFixed_next (fixed_issueGroups fun _ _ _ => fixed_ashrinkBody)
  | tret _ => exact keepsFixed_next (fixed_issueLanes fun _ _ _ => fixed_tretBody)
  | sinj _ => exact keepsFixed_next (fixed_issueGroups fun _ _ _ => fixed_sinjBody)
  | srd _ => exact keepsFixed_next (fixed_issueLanes fun _ _ _ => fixed_srdBody)
  | gset _ => exact keepsFixed_next (fixed_issueGroups fun _ _ _ => fixed_gsetBody)
  | mres _ => exact keepsFixed_next (fixed_issueGroups fun _ _ _ => fixed_mresBody)
  | mrel _ => exact keepsFixed_next (fixed_issueGroups fun _ _ _ => fixed_mrelBody)
  | mfill _ => exact keepsFixed_next (fixed_issueGroups fun _ _ _ => fixed_mfillBody)
  | mma _ => exact keepsFixed_next (fixed_issueGroups fun _ _ _ => fixed_mmaBody)
  | mtrq _ => exact keepsFixed_next (fixed_issueGroups fun _ _ _ => fixed_mtrqBody)
  | mdrain _ => exact keepsFixed_next (fixed_issueGroups fun _ _ _ => fixed_mdrainBody)
  | mzero _ => exact keepsFixed_next (fixed_issueGroups fun _ _ _ => fixed_mzeroBody)
  | mqry _ => exact keepsFixed_next (fixed_issueGroups fun _ _ _ => fixed_mqryBody)
  | movi w => exact (issueLong_keepsFixed : KeepsFixed s (execMovi w s))
  | addLong w => exact (issueLong_keepsFixed : KeepsFixed s (execAddLong w s))
  | mulLong w => exact (issueLong_keepsFixed : KeepsFixed s (execMulLong w s))
  | andLong w => exact (issueLong_keepsFixed : KeepsFixed s (execAndLong w s))
  | orLong w => exact (issueLong_keepsFixed : KeepsFixed s (execOrLong w s))
  | xorLong w => exact (issueLong_keepsFixed : KeepsFixed s (execXorLong w s))
  | pairedAdd _ | pairedSub _ | pairedMul _ | pairedMinI32 _ | pairedMaxI32 _ | pairedMinN32 _ | pairedMaxN32 _
  | pairedAnd _ | pairedOr _ | pairedXor _ | pairedShl _ | pairedShr _ | pairedSar _ | pairedPopc _ | pairedClz _
  | pairedMov _ | pairedAddImm _ | pairedAndImm _ | pairedOrImm _ | pairedXorImm _ | pairedShlImm _
  | pairedShrImm _ | pairedSarImm _ | pairedFaddF32 _ | pairedFsubF32 _ | pairedFmulF32 _ | pairedFminF32 _
  | pairedFmaxF32 _ | pairedFaddF16x2 _ | pairedFmulF16x2 _ | pairedFaddBf16x2 _ | pairedFmulBf16x2 _
  | pairedCvtF32I32 _ | pairedCvtI32F32 _ | pairedLdCs _ | pairedStCs _ | pairedLdKs _ | pairedStKs _
  | pairedLdLp _ | pairedStLp _ | pairedSrd _ | pairedPand _ | pairedPor _ | pairedPxor _ | pairedPnot _
  | pairedSetcEq _ | pairedSetcNe _ | pairedSetcLtI32 _ | pairedSetcLtN32 _ | pairedSetcLeI32 _ | pairedSetcLeN32 _ =>
    exact issuePair_keepsFixed
  | _ => exact nomatch h

/-! ### swr (R223) -/

/-- A descriptor without its trap vector. -/
def KDesc.sansTvec (D : KDesc) : KDesc := { D with tvec := 0 }

/-- What is fixed where a supervisor writes the trap vector of a kernel: all but the vectors. -/
def Fixed.sansTvec (F : Fixed) : Fixed := { F with kd := fun k => (F.kd k).map KDesc.sansTvec }

theorem sansTvec_modGrid {k : Nat} {F : Grid → Grid} (hF : ∀ K, (F K).kd.sansTvec = K.kd.sansTvec) :
    (fixed (modGrid s k F)).sansTvec = (fixed s).sansTvec := by
  have hk (j : Nat) := kd_amod KDesc.sansTvec hF s.grids k j
  simp only [Fixed.sansTvec, fixed, modGrid_grids, Option.map_map, Function.comp_def, hk]
  rfl

theorem sansTvec_specialWrite {sel : Nat} {v : W32} :
    (fixed (specialWrite s g l sel v)).sansTvec = (fixed s).sansTvec := by
  unfold specialWrite
  dsimp only
  split
  case h_4 | h_5 =>
    split
    · exact sansTvec_modGrid fun _ => rfl
    · rfl
  all_goals rfl

theorem sansTvec_swrBody : (fixed (swrBody f s g l).state).sansTvec = (fixed s).sansTvec := by
  unfold swrBody
  grind [sansTvec_specialWrite, LaneRes.state]

/-- At user level the checks of `swr` pass the sticky bits and the seed alone (R30, R223). -/
theorem selector_of_userWrite {subs : List Nat} {reg : Byte} {sel : Nat} (hu : isUser s g l = true)
    (h : specialPre true subs reg sel s g l = none) : sel = 0x17 ∨ sel = 0x18 := by
  by_contra hs
  have ht : specialTrap true true sel = some (trapOf causePrivilege) ∨
      specialTrap true true sel = some (trapOf causeIllegalOperand 0x0A) := by
    unfold specialTrap
    grind
  rw [specialPre, hu] at h
  rcases ht with e | e <;>
    simp [e, trapOf, causePrivilege, causeIllegalOperand, subTrap] at h

theorem fixed_swrBody_of_user (hu : isUser s g l = true)
    (h : specialPre true (swrSubs f) f.b f.a.toNat s g l = none) : fixed (swrBody f s g l).state = fixed s := by
  unfold swrBody
  have hw (v : W32) : fixed (specialWrite s g l f.a.toNat v) = fixed s := by
    rcases selector_of_userWrite hu h with e | e <;> rw [e] <;> exact fixed_modT
  grind [LaneRes.state]

theorem isUser_modGrid {k : Nat} {F : Grid → Grid} : isUser (modGrid s k F) = isUser s := rfl

theorem isUser_modT {F : Thread → Thread} : isUser (modT s g l F) = isUser s := by
  funext h k
  unfold isUser modT
  rw [getG_modG]
  split
  · next e => subst e; cases getG s h <;> rfl
  · rfl

theorem isUser_settleLane {i : WordInfo} {r : LaneRes} : isUser (settleLane i g l r).1 = isUser r.state := by
  have hr (s : State) : isUser (retryDone s g l) = isUser s := by
    unfold retryDone recordEvent
    grind [isUser_modT, isUser_modGrid]
  unfold settleLane
  grind [isUser_modT, LaneRes.state]

theorem isUser_swrBody (hu : isUser s g l = true)
    (h : specialPre true (swrSubs f) f.b f.a.toNat s g l = none) : isUser (swrBody f s g l).state = isUser s := by
  unfold swrBody
  have hw (v : W32) : isUser (specialWrite s g l f.a.toNat v) = isUser s := by
    rcases selector_of_userWrite hu h with e | e <;> rw [e] <;> exact isUser_modT
  grind [LaneRes.state]

theorem fixed_swr_of_user (hu : ∀ c, s.coach = some c → ∀ x ∈ c.lanes, isUser s x.1 x.2 = true) :
    KeepsFixed s (exec (.swr f) s) := by
  refine keepsFixed_next ?_
  cases hc : s.coach with
  | none => rw [issueLanes, hc]
  | some c =>
    rw [fixed_issueLanes_of_coach hc]
    have hI : fixed (taken s) = fixed s ∧ isUser (taken s) = isUser s := ⟨rfl, rfl⟩
    refine (runLanes_inv (I := fun s' => fixed s' = fixed s ∧ isUser s' = isUser s) (fun g l r h => ?_) _
      (fun x hx s' h hp => ?_) hI).1
    · exact ⟨fixed_settleLane.trans h.1, isUser_settleLane.trans h.2⟩
    · have hx' : isUser s' x.1 x.2 = true := by rw [h.2]; exact hu c hc x hx
      exact ⟨(fixed_swrBody_of_user hx' hp).trans h.1, (isUser_swrBody hx' hp).trans h.2⟩

/-- Every word leaves all that is fixed but the trap vectors. -/
theorem sansTvec_exec {i : Instr} {w : W64} {s' : State} (h : encode i = some w) (e : exec i s = .next s') :
    (fixed s').sansTvec = (fixed s).sansTvec := by
  by_cases hs : ∃ f, i = .swr f
  · obtain ⟨f, rfl⟩ := hs
    obtain rfl : _ = s' := Host.Outcome.next.inj e
    exact fixed_issueLanes_by Fixed.sansTvec fun _ _ _ => sansTvec_swrBody
  · rw [exec_keepsFixed h (fun f hf => hs ⟨f, hf⟩) s' e]

/-- A word that no lane of the coach issues at supervisor level leaves all that is fixed. -/
theorem fixed_exec_of_user {i : Instr} {w : W64} {s' : State} (h : encode i = some w) (e : exec i s = .next s')
    (hu : ∀ c, s.coach = some c → ∀ x ∈ c.lanes, isUser s x.1 x.2 = true) : fixed s' = fixed s := by
  by_cases hs : ∃ f, i = .swr f
  · obtain ⟨f, rfl⟩ := hs
    exact fixed_swr_of_user hu s' e
  · exact exec_keepsFixed h (fun f hf => hs ⟨f, hf⟩) s' e

theorem isUser_of_forall (h : ∀ G, getG s g = some G → isSuper G l = false) : isUser s g l = true := by
  unfold isUser
  cases hG : getG s g with
  | none => rfl
  | some G => simp [h G hG]

theorem kd_of_fixed {s' : State} (h : fixed s' = fixed s) {k : Nat} {K' : Grid} (hk : aget s'.grids k = some K') :
    ∃ K, aget s.grids k = some K ∧ K'.kd = K.kd := by
  have hd : (aget s.grids k).map (·.kd) = some K'.kd := by
    have := congrFun (congrArg Fixed.kd h) k
    simpa [fixed, hk] using this.symm
  obtain ⟨K, hK, e⟩ := Option.map_eq_some_iff.mp hd
  exact ⟨K, hK, e.symm⟩

theorem kd_of_sansTvec {s' : State} (h : (fixed s').sansTvec = (fixed s).sansTvec) {k : Nat} {K' : Grid}
    (hk : aget s'.grids k = some K') : ∃ K, aget s.grids k = some K ∧ { K'.kd with tvec := K.kd.tvec } = K.kd := by
  have hd : (aget s.grids k).map (·.kd.sansTvec) = some K'.kd.sansTvec := by
    have := congrFun (congrArg Fixed.kd h) k
    simpa [Fixed.sansTvec, fixed, hk] using this.symm
  obtain ⟨K, hK, e⟩ := Option.map_eq_some_iff.mp hd
  exact ⟨K, hK, (congrArg (fun D : KDesc => { D with tvec := K.kd.tvec }) e).symm⟩

end

end Sys2Proof.Machine

namespace Sys2Proof

open Machine in
/-- Settles O26: every word keeps `fixed` but for trap vectors, and wholly where no lane is at supervisor level. -/
theorem programBounds : Obligations.ProgramBounds := by
  unfold Obligations.ProgramBounds
  intro i w s s' h e
  have hf := sansTvec_exec h e
  simp only [Fixed.sansTvec, fixed, Fixed.mk.injEq] at hf
  obtain ⟨hcycle, hepoch, hparts, hstreams, htasks, hkeys, hpod, hsession, hjob, hpower, hflash, -⟩ := hf
  refine ⟨⟨hcycle, hepoch, hparts, hstreams, htasks⟩, ⟨hkeys, hpod, hsession, hjob, hpower, hflash⟩,
    fun _ _ => kd_of_sansTvec (sansTvec_exec h e), fun hu _ _ => kd_of_fixed (fixed_exec_of_user h e ?_)⟩
  exact fun c hc x hx => isUser_of_forall (hu c hc x hx)

end Sys2Proof

end

section

/-! PROOF. v255 (O41), and residues as sums of digits (O42). -/

namespace Sys2Proof.Machine

/-! ### v255 (R12) -/

theorem regTrap_v255 (n : Nat) : regTrap n [255] = none := by
  simp [regTrap, outOfBound]

theorem readV_v255 (t : Thread) : readV t 255 = .zero := rfl

theorem writeV_v255 (t : Thread) (w : Word) : writeV t 255 w = t := rfl

theorem landV_v255 (t : Thread) (w : Word) : landV t 255 w = t := rfl

/-! ### Residues (R24, R25) -/

theorem resOf_toNat (x : W32) : (resOf x).toNat = x.toNat % 15 := by
  rw [resOf, BitVec.toNat_ofNat, Nat.mod_eq_of_lt (by omega)]

/-- A legal residue is not the code of poison. -/
theorem resOf_ne_poison (x : W32) : resOf x ≠ 0xF := by
  intro h
  have hx : x.toNat % 15 = 15 := by rw [← resOf_toNat, h]; rfl
  omega

theorem isPoison_iff (w : Word) : isPoison w = true ↔ w.res = 0xF := by
  simp [isPoison]

theorem isPoison_gen (x : W32) : isPoison (gen x) = false := by
  rw [← Bool.not_eq_true, isPoison_iff]
  exact resOf_ne_poison x

theorem mismatch_gen (x : W32) : mismatch (gen x) = false := by
  simp [mismatch, agrees, gen]

/-- The first `n` digits of a number to a base that is 1 modulo 15, as far as the number has them, are it modulo 15. -/
theorem sum_digits_mod (b : Nat) (hb : b % 15 = 1) (n x : Nat) :
    ((List.range n).map fun i => x / b ^ i % b).sum % 15 = x % b ^ n % 15 := by
  induction n with
  | zero => simp [Nat.mod_one]
  | succ n ih =>
    have hp : b ^ n % 15 = 1 := by rw [Nat.pow_mod, hb, Nat.one_pow]
    have hd : b ^ n * (x / b ^ n % b) % 15 = x / b ^ n % b % 15 := by rw [Nat.mul_mod, hp, Nat.one_mul, Nat.mod_mod]
    rw [List.range_succ, List.map_append, List.sum_append, List.map_singleton, List.sum_singleton, Nat.mod_pow_succ]
    omega

/-- The same of the residues of the digits. -/
theorem sum_digits_mod_mod (b : Nat) (hb : b % 15 = 1) (n x : Nat) :
    ((List.range n).map fun i => x / b ^ i % b % 15).sum % 15 = x % b ^ n % 15 := by
  rw [← sum_digits_mod b hb]
  simpa [Function.comp_def] using (Multiset.sum_nat_mod ((List.range n).map fun i => x / b ^ i % b : Multiset Nat) 15).symm

theorem gen_res_toNat (x : W32) : (gen x).res.toNat = x.toNat % 15 := resOf_toNat x

end Sys2Proof.Machine

namespace Sys2Proof

open Machine in
/-- Settles O41: 255 is the index that no write reaches and no bound refuses. -/
theorem zeroRegister : Obligations.ZeroRegister := by
  unfold Obligations.ZeroRegister
  intro t n w v
  exact ⟨regTrap_v255 n, readV_v255 t, writeV_v255 t w, landV_v255 t w, writeV_v255 _ _⟩

open Machine in
/-- Settles O42: 16, 256 and 65,536 are 1 modulo 15, so that the digits to these bases sum to the residue. -/
theorem residues : Obligations.Residues := by
  unfold Obligations.Residues
  refine ⟨fun x => ?_, isPoison_iff, rfl⟩
  have hx : x.toNat % 2 ^ 32 = x.toNat := Nat.mod_eq_of_lt x.isLt
  refine ⟨rfl, gen_res_toNat x, isPoison_gen x, mismatch_gen x, ?_, ?_, ?_⟩
  · rw [gen_res_toNat, sum_digits_mod 16 rfl, ← Nat.pow_mul 2 4 8, hx]
  · rw [gen_res_toNat, sum_digits_mod_mod 256 rfl, ← Nat.pow_mul 2 8 4, hx]
  · rw [gen_res_toNat, sum_digits_mod_mod 65536 rfl, ← Nat.pow_mul 2 16 2, hx]

end Sys2Proof

end

section

/-! PROOF. The instructions of opcode groups 0x0 to 0x4 (O11): by `r75Op` they all issue through `aluLane`. -/

namespace Sys2Proof.Machine

/-- A word that ends its run by its marker alone stands within the limit of R71 as its marker says. -/
theorem atWord_ends {i : WordInfo} {s : State} {g l : Nat} {t : Thread} (he : i.ender = false)
    (hw : AtWord s g l t i.pred i.s) : AtWord s g l t i.pred i.ends := by
  rwa [WordInfo.ends, he, Bool.or_false]

/-- The words of R75 are issued alike; only the row, the class and the arithmetic differ. -/
theorem exec_of_r75Op {i : Instr} {op : R75Op} (h : r75Op i = some op) (s : State) :
    exec i s = .next (issueLanes { infoOf op.f with dest := r75Dest op.row op.f } (r75Pre op.row op.f)
      (aluLane op.row op.cls op.run op.f) s) := by
  cases i with
  | add _ | sub _ | addc _ | subb _ | mul _ | mulh _ | mulw _ | mad _ | madh _ | div _ | rem _ | neg _ | abs _
  | min _ | max _ | clamp _ | sadd _ | ssub _ | dot2s _ | sad _ | and _ | or _ | xor _ | not _ | lop3 _ | shl _
  | shr _ | sar _ | rot _ | shf _ | rshr _ | bext _ | bins _ | bmsk _ | brev _ | popc _ | clz _ | ctz _ | perm _
  | sext _ | zext _ | setc _ | sel _ | mov _ | pset _ | pand _ | por _ | pxor _ | pnot _ | fadd _ | fsub _ | fmul _
  | ffma _ | fmin _ | fmax _ | fcmp _ | fclass _ | fcopysign _ | fscale _ | frnd _ | fdot2 _ | frcp _ | frsq _
  | fsqrt _ | fdiv _ | fexp2 _ | flog2 _ | fsin _ | fcos _ | ftanh _ | fsigm _ | cvt _ | cvti _ | cvtx _ =>
    obtain rfl := Option.some.inj h
    rfl
  | _ => exact nomatch h

/-- The poison of a word's operands, its further registers and its predicates among them (R28). -/
def operandsPoisoned (r : Row) (t : Thread) (ws : List Word) : Bool :=
  ws.any isPoison || (r.regs.any fun n => isPoison (readV t n)) || r.preds.any fun p => (readP t p).psn

section

variable {r : Row} {cls : Nat} {run : Ctx → AluOut} {f : FullWord} {s s1 s2 s3 : State} {g l : Nat} {t : Thread}
  {ds : List Nat} {a b c ws : List Word}

/-- The own part of an instruction of R75 that does not push, once its operands are read: write-back, and the end of a pop. -/
theorem aluLane_of_operands (ht : getT s g l = some t) (hp : omodeOf f ≠ 4 ∨ oselOf f ≠ 3)
    (hd : destRegs r f (nreqOf s g) t = .ok ds) (ha : readOperand r f s g l t 0 = .words s1 a)
    (hb : readOperand r f s1 g l t 1 = .words s2 b) (hc : readOperand r f s2 g l t 2 = .words s3 c) :
    aluLane r cls run f s g l =
      if popsQueue f then popDone g l (fieldAt f (oselOf f)) ((writeBack s3 g l cls true
        (operandsPoisoned r t (a ++ b ++ c)) ds (run ⟨f, a, b, c, t⟩)).taking (qTaken s g (fieldAt f (oselOf f))))
      else writeBack s3 g l cls false (operandsPoisoned r t (a ++ b ++ c)) ds (run ⟨f, a, b, c, t⟩) := by
  have hpush : (omodeOf f == 4 && oselOf f == 3) = false := by simpa [Decidable.imp_iff_not_or] using hp
  unfold aluLane
  simp only [ht, hd, ha, hb, hc, hpush]
  cases popsQueue f <;> rfl

/-- Where no trap arises the words are committed, late and with the flag of the pop for a queue operand. -/
theorem aluLane_commits (ht : getT s g l = some t) (hp : omodeOf f ≠ 4 ∨ oselOf f ≠ 3)
    (hd : destRegs r f (nreqOf s g) t = .ok ds) (ha : readOperand r f s g l t 0 = .words s1 a)
    (hb : readOperand r f s1 g l t 1 = .words s2 b) (hc : readOperand r f s2 g l t 2 = .words s3 c) (hcalm : Calm s3 g) :
    let o := run ⟨f, a, b, c, t⟩
    let psn := operandsPoisoned r t (a ++ b ++ c)
    o.trap = none → (psn = true ∨ o.bad = none) → settleAll psn o.words = some ws →
    let done := modT s3 g l (commit (if popsQueue f then some s3.cycle else none) psn (ds.zip ws) o)
    aluLane r cls run f s g l =
      .done (if popsQueue f then qFlag done g l (fieldAt f (oselOf f)) false else done) := by
  intro o psn htrap hbad hset done
  have hw (late : Bool) := writeBack_done (cls := cls) (late := late) (ds := ds) (l := l) hcalm htrap hbad hset
  rw [aluLane_of_operands ht hp hd ha hb hc, hw, hw]
  cases hq : popsQueue f with
  | true => simp only [done, hq, if_true]; rfl
  | false => simp only [done, hq, Bool.false_eq_true, if_false]

theorem retry_qFlag {x : Byte} {v : Bool} : (getT (qFlag s g l x v) g l).bind (·.retry) = (getT s g l).bind (·.retry) := by
  unfold qFlag
  split
  · rw [getT_modT, if_pos ⟨rfl, rfl⟩]
    cases getT s g l <;> rfl
  · rfl

end

end Sys2Proof.Machine

namespace Sys2Proof

open Machine in
/-- Settles O11: `aluLane_commits` for every row of the table. -/
theorem laneArithmetic : Obligations.LaneArithmetic := by
  unfold Obligations.LaneArithmetic
  intro s s1 s2 s3 g l t i op ds a b c ws hop hw hcalm hpre hpush hds ha hb hc hG o psn htrap hbad hset done
  have ht : getT (taken s) g l = some t := hw.1.2.1
  have hcalm3 : Calm s3 g := by
    unfold Calm
    rw [hG]
    exact hcalm
  have hbody := aluLane_commits (cls := op.cls) (run := op.run) ht hpush hds ha hb hc hcalm3 htrap hbad hset
  have hdone : (getT done g l).bind (·.retry) = none := by
    have ht3 : getT s3 g l = some t := by
      unfold getT
      rw [hG]
      exact hw.1.2.1
    simp [done, getT_modT, ht3, commit_retry, hw.1.2.2.1]
  rw [exec_of_r75Op hop]
  refine congrArg _ (done_of (atWord_ends rfl hw) hpre rfl rfl hbody ?_)
  split
  · exact retry_qFlag.trans hdone
  · exact hdone

end Sys2Proof

end

section

/-! PROOF. Words that a lane without the privilege may not issue (O33). Checks 1 to 5 of a lane alone in its coach, for words
issued lane by lane (`trap_of_check`) and group by group (`groupTrap_of_check`). -/

namespace Sys2Proof.Machine

/-- What a trap leaves to the policy ignore where no value has been computed. -/
theorem fillIgn_none (e : Bool) (v p : List Nat) : fillIgn e (zeroed v p) .none = ending e (zeroed v p) := by
  simp [fillIgn, ending, zeroed, Ign.none]

/-! ### How the words of this part are issued -/

section

variable (f : FullWord) (s : State)

theorem exec_tret : exec (.tret f) s = .next (issueLanes (enderOf f) (tretPre f) (tretBody f) s) := rfl

theorem exec_sinj : exec (.sinj f) s = .next (issueGroups (infoOf f) (sinjPre f) (sinjBody f) s) := rfl

theorem exec_gset : exec (.gset f) s = .next (issueGroups (infoOf f) (gsetPre f) (gsetBody f) s) := rfl

theorem exec_swr : exec (.swr f) s =
    .next (issueLanes (infoOf f) (specialPre true (swrSubs f) f.b f.a.toNat) (swrBody f) s) := rfl

theorem exec_srd : exec (.srd f) s = .next (issueLanes (infoTo f [f.d.toNat] [])
    (specialPre false (srdSubs f) f.d f.a.toNat) (srdBody f.d.toNat f.a.toNat) s) := rfl

theorem exec_cpyc : exec (.cpyc f) s =
    .next (issueGroups (infoTo f (copyDests .cpyc f) []) (copyPre .cpyc f) (copyBody .cpyc f) s) := rfl

theorem infoOf_ends : (infoOf f).ends = f.s := Bool.or_false _

theorem infoTo_ends (v p : List Nat) : (infoTo f v p).ends = f.s := Bool.or_false _

theorem enderOf_ends : (enderOf f).ends = true := Bool.or_true _

end

/-! ### Failing checks of a lone lane -/

section

variable {i : WordInfo} {pre : State → Nat → Nat → Option Trap} {body : State → Nat → List Nat → GroupRes} {s : State}
  {g l : Nat} {t : Thread}

/-- A collective word in a lane alone in its coach is that of its group. -/
theorem issueGroups_lone (hw : Lone s g l t) :
    issueGroups i pre body s =
      takeTraps (taken s) [(g, l)] (groupStep i pre body g [l] (taken s)).2 (groupStep i pre body g [l] (taken s)).1 := by
  obtain ⟨c, q, hc⟩ := lone_coach hw
  unfold issueGroups
  rw [hc]
  simp [List.eraseDups, List.eraseDupsBy, List.eraseDupsBy.loop, insertLead, taken]

/-- A collective word whose checks 1 to 5 fail in a lane alone in its coach traps without an effect. -/
theorem groupTrap_of_check {x : Trap} (hw : Lone s g l t) (hl : InRun t i.ends) (hp : pre (taken s) g l = some x) :
    issueGroups i pre body s = trapped s g l t.pc x (fillIgn i.ends (i.dest (taken s) g l) .none) := by
  have ht : getT (taken s) g l = some t := hw.2.1
  have hh : headTrap i pre (taken s) g l t = some x := by
    unfold headTrap
    rw [hw.2.2.2]
    simp only [if_neg (inRun_not_long hl), hp]
  have hpc : pcOf (taken s) g l = t.pc := by simp [pcOf, ht]
  rw [issueGroups_lone hw]
  simp [groupStep, groupHead, ht, hh, settleLane, takeTraps_one, hpc, trapped]

/-- The level that a lane's checks read is that of its group's handler (R37). -/
theorem isUser_taken {G : Group} (hG : getG s g = some G) : isUser (taken s) g l = !isSuper G l := by
  simp [isUser, getG_taken, hG]

theorem privTrap_of_user {G : Group} (hG : getG s g = some G) (hu : isSuper G l = false) :
    privTrap (taken s) g l = some (trapOf causePrivilege) := by
  simp [privTrap, getG_taken, hG, hu]

/-- A supervisor's special register at user level: PRIVILEGE, whatever the rest of the word holds. -/
theorem specialPre_of_user {G : Group} (hG : getG s g = some G) (hu : isSuper G l = false) (write : Bool)
    (subs : List Nat) (reg : Byte) {sel : Nat} (h1 : 0x20 ≤ sel) (h2 : sel ≤ 0x27) :
    specialPre write subs reg sel (taken s) g l = some (trapOf causePrivilege) := by
  have ht : specialTrap write true sel = some (trapOf causePrivilege) := by
    have hr : isReserved sel = false := by
      simp [isReserved]
      omega
    unfold specialTrap
    grind
  simp [specialPre, isUser_taken hG, hu, ht, trapOf]

theorem copyPre_of_user {f : FullWord} {G : Group} (hG : getG s g = some G) (hu : isSuper G l = false)
    (hp : copyPch f.mod = true) : copyPre .cpyc f (taken s) g l = some (trapOf causePrivilege) := by
  simp [copyPre, hp, getG_taken, hG, hu]

end

end Sys2Proof.Machine

namespace Sys2Proof

open Machine in
/-- Settles O33: PRIVILEGE stands first among the checks 2 to 5 of each of these words. -/
theorem privilege : Obligations.Privilege := by
  unfold Obligations.Privilege
  intro s g l t G f hw hG hu stops
  simp only [stops]
  obtain ⟨hlone, -, -⟩ := hw
  refine ⟨?_, fun hr => ⟨?_, fun h1 h2 => ⟨?_, ?_⟩, fun hp => ?_⟩⟩
  · have hpre : tretPre f (taken s) g l = some (trapOf causePrivilege) := by
      simp [tretPre, privTrap_of_user hG hu]
    rw [exec_tret, trap_of_check hlone (Or.inr (enderOf_ends f)) hpre, enderOf_ends]
    rfl
  · have hpre : sinjPre f (taken s) g l = some (trapOf causePrivilege) := by
      simp [sinjPre, privTrap_of_user hG hu]
    rw [exec_sinj, groupTrap_of_check hlone (by rwa [infoOf_ends]) hpre, infoOf_ends]
    rfl
  · rw [exec_swr, trap_of_check hlone (by rwa [infoOf_ends]) (specialPre_of_user hG hu _ _ _ h1 h2), infoOf_ends]
    rfl
  · rw [exec_srd, trap_of_check hlone (by rwa [infoTo_ends]) (specialPre_of_user hG hu _ _ _ h1 h2), infoTo_ends, infoTo,
      fillIgn_none]
  · rw [exec_cpyc, groupTrap_of_check hlone (by rwa [infoTo_ends]) (copyPre_of_user hG hu hp), infoTo_ends, infoTo,
      fillIgn_none]

end Sys2Proof

end

section

/-! PROOF. Special registers, injection and uniform registers (O34): the words `srd`, `swr`, `sinj` and `gset` in a lane alone
in its coach, and what each selector names. -/

namespace Sys2Proof.Machine

/-! ### Words that complete -/

theorem lmod_lmod {α : Type} (l : List α) (i : Nat) (f h : α → α) : lmod (lmod l i f) i h = lmod l i (h ∘ f) := by
  induction l generalizing i with
  | nil => cases i <;> rfl
  | cons a r ih => cases i with
    | zero => rfl
    | succ i => exact congrArg (a :: ·) (ih i)

theorem amod_amod {α : Type} (l : AList α) (k : Nat) (f h : α → α) : amod (amod l k f) k h = amod l k (h ∘ f) := by
  induction l with
  | nil => rfl
  | cons x r ih =>
    obtain ⟨i, a⟩ := x
    by_cases hik : i = k
    · simp [amod, hik]
    · simp [amod, hik, ih]

theorem modT_modT (s : State) (g l : Nat) (f h : Thread → Thread) :
    modT (modT s g l f) g l h = modT s g l (h ∘ f) := by
  simp [modT, modG, amod_amod, Function.comp_def, lmod_lmod]

theorem setV_retry (d : Byte) (v : W32) (t : Thread) : (setV d v t).retry = t.retry := writeV_retry _ _ _

/-- A change of a lane that leaves its retry alone. -/
theorem retry_modT {s : State} {g l : Nat} {F : Thread → Thread} (hF : ∀ t, (F t).retry = t.retry) :
    (getT (modT s g l F) g l).bind (·.retry) = (getT s g l).bind (·.retry) := by
  rw [getT_modT, if_pos ⟨rfl, rfl⟩]
  cases getT s g l with
  | none => rfl
  | some t => exact hF t

theorem getT_modG {s : State} {g l : Nat} {F : Group → Group} (hF : ∀ G, (F G).threads = G.threads) :
    getT (modG s g F) g l = getT s g l := by
  unfold getT
  rw [getG_modG, if_pos rfl]
  cases getG s g with
  | none => rfl
  | some G => exact congrArg (·[l]?) (hF G)

/-- A collective word in a lane alone in its coach, whose own part completes, is passed. -/
theorem groupDone_of {i : WordInfo} {pre : State → Nat → Nat → Option Trap} {body : State → Nat → List Nat → GroupRes}
    {s s' : State} {g l : Nat} {t : Thread} (hw : AtWord s g l t i.pred i.ends) (hp : pre (taken s) g l = none)
    (ho : i.own (taken s) g = none) (he : i.ender = false) (hb : body (taken s) g [l] = .done s')
    (hr : (getT s' g l).bind (·.retry) = none) : issueGroups i pre body s = past s' g l i.s := by
  obtain ⟨hlone, hl, hg⟩ := hw
  have ht : getT (taken s) g l = some t := hlone.2.1
  have hh : headTrap i pre (taken s) g l t = none := headTrap_none hlone.2.2.2 hl hp
  have hset : (settleLane i g l (.done s')).1 = past s' g l i.s := by
    simp only [settleLane, retryDone, retryOf, hr, past]
    congr 1
    funext u
    simp [advance, he]
  rw [issueGroups_lone hlone]
  simp [groupStep, groupHead, ht, hh, show guardOf i.pred t = some true from hg, ho, hb, GroupRes.done, hset, takeTraps_nil]

/-! ### Special registers -/

section

variable {s : State} {g l : Nat} {t : Thread} {f : FullWord}

theorem gen_val (v : W32) : (gen v).val = v := rfl

theorem specialPre_taken (write : Bool) (subs : List Nat) (reg : Byte) (sel : Nat) :
    specialPre write subs reg sel (taken s) g l = specialPre write subs reg sel s g l := rfl

theorem specialValue_taken (sel : Nat) : specialValue (taken s) g l sel = specialValue s g l sel := rfl

/-- A register of R30 without a side effect is read into D. -/
theorem exec_srd_done (hw : AtWord s g l t f.pred f.s)
    (hp : specialPre false (srdSubs f) f.d f.a.toNat s g l = none) (ha : f.a.toNat ≠ 0x14) :
    exec (.srd f) s = .next (did s g l f.s (setV f.d (specialValue s g l f.a.toNat))) := by
  rw [exec_srd]
  refine congrArg _ (done_of (by rwa [infoTo_ends]) hp rfl rfl (s' := modT (taken s) g l _) ?_ ?_)
  · simp only [srdBody, latchClock, if_neg ha]
    rfl
  · rw [retry_modT (setV_retry _ _), getT_taken, hw.1.2.1]
    exact hw.1.2.2.1

/-- A read of `%clock` latches its high half. -/
theorem exec_srd_clock (hw : AtWord s g l t f.pred f.s)
    (hp : specialPre false (srdSubs f) f.d f.a.toNat s g l = none) (ha : f.a.toNat = 0x14) :
    exec (.srd f) s = .next (did s g l f.s fun t =>
      setV f.d (specialValue s g l 0x14) { t with clockh := BitVec.ofNat 32 (clock s / 2 ^ 32) }) := by
  rw [exec_srd]
  refine congrArg _ (done_of (by rwa [infoTo_ends]) hp rfl rfl (s' := modT (taken s) g l _) ?_ ?_)
  · simp only [srdBody, latchClock, ha, if_true, modT_modT]
    rfl
  · rw [retry_modT (by simp [setV]), getT_taken, hw.1.2.1]
    exact hw.1.2.2.1

/-- A written register keeps the lane's retry. -/
theorem retry_specialWrite (s : State) (g l sel : Nat) (v : W32) :
    (getT (specialWrite s g l sel v) g l).bind (·.retry) = (getT s g l).bind (·.retry) := by
  unfold specialWrite
  extract_lets tvec
  have hgrid (F : W64 → W64) : getT (tvec F) g l = getT s g l := by
    simp only [tvec]
    cases wgOf s g <;> rfl
  clear_value tvec
  split
  · exact retry_modT fun _ => rfl
  · exact retry_modT fun _ => rfl
  · rw [getT_modG]
    exact fun _ => rfl
  · rw [hgrid]
  · rw [hgrid]
  · rfl

/-- `swr` of a register that the lane may write. -/
theorem exec_swr_done {v : W32} (hw : AtWord s g l t f.pred f.s)
    (hp : specialPre true (swrSubs f) f.b f.a.toNat s g l = none) (hv : Holds t f.b v) :
    exec (.swr f) s = .next (past (specialWrite (taken s) g l f.a.toNat v) g l f.s) := by
  have ht : getT (taken s) g l = some t := hw.1.2.1
  rw [exec_swr]
  refine congrArg _ (done_of (by rwa [infoOf_ends]) hp rfl rfl (s' := specialWrite (taken s) g l f.a.toNat v) ?_ ?_)
  · simp [swrBody, ht, show readV t f.b.toNat = gen v from hv, isPoison_gen, gen_val]
  · rw [retry_specialWrite, ht]
    exact hw.1.2.2.1

/-! What a write of each half of `%tvec` leaves of the other. -/

theorem low_half_replaced (x : W64) (v : W32) :
    ((x &&& (0xFFFFFFFF00000000 : W64)) ||| v.setWidth 64 : W64) = (x >>> 32).setWidth 32 ++ v := by
  have hm : ∀ i : Fin 64, (0xFFFFFFFF00000000 : W64).getLsbD i = decide (32 ≤ i.val) := by decide
  refine BitVec.eq_of_getLsbD_eq (w := 32 + 32) fun i hi => ?_
  rw [BitVec.getLsbD_append, BitVec.getLsbD_or, BitVec.getLsbD_and, hm ⟨i, hi⟩]
  by_cases h : i < 32
  · simp [h, hi]
  · have := BitVec.getLsbD_of_ge v i (by omega)
    simp [h, hi, this]
    grind

theorem high_half_replaced (x : W64) (v : W32) :
    ((x &&& ((0xFFFFFFFF : Nat) : W64)) ||| (v.setWidth 64 <<< 32) : W64) = v ++ x.setWidth 32 := by
  have hm : ∀ i : Fin 64, ((0xFFFFFFFF : Nat) : W64).getLsbD i = decide (i.val < 32) := by decide
  refine BitVec.eq_of_getLsbD_eq (w := 32 + 32) fun i hi => ?_
  rw [BitVec.getLsbD_append, BitVec.getLsbD_or, BitVec.getLsbD_and, hm ⟨i, hi⟩]
  by_cases h : i < 32
  · simp [h, hi]
  · simp [h, hi]

/-- The halves of `%tvec` are written one at a time. -/
theorem specialWrite_tvecLow {W : Wg} {v : W32} (hW : wgOf s g = some W) :
    specialWrite s g l 0x26 v = modGrid s W.grid fun K =>
      { K with kd := { K.kd with tvec := (K.kd.tvec >>> 32).setWidth 32 ++ v } } := by
  simp only [specialWrite, hW, low_half_replaced]

theorem specialWrite_tvecHigh {W : Wg} {v : W32} (hW : wgOf s g = some W) :
    specialWrite s g l 0x27 v = modGrid s W.grid fun K =>
      { K with kd := { K.kd with tvec := v ++ K.kd.tvec.setWidth 32 } } := by
  simp only [specialWrite, hW, high_half_replaced]

/-! ### Refused selectors -/

/-- A register that the lane may not name, at a word without another failure: sub-code 0x0A. -/
theorem specialPre_bad {write : Bool} {sel : Nat} (reg : Byte)
    (h : specialTrap write (isUser s g l) sel = some (trapOf causeIllegalOperand 0x0A)) :
    specialPre write [] reg sel s g l = some (trapOf causeIllegalOperand 0x0A) := by
  unfold specialPre
  rw [h]
  rfl

theorem specialTrap_reserved (write user : Bool) {sel : Nat} (h : 0x1A ≤ sel ∧ sel ≤ 0x1F ∨ 0x28 ≤ sel) :
    specialTrap write user sel = some (trapOf causeIllegalOperand 0x0A) := by
  have hr : isReserved sel = true := by simpa [isReserved] using h
  simp [specialTrap, hr]

theorem specialTrap_readOnly (user : Bool) {sel : Nat}
    (h : sel ≤ 0x16 ∨ sel = 0x19 ∨ user = false ∧ sel ∈ [0x20, 0x21, 0x22, 0x24, 0x25]) :
    specialTrap true user sel = some (trapOf causeIllegalOperand 0x0A) := by
  have hr : isReserved sel = false := by
    simp [isReserved]
    grind
  unfold specialTrap
  grind

theorem srd_refused (hw : Lone s g l t) (hl : InRun t f.s) (hsub : srdSubs f = [])
    (h : specialTrap false (isUser s g l) f.a.toNat = some (trapOf causeIllegalOperand 0x0A)) :
    exec (.srd f) s = .next (trapped s g l t.pc (trapOf causeIllegalOperand 0x0A) (ending f.s (zeroed [f.d.toNat] []))) := by
  rw [exec_srd, hsub, trap_of_check hw (by rwa [infoTo_ends]) (specialPre_bad _ h), infoTo_ends, infoTo, fillIgn_none]

theorem swr_refused (hw : Lone s g l t) (hl : InRun t f.s) (hsub : swrSubs f = [])
    (h : specialTrap true (isUser s g l) f.a.toNat = some (trapOf causeIllegalOperand 0x0A)) :
    exec (.swr f) s = .next (trapped s g l t.pc (trapOf causeIllegalOperand 0x0A) (ending f.s .none)) := by
  rw [exec_swr, hsub, trap_of_check hw (by rwa [infoOf_ends]) (specialPre_bad _ h), infoOf_ends]
  rfl

/-! ### Injection and uniform registers -/

/-- `sinj` with ARM set, for an event of a future word of the lanes' own. -/
theorem sinjBody_arms {v : W32} (ht : getT s g l = some t) (hv : Holds t f.a v) (harm : v.getLsbD 31 = true)
    (hzero : v &&& 0x38E0C0FF = 0) (hcls : v.toNat / 2 ^ 24 % 8 ≠ 7) (htgt : v.getLsbD 30 = false) :
    sinjBody f s g [l] = .done (modG s g fun G => { G with inj := some v }) := by
  have hw : readV t f.a.toNat = gen v := hv
  simp only [sinjBody, List.headD_cons, ht, hw, isPoison_gen, gen_val, harm, hzero, htgt]
  simp only [Bool.not_true, ne_eq, not_true_eq_false, Bool.false_eq_true, false_and, or_false, if_false, if_neg hcls]

/-- A lane that stands at the gset that completed only passes it. -/
theorem gsetBody_passes (ht : getT s g l = some t) (hwait : t.wait = .gset) : gsetBody f s g [l] = .done s := by
  simp [gsetBody, gsetPassed, ht, hwait]

/-- The gset of a workgroup whose last lane is at it. -/
theorem gsetBody_lone {G : Group} {v : W32} (hG : getG s g = some G) (ht : getT s g l = some t) (hwait : t.wait ≠ .gset)
    (hgs : groupsOf s G.wg = [(g, G)]) (hls : liveLanes G = [l]) (hv : Holds t f.a v) :
    gsetBody f s g [l] = .done (modWg s G.wg fun W => { W with g := W.g.set (f.d.toNat % 32) (gen v) }) := by
  have hpassed : gsetPassed s g l = false := by simp [gsetPassed, ht, hwait]
  have hlive : liveGroups s g = [(g, G)] := by simp [liveGroups, hG, hgs, hls]
  have hthr : G.threads[l]? = some t := by simpa [getT, hG] using ht
  have hready : gsetReady s g l = true := by
    simp [gsetReady, hlive, hls, hpassed, lanesAt, hG, pcOf, ht, hthr]
  simp [gsetBody, hpassed, hready, hlive, lowestGroup, hls, ht, show readV t f.a.toNat = gen v from hv, mismatch_gen]

end

end Sys2Proof.Machine

namespace Sys2Proof

open Machine in
/-- Settles O34: what each selector reads, and per word what its own part does in a lane alone in its coach. -/
theorem systemResults : Obligations.SystemResults := by
  unfold Obligations.SystemResults
  intro s g l t G W f v hw hG hW
  obtain ⟨hlone, hl, -⟩ := id hw
  have ht : getT s g l = some t := hlone.2.1
  have hretry : (getT s g l).bind (·.retry) = none := by
    rw [ht]
    exact hlone.2.2.1
  refine ⟨fun hp ha => ?_, fun hp ha => ?_, fun K hK => ?_, fun hsel => ⟨fun hsub => ?_, fun hsub => ?_⟩, fun hsel hsub => ?_,
    fun hp hv => ?_, fun hsup hp hv harm hzero hcls htgt => ?_, fun hp => ⟨fun hwait hgs hls hv => ?_, fun hwait => ?_⟩⟩
  · exact exec_srd_done hw hp fun h => ha (BitVec.eq_of_toNat_eq h)
  · rw [exec_srd_clock hw hp (congrArg BitVec.toNat ha)]
    simp [specialValue, hG, ht, hW]
  · intro n reads gang hp x hx ha
    have hK' : aget s.grids W.grid = some K := by simpa [gridOf, hW] using hK
    have hreads : ∀ x ∈ reads, specialValue s g l x.1.toNat = x.2 ∧ x.1 ≠ 0x14 := by
      simp [reads, n, specialValue, hG, ht, hW, hK', quadOf, dieOf, hiHalf, BitVec.ofNat_toNat]
      cases isSuper G l <;> rfl
    have hgang : ∀ x ∈ gang, specialValue s g l x.1.toNat = x.2 ∧ x.1 ≠ 0x14 := by
      simp only [gang]
      cases hk : W.gang with
      | none => simp [specialValue, hG, ht, hW, hk]
      | some k => cases hA : aget s.gangs k with
        | none => simp [hA]
        | some A => simp [n, specialValue, hG, ht, hW, hk, hA]
    obtain ⟨hval, hclock⟩ := (List.mem_append.mp hx).elim (hreads x) (hgang x)
    rw [exec_srd_done hw hp fun h => hclock (ha ▸ BitVec.eq_of_toNat_eq h), ha, hval]
  · exact srd_refused hlone hl hsub (specialTrap_reserved _ _ hsel)
  · exact swr_refused hlone hl hsub (specialTrap_reserved _ _ hsel)
  · refine swr_refused hlone hl hsub (specialTrap_readOnly _ (hsel.imp_right (Or.imp (congrArg BitVec.toNat) ?_)))
    rintro ⟨hsup, hmem⟩
    exact ⟨by simp [isUser, hG, hsup], List.mem_map_of_mem hmem⟩
  · have hdone := exec_swr_done hw hp hv
    refine ⟨fun ha => ?_, fun ha => ?_, fun ha => ?_, fun ha => ?_, fun ha => ?_, hdone⟩
    · rw [hdone, ha]
      rfl
    · rw [hdone, ha]
      exact congrArg (fun s' => Host.Outcome.next (past s' g l f.s)) (specialWrite_tvecLow (s := taken s) hW)
    · rw [hdone, ha]
      exact congrArg (fun s' => Host.Outcome.next (past s' g l f.s)) (specialWrite_tvecHigh (s := taken s) hW)
    · rw [hdone, ha]
      rfl
    · rw [hdone, ha]
      rfl
  · rw [exec_sinj]
    refine congrArg _ (groupDone_of (by rwa [infoOf_ends]) hp rfl rfl (sinjBody_arms ht hv harm hzero hcls htgt) ?_)
    rw [getT_modG (by exact fun _ => rfl)]
    exact hretry
  · rw [exec_gset]
    exact congrArg _ (groupDone_of (by rwa [infoOf_ends]) hp rfl rfl
      (gsetBody_lone (s := taken s) hG ht hwait hgs hls hv) hretry)
  · rw [exec_gset]
    exact congrArg _ (groupDone_of (by rwa [infoOf_ends]) hp rfl rfl (gsetBody_passes (s := taken s) ht hwait) hretry)

end Sys2Proof

end

section

/-! PROOF. Batches, placement, gang hold, starvation, pre-emption and pipelines (O58). -/

namespace Sys2Proof.Machine

/-! ### How the steps of this part are run -/

section

variable (s : State)

theorem exec_dispatchBatch (grid : Nat) : exec (.dispatchBatch grid) s = execDispatchBatch grid s := rfl

theorem exec_placeWorkgroup : exec .placeWorkgroup s = execPlaceWorkgroup s := rfl

theorem exec_gangHold : exec .gangHold s = execGangHold s := rfl

theorem exec_placementStarvation : exec .placementStarvation s = execPlacementStarvation s := rfl

theorem exec_latencyReservePreemption : exec .latencyReservePreemption s = execLatencyReservePreemption s := rfl

theorem exec_pipelineStageLaunch (pipe stage : Nat) :
    exec (.pipelineStageLaunch pipe stage) s = execPipelineStageLaunch pipe stage s := rfl

theorem exec_pipelineReview (pipe : Nat) : exec (.pipelineReview pipe) s = execPipelineReview pipe s := rfl

end

/-! ### The die of a batch (R293) -/

/-- How `bestDie` goes from one die to the next. -/
def betterDie (report : Nat → Nat) (best : Option (Nat × Nat)) (d : Nat) : Option (Nat × Nat) :=
  let r := report d
  match best with
  | none => if r = 0 then none else some (d, r)
  | some b => if b.2 < r then some (d, r) else best

/-- What the best of some dies is: none where no die has room, else the largest report and the first die that makes it. -/
def IsBest (report : Nat → Nat) (ds : List Nat) : Option (Nat × Nat) → Prop
  | none => ∀ c ∈ ds, report c = 0
  | some (e, r) => report e = r ∧ e ∈ ds ∧ (∀ c ∈ ds, report c ≤ r) ∧ ∀ c ∈ ds, c < e → report c < r

theorem isBest_betterDie {report : Nat → Nat} {ds : List Nat} {best : Option (Nat × Nat)} {d : Nat}
    (h : IsBest report ds best) (hd : ∀ c ∈ ds, c < d) : IsBest report (ds ++ [d]) (betterDie report best d) := by
  cases best with
  | none =>
    by_cases hr : report d = 0
    · simp only [betterDie, hr, if_true]
      grind [IsBest]
    · simp only [betterDie, hr, if_false]
      grind [IsBest]
  | some b =>
    by_cases hr : b.2 < report d
    · simp only [betterDie, hr, if_true]
      grind [IsBest]
    · simp only [betterDie, hr, if_false]
      grind [IsBest]

theorem isBest_foldl (report : Nat → Nat) {ds : List Nat} (hsorted : ds.Pairwise (· < ·)) :
    IsBest report ds (ds.foldl (betterDie report) none) := by
  induction ds using List.reverseRecOn with
  | nil => exact fun c hc => absurd hc List.not_mem_nil
  | append_singleton ds d ih =>
    rw [List.pairwise_append] at hsorted
    obtain ⟨hds, -, hd⟩ := hsorted
    rw [List.foldl_concat]
    exact isBest_betterDie (ih hds) fun c hc => hd c hc d (List.mem_singleton_self d)

theorem isBest_bestDie (report : Nat → Nat) (s : State) (K : Grid) :
    IsBest report (openDies s K) (bestDie report s K) :=
  isBest_foldl report (List.pairwise_lt_range.filter _)

/-! ### Batches (R293) -/

theorem nextBatch_length_le (held : List Nat) (K : Grid) (n : Nat) : (nextBatch held K n).1.length ≤ n := by
  unfold nextBatch
  extract_lets ready t0 t more more'
  have ht : t.length ≤ n := by
    have h0 : t0.length ≤ n := List.length_take_le ..
    simp only [t]
    split
    · exact (List.length_filter_le ..).trans h0
    · exact h0
  have hmore : more' ≤ n - t.length := by
    have h0 : more ≤ n - t.length := by
      simp only [more]
      split
      · exact Nat.min_le_left ..
      · exact Nat.zero_le _
    simp only [more']
    split
    · omega
    · exact h0
  simp only [List.length_append, List.length_map, List.length_range]
  omega

section

variable {s : State} {grid : Nat} {K : Grid}

/-- A grid whose next batch the global dispatcher may hand out. -/
theorem execDispatchBatch_of (hK : aget s.grids grid = some K) (hpipe : K.pipe = none) (hund : undispatched K = true)
    (hrun : partRuns s K.part = true) : execDispatchBatch grid s = .next
      (if K.cor && unstarted s grid K != 0 then dispatchWhole s grid K else dispatchNext (dieReport s grid K) s grid K) := by
  simp [execDispatchBatch, hK, hpipe, hund, hrun]

theorem dispatchNext_of {report : Nat → Nat} {e r : Nat} (hbest : bestDie report s K = some (e, r))
    (hne : (nextBatch (heldBack s grid) K (min 64 r)).1 ≠ []) :
    dispatchNext report s grid K = receive { s with free := s.free + 8 } grid e (nextBatch (heldBack s grid) K (min 64 r)).2
      (nextBatch (heldBack s grid) K (min 64 r)).1 := by
  simp [dispatchNext, hbest, hne]

/-- A grid with COR waits while it does not fit whole, or while other work stands before it. -/
theorem dispatchWhole_waits (h : roomFor s K < unstarted s grid K ∨ servedFirst s K = true) : dispatchWhole s grid K = s := by
  have hc : (unstarted s grid K ≤ roomFor s K && !servedFirst s K) = false := by
    cases h with
    | inl h => simp [Nat.not_le.mpr h]
    | inr h => simp [h]
  simp [dispatchWhole, hc]

end

/-! ### Launched workgroups (R34, R294) -/

theorem aget_aset_self {α : Type} (l : AList α) (k : Nat) (a : α) : aget (aset l k a) k = some a := by
  induction l with
  | nil => simp [aset, aget]
  | cons x r ih =>
    obtain ⟨i, b⟩ := x
    by_cases hik : i = k
    · simp [aset, aget, hik]
    · by_cases hki : k < i
      · simp [aset, aget, hik, hki]
      · simp [aset, aget, hik, hki, ih]

theorem mem_aset {α : Type} {l : AList α} {k : Nat} {a : α} {x : Nat × α} (h : x ∈ aset l k a) : x = (k, a) ∨ x ∈ l := by
  induction l with
  | nil => exact .inl (List.mem_singleton.mp h)
  | cons y r ih =>
    obtain ⟨i, b⟩ := y
    simp only [aset] at h
    split at h
    · exact (List.mem_cons.mp h).imp_right (List.mem_cons_of_mem _)
    · split at h
      · exact List.mem_cons.mp h
      · grind

/-- The groups that a launch puts on a core, one after the other. -/
def addGroups (K : Grid) (wg core : Nat) (s : State) (qs : List (Nat × Nat)) : State :=
  qs.foldl (fun s x =>
    { s with groups := aset s.groups s.uid (newGroup K wg x.2 core x.1 (freeSlot s core x.1) s.uid),
             uid := s.uid + 1 }) s

theorem addGroups_wgs (K : Grid) (wg core : Nat) (s : State) (qs : List (Nat × Nat)) :
    (addGroups K wg core s qs).wgs = s.wgs := by
  induction qs generalizing s with
  | nil => rfl
  | cons q qs ih => exact ih _

/-- A group that a launch leaves in the state is one of its own, or was there before. -/
theorem mem_addGroups {K : Grid} {wg core : Nat} {s : State} {qs : List (Nat × Nat)} {x : Nat × Group}
    (h : x ∈ (addGroups K wg core s qs).groups) :
    x ∈ s.groups ∨ ∃ idx qtr slot placed, x.2 = newGroup K wg idx core qtr slot placed := by
  induction qs generalizing s with
  | nil => exact .inl h
  | cons q qs ih => cases ih h with
    | inr h => exact .inr h
    | inl h => cases mem_aset h with
      | inl h => exact .inr ⟨_, _, _, _, congrArg Prod.snd h⟩
      | inr h => exact .inl h

theorem meetGrid_wgs (s : State) (grid core : Nat) (K : Grid) : (meetGrid s grid core K).wgs = s.wgs := by
  unfold meetGrid
  split <;> rfl

theorem meetGrid_groups (s : State) (grid core : Nat) (K : Grid) : (meetGrid s grid core K).groups = s.groups := by
  unfold meetGrid
  split <;> rfl

/-- Each thread of a new group begins at the kernel's code with a seed of its own. -/
theorem newGroup_thread {K : Grid} {wg idx core qtr slot placed l : Nat} {t : Thread}
    (h : (newGroup K wg idx core qtr slot placed).threads[l]? = some t) :
    t.pc = K.kd.code ∧ t.seed = K.seed ^^^ BitVec.ofNat 32 (32 * idx + l) := by
  obtain ⟨hl, rfl⟩ := List.getElem?_eq_some_iff.mp h
  simp [newGroup, Thread.initial]

section

variable {s : State} {b : Birth} {sp : Spot} {K : Grid}

/-- A launch enters the workgroup, adds its groups, and lets the core take up the grid. -/
theorem launchWg_eq (hK : aget s.grids b.grid = some K) : ∃ (s0 : State) (W : Wg),
    launchWg s b sp = meetGrid (addGroups K s.uid sp.core s0 sp.qtrs.zipIdx) b.grid sp.core K ∧
      s0.groups = s.groups ∧ s0.wgs = aset s.wgs s.uid W ∧ W.grid = b.grid ∧ W.index = b.index ∧ W.core = sp.core ∧
      W.dwg = b.dwg ∧ W.status = .resident ∧ W.q = b.q := by
  unfold launchWg
  rw [hK]
  exact ⟨_, _, rfl, rfl, rfl, rfl, rfl, rfl, rfl, rfl, rfl⟩

theorem launchWg_wg (hK : aget s.grids b.grid = some K) : ∃ W, aget (launchWg s b sp).wgs s.uid = some W ∧
    W.grid = b.grid ∧ W.index = b.index ∧ W.core = sp.core ∧ W.dwg = b.dwg ∧ W.status = .resident ∧ W.q = b.q := by
  obtain ⟨s0, W, heq, -, hwgs, hW⟩ := launchWg_eq (sp := sp) hK
  exact ⟨W, by rw [heq, meetGrid_wgs, addGroups_wgs, hwgs, aget_aset_self], hW⟩

theorem mem_launchWg_groups (hK : aget s.grids b.grid = some K) {x : Nat × Group} (hx : x ∈ (launchWg s b sp).groups) :
    x ∈ s.groups ∨ ∃ idx qtr slot placed, x.2 = newGroup K s.uid idx sp.core qtr slot placed := by
  obtain ⟨s0, W, heq, hgroups, -⟩ := launchWg_eq (sp := sp) hK
  rw [heq, meetGrid_groups] at hx
  exact hgroups ▸ mem_addGroups hx

/-- Every group that a launch adds begins at the kernel's code, with the seeds of R34. -/
theorem launchWg_groups (hK : aget s.grids b.grid = some K) (hnew : ∀ x ∈ s.groups, x.2.wg ≠ s.uid) {x : Nat × Group}
    (hx : x ∈ (launchWg s b sp).groups) (hwg : x.2.wg = s.uid) : x.2.core = sp.core ∧ x.2.nreq = K.kd.nreq ∧
      ∀ l t, x.2.threads[l]? = some t → t.pc = K.kd.code ∧ t.seed = K.seed ^^^ BitVec.ofNat 32 (32 * x.2.idx + l) := by
  cases mem_launchWg_groups hK hx with
  | inl hold => exact absurd hwg (hnew x hold)
  | inr hgroup =>
    obtain ⟨idx, qtr, slot, placed, hgroup⟩ := hgroup
    rw [hgroup]
    exact ⟨rfl, rfl, fun l t => newGroup_thread⟩

end

/-! ### A die's dispatcher (R294, R295, R385) -/

section

variable {s : State} {d : Nat} {p : PendWg}

/-- The units that do not fit are passed over. -/
theorem placeNext_of {a b : List PendWg} {spots : List Spot} {base : Nat} (hst : (getDie s d).st = .up)
    (hheads : heads (getDie s d).pending = a ++ p :: b) (hskip : ∀ x ∈ a, placeOf s (getDie s d) x = none)
    (hp : placeOf s (getDie s d) p = some (spots, base)) : placeNext s d = seat s (getDie s d) p spots base := by
  have hfind : (heads (getDie s d).pending).findSome? (fun p => (placeOf s (getDie s d) p).map fun x => (p, x)) =
      some (p, spots, base) := by
    have hnone : a.findSome? (fun p => (placeOf s (getDie s d) p).map fun x => (p, x)) = none :=
      List.findSome?_eq_none_iff.mpr fun x hx => by simp [hskip x hx]
    rw [hheads, List.findSome?_append, hnone, Option.none_or, List.findSome?_cons, hp]
    rfl
  simp [placeNext, hst, hfind]

theorem holdDue_of {n : Nat} (hst : (getDie s d).st = .up) (hhold : holdOf (getDie s d) = none)
    (hhead : (heads (getDie s d).pending).head? = some p) (hsince : (getDie s d).headSince = some (p.grid, p.wg, n))
    (hgang : isGang s p = true) (hn : n + 65536 ≤ s.cycle) (hfit : fitOf s (getDie s d) p = none) : holdDue s d = some p := by
  simp [holdDue, hst, hhold, hhead, hsince, hgang, hn, hfit]

theorem starveDue_of {h : Nat × Nat × Nat} (hhold : holdOf (getDie s d) = some h) (hstarved : (getDie s d).starved = false)
    (hn : h.2.2 + 2 ^ 20 ≤ s.cycle) : starveDue s d = true := by
  have hany : ∀ {q : Nat × Nat × Nat → Bool}, q h = true → (holdOf (getDie s d)).any q = true := by
    intro q hq
    rwa [hhold]
  exact Bool.and_eq_true_iff.mpr ⟨congrArg not hstarved, hany (decide_eq_true hn)⟩

theorem latencyStuck_of {D : Die} (hhead : (heads D.pending).head? = some p) (hlat : p.latency = true)
    (hrun : partRuns s (gridPart s p.grid) = true) (hplace : placeOf s D p = none) : latencyStuck s D = some p := by
  simp [latencyStuck, hhead, hlat, hrun, hplace]

/-- Where the first unit alone makes room, it alone is pre-empted. -/
theorem roomMakers_head {D : Die} {w : Nat} {r : List Nat} (hplace : placeOf s D p = none) (hw : (aget s.wgs w).isSome = true)
    (hfits : (placeOf (evict s D.id w) D p).isSome = true) : roomMakers s D p (w :: r) = some [w] := by
  have hnil : (placeOf (evictAll s D.id []) D p).isSome = false := by simp [evictAll, hplace]
  have hone : (placeOf (evictAll s D.id [w]) D p).isSome = true := by simp [evictAll, hw, hfits]
  simp [roomMakers, List.range_succ_eq_map, hnil, hone]

theorem execLatencyReservePreemption_of {D : Die} {ws : List Nat} (hD : getDie s s.subj.die = D) (hst : D.st = .up)
    (hstuck : latencyStuck s D = some p) (hmakers : roomMakers s D p (reserveBulk s D (gridPart s p.grid)) = some ws) :
    execLatencyReservePreemption s = .next (evictAll s D.id ws) := by
  simp [execLatencyReservePreemption, hD, hst, hstuck, hmakers]

end

/-! ### Pipelines (R387, R389) -/

section

variable {s : State} {pipe i : Nat} {p : Pipe} {st : PStage} {K : Grid} {sp : Spot}

theorem execPipelineStageLaunch_of (hp : aget s.pipes pipe = some p) (hst : p.stages[i]? = some st)
    (hK : aget s.grids st.grid = some K) (hdone : st.done = false) (hrun : partRuns s K.part = true)
    (hhas : stageHas s p st K = true) (hsp : stageSpot s p st K = some sp) :
    execPipelineStageLaunch pipe i s = .next (stageLaunch s p i st K sp) := by
  simp [execPipelineStageLaunch, hp, hst, hK, hdone, hrun, hhas, hsp]

/-- A grid's share grows without a workgroup or a queue of the package changing. -/
theorem growShare_frame (s : State) (grid d : Nat) (K : Grid) : (growShare s grid d K).uid = s.uid ∧
    (growShare s grid d K).queues = s.queues ∧
    ∃ F, (growShare s grid d K).grids = amod s.grids grid F := by
  unfold growShare
  split <;> split <;> exact ⟨rfl, rfl, _, rfl⟩

theorem stageBinds_congr {s s' : State} (h : s'.queues = s.queues) (p : Pipe) (st : PStage) :
    stageBinds s' p st = stageBinds s p st := by
  simp [stageBinds, h]

/-- A stage without pre-empted workgroups launches a new one. -/
theorem stageLaunch_wg (hK : aget s.grids st.grid = some K) (hshadow : s.shadow = []) :
    ∃ W, aget (stageLaunch s p i st K sp).wgs s.uid = some W ∧ W.grid = st.grid ∧
      W.index = (if st.pop = 0 then K.returned.headD K.nextWg else st.launched) ∧ W.core = sp.core ∧
      W.q = stageBinds s p st := by
  obtain ⟨huid, hqueues, F, hgrids⟩ := growShare_frame s st.grid (dieOf sp.core) K
  unfold stageLaunch
  rw [hshadow]
  extract_lets index d dwg s1 s2 s3
  have hK3 : aget s3.grids st.grid = _ := (aget_amod s1.grids st.grid st.grid _).trans
    (by rw [if_pos rfl, hgrids, aget_amod, if_pos rfl, hK])
  obtain ⟨W, hW, hgrid, hindex, hcore, -, -, hq⟩ :=
    launchWg_wg (sp := sp) (b := ⟨st.grid, index, dwg, d, none, stageBinds s3 p st⟩) hK3
  exact ⟨W, huid ▸ hW, hgrid, hindex, hcore, hq.trans (stageBinds_congr hqueues p st)⟩

theorem pipelineReview_early (hp : aget s.pipes pipe = some p) (h : p.since < 16384) :
    execPipelineReview pipe s = .next s := by
  simp [execPipelineReview, hp, h]

/-- A review ends the interval, with the core that moves. -/
theorem pipelineReview_due (hp : aget s.pipes pipe = some p) (h : 16384 ≤ p.since) : execPipelineReview pipe s =
    .next (modPipe (moveCore s p).1 pipe fun _ => { (moveCore s p).2 with
      since := 0, stages := (moveCore s p).2.stages.map fun st => { st with occ := 0, waits := 0 } }) := by
  simp only [execPipelineReview, hp, if_neg (Nat.not_lt.mpr h)]

theorem moveCore_none (h : neediest s p = none ∨ richest s p = none) : moveCore s p = (s, p) := by
  unfold moveCore
  cases h with
  | inl h => rw [h]
  | inr h =>
    rw [h]
    cases neediest s p <;> rfl

theorem moveCore_some {a b : Nat} {A : PStage} (hb : neediest s p = some b) (ha : richest s p = some a)
    (hA : p.stages[a]? = some A) (hne : A.cores ≠ []) : ∃ c ∈ A.cores, moveCore s p =
      ({ s with free := s.free + 1 },
       { p with stages := lmod (lmod p.stages a fun st => { st with cores := st.cores.filter (· != c) }) b fun st =>
           { st with cores := st.cores ++ [c] } }) := by
  have hlen : Config.order s.free % max 1 A.cores.length < A.cores.length := by
    have hpos := List.length_pos_iff.mpr hne
    rw [Nat.max_eq_right hpos]
    exact Nat.mod_lt _ hpos
  refine ⟨_, List.getElem_mem hlen, ?_⟩
  simp [moveCore, hb, ha, hA, List.getElem?_eq_getElem hlen]

end

end Sys2Proof.Machine

namespace Sys2Proof

open Machine in
/-- Settles O58: what each step of the dispatchers and of the pipelines does, one lemma for each. -/
theorem placement : Obligations.Placement := by
  unfold Obligations.Placement
  intro s d hd
  subst hd
  intro D
  refine ⟨fun grid K e r hK hpipe hund hrun hcor hbest => ?_, fun grid K hK hpipe hund hrun hcor hun => ?_,
    fun a p b spots base hst hheads hskip hp => ?_, fun b sp K hK => ?_, fun b sp K hK hnew x hx hwg => ?_,
    fun p n hst hhold hhead hsince hgang hn hfit => ?_, fun h K hhold hstarved hn hK => ?_,
    fun p hst hhead hlat hrun hplace w r hbulk hw hfits => ?_,
    fun pipe p hp => ⟨fun i st K sp hst hK hdone hrun hhas hspot hshadow => ?_, fun hsince => ?_,
      fun hsince => ⟨fun hstay => ?_, fun a b A hb ha hA hne => ?_⟩⟩⟩
  · have hisBest : IsBest (dieReport s grid K) (openDies s K) (some (e, r)) := hbest ▸ isBest_bestDie _ s K
    obtain ⟨hreport, -, hmax, hfirst⟩ := hisBest
    refine ⟨hreport, hmax, hfirst, nextBatch_length_le _ K _, fun hne => ?_⟩
    have hwhole : (K.cor && unstarted s grid K != 0) = false := by
      cases hcor with
      | inl h => simp [h]
      | inr h => simp [h]
    rw [exec_dispatchBatch, execDispatchBatch_of hK hpipe hund hrun, hwhole, if_neg Bool.false_ne_true,
      dispatchNext_of hbest hne]
  · have hexec : exec (.dispatchBatch grid) s = .next (dispatchWhole s grid K) := by
      rw [exec_dispatchBatch, execDispatchBatch_of hK hpipe hund hrun, if_pos (by simp [hcor, hun])]
    exact ⟨fun h => by rw [hexec, dispatchWhole_waits h], fun _ _ => hexec⟩
  · rw [exec_placeWorkgroup, execPlaceWorkgroup, placeNext_of hst hheads hskip hp]
  · obtain ⟨W, hW, hgrid, hindex, hcore, hdwg, hstatus, -⟩ := launchWg_wg (sp := sp) hK
    simp [hW, hgrid, hindex, hcore, hdwg, hstatus]
  · exact launchWg_groups hK hnew hx hwg
  · rw [exec_gangHold, execGangHold, holdDue_of hst hhold hhead hsince hgang hn hfit]
  · rw [exec_placementStarvation]
    simp only [execPlacementStarvation, starveDue_of hhold hstarved hn, if_true]
    rw [hhold]
    simp [hK]
  · rw [exec_latencyReservePreemption, execLatencyReservePreemption_of rfl hst (latencyStuck_of hhead hlat hrun hplace)
      (hbulk ▸ roomMakers_head hplace hw hfits)]
    simp [evictAll, hw, D]
  · obtain ⟨W, hW, hgrid, hindex, hcore, hq⟩ := stageLaunch_wg (p := p) (i := i) (sp := sp) hK hshadow
    exact ⟨_, execPipelineStageLaunch_of hp hst hK hdone hrun hhas hspot, by simp [hW, hgrid, hindex, hcore, hq]⟩
  · exact pipelineReview_early hp hsince
  · rw [exec_pipelineReview, pipelineReview_due hp hsince, moveCore_none hstay]
  · obtain ⟨c, hc, hmove⟩ := moveCore_some hb ha hA hne
    exact ⟨c, hc, by rw [exec_pipelineReview, pipelineReview_due hp hsince, hmove]⟩

end Sys2Proof

end

section

/-! PROOF. A carriage at work, fills and drains (O50): the steps of a carriage, the entries that an op leaves in the
accumulators, and a transpose of two rows down to its bytes. -/

namespace Sys2Proof.Machine

/-! ### How the steps of this part are run -/

section

variable (s : State)

theorem exec_opOperandFetchComplete (car : Nat) :
    exec (.opOperandFetchComplete car) s = execOpOperandFetchComplete car s := rfl

theorem exec_mmaExecuteStart (car : Nat) : exec (.mmaExecuteStart car) s = execMmaExecuteStart car s := rfl

theorem exec_mmaOpRetire (car : Nat) : exec (.mmaOpRetire car) s = execMmaOpRetire car s := rfl

theorem exec_mfillComplete (grp : Nat) : exec (.mfillComplete grp) s = execMfillComplete grp s := rfl

theorem exec_mdrainComplete (core tile : Nat) : exec (.mdrainComplete core tile) s = execMdrainComplete core tile s := rfl

end

/-! ### Carriages (R335, R336) -/

section

variable {s : State} {id at_ : Nat} {o : Op}

theorem setCarriage_cycle (c : Carriage) : (setCarriage s c).cycle = s.cycle := rfl

theorem carriageAt_setCarriage {c : Carriage} (hid : c.id = id) : carriageAt (setCarriage s c) id = c := by
  simp [carriageAt, setCarriage, hid]

/-- An op that executes alone takes its operands: no transpose stands before it. -/
theorem takeOperands_alone (he : (carriageAt s id).exec = [(o, at_)]) (hd : o.data = none) (hm : o.mtrq = false) :
    takeOperands s (carriageAt s id) o = some (fetchOp s o) := by
  simp [takeOperands, behindTrq, he, hd, hm]

theorem execOpOperandFetchComplete_alone (he : (carriageAt s id).exec = [(o, at_)]) (hd : o.data = none)
    (hm : o.mtrq = false) : execOpOperandFetchComplete id s = .next (setCarriage s { carriageAt s id with
      exec := [({ o with data := some (fetchOp s o) }, at_)] }) := by
  simp [execOpOperandFetchComplete, he, hd, hm, takeOperands_alone he hd hm]

/-- With no op fetching, the head of the queue begins to fetch, and what executes stays. -/
theorem carriageAt_startFetch (hf : (carriageAt s id).fetch = none) (hid : (carriageAt s id).id = id) :
    (carriageAt (startFetch s id at_) id).exec = (carriageAt s id).exec ∧
      (carriageAt (startFetch s id at_) id).fetch.map (·.1) = (carriageAt s id).queue.head? ∧
      (carriageAt (startFetch s id at_) id).queue = (carriageAt s id).queue.tail := by
  cases hq : (carriageAt s id).queue with
  | nil => simp [startFetch, hf, hq]
  | cons o r => simp [startFetch, hf, hq, carriageAt_setCarriage (c := { carriageAt s id with fetch := _, queue := r }) hid]

theorem execMmaExecuteStart_of {ready : Nat} (hf : (carriageAt s id).fetch = some (o, ready)) (hr : ready ≤ s.cycle)
    (he : executing s (carriageAt s id) = false) (hw : opWaits s o = false) :
    execMmaExecuteStart id s = .next (startFetch (setCarriage s { carriageAt s id with
      fetch := none, exec := (carriageAt s id).exec ++ [(o, s.cycle + opCycles s o + 3)] }) id s.cycle) := by
  simp [execMmaExecuteStart, hf, he, hw, Nat.not_lt.mpr hr, setCarriage_cycle]

theorem opCycles_f64 (hm : o.mtrq = false) (hmode : o.mode = .f64) : opCycles s o = o.kw.toNat % 2 ^ 13 := by
  simp [opCycles, hm, hmode, opK]

/-- The oldest op retires and leaves the carriage. -/
theorem execMmaOpRetire_of {r : List (Op × Nat)} (he : (carriageAt s id).exec = (o, at_) :: r) (hat : at_ ≤ s.cycle)
    (hid : (carriageAt s id).id = id) :
    ∃ c, execMmaOpRetire id s = .next (setCarriage (retireOp s o) c) ∧
      (carriageAt (setCarriage (retireOp s o) c) id).exec = r ∧
      (carriageAt (setCarriage (retireOp s o) c) id).retired = some (o.seq, (retireOp s o).cycle) := by
  refine ⟨{ carriageAt s id with exec := r, retired := some (o.seq, (retireOp s o).cycle) }, ?_, ?_⟩
  · simp [execMmaOpRetire, he, Nat.not_lt.mpr hat]
  · rw [carriageAt_setCarriage (by exact hid)]
    exact ⟨rfl, rfl⟩

end

/-! ### Accumulators of both cores (R237, R338) -/

section

variable {s : State} {core num : Nat}

theorem accOf_setAcc_same (a : Acc) : accOf (setAcc s a) a.core a.num = a := by
  simp [accOf, setAcc]

theorem accOf_setAcc_other {a : Acc} (h : ¬(a.core = core ∧ a.num = num)) :
    accOf (setAcc s a) core num = accOf s core num := by
  have hkey (b : Acc) : (!(b.core == a.core && b.num == a.num) && (b.core == core && b.num == num)) =
      (b.core == core && b.num == num) := by
    by_cases hb : b.core = core ∧ b.num = num
    · obtain ⟨rfl, rfl⟩ := hb
      have hne : (b.core == a.core && b.num == a.num) = false := by
        simpa using fun hc hn => h ⟨Eq.symm hc, Eq.symm hn⟩
      rw [hne, Bool.not_false, Bool.true_and]
    · rw [show (b.core == core && b.num == num) = false by simpa using hb, Bool.and_false]
  have ha : (a.core == core && a.num == num) = false := by simpa using h
  simp only [accOf, setAcc, List.find?_cons, ha, List.find?_filter, ← Bool.and_eq_true, Bool.decide_eq_true, hkey]

theorem accOf_core_num (s : State) (core num : Nat) : (accOf s core num).core = core ∧ (accOf s core num).num = num := by
  unfold accOf
  cases hf : s.accs.find? fun a => a.core == core && a.num == num with
  | none => exact ⟨rfl, rfl⟩
  | some a => simpa using List.find?_some hf

/-- What `markChk` leaves of an accumulator: all but its CHK marks and their kinds. -/
theorem markChk_keeps (kind : Nat) (rows : List Nat) (a : Acc) :
    (markChk kind rows a).core = a.core ∧ (markChk kind rows a).num = a.num ∧ (markChk kind rows a).ents = a.ents := by
  unfold markChk
  induction rows generalizing a with
  | nil => exact ⟨rfl, rfl, rfl⟩
  | cons r rs ih => exact ih _

theorem opArray_core_num (o : Op) (old : Acc) (rows b : List ORow) :
    (opArray o old rows b).core = old.core ∧ (opArray o old rows b).num = old.num := by
  have hbase (c : Bool) : (if c = true then { Acc.clear old.core old.num with ents := [] } else old).core = old.core ∧
      (if c = true then { Acc.clear old.core old.num with ents := [] } else old).num = old.num := by
    cases c <;> exact ⟨rfl, rfl⟩
  simp only [opArray, (markChk_keeps _ _ _).1, (markChk_keeps _ _ _).2.1]
  exact hbase o.ovw

/-- The state after an mma has retired: one array after the other. -/
theorem retireOp_mma {o : Op} {d : OpData} (hm : o.mtrq = false) (hd : o.data = some d) :
    retireOp s o = setAcc (setAcc s (opArray o (accOf s o.core o.acc) d.a0 d.b))
      (opArray o (accOf s (o.core + 1) o.acc) d.a1 d.b) := by
  simp [retireOp, hm, hd]

theorem accOf_retireOp_mma {o : Op} {d : OpData} (hm : o.mtrq = false) (hd : o.data = some d) :
    accOf (retireOp s o) o.core o.acc = opArray o (accOf s o.core o.acc) d.a0 d.b ∧
      accOf (retireOp s o) (o.core + 1) o.acc = opArray o (accOf s (o.core + 1) o.acc) d.a1 d.b := by
  have hkey (core : Nat) (rows : List ORow) : (opArray o (accOf s core o.acc) rows d.b).core = core ∧
      (opArray o (accOf s core o.acc) rows d.b).num = o.acc := by
    rw [(opArray_core_num ..).1, (opArray_core_num ..).2]
    exact accOf_core_num s core o.acc
  have hsame {s : State} {a : Acc} {core : Nat} (h : a.core = core ∧ a.num = o.acc) : accOf (setAcc s a) core o.acc = a := by
    rw [← h.1, ← h.2, accOf_setAcc_same]
  rw [retireOp_mma hm hd]
  exact ⟨(accOf_setAcc_other (by rw [(hkey ..).1]; omega)).trans (hsame (hkey ..)), hsame (hkey ..)⟩

end

/-! ### Fills and drains (R233, R242) -/

section

variable {s : State} {id tile : Nat}

theorem lanes_laneMask_one {l : Nat} (hl : l < 32) : (List.range 32).filter (laneMask [l]).getLsbD = [l] := by
  revert l
  decide

/-- A lane that goes on after a wait has passed its word. -/
theorem settleLane_past {g l : Nat} {t : Thread} (last : Bool) (pred : BitVec 4) (h : getT s g l = some t)
    (hr : t.retry = none) : (settleLane { s := last, ender := false, pred } g l (.done s)).1 = past s g l last :=
  congrArg Prod.fst (settleLane_done _ h hr)

/-- An mfill of one lane, whose tile and reservation still stand. -/
theorem execMfillComplete_of {m : Mfill} {t : Tile} {r : Resv} {l : Nat} {u : Thread}
    (hm : s.mfills.find? (fun m => m.grp == id) = some m) (ht : tileOf s m.core m.tile = some t)
    (hr : resvOf s m.core m.resv = some r) (hl : l < 32) (hlanes : m.lanes = laneMask [l])
    (hu : getT s id l = some u) (hretry : u.retry = none) :
    execMfillComplete id s = .next (past { s with
      mfills := s.mfills.filter fun x => x.grp != id,
      ob := writeWords s.ob (resvBase s r + m.off)
        (readWords (if t.ks then s.ks else s.cs) (tileBase s t) (t.len / 4)) } id l m.last) := by
  have hgrp : m.grp = id := by simpa using List.find?_some hm
  simp only [execMfillComplete, hm, hlanes, lanes_laneMask_one hl, List.foldl_cons, List.foldl_nil, hgrp]
  rw [show tileOf { s with mfills := s.mfills.filter fun x => x.grp != id } m.core m.tile = some t from ht,
    show resvOf { s with mfills := s.mfills.filter fun x => x.grp != id } m.core m.resv = some r from hr]
  exact congrArg Host.Outcome.next (settleLane_past _ _ (by exact hu) hretry)

theorem tileOf_key {core num : Nat} {t : Tile} (h : tileOf s core num = some t) : t.core = core ∧ t.num = num := by
  rw [tileOf] at h
  simpa using List.find?_some h

theorem tileOf_setTile {t x : Tile} (ht : tileOf s x.core x.num = some t) : tileOf (setTile s x) x.core x.num = some x := by
  have hkey : (fun u : Tile => u.core == x.core && u.num == x.num) ∘
      (fun u => if u.core == x.core && u.num == x.num then x else u) = fun u => u.core == x.core && u.num == x.num := by
    funext u
    simp only [Function.comp_apply]
    split
    · next hu => rw [hu, beq_self_eq_true, beq_self_eq_true, Bool.and_self]
    · rfl
  obtain ⟨hcore, hnum⟩ := tileOf_key ht
  rw [tileOf] at ht
  rw [tileOf, setTile, List.find?_map, hkey, ht, Option.map_some, if_pos (by simp [hcore, hnum])]

/-- A drain writes its words in their order to the memory of its tile, and the tile is ready. -/
theorem finishDrain_eq {m : Mdrain} {t : Tile} (ht : tileOf s m.core m.tile = some t) :
    let put (x : Mem) : Mem := m.words.foldl (fun x w => writeWord x w.1 w.2) x
    finishDrain s m = setTile { s with
      ks := if m.ks then put s.ks else s.ks, cs := if m.ks then s.cs else put s.cs,
      mdrains := s.mdrains.filter fun x => !(x.core == m.core && x.tile == m.tile) }
      { t with st := .ready, err := false, stopped := none } := by
  intro put
  have hput (s' : State) (hs : s'.tiles = s.tiles) : tileOf s' m.core m.tile = some t := by rw [tileOf, hs]; exact ht
  cases hks : m.ks with
  | false => simp only [finishDrain, hks, Bool.false_eq_true, if_false, hput]; rfl
  | true => simp only [finishDrain, hks, if_true, hput]; rfl

theorem finishDrain_of {m : Mdrain} {t : Tile} (ht : tileOf s m.core m.tile = some t) :
    tileOf (finishDrain s m) m.core m.tile = some { t with st := .ready, err := false, stopped := none } ∧
      (finishDrain s m).mdrains = s.mdrains.filter (fun x => !(x.core == m.core && x.tile == m.tile)) ∧
      (if m.ks then (finishDrain s m).ks else (finishDrain s m).cs) =
        m.words.foldl (fun x w => writeWord x w.1 w.2) (if m.ks then s.ks else s.cs) := by
  obtain ⟨hcore, hnum⟩ := tileOf_key ht
  rw [finishDrain_eq ht, ← hcore, ← hnum]
  refine ⟨tileOf_setTile (t := t) (by rw [hcore, hnum]; exact ht), rfl, ?_⟩
  cases m.ks <;> rfl

theorem execMdrainComplete_of {m : Mdrain} (hm : s.mdrains.find? (fun m => m.core == id && m.tile == tile) = some m) :
    execMdrainComplete id tile s = .next (finishDrain s m) := by
  rw [execMdrainComplete, hm]

end

/-! ### Saturated sums on a grid (R238, R339) -/

theorem rho_lt (n : Int) : rho n < 15 := by
  unfold rho
  omega

theorem rho_eq_iff {a b : Int} : rho a = rho b ↔ a % 15 = b % 15 := by
  unfold rho
  omega

theorem rho_add_mod (a b : Int) : (rho a + rho b) % 15 = rho (a + b) := by
  unfold rho
  omega

/-- An exact product `p` at exponent `d` over the grid, floored to it. -/
def gridTerm (p d : Int) : Int := if 0 ≤ d then p * 2 ^ d.toNat else p / 2 ^ (-d).toNat

/-- The nearest number that a saturating sum holds. -/
def saturate (v : Int) : Int := max (-2 ^ 63) (min (2 ^ 63 - 1) v)

theorem saturate_mem (v : Int) : -2 ^ 63 ≤ saturate v ∧ saturate v < 2 ^ 63 := by
  unfold saturate
  omega

theorem satSum_cons (grid start : Int) (x : (Int × Int) × (Int × Int)) (ps : List ((Int × Int) × (Int × Int))) :
    satSum grid start (x :: ps) =
      satSum grid (saturate (start + gridTerm (x.1.1 * x.2.1) (x.1.2 + x.2.2 - grid))) ps := rfl

/-- A sum that saturates has the residue of its bound, and any other one the sum of the residues. -/
theorem termX_eq (a : XAcc) (p d : Int) : ∃ sat inx, termX a p d =
    if 2 ^ 63 ≤ a.v + gridTerm p d then ⟨2 ^ 63 - 1, rho (2 ^ 63 - 1), sat, inx⟩
    else if a.v + gridTerm p d < -2 ^ 63 then ⟨-2 ^ 63, rho (-2 ^ 63), sat, inx⟩
    else ⟨a.v + gridTerm p d, (a.col + rho (gridTerm p d)) % 15, sat, inx⟩ := by
  have hdiv : p.fdiv (2 ^ (-d).toNat) = p / 2 ^ (-d).toNat := Int.fdiv_eq_ediv_of_nonneg p (by positivity)
  unfold termX gridTerm
  rw [hdiv]
  dsimp only
  generalize a.v + (if 0 ≤ d then p * 2 ^ d.toNat else p / 2 ^ (-d).toNat) = v
  split
  · exact ⟨_, _, rfl⟩
  · split <;> exact ⟨_, _, rfl⟩

theorem termX_v (a : XAcc) (p d : Int) : (termX a p d).v = saturate (a.v + gridTerm p d) := by
  obtain ⟨sat, inx, h⟩ := termX_eq a p d
  rw [h, saturate]
  split
  · dsimp only
    omega
  · split <;> dsimp only <;> omega

theorem termX_col {a : XAcc} (h : a.col = rho a.v) (p d : Int) : (termX a p d).col = rho (termX a p d).v := by
  obtain ⟨sat, inx, ht⟩ := termX_eq a p d
  rw [ht]
  split
  · rfl
  · split
    · rfl
    · rw [h, rho_add_mod]

theorem accX_v (grid : Int) (ps : List ((Int × Int) × (Int × Int))) (a : XAcc) : (accX grid ps a).v = satSum grid a.v ps := by
  induction ps generalizing a with
  | nil => rfl
  | cons x ps ih => rw [satSum_cons, ← termX_v, ← ih]; rfl

theorem accX_col (grid : Int) (ps : List ((Int × Int) × (Int × Int))) {a : XAcc} (h : a.col = rho a.v) :
    (accX grid ps a).col = rho (accX grid ps a).v := by
  induction ps generalizing a with
  | nil => exact h
  | cons x ps ih => exact ih (termX_col h _ _)

theorem satSum_mem (grid : Int) (ps : List ((Int × Int) × (Int × Int))) {start : Int}
    (h : -2 ^ 63 ≤ start ∧ start < 2 ^ 63) : -2 ^ 63 ≤ satSum grid start ps ∧ satSum grid start ps < 2 ^ 63 := by
  induction ps generalizing start with
  | nil => exact h
  | cons x ps ih =>
    rw [satSum_cons]
    exact ih (saturate_mem _)

/-- The residue of an `.x64` entry is that of its value: 2^32 is 1 modulo 15. -/
theorem entryRes_x64 (v : W64) : entryRes .x64 v = BitVec.ofNat 4 (rho v.toInt) := by
  have hlt := v.isLt
  have hsign : v.toInt = v.toNat - if v.getLsbD 63 then 2 ^ 64 else 0 := by
    rw [BitVec.toInt_eq_msb_cond, BitVec.msb_eq_getLsbD_last]
    split <;> simp
  simp only [entryRes]
  congr 1
  rw [rho_eq_iff, hsign]
  split <;> omega

/-! ### Entries of an op (R237, R238) -/

/-- The entry that an op leaves for the products of a row and a column, from the entry that stood there. -/
def opEntry (o : Op) (e0 : W64 × BitVec 4) (ps : List ((Int × Int) × (Int × Int))) : W64 × BitVec 4 :=
  match o.mode with
  | .x64 =>
    let a := accX o.grid ps (if o.ovw then ⟨0, 0, false, false⟩ else ⟨e0.1.toInt, e0.2.toNat, false, false⟩)
    (BitVec.ofInt 64 a.v, BitVec.ofNat 4 a.col)
  | _ => (f64Entry o e0.1 ps, entryRes .f64 (f64Entry o e0.1 ps))

/-- A fold that appends one entry for each element. -/
theorem foldl_append_one {α β γ : Type} (f : List β × γ → α → List β × γ) (g : α → β)
    (h : ∀ x a, (f x a).1 = x.1 ++ [g a]) (l : List α) (x : List β × γ) : (l.foldl f x).1 = x.1 ++ l.map g := by
  induction l generalizing x with
  | nil => simp
  | cons a r ih => rw [List.foldl_cons, ih, h, List.map_cons, List.append_assoc, List.singleton_append]

theorem opRow_entries (o : Op) (old : Acc) (b : List ORow) (r : Nat) (row : ORow) :
    (opRow o old b r row).1 =
      b.zipIdx.map fun c => (64 * r + c.2, opEntry o (accEntry old (64 * r + c.2)) (row.els.zip c.1.els)) := by
  unfold opRow
  rw [foldl_append_one _ (fun c => (64 * r + c.2, opEntry o (accEntry old (64 * r + c.2)) (row.els.zip c.1.els)))]
  · rfl
  · intro x c
    unfold opEntry
    cases o.mode <;> rfl

theorem opArray_ents (o : Op) (old : Acc) (rows b : List ORow) :
    (opArray o old rows b).ents =
      (rows.zipIdx.flatMap fun x => (opRow o old b x.2 x.1).1).filter fun e => e.2 != (0, 0) := by
  simp only [opArray, (markChk_keeps _ _ _).2.2, List.flatMap_map]

theorem mem_of_aget {α : Type} {l : AList α} {k : Nat} {a : α} (h : aget l k = some a) : (k, a) ∈ l := by
  induction l with
  | nil => simp [aget] at h
  | cons x r ih =>
    obtain ⟨i, b⟩ := x
    by_cases hik : i = k
    · obtain rfl : b = a := by simpa [aget, hik] using h
      exact hik ▸ List.mem_cons_self
    · exact List.mem_cons_of_mem _ (ih (by simpa [aget, hik] using h))

theorem aget_isSome {α : Type} {l : AList α} {k : Nat} {a : α} (h : (k, a) ∈ l) : (aget l k).isSome := by
  induction l with
  | nil => simp at h
  | cons x r ih =>
    obtain ⟨i, b⟩ := x
    by_cases hik : i = k
    · simp [aget, hik]
    · have hr : (k, a) ∈ r := (List.mem_cons.mp h).resolve_left fun he => hik (congrArg Prod.fst he).symm
      simpa [aget, hik] using ih hr

/-- An entry that reads as the default need not be listed. -/
theorem aget_filter_getD {α : Type} [BEq α] [LawfulBEq α] {l : AList α} {k : Nat} {d v : α} (hmem : (k, v) ∈ l)
    (hone : ∀ a, (k, a) ∈ l → a = v) : (aget (l.filter fun e => e.2 != d) k).getD d = v := by
  cases hget : aget (l.filter fun e => e.2 != d) k with
  | some a => exact hone a (List.mem_of_mem_filter (mem_of_aget hget))
  | none =>
    by_contra hne
    have hkept : (k, v) ∈ l.filter fun e => e.2 != d := List.mem_filter.mpr ⟨hmem, bne_iff_ne.mpr (Ne.symm hne)⟩
    simpa [hget] using aget_isSome hkept

/-- Row `r` and column `n` of what an op leaves in one array. -/
theorem accEntry_opArray {o : Op} {old : Acc} {rows b : List ORow} {r n : Nat} {row col : ORow} (hb : b.length ≤ 64)
    (hr : rows[r]? = some row) (hn : b[n]? = some col) :
    accEntry (opArray o old rows b) (64 * r + n) =
      opEntry o (accEntry old (64 * r + n)) (row.els.zip col.els) := by
  have hlt {c : Nat} {x : ORow} (h : b[c]? = some x) : c < 64 := lt_of_lt_of_le (List.getElem?_eq_some_iff.mp h).1 hb
  have hmem (e : Nat × W64 × BitVec 4) : e ∈ (rows.zipIdx.flatMap fun x => (opRow o old b x.2 x.1).1) ↔
      ∃ x r' c n', rows[r']? = some x ∧ b[n']? = some c ∧
        e = (64 * r' + n', opEntry o (accEntry old (64 * r' + n')) (x.els.zip c.els)) := by
    simp only [List.mem_flatMap, opRow_entries, List.mem_map, Prod.exists, List.mem_zipIdx_iff_getElem?]
    constructor
    · rintro ⟨x, r', hx, c, n', hc, rfl⟩
      exact ⟨x, r', c, n', hx, hc, rfl⟩
    · rintro ⟨x, r', c, n', hx, hc, rfl⟩
      exact ⟨x, r', hx, c, n', hc, rfl⟩
  rw [accEntry, opArray_ents]
  refine aget_filter_getD ((hmem _).mpr ⟨row, r, col, n, hr, hn, rfl⟩) fun a ha => ?_
  obtain ⟨x, r', c, n', hr', hn', he⟩ := (hmem _).mp ha
  obtain ⟨hkey, hval⟩ := Prod.mk.inj he
  have hlt' := hlt hn'
  have hltn := hlt hn
  obtain ⟨rfl, rfl⟩ : r' = r ∧ n' = n := by omega
  obtain rfl : row = x := Option.some.inj (hr.symm.trans hr')
  obtain rfl : col = c := Option.some.inj (hn.symm.trans hn')
  exact hval

/-- The entry of an `.x64` op is the saturated sum, and its residue entry agrees with it where that of the starting value did. -/
theorem opEntry_x64 {o : Op} {e : W64 × BitVec 4} {ps : List ((Int × Int) × (Int × Int))} (hm : o.mode = .x64) :
    let v := satSum o.grid (if o.ovw then 0 else e.1.toInt) ps
    (opEntry o e ps).1 = BitVec.ofInt 64 v ∧
      (o.ovw = true ∨ e.2 = entryRes .x64 e.1 → (opEntry o e ps).2 = entryRes .x64 (opEntry o e ps).1) := by
  intro v
  have hstart : (if o.ovw = true then (⟨0, 0, false, false⟩ : XAcc) else ⟨e.1.toInt, e.2.toNat, false, false⟩).v =
      if o.ovw then 0 else e.1.toInt := by split <;> rfl
  have hval : (opEntry o e ps).1 = BitVec.ofInt 64 v := by
    simp only [opEntry, hm, accX_v, hstart, v]
  refine ⟨hval, fun hres => ?_⟩
  have hcol : (if o.ovw = true then (⟨0, 0, false, false⟩ : XAcc) else ⟨e.1.toInt, e.2.toNat, false, false⟩).col =
      rho (if o.ovw = true then (⟨0, 0, false, false⟩ : XAcc) else ⟨e.1.toInt, e.2.toNat, false, false⟩).v := by
    split
    · rfl
    · next ho =>
      rw [hres.resolve_left ho, entryRes_x64, BitVec.toNat_ofNat, Nat.mod_eq_of_lt (by have := rho_lt e.1.toInt; omega)]
  have hrange : -2 ^ 63 ≤ v ∧ v < 2 ^ 63 := by
    apply satSum_mem
    split
    · decide
    · exact ⟨BitVec.le_toInt e.1, BitVec.toInt_lt⟩
  rw [hval, entryRes_x64, BitVec.toInt_ofInt_eq_self (by decide) hrange.1 hrange.2]
  simp only [opEntry, hm, accX_col o.grid ps hcol, accX_v, hstart, v]

theorem opEntry_f64 {o : Op} {e : W64 × BitVec 4} {ps : List ((Int × Int) × (Int × Int))} (hm : o.mode = .f64) :
    opEntry o e ps = (f64Entry o e.1 ps, entryRes .f64 (f64Entry o e.1 ps)) := by
  simp only [opEntry, hm]

/-- R237's own example: 2^53, 1, 1 and −2^53, in pairs rounded to binary64. -/
theorem f64Entry_example (o : Op) (e : W64) (ps : List ((Int × Int) × (Int × Int)))
    (hps : ps = [((1, 53), (1, 0)), ((1, 0), (1, 0)), ((1, 0), (1, 0)), ((1, 53), (-1, 0))]) :
    (o.ovw = true → f64Entry o e ps = 0x3FF0000000000000) ∧
      (o.ovw = false → e = 0x3FF0000000000000 → f64Entry o e ps = 0x4000000000000000) := by
  subst hps
  constructor
  · intro ho
    simp only [f64Entry, ho, if_true]
    decide +kernel
  · rintro ho rfl
    simp only [f64Entry, ho, Bool.false_eq_true, if_false]
    decide +kernel

/-- 4,096 on the grid 2^−9 is 8.0. -/
theorem drainEntry_example : (drainEntry { Acc.clear 0 0 with mode := .x64, g := -9 } 0x0D 0 0 0 4096).1 = 0x4100 := by
  decide +kernel

/-- The exponents of the largest finite values of R58's table. -/
theorem maxFin_examples : ([0x16070343, 0x150F0352, 0x10030332, 0x10010323, 0x10010121, 0x00000103, 0x00000307].map
    fun f : W32 => lead (maxFin (fmtOfRecord f)).1 + (maxFin (fmtOfRecord f)).2) = [8, 15, 4, 2, 2, 2, 6] := by
  decide +kernel

/-! ### Bytes of words (R7, R157) -/

/-- Bit `j` of byte `i` of a word. -/
theorem getLsbD_byte (x : W32) (i j : Nat) (hj : j < 8) :
    (BitVec.ofNat 8 (x.toNat / 256 ^ i)).getLsbD j = x.getLsbD (8 * i + j) := by
  rw [BitVec.getLsbD_ofNat, decide_eq_true hj, Bool.true_and, show (256 : Nat) ^ i = 2 ^ (8 * i) by rw [Nat.pow_mul],
    Nat.testBit_div_two_pow, Nat.add_comm, BitVec.testBit_toNat]

theorem byte_readWord (m : Mem) (a i : Nat) (hi : i < 4) :
    BitVec.ofNat 8 ((readWord m a).val.toNat / 256 ^ i) = readByte m (4 * (a / 4) + i) := by
  have h0 := (cellAt m.data (4 * (a / 4) + 0)).isLt
  have h1 := (cellAt m.data (4 * (a / 4) + 1)).isLt
  have h2 := (cellAt m.data (4 * (a / 4) + 2)).isLt
  have h3 := (cellAt m.data (4 * (a / 4) + 3)).isLt
  apply BitVec.eq_of_toNat_eq
  simp only [readWord, readByte, BitVec.toNat_ofNat]
  interval_cases i <;> omega

/-- The low `n` bits of a word replaced. -/
theorem byte_merge (old : W32) {v n i : Nat} (hv : v < 256 ^ n) (hi : i < 4) :
    BitVec.ofNat 8 (((old &&& ~~~ BitVec.ofNat 32 (256 ^ n - 1)) ||| BitVec.ofNat 32 v).toNat / 256 ^ i) =
      if i < n then BitVec.ofNat 8 (v / 256 ^ i) else BitVec.ofNat 8 (old.toNat / 256 ^ i) := by
  have hpow : (256 : Nat) ^ n = 2 ^ (8 * n) := by rw [Nat.pow_mul]
  apply BitVec.eq_of_getLsbD_eq
  intro j hj
  have hk : 8 * i + j < 32 := by omega
  rw [getLsbD_byte _ _ _ hj, BitVec.getLsbD_or, BitVec.getLsbD_and, BitVec.getLsbD_not, BitVec.getLsbD_ofNat,
    BitVec.getLsbD_ofNat, hpow, Nat.testBit_two_pow_sub_one, decide_eq_true hk]
  simp only [Bool.true_and]
  split
  · next hin =>
    rw [decide_eq_true (by omega : 8 * i + j < 8 * n), Bool.not_true, Bool.and_false, Bool.false_or,
      BitVec.getLsbD_ofNat, decide_eq_true hj, Bool.true_and, show (256 : Nat) ^ i = 2 ^ (8 * i) by rw [Nat.pow_mul],
      Nat.testBit_div_two_pow, Nat.add_comm]
  · next hin =>
    have hzero : v.testBit (8 * i + j) = false :=
      Nat.testBit_lt_two_pow (lt_of_lt_of_le (hpow ▸ hv) (Nat.pow_le_pow_right (by decide) (by omega)))
    rw [decide_eq_false (by omega : ¬8 * i + j < 8 * n), hzero, Bool.not_false, Bool.and_true, Bool.or_false,
      getLsbD_byte _ _ _ hj]

/-- A patch of part of a word leaves the bits beside its mask. -/
theorem onto_val {p : CPatch} (h : p.mask ≠ 0xFFFFFFFF) (old : Word) :
    (p.onto old).val = (old.val &&& ~~~ p.mask) ||| p.bits := by
  unfold CPatch.onto
  rw [if_neg h]
  dsimp only
  split <;> rfl

/-! ### Rows that a transpose writes (R149, R157) -/

section

variable {m : Mem} {a x : Nat} {els : List (Nat × Bool)}

/-- Elements of a byte each, as one number. -/
def codesNat (els : List (Nat × Bool)) : Nat := (els.zipIdx).foldl (fun acc x => acc + x.1.1 * 2 ^ (8 * x.2)) 0

/-- Up to three bytes from the start of a word are one write of that word. -/
theorem putRun_eq_writeWord (ha : a % 4 = 0) (hpos : 0 < els.length) (hlen : els.length < 4) :
    ∃ psn, putRun m a 8 els = writeWord m a ((⟨⟨1, 0, 0, noAttr, false⟩, BitVec.ofNat 32 (256 ^ els.length - 1),
      BitVec.ofNat 32 (codesNat els), psn, none⟩ : CPatch).onto (readWord m a)) := by
  have hpow : (2 : Nat) ^ (8 * els.length) = 256 ^ els.length := by rw [Nat.pow_mul]
  have hword : 4 * (a / 4) = a := by omega
  have hone : (8 * els.length + 31) / 32 = 1 := by omega
  refine ⟨BitVec.ofNat 32 ((els.zipIdx).foldl (fun acc x => if x.1.2 then acc + (2 ^ 8 - 1) * 2 ^ (8 * x.2) else acc) 0), ?_⟩
  simp only [putRun, ha, hword, hpow, hone, Nat.mul_zero, Nat.zero_add, Nat.add_zero, Nat.pow_zero, Nat.mul_one,
    Nat.div_one, List.range_one, List.foldl_cons, List.foldl_nil]
  rfl

/-- Such a run changes its own bytes alone. -/
theorem putRun_word (ha : a % 4 = 0) (hpos : 0 < els.length) (hlen : els.length < 4)
    (hv : codesNat els < 256 ^ els.length) : ∃ w, putRun m a 8 els = writeWord m a w ∧
      ∀ i, i < 4 → BitVec.ofNat 8 (w.val.toNat / 256 ^ i) =
        if i < els.length then BitVec.ofNat 8 (codesNat els / 256 ^ i) else readByte m (a + i) := by
  have hpart : BitVec.ofNat 32 (256 ^ els.length - 1) ≠ 0xFFFFFFFF := by
    have hcases : els.length = 1 ∨ els.length = 2 ∨ els.length = 3 := by omega
    rcases hcases with h | h | h <;> rw [h] <;> decide
  obtain ⟨psn, hput⟩ := putRun_eq_writeWord (m := m) ha hpos hlen
  refine ⟨_, hput, fun i hi => ?_⟩
  rw [onto_val hpart, byte_merge _ hv hi, byte_readWord m a i hi, show 4 * (a / 4) = a by omega]

theorem readByte_putRun (h : Memory.wf m = true) (ha : a % 4 = 0) (hpos : 0 < els.length) (hlen : els.length < 4)
    (hv : codesNat els < 256 ^ els.length) (x : Nat) :
    readByte (putRun m a 8 els) x =
      if a ≤ x ∧ x < a + els.length then BitVec.ofNat 8 (codesNat els / 256 ^ (x - a)) else readByte m x := by
  obtain ⟨w, hput, hbytes⟩ := putRun_word (m := m) ha hpos hlen hv
  rw [hput, readByte_writeWord h, show 4 * (a / 4) = a by omega]
  by_cases hx : a ≤ x ∧ x < a + 4
  · rw [if_pos hx, hbytes _ (by omega), show a + (x - a) = x by omega]
    by_cases hin : x - a < els.length
    · rw [if_pos hin, if_pos (by omega)]
    · rw [if_neg hin, if_neg (by omega)]
  · rw [if_neg hx, if_neg (by omega)]

theorem readWord_putRun (h : Memory.wf m = true) (ha : a % 4 = 0) (hpos : 0 < els.length) (hlen : els.length < 4)
    (hx : a / 4 ≠ x / 4) : readWord (putRun m a 8 els) x = readWord m x := by
  obtain ⟨psn, hput⟩ := putRun_eq_writeWord (m := m) ha hpos hlen
  rw [hput, readWord_writeWord_other h hx]

end

/-! ### A transpose of two rows of two E4M3 codes (R246, R345) -/

/-- An E4M3 code under the scale 1, unpoisoned and with the right residue. -/
def e4m3Elem (code : Nat) : TElem := ⟨(mulVal (elemVal 0x12 0x16070343 code) (blockScaleVal false 127)).1, false, false⟩

/-- Row `row` of a reservation, up to four codes in one word, and its scale 1. -/
def RowHolds (s : State) (r : Resv) (row : Nat) (v : W32) : Prop :=
  readWord s.ob (resvBase s r + 32 * row) = gen v ∧ readWord s.ob (resvBase s r + 1024 + 4 * row) = gen 127

section

variable {s : State} {r : Resv}

theorem resvBase_ob (m : Mem) : resvBase { s with ob := m } r = resvBase s r := rfl

theorem resvBase_mod (h : Narrow r) : resvBase s r % 4 = 0 := by
  obtain ⟨-, -, -, hks, -, hoff, -⟩ := h
  rw [resvBase, if_neg (by simp [hks])]
  omega

theorem storeWidth_narrow (h : Narrow r) : storeWidth r = 8 := by
  obtain ⟨hfmt, hefmt, hcbv, -⟩ := h
  simp only [storeWidth, resvFmt, hcbv, hefmt, hfmt, Bool.false_eq_true, if_false, if_true]
  decide

theorem trqSource_narrow (h : Narrow r) {row k : Nat} {v : W32} (hrow : RowHolds s r row v) (hk : k < 4) :
    trqSource s r row k = e4m3Elem (v.toNat / 2 ^ (8 * k) % 256) := by
  have hbase := resvBase_mod (s := s) h
  have hwidth := storeWidth_narrow h
  obtain ⟨hcodes, hscale⟩ := hrow
  obtain ⟨hfmt, hefmt, hcbv, hks, hsl, hoff, hpitch, hsoff, hspitch⟩ := h
  have hword : resvBase s r + row * 32 + 4 * (k * 8 / 32) = resvBase s r + 32 * row := by omega
  have hbits : k * 8 % 32 = 8 * k := by omega
  have hat : resvBase s r + 1024 + row * 4 + k / 32 = resvBase s r + 1024 + 4 * row := by omega
  have hbyte : (resvBase s r + 1024 + 4 * row) % 4 = 0 := by omega
  simp only [trqSource, hwidth, hpitch, hsoff, hspitch, hsl, hfmt, blockLen, hword, hbits, hat, hbyte, hcodes, hscale,
    isPoison_gen, mismatch_gen, Bool.or_self]
  rfl

end

section

variable {o : Op}

/-- Rounding to nearest does not use the seed. -/
theorem roundMag_rne (u : Nat) (neg : Bool) (m : Nat) (e : Int) (stk : Bool) (q : Int) :
    roundMag 0 u neg m e stk q = roundMag 0 0 neg m e stk q := by
  simp only [roundMag]

theorem elemEnc_rne (fmt : W32) (u : Nat) (v : FVal) : elemEnc 0x12 fmt 0 0 u v = elemEnc 0x12 fmt 0 0 0 v := by
  have hint (lo hi bias : Int) : encodeInt lo hi bias 0 u v = encodeInt lo hi bias 0 0 v := by
    cases v <;> simp only [encodeInt, roundMag_rne u]
  have hfloat (f : Fmt) : encodeFloat f 0 0 u false true false v = encodeFloat f 0 0 0 false true false v := by
    cases v <;> simp only [encodeFloat, encodeMag, roundMag_rne u]
  simp only [elemEnc, encodeNarrow, hint, hfloat]

/-- An element that its code and scale give back exactly leaves the position as it is. -/
theorem trqElem_exact (hrm : o.rm = 0) {fmt : W32} {k : FVal} {x : TElem} {code : Nat} (ix : Nat) (p : TrqPos)
    (hk : k.isNan = false) (hpsn : x.psn = false) (hmis : x.mis = false)
    (henc : elemEnc 0x12 fmt 0 0 0 (divScale x.v k) = (code, false)) (herr : (trqErr fmt code k x.v).1 = 0) :
    trqElem o fmt k ix x p = ((code, false), p) := by
  have hmax (a b : Nat × Int) (hb : b.1 = 0) : maxMag a b = a := by
    simp [maxMag, hb]
  cases k with
  | nan sig => simp [FVal.isNan] at hk
  | inf neg => simp [trqElem, hrm, elemEnc_rne, henc, hpsn, hmis, hmax _ _ herr, trqStatus]
  | fin neg m r e => simp [trqElem, hrm, elemEnc_rne, henc, hpsn, hmis, hmax _ _ herr, trqStatus]

/-- Two E4M3 codes that a block under the new scale `sc` holds exactly, as the codes `c0` and `c1`. -/
def Rescales (a0 a1 c0 c1 sc : Nat) : Prop :=
  let k := blockScaleVal false sc
  let kept (a c : Nat) : Prop := elemEnc 0x12 0x16070343 0 0 0 (divScale (e4m3Elem a).v k) = (c, false) ∧
    (trqErr 0x16070343 c k (e4m3Elem a).v).1 = 0
  blockScale false fmtE4M3 [(e4m3Elem a0).v, (e4m3Elem a1).v] = (sc, k) ∧ k.isNan = false ∧ kept a0 c0 ∧ kept a1 c1

/-- 1.0 and 1.5 under the scale 2^−8, and 2.0 and 0.5 under 2^−7: the largest element takes the exponent of 448. -/
theorem rescales_examples : Rescales 0x38 0x3C 0x78 0x7C 119 ∧ Rescales 0x40 0x30 0x78 0x68 120 := by
  unfold Rescales
  decide +kernel

variable {rs rd : Resv} {a0 a1 c0 c1 sc : Nat}

/-- A block of two such elements leaves the position as it is. -/
theorem trqBlocks_two (hrm : o.rm = 0) (hd : Narrow rd) (h : Rescales a0 a1 c0 c1 sc) (ix : Nat) (p : TrqPos) :
    trqBlocks o rd 2 ix [e4m3Elem a0, e4m3Elem a1] p = ([(c0, false), (c1, false)], [sc], p) := by
  obtain ⟨hfmt, hefmt, -, -, hsl, -⟩ := hd
  obtain ⟨hscale, hk, ⟨henc0, herr0⟩, henc1, herr1⟩ := h
  have hresv : resvFmt rd = fmtE4M3 := by simp only [resvFmt, hefmt, hfmt]; rfl
  rw [← hfmt] at henc0 herr0 henc1 herr1
  have h0 := fun ix p => trqElem_exact (x := e4m3Elem a0) hrm ix p hk rfl rfl henc0 herr0
  have h1 := fun ix p => trqElem_exact (x := e4m3Elem a1) hrm ix p hk rfl rfl henc1 herr1
  simp [trqBlocks, hsl, blockLen, hresv, hscale, h0, h1]

/-- A row of two codes and its scale, written from the base `d` of a reservation. -/
def putRow (m : Mem) (d row c0 c1 sc : Nat) : Mem :=
  putRun (putRun m (d + row * 32) 8 [(c0, false), (c1, false)]) (d + 1024 + row * 4) 8 [(sc, false)]

/-- One output row, whose elements stand in a column of two source rows. -/
theorem trqStep_two {s : State} {row : Nat} {v0 v1 : W32} {p : TrqPos} (hrm : o.rm = 0) (hs : Narrow rs) (hd : Narrow rd)
    (hrow0 : RowHolds s rs 0 v0) (hrow1 : RowHolds s rs 1 v1) (hp : p.row = row) (hrow : row < 4)
    (ha0 : v0.toNat / 2 ^ (8 * row) % 256 = a0) (ha1 : v1.toNat / 2 ^ (8 * row) % 256 = a1)
    (h : Rescales a0 a1 c0 c1 sc) : trqStep 2 o rs rd s p =
      ({ s with ob := putRow s.ob (resvBase s rd) row c0 c1 sc }, { p with row := row + 1 }) := by
  have hcol : ((List.range 2).map fun r => trqSource s rs r row) = [e4m3Elem a0, e4m3Elem a1] := by
    rw [← ha0, ← ha1, ← trqSource_narrow hs hrow0 hrow, ← trqSource_narrow hs hrow1 hrow]
    rfl
  have hwidth := storeWidth_narrow hd
  have hblocks := trqBlocks_two hrm hd h (row * 2) p
  obtain ⟨-, -, -, -, -, -, hpitch, hsoff, hspitch⟩ := hd
  simp only [trqStep, hp, hcol, hblocks, hwidth, hpitch, hsoff, hspitch, List.map_cons, List.map_nil, putRow]

section

variable {m : Mem} {d row : Nat}

theorem putRow_wf (h : Memory.wf m = true) : Memory.wf (putRow m d row c0 c1 sc) = true :=
  putRun_wf (putRun_wf h ..) ..

theorem readByte_putRow (h : Memory.wf m = true) (hd : d % 4 = 0) (hrow : row < 32) (h0 : c0 < 256) (h1 : c1 < 256)
    (hsc : sc < 256) (x : Nat) : readByte (putRow m d row c0 c1 sc) x =
      if x = d + row * 32 then BitVec.ofNat 8 c0 else if x = d + row * 32 + 1 then BitVec.ofNat 8 c1
      else if x = d + 1024 + row * 4 then BitVec.ofNat 8 sc else readByte m x := by
  have hcodes : codesNat [(c0, false), (c1, false)] = c0 + 256 * c1 := by simp [codesNat]; omega
  have hscale : codesNat [(sc, false)] = sc := by simp [codesNat]
  rw [putRow, readByte_putRun (putRun_wf h ..) (by omega) (by simp) (by simp) (by rw [hscale]; simpa using hsc),
    readByte_putRun h (by omega) (by simp) (by simp) (by rw [hcodes]; simp; omega), hcodes, hscale]
  simp only [List.length_cons, List.length_nil, Nat.zero_add]
  by_cases hx0 : x = d + row * 32
  · rw [if_neg (by omega), if_pos (by omega), if_pos hx0, hx0, Nat.sub_self, Nat.pow_zero, Nat.div_one]
    apply BitVec.eq_of_toNat_eq
    simp
  · rw [if_neg hx0]
    by_cases hx1 : x = d + row * 32 + 1
    · rw [if_neg (by omega), if_pos (by omega), if_pos hx1, hx1, Nat.add_sub_cancel_left, Nat.pow_one,
        Nat.add_mul_div_left _ _ (by decide), Nat.div_eq_of_lt h0, Nat.zero_add]
    · rw [if_neg hx1]
      by_cases hx2 : x = d + 1024 + row * 4
      · rw [if_pos (by omega), if_pos hx2, hx2, Nat.sub_self, Nat.pow_zero, Nat.div_one]
      · rw [if_neg (by omega), if_neg (by omega), if_neg hx2]

/-- The words of other reservations stand. -/
theorem readWord_putRow (h : Memory.wf m = true) (hd : d % 4 = 0) {x : Nat} (hcodes : (d + row * 32) / 4 ≠ x / 4)
    (hscale : (d + 1024 + row * 4) / 4 ≠ x / 4) : readWord (putRow m d row c0 c1 sc) x = readWord m x := by
  rw [putRow, readWord_putRun (putRun_wf h ..) (by omega) (by simp) (by simp) hscale,
    readWord_putRun h (by omega) (by simp) (by simp) hcodes]

end

/-- The transpose of 1.0, 2.0 over 1.5, 0.5, both rows under the scale 1. -/
theorem trqRun_two {s : State} (hkw : o.kw = 0x00020002) (hrm : o.rm = 0) (hpos : o.pos = ⟨0, 0, 0, 0, 0, o.pos.seed⟩)
    (hrs : resvOf s o.core o.ra = some rs) (hrd : resvOf s o.core o.rb = some rd) (hs : Narrow rs) (hd : Narrow rd)
    (hwf : Memory.wf s.ob = true)
    (hapart : resvBase s rs + 1032 ≤ resvBase s rd ∨ resvBase s rd + 1032 ≤ resvBase s rs)
    (hrow0 : RowHolds s rs 0 0x4038) (hrow1 : RowHolds s rs 1 0x303C) :
    trqRun o 4096 s = ({ s with
      ob := putRow (putRow s.ob (resvBase s rd) 0 0x78 0x7C 119) (resvBase s rd) 1 0x78 0x68 120 },
      ⟨2, 0, 0, 0, 0, o.pos.seed⟩) := by
  obtain ⟨hfirst, hsecond⟩ := rescales_examples
  have hbs := resvBase_mod (s := s) hs
  have hbd := resvBase_mod (s := s) hd
  have hkeeps {row : Nat} {v : W32} (hr : row < 2) (h : RowHolds s rs row v) :
      RowHolds { s with ob := putRow s.ob (resvBase s rd) 0 0x78 0x7C 119 } rs row v := by
    obtain ⟨hcodes, hscale⟩ := h
    exact ⟨(readWord_putRow (x := resvBase s rs + 32 * row) hwf hbd (by omega) (by omega)).trans hcodes,
      (readWord_putRow (x := resvBase s rs + 1024 + 4 * row) hwf hbd (by omega) (by omega)).trans hscale⟩
  have hrange : List.range (min 4096 (o.kw.toNat / 65536) - o.pos.row) = [0, 1] := by rw [hkw, hpos]; rfl
  have hR : o.kw.toNat % 65536 = 2 := by rw [hkw]; rfl
  have hstep0 : trqStep 2 o rs rd s o.pos = ({ s with ob := putRow s.ob (resvBase s rd) 0 0x78 0x7C 119 },
      ⟨1, 0, 0, 0, 0, o.pos.seed⟩) := by
    rw [hpos]
    exact trqStep_two hrm hs hd hrow0 hrow1 rfl (by decide) (by decide) (by decide) hfirst
  have hstep1 := trqStep_two (row := 1) (p := ⟨1, 0, 0, 0, 0, o.pos.seed⟩) hrm hs hd (hkeeps (by decide) hrow0)
    (hkeeps (by decide) hrow1) rfl (by decide) (by decide) (by decide) hsecond
  simp only [trqRun, hrs, hrd, hrange, hR, List.foldl_cons, List.foldl_nil, hstep0, hstep1, resvBase_ob]

/-- A position without a status and without an error gives a pair of zeros. -/
theorem trqWords_zero (row : Nat) (seed : W32) : trqWords ⟨row, 0, 0, 0, 0, seed⟩ = (gen 0, gen 0) := by
  have hword (h : BitVec.ofNat 32 (encodeFloat fmtF32 3 2 0 false false false (.fin false 0 (0 % 15) 0)).code = 0) :
      trqWords ⟨row, 0, 0, 0, 0, seed⟩ = (gen 0, gen 0) := by
    simp [trqWords, h]
  exact hword (by decide +kernel)

/-- A transpose lands its status pair when it retires. -/
theorem retireOp_mtrq {s s' : State} {p : TrqPos} {w0 w1 : Word} (hm : o.mtrq = true) (hrun : trqRun o 4096 s = (s', p))
    (hwords : trqWords p = (w0, w1)) : retireOp s o =
      modG s' o.grp fun G => { G with threads := G.threads.map (landPend (.mtrq o.id) w0 w1) } := by
  simp only [retireOp, hm, if_true, hrun, hwords]

/-- The bytes that the transpose writes, and no others. -/
theorem readByte_putRow_putRow {m : Mem} {d : Nat} (h : Memory.wf m = true) (hd : d % 4 = 0) :
    let m' := putRow (putRow m d 0 0x78 0x7C 119) d 1 0x78 0x68 120
    [d, d + 1, d + 32, d + 33, d + 1024, d + 1028].map (readByte m') = [0x78, 0x7C, 0x78, 0x68, 119, 120] ∧
      ∀ a, a ∉ [d, d + 1, d + 32, d + 33, d + 1024, d + 1028] → readByte m' a = readByte m a := by
  intro m'
  have hread (x : Nat) : readByte m' x = if x = d + 32 then 0x78 else if x = d + 33 then 0x68
      else if x = d + 1028 then 120 else if x = d then 0x78 else if x = d + 1 then 0x7C
      else if x = d + 1024 then 119 else readByte m x := by
    rw [readByte_putRow (putRow_wf h) hd (by decide) (by decide) (by decide) (by decide),
      readByte_putRow h hd (by decide) (by decide) (by decide) (by decide)]
    rfl
  refine ⟨?_, fun a ha => ?_⟩
  · simp [hread]
  · simp only [List.mem_cons, List.not_mem_nil, or_false, not_or] at ha
    obtain ⟨h0, h1, h32, h33, h1024, h1028⟩ := ha
    rw [hread, if_neg h32, if_neg h33, if_neg h1028, if_neg h0, if_neg h1, if_neg h1024]

end

end Sys2Proof.Machine

namespace Sys2Proof

open Machine in
/-- Settles O50: what each step of a carriage, an mfill and a drain does, one lemma for each. -/
theorem matrixEvents : Obligations.MatrixEvents := by
  unfold Obligations.MatrixEvents
  intro s id c
  refine ⟨fun o at_ he hd hm => ?_, fun o ready hf hr he hw hid => ?_, fun o at_ r d he hat hm hd hid => ?_,
    fun o old rows b r n row col hb hr hn => ?_, drainEntry_example, maxFin_examples,
    fun o at_ r rs rd he hat hm hkw hrm hpos hid hrs hrd hs hd hwf hapart hcodes0 hcodes1 hscale0 hscale1 => ?_,
    fun m t r l u hm ht hr hl hlanes hu hretry => ?_, fun tile m t hm ht => ?_⟩
  · rw [exec_opOperandFetchComplete, execOpOperandFetchComplete_alone he hd hm]
  · have hc := carriageAt_setCarriage (s := s) (c := { c with
      fetch := none, exec := c.exec ++ [(o, s.cycle + opCycles s o + 3)] }) hid
    have hstart := carriageAt_startFetch (at_ := s.cycle) (by rw [hc]) (by rw [hc]; exact hid)
    rw [hc] at hstart
    obtain ⟨hexec, hfetch, hqueue⟩ := hstart
    exact ⟨_, (exec_mmaExecuteStart ..).trans (execMmaExecuteStart_of hf hr he hw), hexec, hfetch, hqueue, opCycles_f64⟩
  · obtain ⟨hacc, hacc'⟩ := accOf_retireOp_mma (s := s) hm hd
    obtain ⟨c', hexec, hrest, hretired⟩ := execMmaOpRetire_of he hat hid
    refine ⟨_, (exec_mmaOpRetire ..).trans hexec, hrest, hretired.trans ?_, hacc, hacc', ?_⟩
    · rw [retireOp_mma hm hd]
      rfl
    · rw [retireOp_mma hm hd]
      exact ⟨rfl, rfl, rfl⟩
  · rw [accEntry_opArray hb hr hn]
    refine ⟨opEntry_x64, fun hmode => ⟨by rw [opEntry_f64 hmode], fun hrow hcol => ?_⟩⟩
    rw [opEntry_f64 hmode]
    exact f64Entry_example o _ _ (by rw [hrow, hcol]; rfl)
  · obtain ⟨c', hexec, hrest, -⟩ := execMmaOpRetire_of he hat hid
    have hrun := trqRun_two hkw hrm hpos hrs hrd hs hd hwf hapart ⟨hcodes0, hscale0⟩ ⟨hcodes1, hscale1⟩
    have hretire := retireOp_mtrq hm hrun (trqWords_zero ..)
    obtain ⟨hbytes, hframe⟩ := readByte_putRow_putRow hwf (resvBase_mod (s := s) hd)
    refine ⟨_, (exec_mmaOpRetire ..).trans hexec, hrest, ?_⟩
    rw [hretire]
    exact ⟨hbytes, hframe, rfl⟩
  · rw [exec_mfillComplete, execMfillComplete_of hm ht hr hl hlanes hu hretry]
  · obtain ⟨rfl, rfl⟩ : m.core = id ∧ m.tile = tile := by simpa using List.find?_some hm
    exact ⟨_, (exec_mdrainComplete ..).trans (execMdrainComplete_of hm), finishDrain_of ht⟩

end Sys2Proof

end

section

/-! PROOF. Encode of decode (O36): a word is put together again from the fields that the decoder takes from it. -/

namespace Sys2Proof

/-! ### Words put together again from their fields (R65, R67, R68) -/

theorem ofBool_getLsbD (w : W64) (i : Nat) : BitVec.ofBool (w.getLsbD i) = w.extractLsb' i 1 := by
  apply BitVec.eq_of_getLsbD_eq
  intro j hj
  obtain rfl : j = 0 := by omega
  simp

theorem packFull_fullFields {w : W64} (h62 : w.getLsbD 62 = false) : packFull (w.extractLsb' 52 10) (fullFields w) = w := by
  have h0 : (0#1 : BitVec 1) = w.extractLsb' 62 1 := by rw [← ofBool_getLsbD, h62]; rfl
  simp only [packFull, fullFields, ofBool_getLsbD, h0]
  simp only [BitVec.extractLsb'_append_extractLsb'_eq_extractLsb']
  exact BitVec.extractLsb'_eq_self

theorem packLong_longFields {w : W64} (h62 : w.getLsbD 62 = false) : packLong (w.extractLsb' 52 10) (longFields w) = w := by
  have h0 : (0#1 : BitVec 1) = w.extractLsb' 62 1 := by rw [← ofBool_getLsbD, h62]; rfl
  simp only [packLong, longFields, ofBool_getLsbD, h0]
  simp only [BitVec.extractLsb'_append_extractLsb'_eq_extractLsb']
  exact BitVec.extractLsb'_eq_self

/-- A code that `slotOp` knows is that of its opcode. -/
theorem slotCode_of_slotOp {c : BitVec 7} {o : SlotOp} (h : slotOp c.toNat = some o) : slotCode o = c := by
  have hc : ∀ c : BitVec 7, ∀ o ∈ slotOp c.toNat, slotCode o = c := by decide
  exact hc c o h

theorem assignedSlot_eq (c : BitVec 7) : assignedSlot c.toNat = (slotOp c.toNat).isSome := by
  revert c
  decide

theorem packPair_slots {w : W64} (h62 : w.getLsbD 62 = true) {x y : SlotOp}
    (hx : slotOp (w.extractLsb' 55 7).toNat = some x) (hy : slotOp (w.extractLsb' 24 7).toNat = some y) :
    packPair x ⟨w.getLsbD 63, ⟨w.extractLsb' 47 8, w.extractLsb' 39 8, w.extractLsb' 31 8⟩, y,
      ⟨w.extractLsb' 16 8, w.extractLsb' 8 8, w.extractLsb' 0 8⟩⟩ = w := by
  have h1 : (1#1 : BitVec 1) = w.extractLsb' 62 1 := by rw [← ofBool_getLsbD, h62]; rfl
  simp only [packPair, slotCode_of_slotOp hx, slotCode_of_slotOp hy, ofBool_getLsbD, h1]
  simp only [BitVec.extractLsb'_append_extractLsb'_eq_extractLsb']
  exact BitVec.extractLsb'_eq_self

/-! ### Encode of decode -/

/-- An instruction is the well-formed one of a word. -/
def IsOf (w : W64) (i : Instr) : Prop := i.wf = true ∧ encode i = some w

theorem isOf_pairInstr (x : SlotOp) (p : PairWord) : IsOf (packPair x p) (pairInstr x p) := by
  cases x <;> exact ⟨rfl, rfl⟩

theorem isOf_unassigned {w : W64} (h : assignedWord w = false) : IsOf w (.unassignedOpcode w) :=
  ⟨by simp [Instr.wf, h], rfl⟩

theorem isOf_decodePair {w : W64} (h62 : w.getLsbD 62 = true) : IsOf w (decodePair w) := by
  unfold decodePair
  split
  next x y hx hy =>
    have h := isOf_pairInstr x ⟨w.getLsbD 63, ⟨w.extractLsb' 47 8, w.extractLsb' 39 8, w.extractLsb' 31 8⟩, y,
      ⟨w.extractLsb' 16 8, w.extractLsb' 8 8, w.extractLsb' 0 8⟩⟩
    rwa [packPair_slots h62 hx hy] at h
  next h =>
    refine isOf_unassigned ?_
    rw [assignedWord, if_pos h62, assignedSlot_eq, assignedSlot_eq]
    cases hx : slotOp (w.extractLsb' 55 7).toNat with
    | none => rfl
    | some x =>
      cases hy : slotOp (w.extractLsb' 24 7).toNat with
      | none => rfl
      | some y => exact absurd hy (h x y hx)

theorem isOf_full {w : W64} (h62 : w.getLsbD 62 = false) {op : Nat} {i : FullWord → Instr}
    (hop : (w.extractLsb' 52 10).toNat = op) (hi : ∀ f, IsOf (packFull (BitVec.ofNat 10 op) f) (i f)) : IsOf w (i (fullFields w)) := by
  have h := hi (fullFields w)
  rwa [← hop, BitVec.ofNat_toNat, BitVec.setWidth_eq, packFull_fullFields h62] at h

theorem isOf_long {w : W64} (h62 : w.getLsbD 62 = false) {op : Nat} {i : LongWord → Instr}
    (hop : (w.extractLsb' 52 10).toNat = op) (hi : ∀ f, IsOf (packLong (BitVec.ofNat 10 op) f) (i f)) : IsOf w (i (longFields w)) := by
  have h := hi (longFields w)
  rwa [← hop, BitVec.ofNat_toNat, BitVec.setWidth_eq, packLong_longFields h62] at h

/-- The codes that R85 lists, group by group. -/
def fullCodes : List Nat :=
  List.range' 0x000 20 ++ List.range' 0x040 21 ++ List.range' 0x080 8 ++ List.range' 0x0C0 12 ++ List.range' 0x100 13 ++
    List.range' 0x140 8 ++ List.range' 0x180 22 ++ List.range' 0x1C0 13 ++ List.range' 0x200 12 ++ List.range' 0x240 6 ++
    List.range' 0x280 8 ++ List.range' 0x2C0 6

theorem mem_fullCodes (n : Nat) : n ∈ fullCodes ↔ assignedFull n = true := by
  simp [fullCodes, assignedFull, List.mem_range'_1, Nat.lt_succ_iff, or_assoc]

theorem isOf_decodeFull {w : W64} (h62 : w.getLsbD 62 = false) : IsOf w (decodeFull w) := by
  unfold decodeFull
  split
  case h_150 =>
    refine isOf_unassigned ?_
    simp only [assignedWord, h62, Bool.false_eq_true, if_false]
    generalize (w.extractLsb' 52 10).toNat = n at *
    rw [← Bool.not_eq_true, ← mem_fullCodes]
    simp only [fullCodes, List.range', List.mem_append, List.mem_cons, List.not_mem_nil, or_false, not_or]
    and_intros <;> assumption
  case h_105 | h_107 | h_144 | h_145 | h_146 | h_147 | h_148 | h_149 =>
    next hop => exact isOf_long h62 hop fun _ => ⟨rfl, rfl⟩
  all_goals next hop => exact isOf_full h62 hop fun _ => ⟨rfl, rfl⟩

/-- Settles O36: the opcode selects the row, and the fields that the row reads are the rest of the word. -/
theorem encodeDecode : Obligations.EncodeDecode := by
  unfold Obligations.EncodeDecode
  intro w
  unfold decodeWord
  split
  next h62 => exact isOf_decodePair h62
  next h62 => exact isOf_decodeFull (Bool.eq_false_iff.mpr h62)

/-- Settles O37: the opcode of each word selects its row, and an unassigned slot code leaves the word undecoded. -/
theorem decodedWords : Obligations.DecodedWords := by
  unfold Obligations.DecodedWords
  exact ⟨rfl, rfl, rfl, rfl, rfl, rfl⟩

end Sys2Proof

end

section

/-! PROOF. What a step does (O38): the branches of `step`, and the word that a coach issues. -/

namespace Sys2Proof.Machine

section

variable {s : State}

theorem step_of_coach {c : Coach} (hp : s.power ≠ .off) (hc : s.coach = some c) : step s = exec (coachInstr s) s := by
  simp [step, hp, hc]

theorem coachInstr_of {c q g l : Nat} {r : List (Nat × Nat)} {t : Thread} {f : Fetched} {i : Instr} {rest : List Byte}
    (hc : s.coach = some ⟨c, q, (g, l) :: r⟩) (ht : getT s g l = some t) (hf : t.ibuf = some f)
    (hd : decode (bytesOfWord (f.hi.val ++ f.lo.val)) = .ok (i, rest)) : coachInstr s = i := by
  have hw := decode_bytesOfWord_append (f.hi.val ++ f.lo.val) []
  rw [List.append_nil, hd] at hw
  simp only [Except.ok.injEq, Prod.mk.injEq] at hw
  rw [hw.1]
  simp [coachInstr, coachWord, hc, ht, hf]

theorem step_of_agenda {x : Subject} {i : Instr} {r : List (Subject × Instr)} (hp : s.power ≠ .off) (hc : s.coach = none)
    (ha : s.agenda = (x, i) :: r) : step s = exec i { s with agenda := r, subj := x } := by
  simp [step, hp, hc, ha]

theorem step_of_chosen {x : Subject} {i : Instr} {s' : State} (hp : s.power ≠ .off) (hc : s.coach = none) (ha : s.agenda = [])
    (hn : nextStep s = (some (x, i), s')) : step s = exec i { s' with subj := x } := by
  simp [step, hp, hc, ha, hn]

theorem step_of_turn {s' : State} (hp : s.power ≠ .off) (hc : s.coach = none) (ha : s.agenda = [])
    (hn : nextStep s = (none, s')) :
    step s = after turnOver (exec (.coachFormation (s'.turn / 4) (s'.turn % 4)) s') := by
  simp [step, hp, hc, ha, hn]

theorem nextStep_of_due {x : Subject} {i : Instr} {r : List Next} (hr : s.power = .running) (hd : due s = (x, i) :: r) :
    nextStep s = (some (x, i), s) := by
  simp [nextStep, hr, hd]

end

end Sys2Proof.Machine

namespace Sys2Proof

open Machine in
/-- Settles O38: one lemma for each branch of `step`. -/
theorem stepRunsDecoded : Obligations.StepRunsDecoded := by
  unfold Obligations.StepRunsDecoded
  intro s hp
  refine ⟨fun c q g l r t f i rest hc ht hf hd => ?_, fun hc x i r ha => step_of_agenda hp hc ha,
    fun hc ha hr x i r hd => step_of_chosen hp hc ha (nextStep_of_due hr hd),
    fun hc ha hn => step_of_turn hp hc ha hn⟩
  rw [step_of_coach hp hc, coachInstr_of hc ht hf hd]

end Sys2Proof

end

section

/-! PROOF. The checks that every word shares (O45): a lane alone in its coach whose word stops before its own part. -/

namespace Sys2Proof.Machine

/-! ### A free choice is one of the values -/

theorem pick_mem {l : List Nat} (h : l ≠ []) : pick l ∈ l := by
  have hm : pick l ∈ l.eraseDups := by
    unfold pick
    cases hd : l.eraseDups with
    | nil =>
      obtain ⟨x, hx⟩ := List.exists_mem_of_ne_nil l h
      rw [← List.mem_eraseDups, hd] at hx
      exact absurd hx List.not_mem_nil
    | cons x r =>
      cases r with
      | nil => exact List.mem_singleton_self x
      | cons y r =>
        have hk : Config.subPick x % ((y :: r).length + 1) < (x :: y :: r).length := Nat.mod_lt _ (Nat.succ_pos _)
        simp only [List.getD_eq_getElem _ _ hk]
        exact List.getElem_mem hk
  exact List.mem_eraseDups.mp hm

/-! ### Traps and passes of a lone lane -/

section

variable {i : WordInfo} {pre : State → Nat → Nat → Option Trap} {body : State → Nat → Nat → LaneRes} {s : State}
  {c q g l : Nat} {t : Thread} {x : Trap}

/-- A lane alone in its coach that traps before its word has an effect. -/
theorem issueLanes_trap {ign : Ign} (hc : s.coach = some ⟨c, q, [(g, l)]⟩) (ht : getT s g l = some t)
    (h : laneStep i pre body (taken s) g l = .trap (taken s) x ign) :
    issueLanes i pre body s = trapped s g l t.pc x (fillIgn i.ends (i.dest (taken s) g l) ign) := by
  have hpc : pcOf (taken s) g l = t.pc := by simp [pcOf, getT_taken, ht]
  have hs : issueLanes i pre body s = takeTraps (taken s) [(g, l)] (runLanes i pre body [(g, l)] (taken s)).2
      (runLanes i pre body [(g, l)] (taken s)).1 := by
    unfold issueLanes
    rw [hc]
    rfl
  rw [hs]
  simp [runLanes, h, settleLane, takeTraps_one, hpc, trapped]

theorem laneStep_head (ht : getT s g l = some t) (hh : headTrap i pre s g l t = some x) :
    laneStep i pre body s g l = .trap s x .none := by
  simp [laneStep, ht, hh]

theorem issueLanes_head (hc : s.coach = some ⟨c, q, [(g, l)]⟩) (ht : getT s g l = some t)
    (hh : headTrap i pre (taken s) g l t = some x) : ∃ ign, issueLanes i pre body s = trapped s g l t.pc x ign :=
  ⟨_, issueLanes_trap hc ht (laneStep_head (s := taken s) ht hh)⟩

theorem headTrap_fetch (hf : fetchTrap t = some x) : headTrap i pre s g l t = some x := by
  simp [headTrap, hf]

/-- R71: the word beyond the length of its run, whatever its own checks say. -/
theorem headTrap_long (hf : fetchTrap t = none) (hl : 15 ≤ t.run.len) (hs : i.s = false) (he : i.ender = false) :
    headTrap i pre s g l t = some (longRun (pre s g l)) := by
  simp [headTrap, hf, hl, hs, he]

theorem headTrap_inRun (hf : fetchTrap t = none) (hl : InRun t i.s) : headTrap i pre s g l t = pre s g l := by
  have hl' : InRun t i.ends := hl.imp_right fun h => by simp [WordInfo.ends, h]
  simp only [headTrap, hf, if_neg (inRun_not_long hl')]

/-- A word within its run with a poisoned guard (R66). -/
theorem laneStep_poisoned (ht : getT s g l = some t) (hh : headTrap i pre s g l t = none) (hg : guardOf i.pred t = none) :
    laneStep i pre body s g l = .trap s (trapOf causePoison) .none := by
  simp [laneStep, ht, hh, hg]

/-- A word that ILLEGAL_OPCODE refuses, beyond the length of its run or not (log entry 30). -/
theorem issueLanes_illegal {n : Nat} (hw : Lone s g l t) (he : i.ender = false)
    (hp : pre (taken s) g l = some (trapOf causeIllegalOpcode n)) :
    ∃ ign m, issueLanes i pre body s = trapped s g l t.pc (trapOf causeIllegalOpcode m) ign ∧ (m = n ∨ m = 4) ∧
      (InRun t i.s → m = n) := by
  obtain ⟨c, q, hc⟩ := lone_coach hw
  obtain ⟨-, ht, -, hf⟩ := hw
  by_cases hl : InRun t i.s
  · have hh := headTrap_inRun (i := i) (pre := pre) (s := taken s) (g := g) (l := l) hf hl
    obtain ⟨ign, h⟩ := issueLanes_head (body := body) hc ht (hh.trans hp)
    exact ⟨ign, n, h, Or.inl rfl, fun _ => rfl⟩
  · have hlen : 15 ≤ t.run.len ∧ i.s = false := by
      rw [InRun, not_or, Nat.not_lt, Bool.not_eq_true] at hl
      exact hl
    have hh := headTrap_long (i := i) (pre := pre) (s := taken s) (g := g) (l := l) hf hlen.1 hlen.2 he
    have hm : pick [4, n] = 4 ∨ pick [4, n] = n := by simpa using pick_mem (l := [4, n]) (by simp)
    obtain ⟨ign, h⟩ := issueLanes_head (body := body) hc ht hh
    refine ⟨ign, pick [4, n], ?_, hm.symm, fun h => absurd h hl⟩
    rw [h, hp]
    rfl

end

/-! ### Checks 1 to 5 of the words of R75 -/

/-- None of them is a failure of check 1. -/
theorem cause_r75Pre {r : Row} {f : FullWord} {s : State} {g l : Nat} {x : Trap} (h : r75Pre r f s g l = some x) :
    x.cause ≠ causeIllegalOpcode := by
  have hs : ∀ y, subTrap (r75Subs r f) = some y → y.cause ≠ causeIllegalOpcode := by
    intro y hy
    simp only [subTrap] at hy
    grind [trapOf, causeIllegalOpcode, causeIllegalOperand]
  have hr : ∀ y, regTrap (nreqOf s g) (r75Regs r f) = some y → y.cause ≠ causeIllegalOpcode := by
    intro y hy
    simp only [regTrap] at hy
    grind [trapAt, causeIllegalOpcode, causeRegBound]
  have h5 : ∀ y, r75Check5 f s g = some y → y.cause ≠ causeIllegalOpcode := by
    intro y hy
    simp only [r75Check5, qCheck] at hy
    grind [trapOf, causeIllegalOpcode, causeQueue, causeProtection]
  simp only [r75Pre, Option.or_eq_some_iff] at h
  grind

theorem longRun_r75Pre {r : Row} {f : FullWord} {s : State} {g l : Nat} :
    longRun (r75Pre r f s g l) = trapOf causeIllegalOpcode 4 := by
  unfold longRun
  split
  next x hx => rw [if_neg (cause_r75Pre hx)]
  next => rfl

theorem r75Pre_bound {r : Row} {f : FullWord} {s : State} {g l n : Nat} (hs : r75Subs r f = [])
    (hr : outOfBound (nreqOf s g) (r75Regs r f) = [n]) :
    r75Pre r f s g l = some (trapAt causeRegBound 0 (BitVec.ofNat 64 n)) := by
  simp [r75Pre, hs, subTrap, regTrap, hr, pick, List.eraseDups, List.eraseDupsBy, List.eraseDupsBy.loop]

theorem exec_pairInstr (ox : SlotOp) (p : PairWord) (s : State) : exec (pairInstr ox p) s = issuePair ox p s := by
  cases ox <;> rfl

theorem exec_unassigned (w : W64) (s : State) : exec (.unassignedOpcode w) s = execUnassignedOpcode w s := rfl

end Sys2Proof.Machine

namespace Sys2Proof

open Machine in
/-- Settles O45: what stops a word of R75 in `headTrap` and at its guard, and the two words that check 1 refuses. -/
theorem issueChecks : Obligations.IssueChecks := by
  unfold Obligations.IssueChecks
  intro s c q g l t i op hc ht hr hop stops
  have hexec := exec_of_r75Op hop s
  simp only [stops]
  rw [hexec]
  simp only [Host.Outcome.next.injEq]
  refine ⟨fun f hf hp => ?_, fun f hf hlo hhi hm => ?_, fun hf hlen hs => ?_, fun hw hl hpre => ⟨fun hg => ?_, fun hg => ?_⟩,
    fun hw hl hsub r hreg => ?_, fun hw w => ?_, fun hw ox p hcls hi => ?_⟩
  · exact issueLanes_head hc ht (headTrap_fetch (by simp [fetchTrap, hf, hp]))
  · exact issueLanes_head hc ht (headTrap_fetch (by simp [fetchTrap, hf, hlo, hhi, hm]))
  · exact issueLanes_head hc ht ((headTrap_long hf hlen hs rfl).trans (congrArg some longRun_r75Pre))
  · exact ⟨_, issueLanes_trap hc ht (laneStep_poisoned (s := taken s) ht
      ((headTrap_inRun hw.2.2.2 hl).trans hpre) hg)⟩
  · exact issueLanes_off hc ht ((headTrap_inRun hw.2.2.2 hl).trans hpre) hg hr
  · exact issueLanes_head hc ht ((headTrap_inRun hw.2.2.2 hl).trans (r75Pre_bound hsub hreg))
  · simp only [exec_unassigned, execUnassignedOpcode, Host.Outcome.next.injEq]
    exact issueLanes_illegal hw rfl rfl
  · simp only [exec_pairInstr, issuePair, Host.Outcome.next.injEq]
    exact issueLanes_illegal hw rfl (if_pos ⟨hcls, hi⟩)

end Sys2Proof

end

section

/-! PROOF. The operand modes (O12): what `mov` does with the word that its operand A gives, and the word that each mode
gives. -/

namespace Sys2Proof.Machine

/-! ### The fields of an R75 word -/

section

variable {f : FullWord} {ty m sel xm : Nat}

theorem Moded.tyOf (h : Moded f ty m sel xm) : tyOf f = ty := by
  obtain ⟨hmod, hm, hsel, hxm, -⟩ := h
  unfold Machine.tyOf
  omega

theorem Moded.omodeOf (h : Moded f ty m sel xm) : omodeOf f = m := by
  obtain ⟨hmod, hm, hsel, hxm, -⟩ := h
  unfold Machine.omodeOf
  omega

theorem Moded.oselOf (h : Moded f ty m sel xm) : oselOf f = sel := by
  obtain ⟨hmod, hm, hsel, hxm, -⟩ := h
  unfold Machine.oselOf
  omega

theorem Moded.xmOf (h : Moded f ty m sel xm) : xmOf f = BitVec.ofNat 6 xm := by
  obtain ⟨hmod, hm, hsel, hxm, -⟩ := h
  apply BitVec.eq_of_toNat_eq
  rw [Machine.xmOf, BitVec.toNat_setWidth, BitVec.toNat_ofNat]
  omega

end

/-! ### Words as they stand -/

/-- A word that passes its comparison is written as it stands, poison among them (R28, R121). -/
theorem settle_copy {w : Word} (h : mismatch w = false) : settle (isPoison w) (.copy w) = some w := by
  obtain ⟨v, r⟩ := w
  by_cases hp : r = 15#4
  · subst hp
    rfl
  · have hr : r = resOf v := by simpa [mismatch, isPoison, agrees, hp] using h
    have hn : r.toNat = v.toNat % 15 := by rw [hr, resOf_toNat]
    have h15 : v.toNat % 15 < 15 := Nat.mod_lt _ (by decide)
    simp [settle, isPoison, hp, Cut.copy, hn, h15, ← hr]

theorem sticky_or_zero (u : Thread) : { u with sticky := u.sticky ||| 0, seed := u.seed } = u := by
  rw [show u.sticky ||| 0 = u.sticky from BitVec.or_zero]

/-- A word with register results only, in time and late. -/
theorem commit_words (psn : Bool) (vs : AList Word) (ws : List Cut) :
    commit none psn vs { words := ws } = fun t => vs.foldl (fun t x => writeV t x.1 x.2) t := by
  funext t
  simp only [commit, deliver, deliverX, List.map_nil, List.foldl_nil, Option.getD_none]
  exact sticky_or_zero _

theorem commit_late_words (c : Nat) (psn : Bool) (d : Nat) (w : Word) (ws : List Cut) :
    commit (some c) psn [(d, w)] { words := ws } = pending .direct [(d, w)] [] [] c := by
  funext t
  simp only [commit, deliver, deliverX, List.map_nil, List.foldl_nil, Option.getD_none, List.isEmpty_nil, List.isEmpty_cons,
    Bool.false_and, Bool.false_eq_true, if_true, if_false]
  exact sticky_or_zero _

theorem outOfBound_within {s : State} {g : Nat} {rs : List Byte} (h : ∀ r ∈ rs, Within s g r) :
    outOfBound (nreqOf s g) (rs.map BitVec.toNat) = [] := by
  simp only [outOfBound, List.filter_eq_nil_iff, List.forall_mem_map, Bool.and_eq_true, decide_eq_true_eq, bne_iff_ne, not_and]
  intro r hr hn h255
  rcases h r hr with hlt | rfl
  · omega
  · exact h255 rfl

theorem retry_taken {s : State} {g l : Nat} {t : Thread} (hw : Lone s g l t) :
    (getT (taken s) g l).bind (·.retry) = none := by
  obtain ⟨-, ht, hr, -⟩ := hw
  rw [getT_taken, ht]
  exact hr

/-! ### mov -/

section

variable {s s1 : State} {g l m : Nat} {t : Thread} {f : FullWord} {w : Word}

/-- A mov of vector registers, with one operand mode. -/
theorem rowMov_eq (hty : tyOf f = 0) (hxm : xmOf f = 0) :
    rowMov f = { d := .v 0, a := .v 0, b := .z, c := .z, types := typesB, xm := 0x0F, cbTy := 0 } := by
  simp only [rowMov, rowDA, movSubs, hty, hxm]
  rfl

theorem runMov_copy {a b c : List Word} (hxm : xmOf f = 0) : runMov ⟨f, a, b, c, t⟩ = aluCopy a := by
  simp only [runMov, Ctx.xm, hxm]
  rfl

/-- A mov with a mode for A: the word that A gives is written as it stands, late where it was popped. -/
theorem exec_mov_word {sel : Nat} (hw : AtWord s g l t f.pred f.s) (hf : Moded f 0x00 m sel 0) (hsel : sel ≠ 3)
    (hpre : r75Pre (rowMov f) f (taken s) g l = none)
    (ha : readOperand (rowMov f) f (taken s) g l t 0 = .words s1 [w]) (hwd : mismatch w = false) (hcalm : Calm s1 g)
    (hr : (getT s1 g l).bind (·.retry) = none) :
    let done := modT s1 g l (commit (if popsQueue f then some s1.cycle else none) (isPoison w) [(f.d.toNat, w)] (aluCopy [w]))
    exec (.mov f) s = .next (past (if popsQueue f then qFlag done g l (fieldAt f (oselOf f)) false else done) g l f.s) := by
  intro done
  have hrow := rowMov_eq hf.tyOf hf.xmOf
  have hd : destRegs (rowMov f) f (nreqOf (taken s) g) t = .ok [f.d.toNat] := by
    simp [destRegs, hrow, isDirect, hf.oselOf, hsel, nRegs, wide]
  have hb : readOperand (rowMov f) f s1 g l t 1 = .words s1 [] := by simp [readOperand, hrow, Row.at_]
  have hc : readOperand (rowMov f) f s1 g l t 2 = .words s1 [] := by simp [readOperand, hrow, Row.at_]
  have hpsn : operandsPoisoned (rowMov f) t ([w] ++ [] ++ []) = isPoison w := by simp [operandsPoisoned, hrow]
  have hset : settleAll (isPoison w) (aluCopy [w]).words = some [w] := by simp [aluCopy, settleAll, settle_copy hwd]
  have hbody := aluLane_commits (cls := 6) (run := runMov) (ws := [w]) (s := taken s) hw.1.2.1 (.inr (by rwa [hf.oselOf])) hd ha hb hc hcalm
  simp only [runMov_copy hf.xmOf, hpsn] at hbody
  rw [exec_of_r75Op (op := ⟨f, rowMov f, 6, runMov⟩) rfl]
  refine congrArg _ (done_of (atWord_ends rfl hw) hpre rfl rfl (hbody rfl (.inr rfl) hset) ?_)
  have hdone : (getT done g l).bind (·.retry) = none := (retry_modT (commit_retry _ _ _ _)).trans hr
  change (getT (if popsQueue f then qFlag done g l (fieldAt f (oselOf f)) false else done) g l).bind (·.retry) = none
  split
  · exact retry_qFlag.trans hdone
  · exact hdone

/-- The same for a mode that pops no queue. -/
theorem exec_mov_value {v : W32} (hw : AtWord s g l t f.pred f.s) (hcalm : Calm s g) (hf : Moded f 0x00 m 0 0) (hm : m ≠ 4)
    (hpre : r75Pre (rowMov f) f (taken s) g l = none)
    (ha : readOperand (rowMov f) f (taken s) g l t 0 = .words (taken s) [gen v]) :
    exec (.mov f) s = .next (did s g l f.s (setV f.d v)) := by
  have hq : popsQueue f = false := by simp [popsQueue, hf.omodeOf, hm]
  have h := exec_mov_word hw hf (by decide) hpre ha (mismatch_gen v) hcalm (retry_taken hw.1)
  simp only [hq, Bool.false_eq_true, if_false, isPoison_gen] at h
  rw [h, aluCopy, commit_words]
  rfl

end

/-! ### The word that each mode gives -/

section

variable {s : State} {g l m : Nat} {t : Thread} {f : FullWord}

/-- Every field of a mov with a mode for A is as R87 asks. -/
theorem r75Subs_mov (hf : Moded f 0x00 m 0 0) (hm : m ∈ [1, 2, 5, 6]) (hb : f.b = 0) (hc : m ≠ 2 → f.c = 0)
    (ha : m = 5 → f.a.toNat < 32) (hcb : m = 2 → f.c.getLsbD 3 = false → f.c.getLsbD 2 = false) : r75Subs (rowMov f) f = [] := by
  have hpred := hf.2.2.2.2
  simp only [List.mem_cons, List.not_mem_nil, or_false] at hm
  rcases hm with rfl | rfl | rfl | rfl <;>
    simp_all [r75Subs, rowMov_eq hf.tyOf hf.xmOf, hf.tyOf, hf.omodeOf, hf.oselOf, hf.xmOf, typesB, modeAllowed, Row.at_, isV,
      fieldSubs, fieldAt, isDirect, codebookSubs, wide, packedTy]

/-- The registers that it names directly. -/
theorem r75Regs_mov (hf : Moded f 0x00 m 0 0) (hm : m ≠ 0) : r75Regs (rowMov f) f =
    (if m = 2 ∨ m = 3 then [f.d, f.a] else [f.d]).map BitVec.toNat := by
  have hD : isDirect f 3 = true := by simp [isDirect, hf.oselOf]
  have hA : isDirect f 0 = false := by simp [isDirect, hf.oselOf, hf.omodeOf, hm]
  simp only [r75Regs, rowMov_eq hf.tyOf hf.xmOf, hf.omodeOf, Row.at_, hD, hA, List.flatMap_cons, List.flatMap_nil, fieldAt,
    if_true, nRegs, show wide 0x00 = false from rfl, Bool.false_eq_true, if_false]
  split <;> simp

/-- Checks 3 to 5 pass where the named registers are in bound and the bank of a codebook is owned. -/
theorem r75Pre_mov (hf : Moded f 0x00 m 0 0) (hm : m ∈ [1, 2, 5, 6]) (hb : f.b = 0) (hc : m ≠ 2 → f.c = 0)
    (ha : m = 5 → f.a.toNat < 32) (hcb : m = 2 → f.c.getLsbD 3 = false → f.c.getLsbD 2 = false) (hd : Within s g f.d)
    (hr : m = 2 → Within s g f.a ∧ ownsBank s g (f.c.toNat / 16) = true) : r75Pre (rowMov f) f (taken s) g l = none := by
  have h0 : m ≠ 0 := by
    rintro rfl
    simp at hm
  have hbound : outOfBound (nreqOf s g) (r75Regs (rowMov f) f) = [] := by
    rw [r75Regs_mov hf h0]
    refine outOfBound_within fun r hx => ?_
    split at hx <;> grind
  have h5 : r75Check5 f (taken s) g = none := by
    simp only [List.mem_cons, List.not_mem_nil, or_false] at hm
    rcases hm with rfl | rfl | rfl | rfl <;> simp only [r75Check5, hf.omodeOf]
    exact if_pos (hr rfl).2
  simp [r75Pre, r75Subs_mov hf hm hb hc ha hcb, subTrap, regTrap, nreqOf_taken, hbound, h5]

/-- R77. -/
theorem indirect_ok {n nreq : Nat} {x : Byte} (hn : n < nreq) (h255 : n ≠ 255)
    (h : (n : Int) = (readX t (x.toNat / 64)).toNat + (x.setWidth 6).toInt) : indirect t nreq 0x00 x = .ok n := by
  simp only [indirect, ← h]
  have : ¬((n : Int) < 0 ∨ (nreq : Int) ≤ n ∨ (n : Int) = 255) := by omega
  rw [if_neg this]
  simp [wide]

/-- The half residues of a sound entry give the residue of its word (R23, R78). -/
theorem word_of_entry {e : CbEntry} (h : entryTrap e = none) :
    (⟨e.val, BitVec.ofNat 4 ((e.h0.toNat + e.h1.toNat) % 15)⟩ : Word) = gen e.val := by
  have hs : rho (e.val.toNat % 65536 : Nat) = e.h0.toNat ∧ rho (e.val.toNat / 65536 : Nat) = e.h1.toNat := by
    unfold entryTrap at h
    grind
  have hv : (e.h0.toNat + e.h1.toNat) % 15 = e.val.toNat % 15 := by
    rw [← hs.1, ← hs.2]
    simp only [rho]
    omega
  rw [hv]
  rfl

/-- R78, codebook expansion of a word. -/
theorem expand_word {core i : Nat} {c : Byte} {idx : W32} {e : CbEntry}
    (hi : i = if c.getLsbD 3 then idx.toNat / 16 ^ (c.toNat % 8) % 16 else idx.toNat / 256 ^ (c.toNat % 8) % 256)
    (he : bankEntry s core (c.toNat / 16) i = e) (ht : entryTrap e = none) : expand s core 2 c (gen idx) = .ok (gen e.val) := by
  simp only [expand, isPoison_gen, gen_val, ← hi, he, ht, word_of_entry ht]
  rfl

/-- What operand A of a mov gives under a mode. -/
theorem readOperand_mov_indirect {n : Nat} (hf : Moded f 0x00 1 0 0) (hx : indirect t (nreqOf s g) 0x00 f.a = .ok n) :
    readOperand (rowMov f) f s g l t 0 = .words s [readV t n] := by
  simp [readOperand, rowMov_eq hf.tyOf hf.xmOf, Row.at_, fieldAt, isDirect, hf.oselOf, hf.omodeOf, hx, regsFrom, nRegs, wide]

theorem readOperand_mov_codebook {w : Word} (hf : Moded f 0x00 2 0 0)
    (hx : expand s (coreOf s g) 2 f.c (readV t f.a.toNat) = .ok w) : readOperand (rowMov f) f s g l t 0 = .words s [w] := by
  simp [readOperand, rowMov_eq hf.tyOf hf.xmOf, Row.at_, fieldAt, isDirect, hf.oselOf, hf.omodeOf, hx, openHigh, wide]

theorem readOperand_mov_uniform {W : Wg} (hf : Moded f 0x00 5 0 0) (hW : wgOf s g = some W) :
    readOperand (rowMov f) f s g l t 0 = .words s [W.g.getD f.a.toNat .zero] := by
  simp [readOperand, rowMov_eq hf.tyOf hf.xmOf, Row.at_, fieldAt, isDirect, hf.oselOf, hf.omodeOf, hW, nRegs, wide]

theorem readOperand_mov_immediate (hf : Moded f 0x00 6 0 0) :
    readOperand (rowMov f) f s g l t 0 = .words s [gen (f.a.signExtend 32)] := by
  simp [readOperand, rowMov_eq hf.tyOf hf.xmOf, Row.at_, fieldAt, isDirect, hf.oselOf, hf.omodeOf, imm8, packedTy, wide]
  rfl

end

end Sys2Proof.Machine

namespace Sys2Proof

open Machine in
/-- Settles O12: `exec_mov_value` with the word that each mode reads. -/
theorem operandModes : Obligations.OperandModes := by
  unfold Obligations.OperandModes
  intro s g l t f v hw hcalm hd hb
  refine ⟨fun n hf hc hn h255 hx hv => ?_, fun idx i e hf ha hidx hcb hown hi he hte => ?_,
    fun W hf hc ha hW hv => ?_, fun hf hc => ?_⟩
  · have ha : indirect t (nreqOf (taken s) g) 0x00 f.a = .ok n := indirect_ok hn h255 hx
    refine exec_mov_value hw hcalm hf (by decide)
      (r75Pre_mov hf (by simp) hb (fun _ => hc) (by simp) (by simp) hd (by simp)) ?_
    rw [readOperand_mov_indirect hf ha, hv]
  · have hx : expand (taken s) (coreOf (taken s) g) 2 f.c (readV t f.a.toNat) = .ok (gen e.val) := by
      rw [show readV t f.a.toNat = gen idx from hidx]
      exact expand_word hi he hte
    have hc : f.c.getLsbD 3 = false → f.c.getLsbD 2 = false := fun h3 => by rwa [h3, Bool.not_false, Bool.and_true] at hcb
    exact exec_mov_value hw hcalm hf (by decide)
      (r75Pre_mov hf (by simp) hb (by simp) (by simp) (fun _ => hc) hd fun _ => ⟨ha, hown⟩) (readOperand_mov_codebook hf hx)
  · refine exec_mov_value hw hcalm hf (by decide)
      (r75Pre_mov hf (by simp) hb (fun _ => hc) (fun _ => ha) (by simp) hd (by simp)) ?_
    rw [readOperand_mov_uniform (s := taken s) hf hW, hv]
  · exact exec_mov_value hw hcalm hf (by decide)
      (r75Pre_mov hf (by simp) hb (fun _ => hc) (by simp) (by simp) hd (by simp)) (readOperand_mov_immediate hf)

end Sys2Proof

end

section

/-! PROOF. The events of a quarter (O52): how a thread stands with the members of its participation in ascending order, what a
coach is made of, and what each event makes of its thread. -/

namespace Sys2Proof.Machine

/-! ### Participations name their lanes in ascending order (R289, R290) -/

/-- The lanes that a thread stands ready to join are in ascending order. -/
def Ascending (x : Stand) : Prop := ∀ ms, x = .join ms → ms.Pairwise (· < ·)

theorem liveLanes_pairwise (G : Group) : (liveLanes G).Pairwise (· < ·) := List.pairwise_lt_range.filter _

theorem ascending_free : Ascending .free := nofun

theorem ascending_stop (b : Bool) : Ascending (.stop b) := nofun

theorem ascending_join {ms : List Nat} (h : ms.Pairwise (· < ·)) : Ascending (.join ms) := by
  rintro _ ⟨⟩
  exact h

theorem ascending_alone (held watched : Bool) : Ascending (alone held watched) := by
  cases held
  · exact ascending_free
  · exact ascending_stop watched

section

variable {s : State} {g l : Nat}

theorem allLanes_pairwise : (allLanes s g).Pairwise (· < ·) := by
  unfold allLanes
  cases getG s g with
  | none => exact .nil
  | some G => exact liveLanes_pairwise G

theorem lanesAt_pairwise (pc : W64) : (lanesAt s g pc).Pairwise (· < ·) := by
  unfold lanesAt
  split
  · exact .nil
  next G _ => exact (liveLanes_pairwise G).filter _

theorem ascending_together (held watched : Bool) : Ascending (together s g l held watched) := by
  simp only [together]
  split
  · split
    · exact ascending_stop watched
    · exact ascending_join allLanes_pairwise
  · exact ascending_stop true

theorem ascending_gsetStand : Ascending (gsetStand s g l) := ascending_together _ _

theorem handlerLanes_pairwise (G : Group) : (handlerLanes G).Pairwise (· < ·) := by
  unfold handlerLanes
  split
  · exact (liveLanes_pairwise G).filter _
  · exact .nil

theorem ascending_sinjStand : Ascending (sinjStand s g l) := by
  unfold sinjStand
  split
  next k ks h =>
    obtain ⟨G, -, hG⟩ := Option.map_eq_some_iff.mp h
    split
    · exact ascending_join (hG ▸ handlerLanes_pairwise G)
    · exact ascending_stop true
  · exact ascending_free

theorem clashing_pairwise {c : Byte} {shown : List Nat} (h : shown.Pairwise (· < ·)) :
    ∀ (n : Nat) (ls : List Nat), ls.Pairwise (· < ·) → (clashing s g c shown n ls).Pairwise (· < ·)
  | 0, _, hl => hl
  | n + 1, _, _ => clashing_pairwise h n _ (h.filter _)

theorem partyOf_pairwise {f : FullWord} {ms : List Nat} (h : partyOf f s g l = .members ms ∨ partyOf f s g l = .clash ms) :
    ms.Pairwise (· < ·) := by
  have hlive : (((getG s g).map liveLanes).getD []).Pairwise (· < ·) := allLanes_pairwise
  simp only [partyOf] at h
  split at h
  · split at h <;> simp only [Party.members.injEq, reduceCtorEq, or_false, or_self] at h
    exact h ▸ hlive
  · split at h
    · simp at h
    next m _ =>
      split at h
      · simp only [Party.clash.injEq, reduceCtorEq, false_or] at h
        exact h ▸ clashing_pairwise ((lanesAt_pairwise _).filter _) _ _ (List.pairwise_singleton _ l)
      · split at h
        · simp at h
        · split at h <;> simp only [Party.members.injEq, reduceCtorEq, or_false, or_self] at h
          exact h ▸ hlive.filter _

theorem ascending_crossStand (f : FullWord) : Ascending (crossStand f s g l) := by
  unfold crossStand
  split
  · exact ascending_free
  · exact ascending_stop true
  next ms h => exact ascending_join (partyOf_pairwise (.inl h))
  next ms h => exact ascending_join (partyOf_pairwise (.inr h))

theorem ascending_wordStand (i : Instr) : Ascending (wordStand s g l i) := by
  unfold wordStand
  split
  case h_5 => exact ascending_gsetStand
  case h_17 | h_18 | h_19 | h_20 | h_21 | h_22 | h_23 => exact ascending_crossStand _
  case h_24 => exact ascending_sinjStand
  case h_1 | h_2 | h_3 | h_4 | h_6 | h_7 | h_8 | h_9 | h_10 => exact ascending_together _ _
  case h_29 => exact ascending_free
  all_goals exact ascending_alone _ _

theorem ascending_baseStand (G : Group) (t : Thread) : Ascending (baseStand s g G l t) := by
  unfold baseStand
  split_ifs
  · exact ascending_stop false
  · exact ascending_stop _
  · split
    · exact ascending_stop false
    · exact ascending_free
  · split
    · exact ascending_stop false
    · split
      · exact ascending_free
      · exact ascending_stop _

theorem ascending_standOf (G : Group) (t : Thread) : Ascending (standOf s g G l t) := by
  unfold standOf
  split
  · split
    · exact ascending_stop false
    · split
      · exact ascending_free
      · split
        · exact ascending_stop false
        next fw _ =>
          have h := ascending_wordStand (s := s) (g := g) (l := l) (decodeWord (fetchedWord fw))
          split
          next ms hm =>
            split
            · exact ascending_join (h ms hm)
            · exact ascending_stop true
          · exact h
  · exact ascending_baseStand G t

/-! ### The coach (R290) -/

/-- The lane columns of an entry ascend. -/
def Columns (ls : List (Nat × Nat)) : Prop := (ls.map (·.2)).Pairwise (· < ·)

theorem columns_groupEntries {G : Group} {e : Entry} (he : e ∈ groupEntries s g G) : Columns e.lanes := by
  simp only [groupEntries, List.mem_filterMap, Option.bind_eq_some_iff] at he
  obtain ⟨k, -, t, -, he⟩ := he
  split at he
  · cases he
  · split at he
    · cases he
    · cases he
      exact List.pairwise_singleton _ _
    next ms hms =>
      split at he <;> cases he
      simpa [Columns] using ascending_standOf G t ms hms

theorem mem_of_headEntry {n : Nat} {es : List Entry} {e : Entry} (h : headEntry n es = some e) : e ∈ es := by
  have hf : e ∈ es.filter fun e => !es.any fun x => ahead x e := by
    unfold headEntry at h
    split at h
    · cases h
    next x hx => cases h; simp [hx]
    next x r hx => rw [hx]; exact List.mem_of_getElem? h
  exact List.mem_of_mem_filter hf

theorem snd_of_columnBest {h : Entry} {es : List Entry} {c : Nat} {p : Nat × Nat} (hp : columnBest h es c = some p) : p.2 = c := by
  simp only [columnBest, Option.bind_eq_some_iff] at hp
  obtain ⟨e, he, hl⟩ := hp
  have hm := List.mem_of_find?_eq_some he
  obtain ⟨r, hr⟩ := List.head?_eq_some_iff.mp hl
  have hc := (List.mem_filter.mp hm).2
  simp only [hr, Bool.and_eq_true, List.headD_cons, beq_iff_eq] at hc
  exact hc.2

theorem columns_filterMap_columnBest (h : Entry) (es : List Entry) (n : Nat) :
    Columns ((List.range n).filterMap (columnBest h es)) := by
  unfold Columns
  rw [List.pairwise_map]
  refine List.pairwise_lt_range.filterMap _ fun a b hab p hp q hq => ?_
  rw [snd_of_columnBest hp, snd_of_columnBest hq]
  exact hab

theorem columns_coachOf {core qtr : Nat} {c : Coach} (hc : coachOf s core qtr = some c) : Columns c.lanes := by
  simp only [coachOf, Option.map_eq_some_iff] at hc
  obtain ⟨e, he, rfl⟩ := hc
  obtain ⟨x, -, hx⟩ := List.mem_flatMap.mp (mem_of_headEntry he)
  dsimp only
  split
  · exact columns_groupEntries hx
  · exact columns_filterMap_columnBest _ _ _

theorem exec_coachFormation {core qtr : Nat} (hn : s.coach = none) {c : Coach} (hc : coachOf s core qtr = some c) :
    exec (.coachFormation core qtr) s = .next { s with coach := some c, issued := s.issued ++ c.lanes, free := s.free + 1 } := by
  simp [exec, execCoachFormation, hn, hc]

theorem exec_coachFormation_none {core qtr : Nat} (hn : s.coach = none) (hc : coachOf s core qtr = none) :
    exec (.coachFormation core qtr) s = .next s := by
  simp [exec, execCoachFormation, hn, hc]

end

/-! ### Results that land (R72, R198) -/

section

variable {s : State} {g l : Nat} {t : Thread}

theorem oldestPend_of {q : Pend} {r : List Pend} (hp : t.pend = q :: r) (hq : q.src = .direct) : oldestPend t = some q.cycle := by
  simp [oldestPend, hp, hq]

theorem landThose_none {sel : Pend → Bool} (h : ∀ p ∈ t.pend, sel p = false) : landThose sel t = t := by
  have hno : t.pend.filter sel = [] := List.filter_eq_nil_iff.mpr fun p hp => by simp [h p hp]
  have hall : (t.pend.filter fun p => !sel p) = t.pend := List.filter_eq_self.mpr fun p hp => by simp [h p hp]
  simp [landThose, hno, hall]

theorem landThose_first {d : Nat} {w : Word} {c : Nat} {r : List Pend} (hp : t.pend = ⟨.direct, [(d, w)], [], [], c⟩ :: r)
    (hr : ∀ p ∈ r, issuedIn c p = false) : landThose (issuedIn c) t = landV { t with pend := r } d w := by
  have hno : r.filter (issuedIn c) = [] := List.filter_eq_nil_iff.mpr fun p hp => by simp [hr p hp]
  have hall : (r.filter fun p => !issuedIn c p) = r := List.filter_eq_self.mpr fun p hp => by simp [hr p hp]
  have hc : issuedIn c ⟨.direct, [(d, w)], [], [], c⟩ = true := by simp [issuedIn]
  simp [landThose, hp, hc, hno, hall, landPending, landAll]

/-- What the result of a thread makes of the state: all threads of the group take what was issued in its cycle. -/
theorem exec_variableLatencyResult {c : Nat} (ht : getT s g l = some t) (hc : oldestPend t = some c) :
    exec (.variableLatencyResult g l) s =
      .next (modG s g fun G => { G with threads := G.threads.map (landThose (issuedIn c)) }) := by
  simp [exec, execVariableLatencyResult, ht, hc]

theorem getT_mapThreads {k : Nat} {u : Thread} {F : Thread → Thread} (hu : getT s g k = some u) :
    getT (modG s g fun G => { G with threads := G.threads.map F }) g k = some (F u) := by
  obtain ⟨G, hG, hu⟩ := Option.bind_eq_some_iff.mp hu
  simp [getT, getG_modG, hG, hu]

theorem readV_landV {d : Nat} {w : Word} (hd : d < t.v.length) (h255 : d ≠ 255) :
    readV (landV t d w) d = w ∨ (aget (adel t.run.v d) d).isSome := by
  cases h : aget (adel t.run.v d) d with
  | some a => exact .inr rfl
  | none => exact .inl (by simp [readV, landV, h255, h, hd])

/-! ### Fetch (R69) -/

theorem not_mem_fetchLanes {f : Fetched} (ht : getT s g l = some t) (hf : t.ibuf = some f) : l ∉ fetchLanes s g l := by
  obtain ⟨G, hG, hl⟩ := Option.bind_eq_some_iff.mp ht
  simp [fetchLanes, fetchers, hG, hl, hf]

theorem fetchGroup_of_not_mem (h : l ∉ fetchLanes s g l) : fetchGroup s g l = s := by
  unfold fetchGroup
  cases getG s g with
  | none => rfl
  | some G => simp [h]

theorem getG_notePage (page : Nat) (sup : Bool) (h : Nat) : getG (notePage s g page sup) h = getG s h := by
  unfold notePage
  split <;> rfl

/-- A word that arrives for one lane alone. -/
theorem fetchGroup_lone {G : Group} {lo hi : Word} {s1 s2 : State} (hG : getG s g = some G) (ht : getT s g l = some t)
    (hl : fetchLanes s g l = [l]) (hlo : fetchHalf s G.core (partOf s g) (isSuper G l) t.pc.toNat = (.ok lo, s1))
    (hhi : fetchHalf s1 G.core (partOf s1 g) (isSuper G l) (t.pc + 4).toNat = (.ok hi, s2)) :
    fetchGroup s g l = modT (notePage s2 g (t.pc.toNat / 65536) (isSuper G l)) g l fun t => { t with ibuf := some ⟨lo, hi⟩ } := by
  have hpc : pcOf s g l = t.pc := by simp [pcOf, ht]
  simp only [fetchGroup, hG, hl, hpc, hlo, hhi]
  simp

theorem exec_instructionFetchComplete {f : Fetched} (hl : lineMates s g l = [l])
    (ht : getT (fetchGroup s g l) g l = some t) (hf : t.ibuf = some f) :
    exec (.instructionFetchComplete g l) s = .next (fetchGroup s g l) := by
  have h2 := fetchGroup_of_not_mem (not_mem_fetchLanes ht hf)
  simp [exec, execInstructionFetchComplete, hl, h2]

/-! ### Waits, ages and the watchdog (R186, R198, R225, R287) -/

theorem exec_agePromotion (ht : getT s g l = some t) (hw : 4096 ≤ t.w) (hl : t.live = true) :
    exec (.agePromotion g l) s = .next (modT s g l fun t => { t with cls := .promoted }) := by
  simp [exec, execAgePromotion, ht, hw, hl]

theorem exec_waitCyclesElapsed (ht : getT s g l = some t) (hw : waitDone s g t = true) :
    exec (.waitCyclesElapsed g l) s = .next (modT s g l fun t => { t with wait := .none, stuck := 0 }) := by
  simp [exec, execWaitCyclesElapsed, ht, hw]

theorem exec_watchdog (ht : getT s g l = some t) (ho : overdue s g l = [l]) :
    exec (.watchdog g l) s = .next (dropStale (takeTrap s g t.pc [(l, trapAt causeWatchdog 0 0, .none)])) := by
  simp [exec, execWatchdog, ho, pcOf, ht]

theorem exec_sacqGrant {xs : Bool} {line : Nat} {w : SyncWait} {r : List SyncWait} (hw : waiters s xs line = w :: r)
    (hg : (syncGrant w.excl (objectWord s w)).isSome) : exec (.sacqGrant xs line) s =
      .next { s with syncWaits := s.syncWaits.map fun x => if x.is w.grp w.lane then { x with granted := true } else x } := by
  simp [exec, execSacqGrant, hw, hg]

/-- A waiter at an object has its thread waiting there. -/
theorem wait_of_waiter {xs : Bool} {line : Nat} {w : SyncWait} (hw : w ∈ waiters s xs line) (ht : getT s w.grp w.lane = some t) :
    t.wait = .sacq := by
  have h := (List.mem_filter.mp hw).2
  simp only [ht, Bool.and_eq_true, Option.any_some, beq_iff_eq] at h
  exact h.2

/-- The wait of a lane that the object lets through is over. -/
theorem waitOver_sacq_granted {G : Group} {w : SyncWait} (hm : w ∈ s.syncWaits) (hw : w.is g l = true) (ht : t.wait = .sacq) :
    waitOver { s with syncWaits := s.syncWaits.map fun x => if x.is g l then { x with granted := true } else x } g G l t = true := by
  have hg : SyncWait.is g l { w with granted := true } = true := hw
  simp only [waitOver, ht, List.any_map, List.any_eq_true, Function.comp_apply]
  exact ⟨w, hm, by simp [hw, hg]⟩

end

/-! ### Release of an exit-pending workgroup (R352) -/

section

variable {s : State}

theorem exec_exitPendingRelease {wg : Nat} {W : Wg} (hW : aget s.wgs wg = some W) (hp : W.status = .exitPending)
    (hb : wgBusy s wg W = false) : exec (.exitPendingRelease wg) s = .next (wgRelease s wg) := by
  simp [exec, execExitPendingRelease, hW, hp, hb]

/-- What the workgroups own of the state. -/
def owned (s : State) : List Tile × List Resv × AList Wg × AList Group := (s.tiles, s.resvs, s.wgs, s.groups)

theorem owned_settleWrites (W : Wg) : owned (settleWrites s W) = owned s := by
  unfold settleWrites
  generalize s.bankWrites.filter (bankWriteOf s W) = ws
  have h : ∀ s : State, owned (ws.foldl (fun s w => setEntries s w.core w.bank w.ents) s) = owned s := by
    induction ws with
    | nil => exact fun _ => rfl
    | cons w ws ih => exact fun s => ih (setEntries s w.core w.bank w.ents)
  exact h _

theorem owned_gangRelease (k : Nat) : owned (gangRelease s k) = owned s := by
  unfold gangRelease
  split
  · rfl
  · split <;> rfl

theorem owned_wgRelease {wg : Nat} {W : Wg} (hW : aget s.wgs wg = some W) : owned (wgRelease s wg) =
    (s.tiles.filter fun t => t.owner != wg, s.resvs.filter fun r => r.owner != wg, adel s.wgs wg, s.groups) := by
  have hs := owned_settleWrites (s := s) W
  simp only [owned, Prod.mk.injEq] at hs
  obtain ⟨ht, hr, hw, hg⟩ := hs
  simp only [wgRelease, hW]
  split
  · rw [owned_gangRelease]
    simp [owned, gridEnded, modGrid, ht, hr, hw, hg]
  · simp [owned, gridEnded, modGrid, ht, hr, hw, hg]

end

end Sys2Proof.Machine

namespace Sys2Proof

open Machine in
/-- Settles O52: the coach's lanes ascend because the lanes of a participation do, and each event is its own equation. -/
theorem schedulerEvents : Obligations.SchedulerEvents := by
  unfold Obligations.SchedulerEvents
  refine fun s => ⟨fun g l t G ht hG => ⟨fun hn => ⟨fun c hc => ⟨columns_coachOf hc, exec_coachFormation hn hc⟩,
    exec_coachFormation_none hn⟩, fun hw hl => exec_agePromotion ht hw hl, ?_, rfl, ?_,
    fun hw => exec_waitCyclesElapsed ht hw, fun ho => exec_watchdog ht ho, ?_⟩, ?_⟩
  · intro d w c r hp hr
    refine ⟨⟨_, exec_variableLatencyResult ht (oldestPend_of hp rfl), rfl, ?_, fun k u hu hn => ?_, fun h hh => ?_⟩,
      readV_landV (t := { t with pend := r })⟩
    · rw [getT_mapThreads ht, landThose_first hp hr]
    · rw [getT_mapThreads hu, landThose_none hn]
    · rw [getG_modG, if_neg hh]
  · intro lo hi s1 s2 hf hm hG2 hlo hhi hpart
    have hone := fetchGroup_lone hG ht hf hlo hhi
    have hl : G.threads[l]? = some t := by simpa [getT, hG] using ht
    have ht' : getT (fetchGroup s g l) g l = some { t with ibuf := some ⟨lo, hi⟩ } := by
      rw [hone, getT_modT, if_pos ⟨rfl, rfl⟩, getT, getG_notePage, hG2]
      simp [hl]
    exact ⟨_, exec_instructionFetchComplete hm ht' rfl, ht'⟩
  · intro xs line w r hws hw hg
    obtain ⟨rfl, rfl⟩ : w.grp = g ∧ w.lane = l := by simpa [SyncWait.is] using hw
    have hm : w ∈ waiters s xs line := by simp [hws]
    exact ⟨exec_sacqGrant hws hg, waitOver_sacq_granted (List.mem_of_mem_filter hm) hw (wait_of_waiter hm ht)⟩
  · intro wg W hW hp hb
    have ho := owned_wgRelease hW
    simp only [owned, Prod.mk.injEq] at ho
    obtain ⟨ht, hr, hw, hg⟩ := ho
    exact ⟨_, exec_exitPendingRelease hW hp hb, by simp [ht], by simp [hr], hw, hg⟩

end Sys2Proof

end

section

/-! PROOF. Queues and the allotment (O48): a lane that a word holds, the queue words and `mov` with a queue operand, the turn
of a waiter, and the words that change the allotment. -/

namespace Sys2Proof.Machine

section

variable {i : WordInfo} {pre : State → Nat → Nat → Option Trap} {body : State → Nat → Nat → LaneRes} {s s' : State}
  {g l : Nat} {t : Thread}

/-- A lane at its word whose own part holds it stays there, as one that has issued. -/
theorem hold_of (hw : AtWord s g l t i.pred i.ends) (hp : pre (taken s) g l = none) (ho : i.own (taken s) g = none)
    (hb : body (taken s) g l = .hold s') :
    issueLanes i pre body s = modT s' g l fun t => { t with cls := .normal, w := 0 } := by
  obtain ⟨c, q, hc⟩ := lone_coach hw.1
  obtain ⟨⟨-, ht, -, hf⟩, hl, hg⟩ := hw
  have hy : laneStep i pre body (taken s) g l = .hold s' :=
    (laneStep_body (s := taken s) ht (headTrap_none hf hl hp) hg ho).trans hb
  refine issueLanes_one hc ?_
  rw [show laneStep i pre body { s with coach := none } g l = .hold s' from hy]
  rfl

theorem calm_of_getG (h : getG s' g = getG s g) (hc : Calm s g) : Calm s' g := by rwa [Calm, h]

theorem retry_of_getG (h : getG s' g = getG s g) : (getT s' g l).bind (·.retry) = (getT s g l).bind (·.retry) := by
  rw [getT, h]
  rfl

theorem amod_congr {α : Type} {l : AList α} {k : Nat} {f h : α → α} (hf : ∀ a, aget l k = some a → f a = h a) :
    amod l k f = amod l k h := by
  induction l with
  | nil => rfl
  | cons x r ih =>
    obtain ⟨j, a⟩ := x
    by_cases hj : j = k
    · simp [amod, hj, hf a (by simp [aget, hj])]
    · simp [amod, hj, ih fun b hb => hf b (by simpa [aget, hj] using hb)]

theorem lmod_id {α : Type} (l : List α) (n : Nat) : lmod l n (fun a => a) = l := by
  induction l generalizing n with
  | nil => rfl
  | cons a r ih => cases n with
    | zero => rfl
    | succ n => exact congrArg (a :: ·) (ih n)

theorem modT_id : (modT s g l fun t => t) = s := by
  have h : amod s.groups g (fun G => G) = s.groups := by
    generalize s.groups = gs
    induction gs with
    | nil => rfl
    | cons x r ih =>
      obtain ⟨j, a⟩ := x
      by_cases hj : j = g
      · simp [amod, hj]
      · simp [amod, hj, ih]
  simp only [modT, lmod_id, modG]
  rw [h]

/-! ### A lane's push and pop (R214, R215) -/

variable {k : Nat} {q : Queue} {x : Byte} {w : Word}

theorem qElem_taken (n : Nat) : qElem (taken s) q n = qElem s q n := rfl

theorem qOf_taken {n : Nat} : qOf (taken s) g n = qOf s g n := rfl

theorem acquireAt_cycle (core scope : Nat) : (acquireAt s core scope).cycle = s.cycle := by
  unfold acquireAt
  split <;> rfl

theorem qTake_cycle : (qTake s g k q).2.cycle = s.cycle := acquireAt_cycle _ _

theorem qElem_qUnwait (n : Nat) : qElem (qUnwait s g l k) q n = qElem s q n := rfl

theorem qFlag_of_blocking {b : Bool} (h : qNB x = false) : qFlag s g l x b = s := by simp [qFlag, h]

theorem qRoom_of (hq : qOf s g (qNum x) = some (k, q)) : qRoom s g x = decide (q.count < q.cap) := by simp [qRoom, hq]

theorem qPushLane_of (hq : qOf s g (qNum x) = some (k, q)) : qPushLane s g l x w = qPut (qUnwait s g l k) g k q w := by
  simp [qPushLane, hq]

theorem qWaitPush_of (hq : qOf s g (qNum x) = some (k, q)) : qWaitPush s g l x = qWait s g l k true := by
  simp [qWaitPush, hq]

theorem qPopLane_got (hq : qOf s g (qNum x) = some (k, q)) (hn : 0 < q.count) : qPopLane s g l x =
    .got (qElem s q q.head) (BitVec.ofNat 64 (qAddr q q.head)) (qTake (qUnwait s g l k) g k q).2 := by
  simp only [qPopLane, hq, if_pos hn]
  rfl

theorem qPopLane_wait (hq : qOf s g (qNum x) = some (k, q)) (hn : q.count = 0) (hb : qNB x = false)
    (hc : qClosed s q = false) : qPopLane s g l x = .wait (qWait s g l k false) := by
  simp [qPopLane, hq, hn, hb, hc]

theorem calm_qUnwait (hc : Calm s g) : Calm (qUnwait s g l k) g := by
  have h : getG (qUnwait s g l k) g =
      (getG s g).map fun G => { G with threads := lmod G.threads l fun t => { t with wait := .none } } := by
    rw [show getG (qUnwait s g l k) g = getG (modT s g l fun t => { t with wait := .none }) g from rfl, modT, getG_modG, if_pos rfl]
  unfold Calm at hc ⊢
  rw [h]
  cases hG : getG s g with
  | none => rfl
  | some G => simpa [hG] using hc

theorem retry_qUnwait : (getT (qUnwait s g l k) g l).bind (·.retry) = (getT s g l).bind (·.retry) :=
  retry_modT (F := fun t => { t with wait := .none }) fun _ => rfl

/-- A word that reaches a calm lane sound is pending there. -/
theorem landWords_one {cls d : Nat} {tv : Nat → Option W64} (hc : Calm s g) (hw : mismatch w = false) :
    landWords s g l cls false 1 tv [d] [w] = .done (modT s g l (pending .direct [(d, w)] [] [] s.cycle)) := by
  have hi : ((getG s g).bind fun G => injects G l cls) = none := by
    unfold Calm at hc
    cases hG : getG s g with
    | none => rfl
    | some G => simp [hG] at hc; simp [injects, hc]
  have hd : disarm s g l cls = s := by simp [disarm, hi]
  have hf : ((List.range [w].length).find? fun k => mismatch ([w].getD k .zero)) = none := by simp [hw]
  simp only [landWords, hi, hd, hf]
  rfl

end

/-! ### The queue words -/

section

variable {s : State} {g l k : Nat} {t : Thread} {f : FullWord} {q : Queue}

theorem exec_qpush (f : FullWord) (s : State) : exec (.qpush f) s =
    .next (issueLanes (infoTo f [] (qFlags f)) (qPre true false f) (qpushBody f) s) := rfl

theorem exec_qpop (f : FullWord) (s : State) : exec (.qpop f) s =
    .next (issueLanes (infoTo f [f.d.toNat] (qFlags f)) (qPre false false f) (qpopBody f) s) := rfl

theorem exec_qpeek (f : FullWord) (s : State) : exec (.qpeek f) s =
    .next (issueLanes (infoTo f [f.d.toNat] (qFlags f)) (qPre false true f) (qpeekBody f s) s) := rfl

/-- A push of a sound word, before the test for room. -/
theorem qpushBody_of {w : W32} (ht : getT s g l = some t) (hv : Holds t f.a w) (hb : qNB f.b = false)
    (hq : qOf s g (qNum f.b) = some (k, q)) : qpushBody f s g l =
      if q.count < q.cap then .done (qPut (qUnwait s g l k) g k q (gen w)) else .hold (qWait s g l k true) := by
  simp [qpushBody, ht, show readV t f.a.toNat = gen w from hv, isPoison_gen, mismatch_gen, qRoom_of hq, hb, qPushLane_of hq,
    qWaitPush_of hq, qFlag_of_blocking hb]

theorem exec_qpush_room {w : W32} (hw : AtWord s g l t f.pred f.s) (hq : qOf s g (qNum f.b) = some (k, q))
    (hb : qNB f.b = false) (hp : qPre true false f (taken s) g l = none) (hv : Holds t f.a w) (hr : q.count < q.cap)
    (hG : getG (qPut (qUnwait (taken s) g l k) g k q (gen w)) g = getG (qUnwait (taken s) g l k) g) :
    exec (.qpush f) s = .next (past (qPut (qUnwait (taken s) g l k) g k q (gen w)) g l f.s) := by
  have hbody := qpushBody_of (s := taken s) hw.1.2.1 hv hb hq
  rw [if_pos hr] at hbody
  rw [exec_qpush]
  exact congrArg _ (done_of (by rwa [infoTo_ends]) hp rfl rfl hbody
    ((retry_of_getG hG).trans (retry_qUnwait.trans (retry_taken hw.1))))

theorem exec_qpush_full {w : W32} (hw : AtWord s g l t f.pred f.s) (hq : qOf s g (qNum f.b) = some (k, q))
    (hb : qNB f.b = false) (hp : qPre true false f (taken s) g l = none) (hv : Holds t f.a w) (hr : q.cap ≤ q.count) :
    exec (.qpush f) s = .next (modT (qWait (taken s) g l k true) g l fun t => { t with cls := .normal, w := 0 }) := by
  have hbody := qpushBody_of (s := taken s) hw.1.2.1 hv hb hq
  rw [if_neg (Nat.not_lt.mpr hr)] at hbody
  rw [exec_qpush]
  exact congrArg _ (hold_of (by rwa [infoTo_ends]) hp rfl hbody)

theorem exec_qpop_got (hw : AtWord s g l t f.pred f.s) (hcalm : Calm s g) (hq : qOf s g (qNum f.b) = some (k, q))
    (hb : qNB f.b = false) (hp : qPre false false f (taken s) g l = none) (hn : 0 < q.count)
    (hm : mismatch (qElem s q q.head) = false)
    (hG : getG (qTake (qUnwait (taken s) g l k) g k q).2 g = getG (qUnwait (taken s) g l k) g) :
    exec (.qpop f) s = .next (past (modT (qTake (qUnwait (taken s) g l k) g k q).2 g l
      (late s [(f.d.toNat, qElem s q q.head)] [])) g l f.s) := by
  have hcalm' := calm_of_getG hG (calm_qUnwait (s := taken s) (l := l) (k := k) hcalm)
  have hland := landWords_one (l := l) (cls := 4) (d := f.d.toNat)
    (tv := fun _ => some (BitVec.ofNat 64 (qAddr q q.head))) hcalm' hm
  rw [qTake_cycle] at hland
  have hbody : qpopBody f (taken s) g l = .done (modT (qTake (qUnwait (taken s) g l k) g k q).2 g l
      (late s [(f.d.toNat, qElem s q q.head)] [])) := by
    simp only [qpopBody, qPopLane_got (s := taken s) hq hn, qLand, qElem_taken, hland, qFlag_of_blocking hb]
    rfl
  rw [exec_qpop]
  exact congrArg _ (done_of (by rwa [infoTo_ends]) hp rfl rfl hbody ((retry_modT (F := late _ _ _) fun _ => rfl).trans
    ((retry_of_getG hG).trans (retry_qUnwait.trans (retry_taken hw.1)))))

theorem exec_qpop_wait (hw : AtWord s g l t f.pred f.s) (hq : qOf s g (qNum f.b) = some (k, q))
    (hb : qNB f.b = false) (hp : qPre false false f (taken s) g l = none) (hn : q.count = 0) (hc : qClosed s q = false) :
    exec (.qpop f) s = .next (modT (qWait (taken s) g l k false) g l fun t => { t with cls := .normal, w := 0 }) := by
  have hbody : qpopBody f (taken s) g l = .hold (qWait (taken s) g l k false) := by
    simp only [qpopBody, qPopLane_wait (s := taken s) hq hn hb hc]
  rw [exec_qpop]
  exact congrArg _ (hold_of (by rwa [infoTo_ends]) hp rfl hbody)

/-- A peek alone in its coach looks at the head. -/
theorem peekRank_lone (hw : Lone s g l t) : peekRank f s g l = 0 := by
  obtain ⟨c, r, hc⟩ := lone_coach hw
  simp [peekRank, hc]

theorem qNB_of_peek (hp : qPre false true f s g l = none) : qNB f.b = true := by
  simp only [qPre, Option.or_eq_none_iff] at hp
  have h := hp.1
  simp only [subTrap, qSubs] at h
  by_contra hb
  simp [hb] at h

theorem exec_qpeek_head (hw : AtWord s g l t f.pred f.s) (hcalm : Calm s g) (hq : qOf s g (qNum f.b) = some (k, q))
    (hp : qPre false true f (taken s) g l = none) (hn : 0 < q.count) (hm : mismatch (qElem s q q.head) = false) :
    exec (.qpeek f) s = .next (did s g l f.s fun t =>
      late s [] [(qPred f.b, ⟨false, false⟩)] (late s [(f.d.toNat, qElem s q q.head)] [] t)) := by
  have hland := landWords_one (s := taken s) (l := l) (cls := 8) (d := f.d.toNat)
    (tv := fun _ => some (BitVec.ofNat 64 (qAddr q q.head))) hcalm hm
  have hbody : qpeekBody f s (taken s) g l = .done (modT (taken s) g l fun t =>
      late s [] [(qPred f.b, ⟨false, false⟩)] (late s [(f.d.toNat, qElem s q q.head)] [] t)) := by
    simp only [qpeekBody, qOf_taken, hq, peekRank_lone hw.1, if_pos hn, qLand, Nat.add_zero, qElem_taken, hland, qFlag,
      qNB_of_peek hp, if_true, modT_modT]
    rfl
  rw [exec_qpeek]
  exact congrArg _ (done_of (by rwa [infoTo_ends]) hp rfl rfl hbody
    ((retry_modT (F := fun t => late s [] _ (late s _ [] t)) fun _ => rfl).trans (retry_taken hw.1)))

/-! ### mov with a queue operand (R79) -/

theorem readOperand_mov_queue (hf : Moded f 0x00 4 0 0) (hq : qOf s g (qNum f.a) = some (k, q)) (hn : 0 < q.count)
    (hm : mismatch (qElem s q q.head) = false) :
    readOperand (rowMov f) f s g l t 0 = .words (qTake (qUnwait s g l k) g k q).2 [qElem s q q.head] := by
  have hpop : popOperand s g l 0x00 f.a = .words (qTake (qUnwait s g l k) g k q).2 [qElem s q q.head] := by
    simp only [popOperand, qPopLane_got hq hn, hm]
    rfl
  simp [readOperand, rowMov_eq hf.tyOf hf.xmOf, Row.at_, fieldAt, isDirect, hf.oselOf, hf.omodeOf, hpop]

theorem exec_mov_pop (hw : AtWord s g l t f.pred f.s) (hcalm : Calm s g) (hf : Moded f 0x00 4 0 0)
    (hq : qOf s g (qNum f.a) = some (k, q)) (hb : qNB f.a = false) (hp : r75Pre (rowMov f) f (taken s) g l = none)
    (hn : 0 < q.count) (hm : mismatch (qElem s q q.head) = false)
    (hG : getG (qTake (qUnwait (taken s) g l k) g k q).2 g = getG (qUnwait (taken s) g l k) g) :
    exec (.mov f) s = .next (past (modT (qTake (qUnwait (taken s) g l k) g k q).2 g l
      (late s [(f.d.toNat, qElem s q q.head)] [])) g l f.s) := by
  have hpops : popsQueue f = true := by simp [popsQueue, hf.omodeOf, hf.oselOf]
  have h := exec_mov_word hw hf (by decide) hp (readOperand_mov_queue (s := taken s) hf hq hn hm) hm
    (calm_of_getG hG (calm_qUnwait (s := taken s) hcalm)) ((retry_of_getG hG).trans (retry_qUnwait.trans (retry_taken hw.1)))
  simp only [hpops, if_true, hf.oselOf, fieldAt, qFlag_of_blocking hb, aluCopy, commit_late_words, qTake_cycle] at h
  exact h

/-- A mov that pushes a sound word, before the test for room. -/
theorem aluLane_mov_push {w : W32} (ht : getT s g l = some t) (hcalm : Calm s g) (hf : Moded f 0x00 4 3 0)
    (hv : Holds t f.a w) (hb : qNB f.d = false) (hq : qOf s g (qNum f.d) = some (k, q)) :
    aluLane (rowMov f) 6 runMov f s g l =
      if q.count < q.cap then .done (qPut (qUnwait s g l k) g k q (gen w)) else .hold (qWait s g l k true) := by
  have hrow := rowMov_eq hf.tyOf hf.xmOf
  have hd : destRegs (rowMov f) f (nreqOf s g) t = .ok [] := by
    simp [destRegs, hrow, isDirect, hf.oselOf, hf.omodeOf]
  have ha : readOperand (rowMov f) f s g l t 0 = .words s [gen w] := by
    simp [readOperand, hrow, Row.at_, isDirect, hf.oselOf, fieldAt, regsFrom, nRegs, wide, show readV t f.a.toNat = gen w from hv]
  have hbc : readOperand (rowMov f) f s g l t 1 = .words s [] ∧ readOperand (rowMov f) f s g l t 2 = .words s [] := by
    simp [readOperand, hrow, Row.at_]
  have hset : settleAll false (aluCopy [gen w]).words = some [gen w] := by
    have h := settle_copy (mismatch_gen w)
    rw [isPoison_gen] at h
    simp [aluCopy, settleAll, h]
  have hpsn : operandsPoisoned (rowMov f) t ([gen w] ++ [] ++ []) = false := by simp [operandsPoisoned, hrow, isPoison_gen]
  have hback : writeBack s g l 6 false false [] (aluCopy [gen w]) = .done s := by
    rw [writeBack_done hcalm rfl (.inr rfl) hset]
    simp only [Bool.false_eq_true, if_false, List.zip_nil_left, aluCopy, commit_words, List.foldl_nil, modT_id]
  have hpush : aluLane (rowMov f) 6 runMov f s g l = pushResult s g l f.d (writeBack s g l 6 false false [] (aluCopy [gen w]))
      (settleAll false ((aluCopy [gen w]).words.take 1)) := by
    rw [operandsPoisoned] at hpsn
    simp only [aluLane, ht, hd, ha, hbc, hf.omodeOf, hf.oselOf, runMov_copy hf.xmOf, hpsn]
    rfl
  rw [hpush, hback, show (aluCopy [gen w]).words.take 1 = (aluCopy [gen w]).words from rfl, hset]
  simp [pushResult, isPoison_gen, qRoom_of hq, hb, qPushLane_of hq, qWaitPush_of hq, qFlag_of_blocking hb]

theorem exec_mov_push {w : W32} (hw : AtWord s g l t f.pred f.s) (hcalm : Calm s g) (hf : Moded f 0x00 4 3 0)
    (hq : qOf s g (qNum f.d) = some (k, q)) (hb : qNB f.d = false) (hp : r75Pre (rowMov f) f (taken s) g l = none)
    (hv : Holds t f.a w) :
    (q.count < q.cap → getG (qPut (qUnwait (taken s) g l k) g k q (gen w)) g = getG (qUnwait (taken s) g l k) g →
      exec (.mov f) s = .next (past (qPut (qUnwait (taken s) g l k) g k q (gen w)) g l f.s)) ∧
    (q.cap ≤ q.count →
      exec (.mov f) s = .next (modT (qWait (taken s) g l k true) g l fun t => { t with cls := .normal, w := 0 })) := by
  have hbody := aluLane_mov_push (s := taken s) (l := l) hw.1.2.1 hcalm hf hv hb hq
  rw [exec_of_r75Op (op := ⟨f, rowMov f, 6, runMov⟩) rfl]
  refine ⟨fun hr hG => ?_, fun hr => ?_⟩
  · rw [if_pos hr] at hbody
    exact congrArg _ (done_of (atWord_ends rfl hw) hp rfl rfl hbody
      ((retry_of_getG hG).trans (retry_qUnwait.trans (retry_taken hw.1))))
  · rw [if_neg (Nat.not_lt.mpr hr)] at hbody
    exact congrArg _ (hold_of (atWord_ends rfl hw) hp rfl hbody)

/-! ### The turn of a waiter (R213 to R215) -/

/-- The first waiter of a queue where no turn has come yet. -/
theorem qTurn_first {push : Bool} {r : List QueueWait} (ht : getT s g l = some t) (hwait : t.wait = .queue)
    (hq : q.waiters = ⟨g, l, push, false⟩ :: r) (hr : ∀ w ∈ r, w.granted = false)
    (hcan : if push then q.count < q.cap else 0 < q.count ∨ qClosed s q = true) : qTurn s q = some ⟨g, l, push, false⟩ := by
  have hat : atQueue s g l = true := by simp [atQueue, ht, hwait]
  have hws : qWaiters s q = ⟨g, l, push, false⟩ :: r.filter fun w => atQueue s w.grp w.lane := by simp [qWaiters, hq, hat]
  have hnone (b : Bool) : (qWaiters s q).filter (fun w => w.granted && w.push == b) = [] := by
    refine List.filter_eq_nil_iff.mpr fun w hw => ?_
    have hg : w.granted = false := by
      rcases List.mem_cons.mp (hws ▸ hw) with rfl | hm
      · rfl
      · exact hr w (List.mem_of_mem_filter hm)
    simp [hg]
  simp only [qTurn, hnone]
  rw [hws]
  refine List.find?_cons_of_pos ?_
  cases push <;> simpa using hcan

/-- The turn of the only waiter of a lane: its entry is marked. -/
theorem exec_queueWaitService {push : Bool} {r : List QueueWait} (ha : aget s.queues k = some q)
    (hq : q.waiters = ⟨g, l, push, false⟩ :: r) (hr : ∀ w ∈ r, w.is g l = false)
    (hturn : qTurn s q = some ⟨g, l, push, false⟩) :
    exec (.queueWaitService k) s = .next (modQ s k fun q => { q with waiters := ⟨g, l, push, true⟩ :: r }) := by
  have hmap : q.waiters.map (fun x => if x.is g l then { x with granted := true } else x) = ⟨g, l, push, true⟩ :: r := by
    have hrest : r.map (fun x => if x.is g l then { x with granted := true } else x) = r := by
      refine (List.map_congr_left fun w hw => ?_).trans (List.map_id r)
      simp [hr w hw]
    rw [hq, List.map_cons, hrest]
    simp [QueueWait.is]
  have hmod : modQ s k (fun q => { q with
        waiters := q.waiters.map fun x => if x.is g l then { x with granted := true } else x }) =
      modQ s k fun q => { q with waiters := ⟨g, l, push, true⟩ :: r } := by
    simp only [modQ]
    rw [amod_congr fun a haa => ?_]
    obtain rfl : q = a := Option.some.inj (ha.symm.trans haa)
    rw [hmap]
  simp only [exec, execQueueWaitService, ha, Option.bind_some, hturn, hmod]

theorem waitOver_queue_granted {G : Group} {push : Bool} {r : List QueueWait} (ha : aget s.queues k = some q)
    (hwait : t.wait = .queue) :
    waitOver (modQ s k fun q => { q with waiters := ⟨g, l, push, true⟩ :: r }) g G l t = true := by
  have hq : aget (modQ s k fun q => { q with waiters := ⟨g, l, push, true⟩ :: r }).queues k =
      some { q with waiters := ⟨g, l, push, true⟩ :: r } := by
    rw [modQ, aget_amod, if_pos rfl, ha]
    rfl
  simp only [waitOver, hwait, List.any_eq_true]
  exact ⟨_, mem_of_aget hq, ⟨g, l, push, true⟩, List.mem_cons_self, by simp [QueueWait.is]⟩

end

/-! ### The allotment (R216 to R218) -/

section

variable {s : State} {g l : Nat} {t : Thread} {f : FullWord} {G : Group}

theorem exec_agrow (f : FullWord) (s : State) : exec (.agrow f) s =
    .next (issueGroups (infoTo f [] [f.d.toNat % 8]) (fun _ _ _ => subTrap (allotSubs true f)) (agrowBody f) s) := rfl

theorem exec_ashrink (f : FullWord) (s : State) : exec (.ashrink f) s =
    .next (issueGroups (infoOf f) (fun _ _ _ => subTrap (allotSubs false f)) (ashrinkBody f) s) := rfl

theorem exec_agrowGrant {core qtr n : Nat} (h : grantable s core qtr = some (g, n)) :
    exec (.agrowGrant core qtr) s = .next (modG s g fun G => answerGrow true (resize n G)) := by
  simp only [exec, execAgrowGrant, h]

/-- D of agrow is a predicate. -/
theorem agrow_dest (h : subTrap (allotSubs true f) = none) : f.d.toNat % 8 = f.d.toNat := by
  have hd : f.d.toNat < 8 := by
    by_contra hd
    simp [subTrap, allotSubs, zeroSub, hd] at h
  exact Nat.mod_eq_of_lt hd

theorem retry_resize (n : Nat) : (getT (modG s g (resize n)) g l).bind (·.retry) = (getT s g l).bind (·.retry) := by
  unfold getT
  rw [getG_modG, if_pos rfl]
  cases getG s g with
  | none => rfl
  | some G =>
    simp only [Option.map_some, Option.bind_some, resize, List.getElem?_map]
    cases G.threads[l]? <;> rfl

/-- A request that needs no growth. -/
theorem exec_agrow_within (hw : AtWord s g l t f.pred f.s) (hG : getG s g = some G) (hp : subTrap (allotSubs true f) = none)
    (ha : G.agrow = none) (hn : allotN f ≤ G.nreq) :
    exec (.agrow f) s = .next (did s g l f.s (late s [] [(f.d.toNat, ⟨true, false⟩)])) := by
  have hbody : agrowBody f (taken s) g [l] = .done (modT (taken s) g l (late s [] [(f.d.toNat, ⟨true, false⟩)])) := by
    simp only [agrowBody, getG_taken, hG, ha, agrow_dest hp]
    rw [if_pos hn]
    rfl
  rw [exec_agrow]
  exact congrArg _ (groupDone_of (by rwa [infoTo_ends]) hp rfl rfl hbody
    ((retry_modT (F := late _ _ _) fun _ => rfl).trans (retry_taken hw.1)))

/-- A request whose growth needs no more storage. -/
theorem exec_agrow_at_once (hw : AtWord s g l t f.pred f.s) (hG : getG s g = some G) (hp : subTrap (allotSubs true f) = none)
    (ha : G.agrow = none) (hn : G.nreq < allotN f) (he : allot (allotN f) = allot G.nreq) :
    exec (.agrow f) s = .next (past (modT (modG (taken s) g (resize (allotN f))) g l
      (late s [] [(f.d.toNat, ⟨true, false⟩)])) g l f.s) := by
  have hbody : agrowBody f (taken s) g [l] = .done (modT (modG (taken s) g (resize (allotN f))) g l
      (late s [] [(f.d.toNat, ⟨true, false⟩)])) := by
    simp only [agrowBody, getG_taken, hG, ha, agrow_dest hp]
    rw [if_neg (Nat.not_le.mpr hn), if_pos he]
    rfl
  rw [exec_agrow]
  exact congrArg _ (groupDone_of (by rwa [infoTo_ends]) hp rfl rfl hbody
    ((retry_modT (F := late _ _ _) fun _ => rfl).trans ((retry_resize _).trans (retry_taken hw.1))))

theorem exec_ashrink_done (hw : AtWord s g l t f.pred f.s) (hG : getG s g = some G) (hp : subTrap (allotSubs false f) = none)
    (ha : G.agrow = none) (hn : allotN f < G.nreq) (hs : shrinkWaits (allotN f) G = false) :
    exec (.ashrink f) s = .next (past (modG (taken s) g (resize (allotN f))) g l f.s) := by
  have hbody : ashrinkBody f (taken s) g [l] = .done (modG (taken s) g (resize (allotN f))) := by
    simp only [ashrinkBody, getG_taken, hG, ha, hs]
    rw [if_neg (by simp), if_neg (Nat.not_le.mpr hn)]
    rfl
  rw [exec_ashrink]
  exact congrArg _ (groupDone_of (by rwa [infoOf_ends]) hp rfl rfl hbody ((retry_resize _).trans (retry_taken hw.1)))

end

end Sys2Proof.Machine

namespace Sys2Proof

open Machine in
/-- Settles O48: one equation for each of its words and events. -/
theorem queuesAndAllotment : Obligations.QueuesAndAllotment := by
  unfold Obligations.QueuesAndAllotment
  intro s g l k t G f q ht hG hcalm
  refine ⟨fun hw hq hb => ⟨fun w hp hv hr hg => exec_qpush_room hw hq hb hp hv hr hg,
      fun w hp hv hr => exec_qpush_full hw hq hb hp hv hr, fun hp hn hm hg => exec_qpop_got hw hcalm hq hb hp hn hm hg,
      fun hp hn hc => exec_qpop_wait hw hq hb hp hn hc⟩,
    fun hw hq hp hn hm => exec_qpeek_head hw hcalm hq hp hn hm,
    fun hw hq hf _ _ hb hp hn hm hg => exec_mov_pop hw hcalm hf hq hb hp hn hm hg,
    fun w hw hq hf _ _ hb hp hv => exec_mov_push hw hcalm hf hq hb hp hv,
    fun push r ha hq hr hwait hcan => ?_,
    fun hw hp ha => ⟨exec_agrow_within hw hG hp ha, exec_agrow_at_once hw hG hp ha⟩,
    fun hw hp ha hn hs => exec_ashrink_done hw hG hp ha hn hs, fun n h => exec_agrowGrant h⟩
  exact ⟨exec_queueWaitService ha hq (fun w hm => (hr w hm).2) (qTurn_first ht hwait hq (fun w hm => (hr w hm).1) hcan),
    waitOver_queue_granted ha hwait⟩

end Sys2Proof

end

section

/-! PROOF. The arithmetic of a slot (O14, R88): exact values with a sound residue, the words cut from them (R98), and what each
restricted opcode gives on sound operands. -/

namespace Sys2Proof.Machine

/-! ### Sums of words taken bit by bit -/

theorem or_add_and (a b : Nat) : (a ||| b) + (a &&& b) = a + b := by
  induction a using Nat.strongRecOn generalizing b with
  | ind a ih =>
    rcases Nat.eq_zero_or_pos a with rfl | ha
    · simp
    · have hrec := ih (a / 2) (by omega) (b / 2)
      have hor : (a ||| b) / 2 = a / 2 ||| b / 2 := Nat.or_div_two
      have hand : (a &&& b) / 2 = a / 2 &&& b / 2 := Nat.and_div_two
      have hor1 : (a ||| b) % 2 = 1 ↔ a % 2 = 1 ∨ b % 2 = 1 := Nat.or_mod_two_eq_one
      have hand1 : (a &&& b) % 2 = 1 ↔ a % 2 = 1 ∧ b % 2 = 1 := Nat.and_mod_two_eq_one
      omega

theorem xor_add_two_and (a b : Nat) : (a ^^^ b) + 2 * (a &&& b) = a + b := by
  induction a using Nat.strongRecOn generalizing b with
  | ind a ih =>
    rcases Nat.eq_zero_or_pos a with rfl | ha
    · simp
    · have hrec := ih (a / 2) (by omega) (b / 2)
      have hxor : (a ^^^ b) / 2 = a / 2 ^^^ b / 2 := Nat.xor_div_two
      have hand : (a &&& b) / 2 = a / 2 &&& b / 2 := Nat.and_div_two
      have hxor1 : (a ^^^ b) % 2 = 1 ↔ ¬(a % 2 = 1 ↔ b % 2 = 1) := Nat.xor_mod_two_eq_one
      have hand1 : (a &&& b) % 2 = 1 ↔ a % 2 = 1 ∧ b % 2 = 1 := Nat.and_mod_two_eq_one
      omega

/-! ### Words with the residue of their bits -/

/-- A computed word that has the bits of a value and predicts its residue. -/
def Cut.Is (c : Cut) (v : W32) : Prop := c.bits = v ∧ c.pred = v.toNat % 15

theorem settle_of_is {c : Cut} {v : W32} (h : c.Is v) : settle false c = some (gen v) := by
  obtain ⟨rfl, hp⟩ := h
  have h15 : c.bits.toNat % 15 < 15 := Nat.mod_lt _ (by decide)
  simp [settle, hp, h15, gen]

theorem is_gen (v : W32) : (Cut.gen v).Is v := ⟨rfl, rfl⟩

theorem is_copy (v : W32) : (Cut.copy (Machine.gen v)).Is v := ⟨rfl, resOf_toNat v⟩

/-- An exact value whose residue is its own. -/
def Sound (S : CInt) : Prop := (S.rho : Int) % 15 = S.int % 15

theorem rho_emod (n : Int) : ((rho n : Nat) : Int) = n % 15 := Int.toNat_of_nonneg (Int.emod_nonneg _ (by decide))

theorem rho_natCast (n : Nat) : rho (n : Int) = n % 15 := by
  have h := rho_emod n
  omega

theorem sound_wordC (x : W32) : Sound (wordC (gen x)) := by
  simp only [Sound, wordC, gen_res_toNat, gen_val]
  omega

section

variable {S T : CInt}

theorem sound_add (hS : Sound S) (hT : Sound T) : Sound (S.add T) := by
  simp only [Sound, CInt.add] at *
  omega

theorem sound_sub (hS : Sound S) (hT : Sound T) : Sound (S.sub T) := by
  simp only [Sound, CInt.sub, rho_emod] at *
  omega

theorem sound_mul (hS : Sound S) (hT : Sound T) : Sound (S.mul T) := by
  have h : ((S.rho : Int) * T.rho) % 15 = S.int * T.int % 15 := Int.ModEq.mul hS hT
  simp only [Sound, CInt.mul] at *
  omega

theorem two_pow_mod (k : Nat) : (2 : Int) ^ k % 15 = 2 ^ (k % 4) % 15 := by
  have h : (2 : Int) ^ (4 * (k / 4)) ≡ 1 [ZMOD 15] := by
    rw [pow_mul]
    simpa using Int.ModEq.pow (k / 4) (show (2 : Int) ^ 4 ≡ 1 [ZMOD 15] from rfl)
  calc (2 : Int) ^ k % 15 = 2 ^ (4 * (k / 4) + k % 4) % 15 := by rw [Nat.div_add_mod]
    _ = 2 ^ (4 * (k / 4)) * 2 ^ (k % 4) % 15 := by rw [pow_add]
    _ = 1 * 2 ^ (k % 4) % 15 := h.mul_right _
    _ = 2 ^ (k % 4) % 15 := by rw [one_mul]

theorem sound_shl (hS : Sound S) (k : Nat) : Sound (S.shl k) := by
  have h : ((S.rho : Int) * 2 ^ (k % 4)) % 15 = S.int * 2 ^ k % 15 := Int.ModEq.mul hS (two_pow_mod k).symm
  simp only [Sound, CInt.shl, weight]
  push_cast
  omega

theorem sound_signed (hS : Sound S) : Sound (S.signed 32) := by
  unfold CInt.signed
  split
  · exact hS
  · simp only [Sound, rho_emod] at *
    omega

/-- The weight of a division undoes that of the power (R98). -/
theorem two_pow_mul_unweight (q : Int) (p : Nat) : q * 2 ^ p * unweight p % 15 = q % 15 := by
  have hp : (2 : Int) ^ (p % 4) * unweight p % 15 = 1 := by
    have h4 : ∀ r, r < 4 → (2 : Int) ^ r * ((8 ^ r : Nat) : Int) % 15 = 1 := by decide
    exact h4 _ (Nat.mod_lt _ (by decide))
  have h : (2 : Int) ^ p * unweight p ≡ 1 [ZMOD 15] :=
    calc (2 : Int) ^ p * unweight p ≡ 2 ^ (p % 4) * unweight p [ZMOD 15] := Int.ModEq.mul_right _ (two_pow_mod p)
      _ ≡ 1 [ZMOD 15] := hp
  calc q * 2 ^ p * unweight p % 15 = q * (2 ^ p * unweight p) % 15 := by rw [mul_assoc]
    _ = q * 1 % 15 := h.mul_left q
    _ = q % 15 := by rw [mul_one]

/-- R98 for a whole word: no fill, and the digits above it are taken off. -/
theorem cut_word (S : CInt) (p : Nat) (sx : Bool) : S.cut p 32 sx = ⟨BitVec.ofInt 32 (S.int / 2 ^ p % 2 ^ 32),
    rho (((S.rho : Int) - rho (S.int % 2 ^ p)) * unweight p - rho (S.int / 2 ^ p / 2 ^ 32))⟩ := by
  have hpos : (0 : Int) ≤ 2 ^ p := by positivity
  have h32 : (0 : Int) ≤ 2 ^ 32 := by decide
  have h0 : rho 0 = 0 := rfl
  have hw : weight 32 = 1 := rfl
  simp only [CInt.cut, Int.fdiv_eq_ediv_of_nonneg _ hpos, Int.fmod_eq_emod_of_nonneg _ hpos, Int.fdiv_eq_ediv_of_nonneg _ h32,
    Int.fmod_eq_emod_of_nonneg _ h32, Nat.sub_self, pow_zero, sub_self, ite_self, zero_mul, add_zero, h0, hw, Nat.cast_one,
    mul_one, Nat.cast_zero]

theorem ofInt_emod_word (q : Int) : BitVec.ofInt 32 (q % 2 ^ 32) = BitVec.ofInt 32 q := by
  apply BitVec.eq_of_toInt_eq
  rw [BitVec.toInt_ofInt, BitVec.toInt_ofInt]
  exact Int.emod_bmod q _

/-- Its bits are those of the quotient, and the prediction is the residue of these bits. -/
theorem cut_is (hS : Sound S) (p : Nat) (sx : Bool) : (S.cut p 32 sx).Is (BitVec.ofInt 32 (S.int / 2 ^ p)) := by
  have hsplit : S.int - S.int % 2 ^ p = S.int / 2 ^ p * 2 ^ p := by
    have := Int.mul_ediv_add_emod S.int (2 ^ p)
    rw [mul_comm]
    omega
  have hq : ((S.rho : Int) - rho (S.int % 2 ^ p)) * unweight p % 15 = S.int / 2 ^ p % 15 := by
    have h : (S.rho : Int) - rho (S.int % 2 ^ p) ≡ S.int / 2 ^ p * 2 ^ p [ZMOD 15] := by
      rw [← hsplit, rho_emod]
      exact Int.ModEq.sub hS (Int.mod_modEq _ _)
    exact (h.mul_right _).trans (two_pow_mul_unweight _ _)
  rw [cut_word]
  refine ⟨ofInt_emod_word _, ?_⟩
  have hv : ((BitVec.ofInt 32 (S.int / 2 ^ p)).toNat : Int) = S.int / 2 ^ p % 2 ^ 32 := by
    rw [BitVec.toNat_ofInt]
    exact Int.toNat_of_nonneg (Int.emod_nonneg _ (by decide))
  rw [← rho_natCast, hv, rho_eq_iff]
  have hh := rho_emod (S.int / 2 ^ p / 2 ^ 32)
  omega

end

/-! ### What each restricted opcode gives (R84, R88) -/

/-- The arithmetic gives one word and nothing else. -/
def Yields (o : AluOut) (v : W32) : Prop := ∃ c : Cut, o = .word c ∧ c.Is v

section

variable (a b : W32)

theorem yields_add : Yields (aluAdd (intTy 0x04) [gen a] [gen b]) (a + b) := by
  refine ⟨_, rfl, ?_⟩
  have h := cut_is (sound_add (sound_wordC a) (sound_wordC b)) 0 true
  rw [show ((wordC (gen a)).add (wordC (gen b))).int = (a.toNat : Int) + b.toNat from rfl, pow_zero, Int.ediv_one,
    BitVec.ofInt_add, BitVec.ofInt_natCast, BitVec.ofInt_natCast, BitVec.ofNat_toNat, BitVec.ofNat_toNat, BitVec.setWidth_eq,
    BitVec.setWidth_eq] at h
  exact h

theorem yields_sub : Yields (aluSub (intTy 0x04) [gen a] [gen b]) (a - b) := by
  refine ⟨_, rfl, ?_⟩
  have h := cut_is (sound_sub (sound_wordC a) (sound_wordC b)) 0 true
  rw [show ((wordC (gen a)).sub (wordC (gen b))).int = (a.toNat : Int) + -b.toNat from rfl, pow_zero, Int.ediv_one,
    BitVec.ofInt_add, BitVec.ofInt_neg, BitVec.ofInt_natCast, BitVec.ofInt_natCast, BitVec.ofNat_toNat, BitVec.ofNat_toNat,
    BitVec.setWidth_eq, BitVec.setWidth_eq, ← BitVec.sub_eq_add_neg] at h
  exact h

theorem yields_mul : Yields (aluMul (intTy 0x04) [gen a] [gen b]) (a * b) := by
  refine ⟨_, rfl, ?_⟩
  have h := cut_is (sound_mul (sound_wordC a) (sound_wordC b)) 0 true
  rw [show ((wordC (gen a)).mul (wordC (gen b))).int = (a.toNat : Int) * b.toNat from rfl, pow_zero, Int.ediv_one,
    BitVec.ofInt_mul, BitVec.ofInt_natCast, BitVec.ofInt_natCast, BitVec.ofNat_toNat, BitVec.ofNat_toNat, BitVec.setWidth_eq,
    BitVec.setWidth_eq] at h
  exact h

/-- A word read under the sign of `.i32`. -/
theorem signed_int : ((wordC (gen a)).signed 32).int = a.toInt := by
  have hlt := a.isLt
  rw [BitVec.toInt_eq_toNat_cond, CInt.signed, show (wordC (gen a)).int = a.toNat from rfl]
  by_cases h : (a.toNat : Int) < 2 ^ (32 - 1)
  · rw [if_pos h, if_pos (by omega)]
    rfl
  · rw [if_neg h, if_neg (by omega)]
    rfl

theorem elems_i32 : (intTy 0x04).elems [gen a] = [(wordC (gen a)).signed 32] := by
  simp [IntTy.elems, IntTy.elemsU, intTy]

theorem elems_n32 {ty : Nat} (h : ty = 0x00 ∨ ty = 0x08) : (intTy ty).elems [gen a] = [wordC (gen a)] := by
  rcases h with rfl | rfl <;> simp [IntTy.elems, IntTy.elemsU, intTy]

/-- A choice between two words keeps the one chosen (R99). -/
theorem yields_choose {t : IntTy} (hp : t.packed = false) (hw : t.w = 32) {first : List CInt → Prop} [DecidablePred first]
    {P : Prop} [Decidable P] (hP : first [(t.elems [gen a]).headD (.const 0), (t.elems [gen b]).headD (.const 0)] ↔ P) :
    Yields { words := choose t (fun r => if first r then 0 else 1) [[gen a], [gen b]] } (if P then a else b) := by
  have hc (pick : List CInt → Nat) : choose t pick [[gen a], [gen b]] = (([[gen a], [gen b]].drop
      (pick [(t.elems [gen a]).headD (.const 0), (t.elems [gen b]).headD (.const 0)])).headD []).map Cut.copy := by
    simp only [choose, hp, hw]
    rfl
  rw [hc]
  by_cases h : P
  · rw [if_pos (hP.mpr h), if_pos h]
    exact ⟨.copy (gen a), rfl, is_copy a⟩
  · rw [if_neg (mt hP.mp h), if_neg h]
    exact ⟨.copy (gen b), rfl, is_copy b⟩

theorem nth_pair (x y : CInt) : nth [[x].headD (.const 0), [y].headD (.const 0)] 0 = x.int ∧
    nth [[x].headD (.const 0), [y].headD (.const 0)] 1 = y.int := ⟨rfl, rfl⟩

theorem yields_min_i32 : Yields (aluMin (intTy 0x04) [gen a] [gen b]) (if a.toInt ≤ b.toInt then a else b) :=
  yields_choose a b rfl rfl (by rw [elems_i32, elems_i32, (nth_pair _ _).1, (nth_pair _ _).2, signed_int, signed_int])

theorem yields_max_i32 : Yields (aluMax (intTy 0x04) [gen a] [gen b]) (if b.toInt ≤ a.toInt then a else b) :=
  yields_choose a b rfl rfl (by rw [elems_i32, elems_i32, (nth_pair _ _).1, (nth_pair _ _).2, signed_int, signed_int])

theorem wordC_int_le : (wordC (gen a)).int ≤ (wordC (gen b)).int ↔ a.toNat ≤ b.toNat := Int.ofNat_le

theorem yields_min_n32 : Yields (aluMin (intTy 0x08) [gen a] [gen b]) (if a.toNat ≤ b.toNat then a else b) :=
  yields_choose a b rfl rfl
    (by rw [elems_n32 _ (.inr rfl), elems_n32 _ (.inr rfl), (nth_pair _ _).1, (nth_pair _ _).2, wordC_int_le])

theorem yields_max_n32 : Yields (aluMax (intTy 0x08) [gen a] [gen b]) (if b.toNat ≤ a.toNat then a else b) :=
  yields_choose a b rfl rfl
    (by rw [elems_n32 _ (.inr rfl), elems_n32 _ (.inr rfl), (nth_pair _ _).1, (nth_pair _ _).2, wordC_int_le])

theorem yields_and : Yields (aluAnd [gen a] [gen b]) (a &&& b) := ⟨_, rfl, is_gen _⟩

theorem yields_or : Yields (aluOr [gen a] [gen b]) (a ||| b) := by
  refine ⟨_, rfl, rfl, ?_⟩
  have h := or_add_and a.toNat b.toNat
  simp only [gen_res_toNat, gen_val]
  rw [← rho_natCast (a ||| b).toNat, rho_eq_iff, BitVec.toNat_or, BitVec.toNat_and]
  omega

theorem yields_xor : Yields (aluXor [gen a] [gen b]) (a ^^^ b) := by
  refine ⟨_, rfl, rfl, ?_⟩
  have h := xor_add_two_and a.toNat b.toNat
  simp only [gen_res_toNat, gen_val]
  rw [← rho_natCast (a ^^^ b).toNat, rho_eq_iff, BitVec.toNat_xor, BitVec.toNat_and]
  omega

/-- A count beyond the width empties the word. -/
theorem yields_shl : Yields (aluShl (intTy 0x00) [gen a] [gen b]) (a <<< b.toNat) := by
  refine ⟨_, rfl, ?_⟩
  have h := cut_is (sound_shl (sound_wordC a) (min b.toNat 32)) 0 false
  rw [show ((wordC (gen a)).shl (min b.toNat 32)).int = ((a.toNat * 2 ^ min b.toNat 32 : Nat) : Int) by
    simp [CInt.shl, wordC, gen_val], pow_zero, Int.ediv_one, BitVec.ofInt_natCast] at h
  have hv : BitVec.ofNat 32 (a.toNat * 2 ^ min b.toNat 32) = a <<< b.toNat := by
    apply BitVec.eq_of_toNat_eq
    rw [BitVec.toNat_ofNat, BitVec.toNat_shiftLeft, Nat.shiftLeft_eq]
    rcases Nat.le_total b.toNat 32 with hb | hb
    · rw [Nat.min_eq_left hb]
    · rw [Nat.min_eq_right hb, Nat.mul_mod_left, ← Nat.sub_add_cancel hb, pow_add, ← mul_assoc, Nat.mul_mod_left]
  rw [hv] at h
  exact h

/-- The quotients of a right shift, whose count stops at the width. -/
theorem ediv_min_count {x : Int} (hlo : -2 ^ 32 ≤ x) (hhi : x < 2 ^ 32) (n : Nat) : x / 2 ^ min n 32 = x / 2 ^ n := by
  rcases Nat.le_total n 32 with hn | hn
  · rw [Nat.min_eq_left hn]
  · have hpow : (2 : Int) ^ 32 ≤ 2 ^ n := pow_le_pow_right₀ (by decide) hn
    rw [Nat.min_eq_right hn]
    rcases lt_or_ge x 0 with h0 | h0
    · rw [Int.ediv_eq_neg_one_of_neg_of_le h0 (by omega), Int.ediv_eq_neg_one_of_neg_of_le h0 (by omega)]
    · rw [Int.ediv_eq_zero_of_lt h0 hhi, Int.ediv_eq_zero_of_lt h0 (by omega)]

theorem yields_shr : Yields (aluShr (intTy 0x00) [gen a] [gen b]) (a >>> b.toNat) := by
  refine ⟨_, rfl, ?_⟩
  have h := cut_is (sound_wordC a) (min b.toNat 32) false
  have hlt := a.isLt
  rw [show (wordC (gen a)).int = (a.toNat : Int) from rfl, ediv_min_count (by omega) (by omega)] at h
  have hv : BitVec.ofInt 32 ((a.toNat : Int) / 2 ^ b.toNat) = a >>> b.toNat := by
    rw [show (a.toNat : Int) / 2 ^ b.toNat = ((a.toNat / 2 ^ b.toNat : Nat) : Int) by push_cast; rfl, BitVec.ofInt_natCast]
    apply BitVec.eq_of_toNat_eq
    rw [BitVec.toNat_ofNat, BitVec.toNat_ushiftRight, Nat.shiftRight_eq_div_pow,
      Nat.mod_eq_of_lt (lt_of_le_of_lt (Nat.div_le_self _ _) hlt)]
  rw [hv] at h
  exact h

theorem shrWords_word (e : CInt) : shrWords (intTy 0x04) [e] (counts (intTy 0x04) [gen b]) = [e.cut (min b.toNat 32) 32 false] :=
  rfl

theorem yields_sar : Yields (aluSar (intTy 0x04) [gen a] [gen b]) (a.sshiftRight b.toNat) := by
  refine ⟨((wordC (gen a)).signed 32).cut (min b.toNat 32) 32 false, by rw [aluSar, elems_i32, shrWords_word, AluOut.word], ?_⟩
  have h := cut_is (sound_signed (sound_wordC a)) (min b.toNat 32) false
  have hlo := BitVec.le_toInt a
  have hhi := BitVec.toInt_lt (x := a)
  have hs : a.toInt >>> b.toNat = a.toInt / 2 ^ b.toNat := by
    rw [Int.shiftRight_eq_div_pow]
    push_cast
    rfl
  rw [signed_int, ediv_min_count (by omega) (by omega), ← hs] at h
  exact h

/-! Counts of bits (R115). -/

theorem valueOf_word : valueOf [gen a] = a.toNat := by
  simp [valueOf, pairC, gen_val, Word.zero]

theorem count_map_true {α : Type} (f : α → Bool) (l : List α) : (l.map f).count true = l.countP f := by
  rw [List.count, List.countP_map]
  exact List.countP_congr fun x _ => by simp

theorem yields_popc : Yields (aluPopc (intTy 0x00) [gen a]) (BitVec.ofNat 32 ((List.range 32).countP fun i => a.getLsbD i)) := by
  refine ⟨_, rfl, ?_⟩
  rw [valueOf_word, bitsOf, count_map_true]
  exact is_gen _

/-- The places before the first one of a range that fits. -/
theorem length_takeWhile_range' (f : Nat → Bool) (m n : Nat) :
    m + (((List.range' m n).map f).takeWhile (!·)).length = ((List.range' m n).find? f).getD (m + n) := by
  induction n generalizing m with
  | zero => rfl
  | succ n ih =>
    rw [List.range'_succ, List.map_cons]
    cases h : f m with
    | true => simp [h]
    | false =>
      rw [List.takeWhile_cons_of_pos (by rfl), List.find?_cons_of_neg (by simp [h]), List.length_cons]
      have := ih (m + 1)
      rw [show m + 1 + n = m + (n + 1) by omega] at this
      omega

theorem reverse_bitsOf (v : Nat) : (bitsOf 32 v).reverse = (List.range 32).map fun k => v.testBit (31 - k) := rfl

theorem yields_clz :
    Yields (aluClz (intTy 0x00) [gen a]) (BitVec.ofNat 32 (((List.range 32).find? fun k => a.getLsbD (31 - k)).getD 32)) := by
  refine ⟨_, rfl, ?_⟩
  have h := length_takeWhile_range' (fun k => a.getLsbD (31 - k)) 0 32
  rw [← List.range_eq_range', Nat.zero_add, Nat.zero_add] at h
  rw [valueOf_word, ← h]
  exact is_gen _

theorem yields_mov : Yields (aluCopy [gen a]) a := ⟨_, rfl, is_copy a⟩

end

theorem yields_of_eq {o : AluOut} {v : W32} (h : o = .word (.gen v)) : Yields o v := ⟨_, h, is_gen v⟩

/-- The floating-point opcodes on the operands of the chosen examples. -/
theorem slotFloat_yields :
    slotAlu .faddF32 0 [gen 0x3FC00000] [gen 0x40200000] true true = .word (.gen 0x40800000) ∧
    slotAlu .fsubF32 0 [gen 0x3FC00000] [gen 0x40200000] true true = .word (.gen 0xBF800000) ∧
    slotAlu .fmulF32 0 [gen 0x3FC00000] [gen 0x40200000] true true = .word (.gen 0x40700000) ∧
    slotAlu .fminF32 0 [gen 0x3FC00000] [gen 0x40200000] true true = .word (.gen 0x3FC00000) ∧
    slotAlu .fmaxF32 0 [gen 0x3FC00000] [gen 0x40200000] true true = .word (.gen 0x40200000) ∧
    slotAlu .faddF16x2 0 [gen 0x40003C00] [gen 0x44004200] true true = .word (.gen 0x46004400) ∧
    slotAlu .fmulF16x2 0 [gen 0x40003C00] [gen 0x44004200] true true = .word (.gen 0x48004200) ∧
    slotAlu .faddBf16x2 0 [gen 0x40003F80] [gen 0x40804040] true true = .word (.gen 0x40C04080) ∧
    slotAlu .fmulBf16x2 0 [gen 0x40003F80] [gen 0x40804040] true true = .word (.gen 0x41004040) ∧
    slotAlu .cvtF32I32 0 [gen 3] [] true true = .word (.gen 0x40400000) ∧
    slotAlu .cvtI32F32 0 [gen 0x40400000] [] true true = .word (.gen 3) := by
  decide

end Sys2Proof.Machine

end

section

/-! PROOF. Paired words (O14): what one slot does in a lane whose thread is read as before the word, and both slots in turn. -/

namespace Sys2Proof.Machine

/-! ### The result of a slot's arithmetic -/

section

variable {o : SlotOp} {a b v : W32} {r : Bool}

/-- A value's slot names vector registers. -/
def ValueKind (o : SlotOp) : Prop := slotKind o = .two ∨ slotKind o = .one ∨ slotKind o = .imm ∨ slotKind o = .shift

theorem valueKind_of_slotValue (h : slotValue o a b = some v) : ValueKind o := by
  cases o <;> cases h <;> simp [ValueKind, slotKind]

theorem slotValue_yields (h : slotValue o a b = some v) : Yields (slotAlu o 0 [gen a] [gen b] true true) v := by
  cases o <;> cases h
  case add | addImm => exact yields_add a b
  case sub => exact yields_sub a b
  case mul => exact yields_mul a b
  case minI32 => exact yields_min_i32 a b
  case maxI32 => exact yields_max_i32 a b
  case minN32 => exact yields_min_n32 a b
  case maxN32 => exact yields_max_n32 a b
  case and | andImm => exact yields_and a b
  case or | orImm => exact yields_or a b
  case xor | xorImm => exact yields_xor a b
  case shl | shlImm => exact yields_shl a b
  case shr | shrImm => exact yields_shr a b
  case sar | sarImm => exact yields_sar a b
  case popc => exact yields_popc a
  case clz => exact yields_clz a
  case mov => exact yields_mov _

theorem slotFloat_pair {x y w : W32} (h : (if a = x ∧ b = y then some w else none) = some v) : a = x ∧ b = y ∧ w = v := by
  split at h
  next hab => exact ⟨hab.1, hab.2, Option.some.inj h⟩
  next => cases h

theorem slotFloat_one {x w : W32} (h : (if a = x then some w else none) = some v) : a = x ∧ w = v := by
  split at h
  next ha => exact ⟨ha, Option.some.inj h⟩
  next => cases h

theorem slotFloat_value (h : slotFloat o a b = some v) : ValueKind o ∧ Yields (slotAlu o 0 [gen a] [gen b] true true) v := by
  obtain ⟨h1, h2, h3, h4, h5, h6, h7, h8, h9, h10, h11⟩ := slotFloat_yields
  cases o
  case faddF32 => obtain ⟨rfl, rfl, rfl⟩ := slotFloat_pair h; exact ⟨.inl rfl, yields_of_eq h1⟩
  case fsubF32 => obtain ⟨rfl, rfl, rfl⟩ := slotFloat_pair h; exact ⟨.inl rfl, yields_of_eq h2⟩
  case fmulF32 => obtain ⟨rfl, rfl, rfl⟩ := slotFloat_pair h; exact ⟨.inl rfl, yields_of_eq h3⟩
  case fminF32 => obtain ⟨rfl, rfl, rfl⟩ := slotFloat_pair h; exact ⟨.inl rfl, yields_of_eq h4⟩
  case fmaxF32 => obtain ⟨rfl, rfl, rfl⟩ := slotFloat_pair h; exact ⟨.inl rfl, yields_of_eq h5⟩
  case faddF16x2 => obtain ⟨rfl, rfl, rfl⟩ := slotFloat_pair h; exact ⟨.inl rfl, yields_of_eq h6⟩
  case fmulF16x2 => obtain ⟨rfl, rfl, rfl⟩ := slotFloat_pair h; exact ⟨.inl rfl, yields_of_eq h7⟩
  case faddBf16x2 => obtain ⟨rfl, rfl, rfl⟩ := slotFloat_pair h; exact ⟨.inl rfl, yields_of_eq h8⟩
  case fmulBf16x2 => obtain ⟨rfl, rfl, rfl⟩ := slotFloat_pair h; exact ⟨.inl rfl, yields_of_eq h9⟩
  case cvtF32I32 => obtain ⟨rfl, rfl⟩ := slotFloat_one h; exact ⟨.inr (.inl rfl), yields_of_eq h10⟩
  case cvtI32F32 => obtain ⟨rfl, rfl⟩ := slotFloat_one h; exact ⟨.inr (.inl rfl), yields_of_eq h11⟩
  all_goals cases h

theorem aluSetc_n32 {ty : Nat} (hty : ty = 0x00 ∨ ty = 0x08) (d cond : Nat) :
    aluSetc d cond 0 true (intTy ty) [gen a] [gen b] = { preds := [(d, compareInt cond a.toNat b.toNat)] } := by
  rw [aluSetc, elems_n32 a hty, elems_n32 b hty]
  rfl

theorem aluSetc_i32 (d cond : Nat) :
    aluSetc d cond 0 true (intTy 0x04) [gen a] [gen b] = { preds := [(d, compareInt cond a.toInt b.toInt)] } := by
  rw [aluSetc, elems_i32, elems_i32, List.headD_cons, List.headD_cons, signed_int, signed_int]
  rfl

theorem intCast_beq : ((a.toNat : Int) == b.toNat) = (a == b) := by
  rw [Bool.eq_iff_iff, beq_iff_eq, beq_iff_eq, Int.natCast_inj, BitVec.toNat_inj]

theorem slotTest_preds (h : slotTest o a b = some r) :
    slotKind o = .setc ∧ ∀ d, slotAlu o d [gen a] [gen b] true true = { preds := [(d, r)] } := by
  cases o <;> cases h <;> refine ⟨rfl, fun d => ?_⟩
  case setcEq => rw [slotAlu, aluSetc_n32 (.inl rfl), compareInt, intCast_beq]
  case setcNe => rw [slotAlu, aluSetc_n32 (.inl rfl), compareInt, bne, intCast_beq, bne]
  case setcLtI32 | setcLeI32 => exact aluSetc_i32 d _
  case setcLtN32 => rw [slotAlu, aluSetc_n32 (.inr rfl), compareInt, decide_eq_decide.mpr Int.ofNat_lt]
  case setcLeN32 => rw [slotAlu, aluSetc_n32 (.inr rfl), compareInt, decide_eq_decide.mpr Int.ofNat_le]

theorem slotLogic_preds {p q : Bool} (h : slotLogic o p q = some r) :
    (slotKind o = .pred2 ∧ ∀ d, slotAlu o d [] [] p q = { preds := [(d, r)] }) ∨
    (slotKind o = .pred1 ∧ ∀ d, slotAlu o d [] [] p true = { preds := [(d, r)] }) := by
  cases o <;> cases h
  case pnot => exact .inr ⟨rfl, fun _ => rfl⟩
  case pxor => exact .inl ⟨rfl, fun _ => by cases p <;> cases q <;> rfl⟩
  all_goals exact .inl ⟨rfl, fun _ => rfl⟩

end

/-! ### What a thread reads after a slot -/

/-- A thread in which every source of a slot reads as in another, and that has the same `.lp` and special registers. -/
structure SameSources (t t1 : Thread) : Prop where
  v : ∀ r, readV t1 r = readV t r
  p : ∀ r, readP t1 r = readP t r
  sticky : t1.sticky = t.sticky
  seed : t1.seed = t.seed
  clockh : t1.clockh = t.clockh
  tval : t1.tval = t.tval
  retry : t1.retry = t.retry

theorem aget_aset {α : Type} (l : AList α) (k j : Nat) (a : α) : aget (aset l k a) j = if j = k then some a else aget l j := by
  induction l with
  | nil => simp [aset, aget, eq_comm]
  | cons x r ih =>
    obtain ⟨i, b⟩ := x
    simp only [aset]
    split_ifs <;> grind [aget]

theorem aget_note {α : Type} (l : AList α) (k j : Nat) (a : α) :
    aget (note l k a) j = if j = k then some ((aget l k).getD a) else aget l j := by
  unfold note
  split
  next b hb => split <;> simp_all
  next hb =>
    rw [aget_aset]
    simp [hb]

section

variable (t : Thread)

theorem readV_writeV (d : Nat) (w : Word) (r : Nat) : readV (writeV t d w) r = readV t r := by
  unfold writeV
  split
  · rfl
  · simp only [readV, aget_note]
    by_cases hr : r = d
    · simp [hr]
    · simp [hr, List.getD_eq_getElem?_getD, List.getElem?_set_ne (Ne.symm hr)]

theorem readP_writeP (d : Nat) (b : Prd) (r : Nat) : readP (writeP t d b) r = readP t r := by
  unfold writeP
  split
  · rfl
  · simp only [readP, aget_note]
    by_cases hr : r = d
    · simp [hr]
    · simp [hr, List.getD_eq_getElem?_getD, List.getElem?_set_ne (Ne.symm hr)]

theorem sameSources_refl : SameSources t t := ⟨fun _ => rfl, fun _ => rfl, rfl, rfl, rfl, rfl, rfl⟩

theorem sameSources_setV (d : Byte) (v : W32) : SameSources t (setV d v t) := by
  refine ⟨readV_writeV t _ _, fun _ => ?_, ?_, ?_, ?_, ?_, ?_⟩ <;> unfold setV writeV <;> split <;> rfl

theorem sameSources_setP (d : Nat) (b : Bool) : SameSources t (setP d b t) := by
  refine ⟨fun _ => ?_, readP_writeP t _ _, ?_, ?_, ?_, ?_, ?_⟩ <;> unfold setP writeP <;> split <;> rfl

theorem sameSources_late (s : State) (vs : AList Word) (ps : AList Prd) : SameSources t (late s vs ps t) :=
  ⟨fun _ => rfl, fun _ => rfl, rfl, rfl, rfl, rfl, rfl⟩

end

/-! ### What a lane sees of the state after a slot -/

/-- A state in which a lane's thread reads as `t` reads in another, and its places and special registers are those there. -/
structure Sees (s : State) (g l : Nat) (t : Thread) (s1 : State) : Prop where
  thread : ∃ t1, getT s1 g l = some t1 ∧ SameSources t t1
  calm : Calm s1 g
  cycle : s1.cycle = s.cycle
  special : ∀ sel, specialValue s1 g l sel = specialValue s g l sel
  size : ∀ sp, localSize s1 g sp = localSize s g sp
  place : ∀ sp A, localAt s1 g sp A = localAt s g sp A

/-- The words of its local spaces are those there too. -/
def SeesWords (s : State) (g l : Nat) (t : Thread) (s1 : State) : Prop :=
  ∀ t1, getT s1 g l = some t1 → ∀ sp A, localWord s1 g t1 sp A = localWord s g t sp A

section

variable {s s1 : State} {g l : Nat} {t : Thread} {F : Thread → Thread}

theorem getG_modT (k : Nat) : getG (modT s g l F) k =
    if k = g then (getG s g).map fun G => { G with threads := lmod G.threads l F } else getG s k := getG_modG ..

theorem wgOf_modT (k : Nat) : wgOf (modT s g l F) k = wgOf s k := by
  unfold wgOf
  rw [getG_modT, modT_wgs]
  split
  next h => subst h; cases getG s k <;> rfl
  next => rfl

theorem gridOf_modT (k : Nat) : gridOf (modT s g l F) k = gridOf s k := by rw [gridOf, wgOf_modT, modT_grids, gridOf]

theorem gangOf_modT (k : Nat) : gangOf (modT s g l F) k = gangOf s k := by rw [gangOf, wgOf_modT, modT_gangs, gangOf]

theorem localSize_modT (sp : Nat) : localSize (modT s g l F) g sp = localSize s g sp := by
  unfold localSize
  split
  · rfl
  · rw [scratchOf, gridOf_modT, scratchOf]
  · rw [gangOf_modT, ksmemOf, gridOf_modT, ksmemOf]

theorem localAt_modT (sp A : Nat) : localAt (modT s g l F) g sp A = localAt s g sp A := by
  unfold localAt
  split
  · rfl
  · rw [csAddr, wgOf_modT, csAddr]
  · rw [ksAddr, gangOf_modT, ksAddr]

theorem calm_modT (h : Calm s g) : Calm (modT s g l F) g := by
  unfold Calm at h ⊢
  rw [getG_modT, if_pos rfl]
  cases hG : getG s g with
  | none => rfl
  | some G => simpa [hG] using h

theorem specialValue_modT (ht : getT s g l = some t) (hF : SameSources t (F t)) (sel : Nat) :
    specialValue (modT s g l F) g l sel = specialValue s g l sel := by
  obtain ⟨G, hG, hl⟩ := Option.bind_eq_some_iff.mp ht
  have hG' : getG (modT s g l F) g = some { G with threads := lmod G.threads l F } := by rw [getG_modT, if_pos rfl, hG]; rfl
  have ht' : getT (modT s g l F) g l = some (F t) := by rw [getT_modT, if_pos ⟨rfl, rfl⟩, ht]; rfl
  unfold specialValue
  rw [hG, ht, hG', ht', wgOf_modT]
  cases wgOf s g with
  | none => rfl
  | some W =>
    dsimp only
    rw [hF.sticky, hF.seed, hF.clockh, hF.tval]
    rfl

theorem sees_modT (ht : getT s g l = some t) (hc : Calm s g) (hF : SameSources t (F t)) : Sees s g l t (modT (taken s) g l F) where
  thread := ⟨F t, by rw [getT_modT, if_pos ⟨rfl, rfl⟩, getT_taken, ht]; rfl, hF⟩
  calm := calm_modT (s := taken s) hc
  cycle := rfl
  special sel := (specialValue_modT (s := taken s) ht hF sel).trans (specialValue_taken sel)
  size sp := localSize_modT (s := taken s) sp
  place sp A := localAt_modT (s := taken s) sp A

theorem sees_taken (ht : getT s g l = some t) (hc : Calm s g) : Sees s g l t (taken s) :=
  ⟨⟨t, ht, sameSources_refl t⟩, hc, rfl, fun _ => rfl, fun _ => rfl, fun _ _ => rfl⟩

theorem sees_localPut (ht : getT s g l = some t) (hc : Calm s g) (sp A : Nat) (w : Word) :
    Sees s g l t (localPut (taken s) g l sp A w) := by
  unfold localPut
  split
  · exact sees_modT ht hc ⟨fun _ => rfl, fun _ => rfl, rfl, rfl, rfl, rfl, rfl⟩
  · exact ⟨⟨t, ht, sameSources_refl t⟩, hc, rfl, fun _ => rfl, fun _ => rfl, fun _ _ => rfl⟩
  · exact ⟨⟨t, ht, sameSources_refl t⟩, hc, rfl, fun _ => rfl, fun _ => rfl, fun _ _ => rfl⟩

theorem seesWords_modT (ht : getT s g l = some t) (hlp : (F t).lp = t.lp) : SeesWords s g l t (modT (taken s) g l F) := by
  intro t1 ht1 sp A
  rw [getT_modT, if_pos ⟨rfl, rfl⟩, getT_taken, ht] at ht1
  obtain rfl := Option.some.inj ht1
  unfold localWord
  split
  · rw [hlp]
  · rw [localAt_modT]
    rfl
  · rw [localAt_modT]
    rfl

theorem seesWords_taken (ht : getT s g l = some t) : SeesWords s g l t (taken s) := by
  intro t1 ht1 sp A
  obtain rfl : t = t1 := Option.some.inj (ht.symm.trans ht1)
  rfl

end

/-! ### Places of the local spaces (R153, R154) -/

section

variable {s : State} {g l sp A : Nat}

/-- An aligned word within a local space. -/
theorem locate_local {n : Need} (hsp : sp < 3) (hal : A % 4 = 0) (hin : A + 4 ≤ localSize s g sp) :
    locate s g sp 4 n (A : Int) = (.ok ⟨sp, localAt s g sp A, BitVec.ofInt 64 A, noAttr, false⟩, s) := by
  have hali : ((A : Int) % 4 = 0) := by omega
  have hsz : ¬((A : Int) < 0 ∨ localSize s g sp ≤ A) ∧ ¬ localSize s g sp < A + 4 := by omega
  have h3 : sp = 0 ∨ sp = 1 ∨ sp = 2 := by omega
  rcases h3 with rfl | rfl | rfl
  · simp only [localSize] at hsz
    simp [locate, hali, hsz, localAt]
  · simp only [localSize] at hsz
    simp [locate, hali, hsz, localAt]
  · have hg : (gangOf s g).isSome := by
      by_contra hg
      simp [localSize, hg] at hin
    simp only [localSize, hg, if_true] at hsz
    simp [locate, hali, hsz, localAt, Option.isSome_iff_ne_none.mp hg]

variable {t : Thread} {w : Word}

theorem loadWord_local {core ch : Nat} {tv : W64} {x : LineAttr} {b : Bool} (ht : getT s g l = some t) (hsp : sp < 3) :
    loadWord s g l core ch ⟨sp, localAt s g sp A, tv, x, b⟩ 0 = (localWord s g t sp A, s) := by
  have h3 : sp = 0 ∨ sp = 1 ∨ sp = 2 := by omega
  rcases h3 with rfl | rfl | rfl
  · simp [loadWord, localWord, localAt, ht]
  · rfl
  · rfl

/-- The word that a load of one word finds, on its way. -/
theorem memLoad_word {d : Nat} (ht : getT s g l = some t) (hc : Calm s g) (hsp : sp < 3) (hal : A % 4 = 0)
    (hin : A + 4 ≤ localSize s g sp) (hw : localWord s g t sp A = w) (hm : mismatch w = false) :
    memLoad s g l sp 0 0 0 d false (A : Int) = .done (modT s g l (pending .direct [(d, w)] [] [] s.cycle)) := by
  have hsize : sizeOf_ 0 0 = 4 := rfl
  have hmoved : moved 0 0 = 1 := rfl
  have hbytes : ¬ elemBytes 0 < 4 := by decide
  simp only [memLoad, hsize, hmoved, Bool.false_eq_true, if_false, locate_local hsp hal hin, if_neg hbytes, loadWords,
    loadWord_local ht hsp, Nat.mul_zero, List.nil_append, hw]
  exact landWords_one hc hm

/-- A store of one word puts it at its place. -/
theorem memStore_word (hsp : sp < 3) (hal : A % 4 = 0) (hin : A + 4 ≤ localSize s g sp) (hm : mismatch w = false) :
    memStore s g l sp 0 0 0 [w] false (A : Int) = .done (localPut s g l sp (localAt s g sp A) w) := by
  have hsize : sizeOf_ 0 0 = 4 := rfl
  have hparts (off : Nat) : storeParts 0 off [w] = [wholePatch w] := rfl
  have hput (x : LineAttr) (tv : W64) (core : Nat) :
      storePatch s g l core ⟨sp, localAt s g sp A, tv, x, false⟩ 0 (wholePatch w) = localPut s g l sp (localAt s g sp A) w := by
    have h3 : sp = 0 ∨ sp = 1 ∨ sp = 2 := by omega
    rcases h3 with rfl | rfl | rfl <;> rfl
  simp only [memStore, hsize, Bool.false_eq_true, if_false, locate_local hsp hal hin, List.any_cons, hm, List.any_nil,
    Bool.or_false, Bool.false_and, hparts, storeParts', List.foldl_cons, List.foldl_nil]
  exact congrArg LaneRes.done (hput _ _ _)

end

/-! ### One slot in a lane (R84) -/

section

variable {s s1 : State} {g l : Nat} {t : Thread} {o : SlotOp} {x : Slot} {F : Thread → Thread}

theorem commit_word (psn : Bool) (d : Nat) (w : Word) (c : Cut) :
    commit none psn [(d, w)] (.word c) = fun t => writeV t d w := commit_words _ _ _

theorem commit_pred (d : Nat) (b : Bool) : commit none false [] { preds := [(d, b)] } = setP d b := by
  funext t
  simp only [commit, deliver, deliverX, List.map_cons, List.map_nil, List.foldl_cons, List.foldl_nil, Option.getD_none]
  exact sticky_or_zero _

/-- A slot that yields a word writes it. -/
theorem writeBack_value {cls : Nat} {d : Byte} {o : AluOut} {v : W32} (hc : Calm s g) (hy : Yields o v) :
    writeBack s g l cls false false [d.toNat] o = .done (modT s g l (setV d v)) := by
  obtain ⟨c, rfl, hv⟩ := hy
  have hset : settleAll false (AluOut.word c).words = some [gen v] := by simp [AluOut.word, settleAll, settle_of_is hv]
  rw [writeBack_done hc rfl (.inr rfl) hset]
  simp only [Bool.false_eq_true, if_false, List.zip_cons_cons, List.zip_nil_left, commit_word]
  rfl

theorem writeBack_pred {cls d : Nat} {b : Bool} (hc : Calm s g) :
    writeBack s g l cls false false [] { preds := [(d, b)] } = .done (modT s g l (setP d b)) := by
  rw [writeBack_done hc rfl (.inr rfl) (ws := []) rfl]
  simp only [Bool.false_eq_true, if_false, List.zip_nil_left, commit_pred]

/-- The one operand of a slot with no second one. -/
theorem slotAlu_one {a b : List Word} (h : slotKind o = .one) : slotAlu o 0 a [] true true = slotAlu o 0 a b true true := by
  cases o <;> cases h <;> rfl

/-- A slot of vector registers, on sound operands. -/
theorem slotRun_value {t1 : Thread} {a b : W32} (ht : getT s g l = some t1) (hk : ValueKind o) (ha : readV t1 x.a.toNat = gen a)
    (hb : slotB t1 o x = gen b) : slotRun o x s g l =
      writeBack s g l (slotInject o) false false [x.d.toNat] (slotAlu o 0 [gen a] [gen b] true true) := by
  rcases hk with hk | hk | hk | hk <;> simp only [slotB, hk] at hb <;> simp only [slotRun, ht, hk, ha, isPoison_gen, hb, Bool.or_false]
  rw [slotAlu_one hk]

/-- Where a predicate slot writes it names a predicate (R88). -/
theorem slotSubs_dest (hs : slotSubs o x = []) (hk : slotKind o = .setc ∨ slotKind o = .pred2 ∨ slotKind o = .pred1) :
    x.d.toNat % 8 = x.d.toNat := by
  refine Nat.mod_eq_of_lt ?_
  by_contra hd
  rcases hk with hk | hk | hk <;> simp [slotSubs, hk, zeroSub, hd] at hs

theorem slotSpace_lt : slotSpace o < 3 := by
  cases o <;> decide

/-- A slot that completes does to the thread what its full form does, in a state whose sources are those before the word. -/
theorem slotRun_does (hv : Sees s g l t s1) (hm : slotKind o = .load → SeesWords s g l t s1) (hs : slotSubs o x = [])
    (hd : SlotDoes s g l t o x F) : slotRun o x s1 g l = .done (modT s1 g l F) := by
  obtain ⟨t1, ht1, hsrc⟩ := hv.thread
  rcases hd with ⟨a, b, v, ha, hb, hval, rfl⟩ | ⟨a, b, r, ha, hb, htest, rfl⟩ | ⟨p, q, r, hp, hq, hlog, rfl⟩ | ⟨rfl, hsel, rfl⟩ |
    ⟨hk, a, A, w, ha, hA, hal, hin, hw, hmis, rfl⟩
  · have hb1 : slotB t1 o x = gen b := by
      rw [← hb]
      simp only [slotB, hsrc.v]
    obtain ⟨hk, hy⟩ : ValueKind o ∧ Yields (slotAlu o 0 [gen a] [gen b] true true) v :=
      hval.elim (fun h => ⟨valueKind_of_slotValue h, slotValue_yields h⟩) slotFloat_value
    rw [slotRun_value ht1 hk ((hsrc.v _).trans ha) hb1, writeBack_value hv.calm hy]
  · obtain ⟨hk, hpred⟩ := slotTest_preds htest
    simp only [slotRun, ht1, hk, hsrc.v, show readV t x.a.toNat = gen a from ha, show readV t x.b.toNat = gen b from hb,
      isPoison_gen, Bool.or_false, hpred, slotSubs_dest hs (.inl hk)]
    exact writeBack_pred hv.calm
  · rcases slotLogic_preds hlog with ⟨hk, hpred⟩ | ⟨hk, hpred⟩
    · simp only [slotRun, ht1, hk, hsrc.p, hp, hq, Bool.or_false, hpred, slotSubs_dest hs (.inr (.inl hk))]
      exact writeBack_pred hv.calm
    · simp only [slotRun, ht1, hk, hsrc.p, hp, hpred, slotSubs_dest hs (.inr (.inr hk))]
      exact writeBack_pred hv.calm
  · have hsel' : x.a.toNat ≠ 0x14 := fun h => hsel (BitVec.eq_of_toNat_eq h)
    simp only [slotRun, ht1, slotKind, srdBody, latchClock, if_neg hsel', hv.special]
    rfl
  · have hword : localWord s1 g t1 (slotSpace o) A = w := (hm hk t1 ht1 _ _).trans hw
    have hload := memLoad_word (d := x.d.toNat) ht1 hv.calm slotSpace_lt hal (by rwa [hv.size]) hword hmis
    have haddr : ((gen a).val.toNat : Int) + 4 * x.b.toNat = (A : Int) := by rw [gen_val, hA]; push_cast; rfl
    simp only [slotRun, ht1, hk, hsrc.v, show readV t x.a.toNat = gen a from ha, isPoison_gen, haddr, hload, hv.cycle]
    rfl

/-- A slot that stores a sound word puts it at its place. -/
theorem slotRun_stores (hv : Sees s g l t s1) (hk : slotKind o = .store) {a : W32} {A : Nat} {w : Word} (ha : Holds t x.a a)
    (hA : A = a.toNat + 4 * x.b.toNat) (hal : A % 4 = 0) (hin : A + 4 ≤ localSize s g (slotSpace o))
    (hw : readV t x.d.toNat = w) (hm : mismatch w = false) :
    slotRun o x s1 g l = .done (localPut s1 g l (slotSpace o) (localAt s g (slotSpace o) A) w) := by
  obtain ⟨t1, ht1, hsrc⟩ := hv.thread
  have hstore := memStore_word (s := s1) (g := g) (l := l) slotSpace_lt hal (by rwa [hv.size]) hm
  have haddr : ((gen a).val.toNat : Int) + 4 * x.b.toNat = (A : Int) := by rw [gen_val, hA]; push_cast; rfl
  simp only [slotRun, ht1, hk, hsrc.v, show readV t x.a.toNat = gen a from ha, isPoison_gen, haddr, hw]
  rw [hstore, hv.place]

end

/-! ### Both slots (R81 to R84) -/

section

variable {s s1 s2 : State} {g l : Nat} {t : Thread} {ox : SlotOp} {p : PairWord}

theorem pairBody_done (hx : slotRun ox p.x s g l = .done s1) (hy : slotRun p.opY p.y s1 g l = .done s2) :
    pairBody ox p s g l = .done s2 := by
  simp only [pairBody, hx, outcomeOf, hy]

theorem eq_nil_of_subTrap {xs : List Nat} (h : subTrap xs = none) : xs = [] := by
  cases xs with
  | nil => rfl
  | cons n r => simp [subTrap] at h

theorem slotSubs_of_pairPre (h : pairPre ox p s g l = none) : slotSubs ox p.x = [] ∧ slotSubs p.opY p.y = [] := by
  have hsubs : pairSubsOf ox p = [] := by
    simp only [pairPre] at h
    split at h
    · cases h
    · obtain ⟨-, -, hsub, -⟩ := by simpa only [Option.or_eq_none_iff] using h
      exact eq_nil_of_subTrap hsub
  simp only [pairSubsOf, List.append_eq_nil_iff] at hsubs
  exact hsubs.1.1

theorem slotClass_of_memory {o : SlotOp} (h : slotKind o = .load ∨ slotKind o = .store) : slotClass o = .m := by
  cases o <;> simp [slotKind] at h <;> rfl

/-- No word pairs a store with a load. -/
theorem not_load_of_store (h : pairPre ox p s g l = none) (hx : slotKind ox = .store) : slotKind p.opY ≠ .load := by
  intro hy
  have hcx := slotClass_of_memory (.inr hx)
  have hcy := slotClass_of_memory (.inl hy)
  simp [pairPre, hcx, hcy] at h

/-- A pair whose slots complete in turn is passed. -/
theorem exec_pair_done (hw : AtWord s g l t 7 p.s) (hp : pairPre ox p (taken s) g l = none)
    (hx : slotRun ox p.x (taken s) g l = .done s1) (hy : slotRun p.opY p.y s1 g l = .done s2)
    (hr : (getT s2 g l).bind (·.retry) = none) : exec (pairInstr ox p) s = .next (past s2 g l p.s) := by
  rw [exec_pairInstr, issuePair]
  exact congrArg _ (done_of (atWord_ends rfl hw) hp rfl rfl (pairBody_done hx hy) hr)

/-- A thread that a slot changes keeps its sources and its `.lp`. -/
theorem sameSources_of_does {o : SlotOp} {x : Slot} {F : Thread → Thread} (hd : SlotDoes s g l t o x F) :
    SameSources t (F t) ∧ (F t).lp = t.lp ∧ ∀ u, (F u).retry = u.retry := by
  have hv (d : Byte) (v : W32) : (setV d v t).lp = t.lp := by
    unfold setV writeV
    split <;> rfl
  have hp (d : Nat) (b : Bool) : (setP d b t).lp = t.lp := by
    unfold setP writeP
    split <;> rfl
  rcases hd with ⟨_, _, v, -, -, -, rfl⟩ | ⟨_, _, r, -, -, -, rfl⟩ | ⟨_, _, r, -, -, -, rfl⟩ | ⟨-, -, rfl⟩ |
    ⟨-, _, _, w, -, -, -, -, -, -, rfl⟩
  · exact ⟨sameSources_setV t _ v, hv _ v, setV_retry _ v⟩
  · exact ⟨sameSources_setP t _ r, hp _ r, fun u => (sameSources_setP u _ r).retry⟩
  · exact ⟨sameSources_setP t _ r, hp _ r, fun u => (sameSources_setP u _ r).retry⟩
  · exact ⟨sameSources_setV t _ _, hv _ _, setV_retry _ _⟩
  · exact ⟨sameSources_late t s _ _, rfl, fun _ => rfl⟩

theorem retry_localPut (sp A : Nat) (w : Word) : (getT (localPut s g l sp A w) g l).bind (·.retry) = (getT s g l).bind (·.retry) := by
  unfold localPut
  split
  · exact retry_modT fun _ => rfl
  · rfl
  · rfl

end

end Sys2Proof.Machine

namespace Sys2Proof

open Machine in
/-- Settles O14: X runs in the state of the word and Y in the one that X leaves, whose sources read as before X. -/
theorem pairedWords : Obligations.PairedWords := by
  unfold Obligations.PairedWords
  intro s g l t ox p FY hw hcalm hp
  have ht : getT s g l = some t := hw.1.2.1
  have hr := retry_taken hw.1
  obtain ⟨hsx, hsy⟩ := slotSubs_of_pairPre hp
  have hX {FX : Thread → Thread} (hd : SlotDoes s g l t ox p.x FX) :
      slotRun ox p.x (taken s) g l = .done (modT (taken s) g l FX) :=
    slotRun_does (sees_taken ht hcalm) (fun _ => seesWords_taken ht) hsx hd
  refine ⟨fun hY => ⟨fun FX hd => ?_, fun A w hst => ?_⟩, fun FX A w hd hst => ?_⟩
  · obtain ⟨hsrc, hlp, hFX⟩ := sameSources_of_does hd
    obtain ⟨-, -, hFY⟩ := sameSources_of_does hY
    have hrun := slotRun_does (sees_modT ht hcalm hsrc) (fun _ => seesWords_modT ht hlp) hsy hY
    rw [modT_modT] at hrun
    exact exec_pair_done hw hp (hX hd) hrun ((retry_modT fun u => (hFY _).trans (hFX u)).trans hr)
  · obtain ⟨hk, ⟨a, ha, hA⟩, hal, hin, hwd, hm⟩ := hst
    obtain ⟨-, -, hFY⟩ := sameSources_of_does hY
    have hload := not_load_of_store hp hk
    exact exec_pair_done hw hp (slotRun_stores (sees_taken ht hcalm) hk ha hA hal hin hwd hm)
      (slotRun_does (sees_localPut ht hcalm _ _ _) (fun h => absurd h hload) hsy hY)
      ((retry_modT hFY).trans ((retry_localPut _ _ _).trans hr))
  · obtain ⟨hk, ⟨a, ha, hA⟩, hal, hin, hwd, hm⟩ := hst
    obtain ⟨hsrc, -, hFX⟩ := sameSources_of_does hd
    exact exec_pair_done hw hp (hX hd) (slotRun_stores (sees_modT ht hcalm hsrc) hk ha hA hal hin hwd hm)
      ((retry_localPut _ _ _).trans ((retry_modT hFX).trans hr))

end Sys2Proof

end

section

/-! PROOF. Words of opcode groups 0x0 to 0x4 whose operands are direct registers of 32 bits: their checks pass, their operands
are the registers that they name, and the word that the arithmetic gives is written with its sticky bits. -/

namespace Sys2Proof.Machine

theorem Plain.moded {f : FullWord} {ty xm : Nat} (h : Plain f ty xm) : Moded f ty 0 0 xm := by
  obtain ⟨hmod, hxm, hp⟩ := h
  exact ⟨hmod.trans (by simp), by decide, by decide, hxm, hp⟩

/-! ### What the arithmetic gives -/

/-- The arithmetic gives one word and sticky bits, and nothing else. -/
def Gives (o : AluOut) (v : W32) (fl : BitVec 6) : Prop := ∃ c : Cut, o = { words := [c], flags := fl } ∧ c.Is v

theorem Yields.gives {o : AluOut} {v : W32} (h : Yields o v) : Gives o v 0 := h

theorem flagged_zero (t : Thread) : flagged 0 t = t := sticky_or_zero t

theorem settleAll_one {c : Cut} {v : W32} (h : c.Is v) : settleAll false [c] = some [gen v] := by
  simp [settleAll, settle_of_is h]

/-! ### Direct operands -/

/-- A field that holds what R87 asks of a direct operand, a register of a format of 32 bits where it names one. -/
def FieldOk (x : Byte) : Fld → Prop
  | .z => x = 0
  | .p => x.toNat < 8
  | .raw => True
  | .v ty => wide ty = false

/-- A word with direct operands, in which no check on its own fields fails (check 3 of R89). -/
structure DirectWord (r : Row) (f : FullWord) : Prop where
  mode : omodeOf f = 0
  sel : oselOf f = 0
  guard : f.pred ≠ 0xF
  type : tyOf f < 0x13 ∧ r.types.contains (tyOf f) = true
  xm : xmOf f &&& ~~~ r.xm = 0
  fields : ∀ i, FieldOk (fieldAt f i) (r.at_ i)
  further : r.subs = [] ∧ r.regs = [] ∧ r.preds = []

/-- The registers that it names are in bound, and its sources not poisoned. -/
def SoundFields (s : State) (g : Nat) (t : Thread) (r : Row) (f : FullWord) : Prop :=
  ∀ i, isV (r.at_ i) = true → Within s g (fieldAt f i) ∧ (i < 3 → isPoison (readV t (fieldAt f i).toNat) = false)

/-- The words of a direct field. -/
def fieldWords (t : Thread) (r : Row) (f : FullWord) (i : Nat) : List Word :=
  match r.at_ i with
  | .v _ => [readV t (fieldAt f i).toNat]
  | _ => []

section

variable {r : Row} {f : FullWord} {s : State} {g l : Nat} {t : Thread}

theorem DirectWord.isDirect (h : DirectWord r f) (i : Nat) : isDirect f i = true := by simp [Machine.isDirect, h.mode]

theorem fieldSubs_direct (h : DirectWord r f) (i : Nat) : fieldSubs r f i = [] := by
  have hi := h.fields i
  unfold fieldSubs
  cases hr : r.at_ i <;> simp_all [FieldOk, h.mode, h.isDirect]

theorem r75Subs_direct (h : DirectWord r f) : r75Subs r f = [] := by
  obtain ⟨hty, htypes⟩ := h.type
  have hty' : ¬ 0x13 ≤ tyOf f := by omega
  obtain ⟨hsubs, -, -⟩ := h.further
  have hfields : [0, 1, 2, 3].flatMap (fieldSubs r f) = [] := by simp [fieldSubs_direct h]
  simp only [r75Subs, hfields, hsubs, codebookSubs, h.mode, h.sel, if_neg h.guard, if_neg hty', htypes, h.xm, if_true]
  simp

theorem nRegs_of_narrow {ty : Nat} (h : wide ty = false) : nRegs ty = 1 := by simp [nRegs, h]

theorem r75Regs_direct (h : DirectWord r f) {n : Nat} (hn : n ∈ r75Regs r f) :
    ∃ i, isV (r.at_ i) = true ∧ n = (fieldAt f i).toNat := by
  obtain ⟨-, hregs, -⟩ := h.further
  simp only [r75Regs, hregs, List.append_nil, List.mem_flatMap] at hn
  obtain ⟨i, -, hi⟩ := hn
  have hok := h.fields i
  refine ⟨i, ?_⟩
  cases hr : r.at_ i with
  | v ty =>
    rw [hr] at hok hi
    simp only [h.isDirect, if_true, nRegs_of_narrow hok] at hi
    exact ⟨rfl, by simpa using hi⟩
  | _ => simp [hr] at hi

/-- Checks 3 to 5 of R89 pass. -/
theorem r75Pre_direct (h : DirectWord r f) (hs : SoundFields s g t r f) : r75Pre r f (taken s) g l = none := by
  have hbound : outOfBound (nreqOf s g) (r75Regs r f) = [] := by
    simp only [outOfBound, List.filter_eq_nil_iff]
    intro n hn
    obtain ⟨i, hv, rfl⟩ := r75Regs_direct h hn
    obtain ⟨hlt | h255, -⟩ := hs i hv
    · simp; omega
    · simp [h255]
  simp [r75Pre, r75Subs_direct h, subTrap, regTrap, nreqOf_taken, hbound, r75Check5, h.mode]

theorem readOperand_direct (h : DirectWord r f) (i : Nat) :
    readOperand r f s g l t i = .words s (fieldWords t r f i) := by
  have hok := h.fields i
  unfold readOperand fieldWords
  cases hr : r.at_ i with
  | v ty =>
    rw [hr] at hok
    simp [h.isDirect, regsFrom, nRegs_of_narrow hok]
  | _ => rfl

theorem isPoison_fieldWords (hs : SoundFields s g t r f) {i : Nat} (hi : i < 3) :
    (fieldWords t r f i).any isPoison = false := by
  have hsi := hs i
  unfold fieldWords
  cases hr : r.at_ i with
  | v ty =>
    rw [hr] at hsi
    simp [(hsi rfl).2 hi]
  | _ => rfl

end

/-! ### Words issued -/

section

variable {i : Instr} {op : R75Op} {s : State} {g l : Nat} {t : Thread} {v : W32} {fl : BitVec 6} {a b c : List Word}

/-- LaneArithmetic (O11) for a word that names no queue and whose operands are not poisoned. -/
theorem exec_unpoisoned {ds : List Nat} {ws : List Word} (hop : r75Op i = some op) (hw : AtWord s g l t op.f.pred op.f.s)
    (hcalm : Calm s g) (hpre : r75Pre op.row op.f (taken s) g l = none) (hmode : omodeOf op.f ≠ 4)
    (hds : destRegs op.row op.f (nreqOf s g) t = .ok ds)
    (ha : readOperand op.row op.f (taken s) g l t 0 = .words (taken s) a)
    (hb : readOperand op.row op.f (taken s) g l t 1 = .words (taken s) b)
    (hc : readOperand op.row op.f (taken s) g l t 2 = .words (taken s) c)
    (hpsn : operandsPoisoned op.row t (a ++ b ++ c) = false) (htrap : (op.run ⟨op.f, a, b, c, t⟩).trap = none)
    (hbad : (op.run ⟨op.f, a, b, c, t⟩).bad = none) (hset : settleAll false (op.run ⟨op.f, a, b, c, t⟩).words = some ws) :
    exec i s = .next (did s g l op.f.s (commit none false (ds.zip ws) (op.run ⟨op.f, a, b, c, t⟩))) := by
  have hpops : popsQueue op.f = false := by simp [popsQueue, hmode]
  have hexec := laneArithmetic s (taken s) (taken s) (taken s) g l t i op ds a b c ws hop hw hcalm hpre (.inl hmode) hds ha hb
    hc rfl htrap (.inr hbad)
  unfold operandsPoisoned at hpsn
  simp only [hpsn, hpops] at hexec
  exact hexec hset

/-- The word that the arithmetic gives is written, and its sticky bits added. -/
theorem exec_gives (hop : r75Op i = some op) (hw : AtWord s g l t op.f.pred op.f.s)
    (hcalm : Calm s g) (hpre : r75Pre op.row op.f (taken s) g l = none) (hmode : omodeOf op.f ≠ 4)
    (hds : destRegs op.row op.f (nreqOf s g) t = .ok [op.f.d.toNat])
    (ha : readOperand op.row op.f (taken s) g l t 0 = .words (taken s) a)
    (hb : readOperand op.row op.f (taken s) g l t 1 = .words (taken s) b)
    (hc : readOperand op.row op.f (taken s) g l t 2 = .words (taken s) c)
    (hpsn : operandsPoisoned op.row t (a ++ b ++ c) = false) (hout : Gives (op.run ⟨op.f, a, b, c, t⟩) v fl) :
    exec i s = .next (did s g l op.f.s fun t => flagged fl (setV op.f.d v t)) := by
  obtain ⟨c', hrun, hv⟩ := hout
  rw [exec_unpoisoned (ws := [gen v]) hop hw hcalm hpre hmode hds ha hb hc hpsn (by rw [hrun]) (by rw [hrun])
    (by rw [hrun]; exact settleAll_one hv), hrun]
  rfl

/-- The own part of a word with direct operands, on the words that it names. -/
def directOut (t : Thread) (op : R75Op) : AluOut :=
  op.run ⟨op.f, fieldWords t op.row op.f 0, fieldWords t op.row op.f 1, fieldWords t op.row op.f 2, t⟩

theorem operandsPoisoned_direct (h : DirectWord op.row op.f) (hs : SoundFields s g t op.row op.f) : operandsPoisoned op.row t
    (fieldWords t op.row op.f 0 ++ fieldWords t op.row op.f 1 ++ fieldWords t op.row op.f 2) = false := by
  obtain ⟨-, hregs, hpreds⟩ := h.further
  have h0 := isPoison_fieldWords hs (i := 0) (by decide)
  have h1 := isPoison_fieldWords hs (i := 1) (by decide)
  have h2 := isPoison_fieldWords hs (i := 2) (by decide)
  simp only [operandsPoisoned, List.any_append, hregs, hpreds, List.any_nil, h0, h1, h2, Bool.or_false]

/-- A word with direct operands writes the word that its arithmetic gives. -/
theorem exec_direct (hop : r75Op i = some op) (hw : AtWord s g l t op.f.pred op.f.s) (hcalm : Calm s g)
    (h : DirectWord op.row op.f) (hs : SoundFields s g t op.row op.f) (hd : isV op.row.d = true)
    (hout : Gives (directOut t op) v fl) :
    exec i s = .next (did s g l op.f.s fun t => flagged fl (setV op.f.d v t)) := by
  have hds : destRegs op.row op.f (nreqOf s g) t = .ok [op.f.d.toNat] := by
    have hok : FieldOk op.f.d op.row.d := h.fields 3
    unfold destRegs
    cases hr : op.row.d with
    | v ty =>
      rw [hr] at hok
      simp [h.isDirect, nRegs_of_narrow hok]
    | _ => simp [hr, isV] at hd
  exact exec_gives hop hw hcalm (r75Pre_direct h hs) (by simp [h.mode]) hds (readOperand_direct h 0) (readOperand_direct h 1)
    (readOperand_direct h 2) (operandsPoisoned_direct h hs) hout

/-- A word with direct operands writes the predicate that it gives. -/
theorem exec_direct_pred (hop : r75Op i = some op) (hw : AtWord s g l t op.f.pred op.f.s) (hcalm : Calm s g)
    (h : DirectWord op.row op.f) (hs : SoundFields s g t op.row op.f) (hd : op.row.d = .p) {d : Nat} {p : Bool}
    (hout : directOut t op = { preds := [(d, p)] }) : exec i s = .next (did s g l op.f.s (setP d p)) := by
  have hds : destRegs op.row op.f (nreqOf s g) t = .ok [] := by simp [destRegs, hd]
  have hexec := exec_unpoisoned (ws := []) hop hw hcalm (r75Pre_direct h hs) (by simp [h.mode]) hds (readOperand_direct h 0)
    (readOperand_direct h 1) (readOperand_direct h 2) (operandsPoisoned_direct h hs)
  rw [← directOut, hout] at hexec
  rw [hexec rfl rfl rfl, List.zip_nil_left, commit_pred]

end

end Sys2Proof.Machine

end

section

/-! PROOF. Rounding of a magnitude (R59): the quotient and whether it is raised, and that no mode but the stochastic one looks
at the seed. -/

namespace Sys2Proof.Machine

section

variable {rm u m : Nat} {neg stk ftz conv : Bool} {e q : Int}

/-- Whether the modes 0 to 3 raise the quotient `h` of a magnitude with the remainder `r` by `n`. -/
def raises (rm : Nat) (neg : Bool) (h r n : Nat) : Bool :=
  r != 0 && match rm with
    | 0 => decide (n < 2 * r) || (2 * r == n && h % 2 == 1)
    | 1 => false
    | 2 => neg
    | _ => !neg

theorem roundMag_exact (h : q ≤ e) :
    (roundMag rm u neg m e stk q).m = m * 2 ^ (e - q).toNat ∧ (roundMag rm u neg m e stk q).inexact = stk := by
  simp [roundMag, if_pos h]

/-- A magnitude too small for its bits to be looked at one by one lies below half a unit. -/
theorem two_mul_lt_of_far {t : Nat} (h : (lead m).toNat + 30 < t) : 2 * m < 2 ^ t := by
  have hlog : m < 2 ^ (m.log2 + 1) := Nat.lt_log2_self
  have hpow : 2 ^ (m.log2 + 2) ≤ 2 ^ t := Nat.pow_le_pow_right (by decide) (by simp only [lead, Int.toNat_natCast] at h; omega)
  have hdouble : 2 ^ (m.log2 + 2) = 2 * 2 ^ (m.log2 + 1) := Nat.pow_succ'
  omega

/-- R59 for the modes 0 to 3: the quotient by the unit, raised or not as the remainder and the mode say. -/
theorem roundMag_quotient (hrm : rm < 4) (h : e < q) :
    let n := 2 ^ (q - e).toNat
    (roundMag rm u neg m e false q).m = m / n + (raises rm neg (m / n) (m % n) n).toNat ∧
    (roundMag rm u neg m e false q).inexact = (m % n != 0) := by
  intro n
  have hq : ¬ q ≤ e := by omega
  by_cases hfar : (lead m).toNat + 30 < (q - e).toNat
  · have hlt : 2 * m < n := two_mul_lt_of_far hfar
    have hdiv : m / n = 0 := Nat.div_eq_of_lt (by omega)
    have hmod : m % n = m := Nat.mod_eq_of_lt (by omega)
    have hhalf : ¬ n < 2 * m ∧ ¬ 2 * m = n := by omega
    simp only [roundMag, if_neg hq, hfar, hdiv, hmod, raises, decide_true, if_true]
    interval_cases rm <;> simp [hhalf]
  · simp only [roundMag, if_neg hq, hfar, decide_false, raises, Bool.false_eq_true, if_false, Bool.false_or,
      Bool.false_and, Bool.or_false]
    interval_cases rm <;> simp only [n, and_self]

/-- Mode 0: within half a unit; of two multiples as near, the even one. -/
theorem raises_nearest {h r n : Nat} (hr : r < n) : let R := h + (raises 0 neg h r n).toNat
    2 * (R * n) ≤ 2 * (h * n + r) + n ∧ 2 * (h * n + r) ≤ 2 * (R * n) + n ∧
      (2 * (R * n) = 2 * (h * n + r) + n ∨ 2 * (h * n + r) = 2 * (R * n) + n → R % 2 = 0) := by
  intro R
  by_cases hup : raises 0 neg h r n = true
  · have hR : R * n = h * n + n := by simp only [R, hup, Bool.toNat_true, Nat.add_mul, Nat.one_mul]
    obtain ⟨-, hodd⟩ : r ≠ 0 ∧ (n < 2 * r ∨ 2 * r = n ∧ h % 2 = 1) := by simpa [raises] using hup
    have hR2 : R = h + 1 := by simp only [R, hup, Bool.toNat_true]
    omega
  · have hR : R = h := by simp [R, hup]
    have heven : r = 0 ∨ 2 * r ≤ n ∧ (2 * r = n → h % 2 = 0) := by
      simp [raises] at hup
      omega
    rw [hR]
    omega

/-- Towards zero: the quotient. -/
theorem not_raised {h r n : Nat} (hr : r < n) (hdown : raises rm neg h r n = false) :
    let R := h + (raises rm neg h r n).toNat
    R * n ≤ h * n + r ∧ h * n + r < (R + 1) * n := by
  simp only [hdown, Bool.toNat_false, Nat.add_zero, Nat.add_mul, Nat.one_mul]
  omega

/-- Away from zero: the least multiple that is not below. -/
theorem raised {h r n : Nat} (hr : r < n) (hup : raises rm neg h r n = (r != 0)) :
    let R := h + (raises rm neg h r n).toNat
    h * n + r ≤ R * n ∧ R * n < h * n + r + n := by
  rcases Nat.eq_zero_or_pos r with rfl | hpos
  · simp only [hup, bne_self_eq_false, Bool.toNat_false, Nat.add_zero]
    omega
  · have hne : (r != 0) = true := by simp; omega
    simp only [hup, hne, Bool.toNat_true, Nat.add_mul, Nat.one_mul]
    omega

/-- Between which multiples of the unit the modes 0 to 3 leave a magnitude. -/
theorem roundMag_modes (hrm : rm < 4) (h : e < q) :
    let n := 2 ^ (q - e).toNat
    let r := (roundMag rm u neg m e false q).m
    let below := r * n ≤ m ∧ m < (r + 1) * n
    let above := m ≤ r * n ∧ r * n < m + n
    ((roundMag rm u neg m e false q).inexact = true ↔ m % n ≠ 0) ∧
    (rm = 0 → 2 * (r * n) ≤ 2 * m + n ∧ 2 * m ≤ 2 * (r * n) + n ∧
      (2 * (r * n) = 2 * m + n ∨ 2 * m = 2 * (r * n) + n → r % 2 = 0)) ∧
    (rm = 1 → below) ∧ (rm = 2 → if neg then above else below) ∧ (rm = 3 → if neg then below else above) := by
  intro n
  have hn : 0 < n := Nat.two_pow_pos _
  obtain ⟨hquot, hinexact⟩ := roundMag_quotient (u := u) (m := m) (neg := neg) hrm h
  have hsplit : m / n * n + m % n = m := by
    rw [Nat.mul_comm]
    exact Nat.div_add_mod m n
  have hlt : m % n < n := Nat.mod_lt m hn
  rw [hquot, hinexact]
  intro r below above
  have hbelow (hdown : raises rm neg (m / n) (m % n) n = false) : below := by
    have := not_raised hlt hdown
    rwa [hsplit] at this
  have habove (hup : raises rm neg (m / n) (m % n) n = (m % n != 0)) : above := by
    have := raised hlt hup
    rwa [hsplit] at this
  refine ⟨bne_iff_ne, ?_, ?_, ?_, ?_⟩
  · rintro rfl
    have := raises_nearest (neg := neg) (h := m / n) hlt
    rwa [hsplit] at this
  · rintro rfl
    exact hbelow (by simp [raises])
  · rintro rfl
    cases neg
    · exact hbelow (by simp [raises])
    · exact habove (by simp [raises])
  · rintro rfl
    cases neg
    · exact habove (by simp [raises])
    · exact hbelow (by simp [raises])

/-! ### The seed -/

theorem roundMag_seed (hrm : rm < 4) : roundMag rm u neg m e stk q = roundMag rm 0 neg m e stk q := by
  interval_cases rm <;> simp only [roundMag]

variable {f : Fmt} {ob mrho : Nat} {v : FVal}

theorem encodeMag_seed (hrm : rm < 4) :
    encodeMag f rm ob u ftz conv neg m mrho e stk = encodeMag f rm ob 0 ftz conv neg m mrho e stk := by
  simp only [encodeMag, roundMag_seed (u := u) hrm]

theorem encodeFloat_seed (hrm : rm < 4) : encodeFloat f rm ob u ftz conv stk v = encodeFloat f rm ob 0 ftz conv stk v := by
  cases v <;> simp only [encodeFloat, encodeMag_seed (u := u) hrm]

/-- Elements encoded without the seed leave it. -/
theorem encodeAll_seed {enc : Nat → Fun → Enc} (hrm : rm ≠ 4) (henc : ∀ u x, enc u x = enc 0 x) (seed : W32) (vs : List Fun) :
    encodeAll enc rm seed vs = (vs.map (enc 0), seed) := by
  induction vs with
  | nil => rfl
  | cons x xs ih => simp only [encodeAll, if_neg hrm, henc, ih, List.map_cons]

end

end Sys2Proof.Machine

end

section

/-! PROOF. Words as `.f32` values (R47, R48), and what the special and out-of-range values encode to (R62, R63). -/

namespace Sys2Proof.Machine

/-! ### Decoding -/

/-- The sign of a word. -/
def sign32 (x : W32) : Bool := x.getLsbD 31

/-- Its fraction field. -/
def frac32 (x : W32) : Nat := x.toNat % 2 ^ 23

/-- Its significand, hidden bit included. -/
def sig32 (x : W32) : Nat := if exp32 x = 0 then frac32 x else 2 ^ 23 + frac32 x

/-- The value of a sound word. -/
def val32 (x : W32) : FVal := fmtF32.decode x.toNat (resOf x).toNat

section

variable {x : W32}

theorem frac32_lt (x : W32) : frac32 x < 2 ^ 23 := Nat.mod_lt _ (by decide)

theorem magnitude32 (x : W32) : x.toNat % 2 ^ 31 = exp32 x * 2 ^ 23 + frac32 x := by
  simp only [exp32, frac32]
  omega

theorem isNan32_iff : isNan32 x = true ↔ exp32 x = 255 ∧ frac32 x ≠ 0 := by
  have hexp : exp32 x < 256 := Nat.mod_lt _ (by decide)
  have hfrac := frac32_lt x
  simp only [isNan32, magnitude32, decide_eq_true_eq]
  omega

theorem isInf32_iff : isInf32 x = true ↔ exp32 x = 255 ∧ frac32 x = 0 := by
  have hexp : exp32 x < 256 := Nat.mod_lt _ (by decide)
  have hfrac := frac32_lt x
  simp only [isInf32, magnitude32, beq_iff_eq]
  omega

theorem isZero32_iff : isZero32 x = true ↔ exp32 x = 0 ∧ frac32 x = 0 := by
  have hfrac := frac32_lt x
  simp only [isZero32, magnitude32, beq_iff_eq]
  omega

theorem exp32_lt_of (hn : isNan32 x = false) (hi : isInf32 x = false) : exp32 x < 255 := by
  have hexp : exp32 x < 256 := Nat.mod_lt _ (by decide)
  rw [← Bool.not_eq_true, isNan32_iff] at hn
  rw [← Bool.not_eq_true, isInf32_iff] at hi
  omega

theorem sig32_eq_zero_iff : sig32 x = 0 ↔ isZero32 x = true := by
  rw [isZero32_iff, sig32]
  split <;> omega

/-- R130: the residue that a word's own gives its significand. -/
def sigRes32 (x : W32) : Nat :=
  rho (((resOf x).toNat : Int) - (if sign32 x = true then (weight 31 : Int) else 0) - (weight 23 : Int) * (max (exp32 x) 1 - 1))

theorem val32_eq (x : W32) : val32 x =
    if exp32 x = 255 then (if frac32 x = 0 then .inf (sign32 x) else .nan (!x.getLsbD 22))
    else if sig32 x = 0 then .fin (sign32 x) 0 0 0
    else .fin (sign32 x) (sig32 x) (sigRes32 x) (max (exp32 x) 1 - 150) := by
  have hx : x.toNat % 2 ^ 32 = x.toNat := Nat.mod_eq_of_lt x.isLt
  have hbit : (frac32 x).testBit 22 = x.getLsbD 22 := by
    rw [frac32, Nat.testBit_mod_two_pow]
    simp [BitVec.getLsbD]
  have hexp : x.toNat / 2 ^ 23 % 2 ^ 8 = exp32 x := rfl
  have hfrac : x.toNat % 2 ^ 23 = frac32 x := rfl
  have hsign : x.toNat.testBit 31 = sign32 x := rfl
  have hsig : (if exp32 x = 0 then frac32 x else 2 ^ 23 + frac32 x) = sig32 x := rfl
  have hplace (n : Int) : n - 127 - (23 : Nat) = n - 150 := by omega
  simp only [val32, Fmt.decode, fmtF32, Fmt.width, show true.toNat + 8 + 23 = 32 from rfl, Nat.reduceSub, hx, hexp, hfrac,
    hsign, hsig, hplace, hbit]
  simp [sigRes32]

theorem val32_of_nan (h : isNan32 x = true) : val32 x = .nan (isSig32 x) := by
  obtain ⟨hexp, hfrac⟩ := isNan32_iff.mp h
  rw [val32_eq, if_pos hexp, if_neg hfrac, isSig32, h, Bool.true_and]

theorem val32_of_inf (h : isInf32 x = true) : val32 x = .inf (sign32 x) := by
  obtain ⟨hexp, hfrac⟩ := isInf32_iff.mp h
  rw [val32_eq, if_pos hexp, if_pos hfrac]

/-- A finite word; the exponent of a normal one. -/
theorem val32_of_finite (h : exp32 x < 255) :
    ∃ r e, val32 x = .fin (sign32 x) (sig32 x) r e ∧ (1 ≤ exp32 x → e = (exp32 x : Int) - 150) := by
  rw [val32_eq, if_neg (by omega)]
  by_cases hsig : sig32 x = 0
  · have hexp : exp32 x = 0 := (isZero32_iff.mp (sig32_eq_zero_iff.mp hsig)).1
    exact ⟨0, 0, by rw [if_pos hsig, hsig], by omega⟩
  · exact ⟨_, _, if_neg hsig, fun h1 => by omega⟩

theorem isNan_val32 (x : W32) : (val32 x).isNan = isNan32 x := by
  by_cases h : isNan32 x = true
  · rw [val32_of_nan h, h]
    rfl
  · rw [Bool.not_eq_true] at h
    rw [h]
    by_cases hi : isInf32 x = true
    · rw [val32_of_inf hi]
      rfl
    · rw [Bool.not_eq_true] at hi
      obtain ⟨r, e, hv, -⟩ := val32_of_finite (exp32_lt_of h hi)
      rw [hv]
      rfl

theorem isSig_of_not_nan {v : FVal} (h : v.isNan = false) : v.isSig = false := by
  cases v with
  | nan s => cases h
  | _ => rfl

theorem isSig_val32 (x : W32) : (val32 x).isSig = isSig32 x := by
  by_cases h : isNan32 x = true
  · rw [val32_of_nan h]
    rfl
  · rw [Bool.not_eq_true] at h
    rw [isSig_of_not_nan ((isNan_val32 x).trans h), isSig32, h, Bool.false_and]

end

/-! ### Words with a sign -/

/-- A magnitude with a sign. -/
def withSign (neg : Bool) (v : W32) : W32 := v ||| if neg then 0x80000000 else 0

theorem signed32_eq (a b v : W32) : signed32 a b v = withSign (sign32 a != sign32 b) v := by
  rw [signed32, show (0x80000000 : W32) = BitVec.twoPow 32 31 from rfl, BitVec.and_twoPow, BitVec.getLsbD_xor]
  rfl

theorem sign32_eq (x : W32) : sign32 x = decide (2 ^ 31 ≤ x.toNat) := by
  rw [sign32, show 31 = 32 - 1 from rfl, ← BitVec.msb_eq_getLsbD_last, BitVec.msb_eq_decide]

theorem eq_withSign_of_isInf32 {x : W32} (h : isInf32 x = true) : x = withSign (sign32 x) 0x7F800000 := by
  have hlt := x.isLt
  rw [isInf32, beq_iff_eq] at h
  apply BitVec.eq_of_toNat_eq
  rw [sign32_eq]
  by_cases hs : 2 ^ 31 ≤ x.toNat
  · rw [decide_eq_true hs, show (withSign true 0x7F800000).toNat = 0xFF800000 from rfl]
    omega
  · rw [decide_eq_false hs, show (withSign false 0x7F800000).toNat = 0x7F800000 from rfl]
    omega

theorem negated_of_isInf32 {x : W32} (h : isInf32 x = true) : x ^^^ 0x80000000 = withSign (!sign32 x) 0x7F800000 := by
  rw [show x ^^^ 0x80000000 = withSign (sign32 x) 0x7F800000 ^^^ 0x80000000 by rw [← eq_withSign_of_isInf32 h]]
  cases sign32 x <;> rfl

/-! ### Encoding (R62, R63) -/

/-- A value is encoded in a word with a residue generated from its bits, and sets sticky bits. -/
def Rounds (rm : Nat) (ftz : Bool) (y : FVal) (v : W32) (fl : BitVec 6) : Prop :=
  ∃ off, encodeFloat fmtF32 rm 2 0 ftz false false y = Enc.const v.toNat fl off

section

variable {rm u m r : Nat} {neg ftz : Bool} {e : Int}

theorem rounds_nan : Rounds rm ftz (.nan false) 0x7FC00000 0 := ⟨_, rfl⟩

theorem rounds_inf : Rounds rm ftz (.inf neg) (withSign neg 0x7F800000) 0 := ⟨false, by cases neg <;> rfl⟩

/-- An infinite word is what its value rounds to. -/
theorem rounds_isInf32 {x : W32} (h : isInf32 x = true) : Rounds rm ftz (.inf (sign32 x)) x 0 := by
  have hword := rounds_inf (rm := rm) (ftz := ftz) (neg := sign32 x)
  rwa [← eq_withSign_of_isInf32 h] at hword

theorem rounds_negated {x : W32} (h : isInf32 x = true) : Rounds rm ftz (.inf !sign32 x) (x ^^^ 0x80000000) 0 := by
  rw [negated_of_isInf32 h]
  exact rounds_inf

theorem rounds_zero : Rounds rm ftz (.fin neg 0 r e) (withSign neg 0) 0 := ⟨false, by cases neg <;> rfl⟩

/-- A magnitude rounded at its own place keeps its leading bit. -/
theorem two_pow_le_roundMag (hrm : rm < 4) (hm : m ≠ 0) (k : Nat) :
    2 ^ k ≤ (roundMag rm u neg m e false (e + lead m - k)).m := by
  have hlog : 2 ^ m.log2 ≤ m := Nat.log2_self_le hm
  rcases le_or_gt (e + lead m - k) e with hle | hgt
  · rw [(roundMag_exact hle).1, show (e - (e + lead m - k)).toNat = k - m.log2 by simp only [lead]; omega]
    calc 2 ^ k = 2 ^ m.log2 * 2 ^ (k - m.log2) := by
          rw [← Nat.pow_add]
          congr 1
          simp only [lead] at hle
          omega
      _ ≤ m * 2 ^ (k - m.log2) := Nat.mul_le_mul_right _ hlog
  · rw [(roundMag_quotient hrm hgt).1, show (e + lead m - k - e).toNat = m.log2 - k by simp only [lead]; omega]
    refine Nat.le_trans ?_ (Nat.le_add_right _ _)
    rw [Nat.le_div_iff_mul_le (Nat.two_pow_pos _), ← Nat.pow_add,
      show k + (m.log2 - k) = m.log2 by simp only [lead] at hgt; omega]
    exact hlog

/-- R62, R63: a magnitude of 2^128 and more overflows. -/
theorem rounds_overflow (hrm : rm < 4) (hm : m ≠ 0) (hbig : 128 ≤ e + lead m) : Rounds rm ftz (.fin neg m r e)
    (withSign neg (if rm = 0 ∨ rm = 2 ∧ neg = true ∨ rm = 3 ∧ neg = false then 0x7F800000 else 0x7F7FFFFF))
    (flagOF ||| flagNX) := by
  have hround := two_pow_le_roundMag (u := 0) (neg := neg) (e := e) hrm hm 23
  have hfree : ¬ e + lead m - (23 : Nat) < 1 - 127 - (23 : Nat) := by omega
  have hplace : max (e + lead m - (23 : Nat)) (1 - 127 - (23 : Nat)) = e + lead m - (23 : Nat) := max_eq_left (by omega)
  have hover : (fmtF32.maxCode : Int) < (e + lead m - (23 : Nat) + 127 + (23 : Nat) - 1) * 2 ^ 23 +
      (roundMag rm 0 neg m e false (e + lead m - (23 : Nat))).m := by
    rw [show fmtF32.maxCode = 0x7F7FFFFF from rfl]
    omega
  have hmag : encodeFloat fmtF32 rm 2 0 ftz false false (.fin neg m r e) = specialCase fmtF32 rm 2 false (.overflow neg) := by
    simp only [encodeFloat, encodeMag, hm]
    simp only [show fmtF32.mw = 23 from rfl, show fmtF32.bias = 127 from rfl, show fmtF32.sub = true from rfl,
      show fmtF32.sgn = true from rfl, hfree, if_true, hplace, if_pos hover]
    simp
  refine ⟨true, hmag.trans ?_⟩
  interval_cases rm <;> cases neg <;> rfl

/-- R61: a magnitude below 2^(-127) is flushed under `.ftz`. -/
theorem rounds_flushed (hm : m ≠ 0) (hsmall : e + lead m ≤ -128) :
    Rounds rm true (.fin neg m r e) (withSign neg 0) (flagUF ||| flagNX) := by
  have hfree : e + lead m - (23 : Nat) < 1 - 127 - (23 : Nat) := by omega
  have hfar : ¬ 1 - 127 - (23 : Nat) - (e + lead m - (23 : Nat)) ≤ 1 := by omega
  have hmag : encodeFloat fmtF32 rm 2 0 true false false (.fin neg m r e) =
      Enc.const (fmtF32.signCode neg) (flagUF ||| flagNX) false := by
    simp only [encodeFloat, encodeMag, hm]
    simp only [show fmtF32.mw = 23 from rfl, show fmtF32.bias = 127 from rfl, show fmtF32.sgn = true from rfl, hfree, hfar]
    simp
  refine ⟨false, hmag.trans ?_⟩
  cases neg <;> rfl

end

end Sys2Proof.Machine

end

section

/-! PROOF. Sums, differences, products and quotients of `.f32` words (R134, R144): the value that each operation gives on the
values of its operands, and the word that it is rounded to. -/

namespace Sys2Proof.Machine

/-! ### Rounding one value into a word (R127, R128) -/

section

variable {rm : Nat} {xm : BitVec 6} {seed : W32} {a b v : W32} {fl fr : BitVec 6} {inv : Bool} {y : FVal}

theorem rmOf_mode (h : rm < 4) : rmOf (BitVec.ofNat 6 rm) = rm ∧ ftzOf (BitVec.ofNat 6 rm) = false := by
  interval_cases rm <;> exact ⟨rfl, rfl⟩

theorem floatElems_f32 (ftz : Bool) :
    floatElems 0x0E ftz [gen a] = [if ftz then flushIn fmtF32 (val32 a) else val32 a] := by
  simp only [floatElems, floatShape, IntTy.elemsU, List.headD_cons, Bool.false_eq_true, if_false]
  rfl

/-- The modes 0 to 3 round every element alike, whatever the seed. -/
theorem roundOut_eq {code : Nat} {vs : List Fun} (hrm : rmOf xm < 4) :
    let es := vs.map fun x => encodeFloat (floatFmt code) (rmOf xm) 2 0 (ftzOf xm) false x.stk x.v
    roundOut code xm seed vs = {
      words := placeEnc code es
      flags := (vs.map (·.flags)).foldl (· ||| ·) ((es.map (·.flags)).foldl (· ||| ·) 0)
      bad := vs.findSome? (·.bad) } := by
  have hall := encodeAll_seed (enc := fun u x => encodeFloat (floatFmt code) (rmOf xm) 2 u (ftzOf xm) false x.stk x.v)
    (rm := rmOf xm) (by omega) (fun _ _ => encodeFloat_seed hrm)
  simp only [roundOut, hall, if_neg (show rmOf xm ≠ 4 by omega)]

theorem roundOut_seed {code : Nat} {vs : List Fun} (hrm : rmOf xm < 4) : roundOut code xm seed vs = roundOut code xm 0 vs := by
  rw [roundOut_eq hrm, roundOut_eq hrm]

theorem gives_roundOut {x : Fun} (hrm : rmOf xm < 4) (hbad : x.bad = none) (hstk : x.stk = false)
    (hr : Rounds (rmOf xm) (ftzOf xm) x.v v fr) (hfl : fr ||| x.flags = fl) : Gives (roundOut 0x0E xm seed [x]) v fl := by
  obtain ⟨off, henc⟩ := hr
  refine ⟨⟨v, v.toNat % 15⟩, ?_, rfl, rfl⟩
  rw [roundOut_eq hrm]
  simp only [List.map_cons, List.map_nil, show floatFmt 0x0E = fmtF32 from rfl, hstk, henc, List.findSome?, hbad,
    List.foldl_cons, List.foldl_nil, ← hfl]
  simp [placeEnc, floatShape, Enc.const]

/-- An exact result of `.f32` operands, rounded under one of the modes 0 to 3. -/
theorem gives_arith (hrm : rm < 4) (hr : Rounds rm false y v fr) (hfl : fr ||| nvIf (isSig32 a || isSig32 b || inv) = fl) :
    Gives (roundOut 0x0E (BitVec.ofNat 6 rm) seed [arith [val32 a, val32 b] (y, inv)]) v fl := by
  obtain ⟨hmode, hftz⟩ := rmOf_mode hrm
  refine gives_roundOut (fr := fr) (by omega) rfl rfl (by rw [hmode, hftz]; exact hr) ?_
  simpa only [arith, List.any_cons, List.any_nil, Bool.or_false, isSig_val32] using hfl

theorem gives_fadd (hrm : rm < 4) (hsum : sumVal rm [val32 a, val32 b] = (y, inv)) (hr : Rounds rm false y v fr)
    (hfl : fr ||| nvIf (isSig32 a || isSig32 b || inv) = fl) :
    Gives (aluFadd 0x0E (BitVec.ofNat 6 rm) seed [gen a] [gen b]) v fl := by
  obtain ⟨hmode, hftz⟩ := rmOf_mode hrm
  simpa [aluFadd, floatElems_f32, hmode, hftz, hsum] using gives_arith (seed := seed) hrm hr hfl

theorem gives_fsub (hrm : rm < 4) (hsum : sumVal rm [val32 a, (val32 b).neg] = (y, inv)) (hr : Rounds rm false y v fr)
    (hfl : fr ||| nvIf (isSig32 a || isSig32 b || inv) = fl) :
    Gives (aluFsub 0x0E (BitVec.ofNat 6 rm) seed [gen a] [gen b]) v fl := by
  obtain ⟨hmode, hftz⟩ := rmOf_mode hrm
  simpa [aluFsub, floatElems_f32, hmode, hftz, hsum] using gives_arith (seed := seed) hrm hr hfl

theorem gives_fmul (hrm : rm < 4) (hmul : mulVal (val32 a) (val32 b) = (y, inv)) (hr : Rounds rm false y v fr)
    (hfl : fr ||| nvIf (isSig32 a || isSig32 b || inv) = fl) :
    Gives (aluFmul 0x0E (BitVec.ofNat 6 rm) seed [gen a] [gen b]) v fl := by
  obtain ⟨hmode, hftz⟩ := rmOf_mode hrm
  simpa [aluFmul, floatElems_f32, hmode, hftz, hmul] using gives_arith (seed := seed) hrm hr hfl

theorem gives_fdiv {fd : BitVec 6} (hrm : rm < 4) (hdiv : funDiv (val32 a) (val32 b) = { v := y, flags := fd })
    (hr : Rounds rm false y v fr) (hfl : fr ||| fd = fl) :
    Gives (aluFdiv 0x0E (BitVec.ofNat 6 rm) seed [gen a] [gen b]) v fl := by
  obtain ⟨hmode, hftz⟩ := rmOf_mode hrm
  have h : Gives (roundOut 0x0E (BitVec.ofNat 6 rm) seed [{ v := y, flags := fd }]) v fl :=
    gives_roundOut (by omega) rfl rfl (by rw [hmode, hftz]; exact hr) hfl
  simpa [aluFdiv, floatElems_f32, hftz, hdiv] using h

/-- A product of unsignalling operands under `.ftz`, rounded to nearest. -/
theorem gives_fmul_ftz (hmul : mulVal (flushIn fmtF32 (val32 a)) (flushIn fmtF32 (val32 b)) = (y, false))
    (ha : (flushIn fmtF32 (val32 a)).isSig = false) (hb : (flushIn fmtF32 (val32 b)).isSig = false)
    (hr : Rounds 0 true y v fl) : Gives (aluFmul 0x0E (BitVec.ofNat 6 8) seed [gen a] [gen b]) v fl := by
  have h : Gives (roundOut 0x0E (BitVec.ofNat 6 8) seed
      [arith [flushIn fmtF32 (val32 a), flushIn fmtF32 (val32 b)] (y, false)]) v fl :=
    gives_roundOut (by decide) rfl rfl hr (by simp [arith, ha, hb, nvIf])
  simpa [aluFmul, floatElems_f32, ftzOf, hmul] using h

end

/-! ### Special operands (R47, R134, R144) -/

section

variable {rm m n r q : Nat} {x y : FVal} {s t : Bool} {e k : Int}

theorem sumVal_nan (h : x.isNan = true ∨ y.isNan = true) : sumVal rm [x, y] = (.nan false, false) := by
  unfold sumVal
  exact if_pos (by simpa using h)

theorem isNan_neg (x : FVal) : x.neg.isNan = x.isNan := by cases x <;> rfl

theorem mulVal_nan (h : x.isNan = true ∨ y.isNan = true) : mulVal x y = (.nan false, false) := by
  cases x <;> cases y <;> simp [FVal.isNan] at h <;> rfl

theorem funDiv_nan (h : x.isNan = true ∨ y.isNan = true) : funDiv x y = badNan (x.isSig || y.isSig) := by
  cases x <;> cases y <;> simp [FVal.isNan] at h <;> simp [funDiv, FVal.isSig]

theorem sumVal_inf_fin : sumVal rm [.inf s, .fin t m r e] = (.inf s, false) := by cases s <;> rfl

theorem sumVal_fin_inf : sumVal rm [.fin t m r e, .inf s] = (.inf s, false) := by cases s <;> rfl

theorem sumVal_inf_same : sumVal rm [.inf s, .inf s] = (.inf s, false) := by cases s <;> rfl

theorem sumVal_inf_opposite : sumVal rm [.inf s, .inf !s] = (.nan false, true) := by cases s <;> rfl

/-- A difference of equal finite values is a zero, negative under RDN only. -/
theorem sumVal_sub_self : sumVal rm [.fin s m r e, .fin (!s) m r e] = (.fin (rm == 2) 0 0 0, false) := by
  have hint : (((CInt.const 0).add (scaled e s m r e)).add (scaled e (!s) m r e)).int = 0 := by
    cases s <;> simp [scaled, CInt.add, CInt.neg, CInt.sub, CInt.shl, CInt.const]
  cases s <;> simp [sumVal, FVal.isNan, isInfOf, expOf, isZeroOf] <;> exact fun h => absurd hint h

theorem mulVal_inf_fin : mulVal (.inf s) (.fin t m r e) = if m = 0 then (.nan false, true) else (.inf (s != t), false) := rfl

theorem mulVal_fin_inf : mulVal (.fin s m r e) (.inf t) = if m = 0 then (.nan false, true) else (.inf (s != t), false) := rfl

theorem mulVal_inf_inf : mulVal (.inf s) (.inf t) = (.inf (s != t), false) := rfl

theorem mulVal_fin_fin : mulVal (.fin s m r e) (.fin t n q k) = (.fin (s != t) (m * n) (r * q % 15) (e + k), false) := rfl

theorem funDiv_inf_inf : funDiv (.inf s) (.inf t) = badNan true := rfl

theorem funDiv_fin_zero : funDiv (.fin s m r e) (.fin t 0 q k) =
    if m = 0 then badNan true else { v := .inf (s != t), flags := flagDZ } := rfl

end

/-! ### Results on special operands, under the modes 0 to 3 -/

section

variable {rm : Nat} {seed a b : W32}

/-- A NaN operand gives the canonical NaN (R47). -/
theorem gives_of_nan (hrm : rm < 4) (h : isNan32 a = true ∨ isNan32 b = true) :
    ∀ alu ∈ [aluFadd, aluFsub, aluFmul, aluFdiv], Gives (alu 0x0E (BitVec.ofNat 6 rm) seed [gen a] [gen b]) 0x7FC00000
      (if isSig32 a || isSig32 b then flagNV else 0) := by
  have hv : (val32 a).isNan = true ∨ (val32 b).isNan = true := by rwa [isNan_val32, isNan_val32]
  have hneg : (val32 a).isNan = true ∨ (val32 b).neg.isNan = true := by rwa [isNan_neg]
  have hfl : 0 ||| nvIf (isSig32 a || isSig32 b || false) = if isSig32 a || isSig32 b then flagNV else 0 := by
    rw [Bool.or_false]
    exact BitVec.zero_or
  have hdiv := funDiv_nan hv
  rw [isSig_val32, isSig_val32] at hdiv
  simp only [List.mem_cons, List.not_mem_nil, or_false]
  rintro alu (rfl | rfl | rfl | rfl)
  · exact gives_fadd hrm (sumVal_nan hv) rounds_nan hfl
  · exact gives_fsub hrm (sumVal_nan hneg) rounds_nan hfl
  · exact gives_fmul hrm (mulVal_nan hv) rounds_nan hfl
  · exact gives_fdiv hrm hdiv rounds_nan BitVec.zero_or

/-- What sums, differences and products set where no operand is a NaN. -/
theorem quiet_flags (ha : isNan32 a = false) (hb : isNan32 b = false) (fr : BitVec 6) (inv : Bool) :
    fr ||| nvIf (isSig32 a || isSig32 b || inv) = fr ||| nvIf inv := by
  simp [isSig32, ha, hb]

section

variable (hrm : rm < 4) (hna : isNan32 a = false) (hnb : isNan32 b = false)

include hrm hna hnb

/-- An infinity and a finite word. -/
theorem gives_of_inf_finite (ha : isInf32 a = true) (hb : isInf32 b = false) :
    Gives (aluFadd 0x0E (BitVec.ofNat 6 rm) seed [gen a] [gen b]) a 0 ∧
    Gives (aluFsub 0x0E (BitVec.ofNat 6 rm) seed [gen a] [gen b]) a 0 ∧
    (isZero32 b = true → Gives (aluFmul 0x0E (BitVec.ofNat 6 rm) seed [gen a] [gen b]) 0x7FC00000 flagNV) ∧
    (isZero32 b = false → Gives (aluFmul 0x0E (BitVec.ofNat 6 rm) seed [gen a] [gen b]) (signed32 a b 0x7F800000) 0) := by
  have hva := val32_of_inf ha
  obtain ⟨r, e, hvb, -⟩ := val32_of_finite (exp32_lt_of hnb hb)
  have hfl := quiet_flags hna hnb
  refine ⟨gives_fadd hrm ?_ (rounds_isInf32 ha) (hfl 0 false), gives_fsub hrm ?_ (rounds_isInf32 ha) (hfl 0 false), fun hz => ?_,
    fun hz => ?_⟩
  · rw [hva, hvb, sumVal_inf_fin]
  · rw [hva, hvb, FVal.neg, sumVal_inf_fin]
  · refine gives_fmul hrm ?_ rounds_nan (hfl 0 true)
    rw [hva, hvb, mulVal_inf_fin, if_pos (sig32_eq_zero_iff.mpr hz)]
  · rw [signed32_eq]
    refine gives_fmul hrm ?_ rounds_inf (hfl 0 false)
    rw [hva, hvb, mulVal_inf_fin, if_neg (by simp [sig32_eq_zero_iff, hz])]

/-- A finite word and an infinity. -/
theorem gives_of_finite_inf (ha : isInf32 a = false) (hb : isInf32 b = true) :
    Gives (aluFadd 0x0E (BitVec.ofNat 6 rm) seed [gen a] [gen b]) b 0 ∧
    Gives (aluFsub 0x0E (BitVec.ofNat 6 rm) seed [gen a] [gen b]) (b ^^^ 0x80000000) 0 ∧
    (isZero32 a = true → Gives (aluFmul 0x0E (BitVec.ofNat 6 rm) seed [gen a] [gen b]) 0x7FC00000 flagNV) ∧
    (isZero32 a = false → Gives (aluFmul 0x0E (BitVec.ofNat 6 rm) seed [gen a] [gen b]) (signed32 a b 0x7F800000) 0) := by
  obtain ⟨r, e, hva, -⟩ := val32_of_finite (exp32_lt_of hna ha)
  have hvb := val32_of_inf hb
  have hfl := quiet_flags hna hnb
  refine ⟨gives_fadd hrm ?_ (rounds_isInf32 hb) (hfl 0 false), gives_fsub hrm ?_ (rounds_negated hb) (hfl 0 false), fun hz => ?_,
    fun hz => ?_⟩
  · rw [hva, hvb, sumVal_fin_inf]
  · rw [hva, hvb, FVal.neg, sumVal_fin_inf]
  · refine gives_fmul hrm ?_ rounds_nan (hfl 0 true)
    rw [hva, hvb, mulVal_fin_inf, if_pos (sig32_eq_zero_iff.mpr hz)]
  · rw [signed32_eq]
    refine gives_fmul hrm ?_ rounds_inf (hfl 0 false)
    rw [hva, hvb, mulVal_fin_inf, if_neg (by simp [sig32_eq_zero_iff, hz])]

/-- Two infinities. -/
theorem gives_of_inf_inf (ha : isInf32 a = true) (hb : isInf32 b = true) :
    (sign32 a = sign32 b → Gives (aluFadd 0x0E (BitVec.ofNat 6 rm) seed [gen a] [gen b]) a 0 ∧
      Gives (aluFsub 0x0E (BitVec.ofNat 6 rm) seed [gen a] [gen b]) 0x7FC00000 flagNV) ∧
    (sign32 a ≠ sign32 b → Gives (aluFadd 0x0E (BitVec.ofNat 6 rm) seed [gen a] [gen b]) 0x7FC00000 flagNV ∧
      Gives (aluFsub 0x0E (BitVec.ofNat 6 rm) seed [gen a] [gen b]) a 0) ∧
    Gives (aluFmul 0x0E (BitVec.ofNat 6 rm) seed [gen a] [gen b]) (signed32 a b 0x7F800000) 0 ∧
    Gives (aluFdiv 0x0E (BitVec.ofNat 6 rm) seed [gen a] [gen b]) 0x7FC00000 flagNV := by
  have hva := val32_of_inf ha
  have hvb := val32_of_inf hb
  have hfl := quiet_flags hna hnb
  refine ⟨fun hsame => ⟨gives_fadd hrm ?_ (rounds_isInf32 ha) (hfl 0 false), gives_fsub hrm ?_ rounds_nan (hfl 0 true)⟩,
    fun hopp => ⟨gives_fadd hrm ?_ rounds_nan (hfl 0 true), gives_fsub hrm ?_ (rounds_isInf32 ha) (hfl 0 false)⟩, ?_, ?_⟩
  · rw [hva, hvb, ← hsame, sumVal_inf_same]
  · rw [hva, hvb, ← hsame, FVal.neg, sumVal_inf_opposite]
  · rw [hva, hvb, Bool.eq_not_of_ne hopp.symm, sumVal_inf_opposite]
  · rw [hva, hvb, FVal.neg, ← Bool.eq_not_of_ne hopp, sumVal_inf_same]
  · rw [signed32_eq]
    refine gives_fmul hrm ?_ rounds_inf (hfl 0 false)
    rw [hva, hvb, mulVal_inf_inf]
  · refine gives_fdiv hrm ?_ rounds_nan BitVec.zero_or
    rw [hva, hvb, funDiv_inf_inf]
    rfl

omit hnb in
/-- A quotient by zero. -/
theorem gives_of_zero_divisor (hb : isZero32 b = true) :
    (isZero32 a = true → Gives (aluFdiv 0x0E (BitVec.ofNat 6 rm) seed [gen a] [gen b]) 0x7FC00000 flagNV) ∧
    (isZero32 a = false → isInf32 a = false →
      Gives (aluFdiv 0x0E (BitVec.ofNat 6 rm) seed [gen a] [gen b]) (signed32 a b 0x7F800000) flagDZ) := by
  obtain ⟨q, k, hvb, -⟩ := val32_of_finite (x := b) (by rw [(isZero32_iff.mp hb).1]; decide)
  rw [sig32_eq_zero_iff.mpr hb] at hvb
  refine ⟨fun hz => ?_, fun hz hi => ?_⟩
  · obtain ⟨r, e, hva, -⟩ := val32_of_finite (x := a) (by rw [(isZero32_iff.mp hz).1]; decide)
    refine gives_fdiv hrm ?_ rounds_nan BitVec.zero_or
    rw [hva, hvb, funDiv_fin_zero, if_pos (sig32_eq_zero_iff.mpr hz)]
    rfl
  · obtain ⟨r, e, hva, -⟩ := val32_of_finite (exp32_lt_of hna hi)
    rw [signed32_eq]
    refine gives_fdiv hrm ?_ rounds_inf BitVec.zero_or
    rw [hva, hvb, funDiv_fin_zero, if_neg (by simp [sig32_eq_zero_iff, hz])]

omit hnb in
/-- A difference of equal finite words. -/
theorem gives_of_equal_operands (ha : isInf32 a = false) :
    Gives (aluFsub 0x0E (BitVec.ofNat 6 rm) seed [gen a] [gen a]) (if rm = 2 then 0x80000000 else 0) 0 := by
  obtain ⟨r, e, hv, -⟩ := val32_of_finite (exp32_lt_of hna ha)
  have hword : (if rm = 2 then 0x80000000 else 0 : W32) = withSign (rm == 2) 0 := by
    by_cases h : rm = 2 <;> simp [withSign, h]
  rw [hword]
  refine gives_fsub hrm ?_ (rounds_zero (r := 0) (e := 0)) (quiet_flags hna hna 0 false)
  rw [hv, FVal.neg, sumVal_sub_self]

end

/-! ### Products out of range -/

/-- The product of two normal significands has 47 or 48 bits. -/
theorem lead_of_product (ha : 1 ≤ exp32 a) (hb : 1 ≤ exp32 b) :
    sig32 a * sig32 b ≠ 0 ∧ 46 ≤ lead (sig32 a * sig32 b) ∧ lead (sig32 a * sig32 b) ≤ 47 := by
  have hsig {x : W32} (hx : 1 ≤ exp32 x) : 2 ^ 23 ≤ sig32 x ∧ sig32 x < 2 ^ 24 := by
    have hfrac := frac32_lt x
    rw [sig32, if_neg (by omega)]
    omega
  obtain ⟨halo, hahi⟩ := hsig ha
  obtain ⟨hblo, hbhi⟩ := hsig hb
  have hlo : 2 ^ 23 * 2 ^ 23 ≤ sig32 a * sig32 b := Nat.mul_le_mul halo hblo
  have hhi : sig32 a * sig32 b < 2 ^ 24 * 2 ^ 24 := Nat.mul_lt_mul'' hahi hbhi
  have hne : sig32 a * sig32 b ≠ 0 := by omega
  have h46 : 46 ≤ (sig32 a * sig32 b).log2 := (Nat.le_log2 hne).mpr (by omega)
  have h48 : (sig32 a * sig32 b).log2 < 48 := (Nat.log2_lt hne).mpr (by omega)
  simp only [lead]
  omega

/-- R62, R63: the overflow of a product. -/
theorem gives_of_overflow (hrm : rm < 4) (ha : exp32 a < 255) (hb : exp32 b < 255) (hsum : 382 ≤ exp32 a + exp32 b) :
    Gives (aluFmul 0x0E (BitVec.ofNat 6 rm) seed [gen a] [gen b]) (signed32 a b
      (if rm = 0 ∨ (rm = 2 ∧ ¬ sign32 a = sign32 b) ∨ (rm = 3 ∧ sign32 a = sign32 b) then 0x7F800000 else 0x7F7FFFFF))
      (flagOF ||| flagNX) := by
  obtain ⟨r, e, hva, hea⟩ := val32_of_finite ha
  obtain ⟨q, k, hvb, hkb⟩ := val32_of_finite hb
  obtain ⟨hne, hlo, -⟩ := lead_of_product (a := a) (b := b) (by omega) (by omega)
  have hbig : 128 ≤ e + k + lead (sig32 a * sig32 b) := by
    have := hea (by omega)
    have := hkb (by omega)
    omega
  have hna : isNan32 a = false := by
    rw [← isNan_val32, hva]
    rfl
  have hnb : isNan32 b = false := by
    rw [← isNan_val32, hvb]
    rfl
  have hr := rounds_overflow (ftz := false) (neg := sign32 a != sign32 b) (r := r * q % 15) hrm hne hbig
  simp only [bne_iff_ne, bne_eq_false_iff_eq] at hr
  rw [signed32_eq]
  refine gives_fmul hrm ?_ hr (quiet_flags hna hnb _ false)
  rw [hva, hvb, mulVal_fin_fin]

/-! ### Products under .ftz (R61) -/

theorem flushIn_subnormal (h : exp32 a = 0) : flushIn fmtF32 (val32 a) = .fin (sign32 a) 0 0 0 := by
  obtain ⟨r, e, hv, -⟩ := val32_of_finite (x := a) (by omega)
  have hsig : sig32 a < 2 ^ 23 := by
    rw [sig32, if_pos h]
    exact frac32_lt a
  rw [hv, flushIn]
  exact if_pos hsig

theorem flushIn_normal (h1 : 1 ≤ exp32 a) (h : exp32 a < 255) : flushIn fmtF32 (val32 a) = val32 a := by
  obtain ⟨r, e, hv, -⟩ := val32_of_finite h
  have hsig : ¬ sig32 a < 2 ^ 23 := by
    rw [sig32, if_neg (by omega)]
    omega
  rw [hv, flushIn]
  exact if_neg hsig

theorem flushIn_finite (h : exp32 a < 255) : ∃ m r e, flushIn fmtF32 (val32 a) = .fin (sign32 a) m r e ∧
    (exp32 a = 0 → m = 0) := by
  rcases Nat.eq_zero_or_pos (exp32 a) with h0 | h1
  · exact ⟨0, 0, 0, flushIn_subnormal h0, fun _ => rfl⟩
  · obtain ⟨r, e, hv, -⟩ := val32_of_finite h
    exact ⟨_, r, e, (flushIn_normal h1 h).trans hv, by omega⟩

/-- A product below the range is flushed to a zero. -/
theorem gives_of_underflow (ha : 1 ≤ exp32 a) (hb : 1 ≤ exp32 b) (hsum : exp32 a + exp32 b ≤ 125) :
    Gives (aluFmul 0x0E (BitVec.ofNat 6 8) seed [gen a] [gen b]) (signed32 a b 0) (flagUF ||| flagNX) := by
  obtain ⟨r, e, hva, hea⟩ := val32_of_finite (x := a) (by omega)
  obtain ⟨q, k, hvb, hkb⟩ := val32_of_finite (x := b) (by omega)
  obtain ⟨hne, -, hhi⟩ := lead_of_product ha hb
  have hsmall : e + k + lead (sig32 a * sig32 b) ≤ -128 := by
    have := hea ha
    have := hkb hb
    omega
  rw [signed32_eq]
  refine gives_fmul_ftz ?_ ?_ ?_ (rounds_flushed (r := r * q % 15) hne hsmall)
  · rw [flushIn_normal ha (by omega), flushIn_normal hb (by omega), hva, hvb, mulVal_fin_fin]
  · rw [flushIn_normal ha (by omega), hva]
    rfl
  · rw [flushIn_normal hb (by omega), hvb]
    rfl

/-- A subnormal operand counts as a zero. -/
theorem gives_of_subnormal (ha : exp32 a < 255) (hb : exp32 b < 255) (h : exp32 a = 0 ∨ exp32 b = 0) :
    Gives (aluFmul 0x0E (BitVec.ofNat 6 8) seed [gen a] [gen b]) (signed32 a b 0) 0 := by
  obtain ⟨m, r, e, hva, hm⟩ := flushIn_finite ha
  obtain ⟨n, q, k, hvb, hn⟩ := flushIn_finite hb
  have hzero : m * n = 0 := by
    rcases h with h | h
    · rw [hm h, Nat.zero_mul]
    · rw [hn h, Nat.mul_zero]
  rw [signed32_eq]
  refine gives_fmul_ftz ?_ ?_ ?_ (rounds_zero (r := r * q % 15) (e := e + k))
  · rw [hva, hvb, mulVal_fin_fin, hzero]
  · rw [hva]
    rfl
  · rw [hvb]
    rfl

end

end Sys2Proof.Machine

end

section

/-! PROOF. Floating-point words (O43): what they give on chosen values, fcopysign on all, and how the lane issues them. -/

namespace Sys2Proof.Machine

/-! ### Chosen values -/

section

variable (seed : W32)

theorem aluFadd_example : aluFadd 0x0E 0 seed [gen 0x3FC00000] [gen 0x40200000] = .word (.gen 0x40800000) := by
  rw [aluFadd, roundOut_seed (by decide)]
  decide

theorem aluFsub_example : aluFsub 0x0E 0 seed [gen 0x3FC00000] [gen 0x40200000] = .word (.gen 0xBF800000) := by
  rw [aluFsub, roundOut_seed (by decide)]
  decide

theorem aluFmul_example : aluFmul 0x0E 0 seed [gen 0x3FC00000] [gen 0x40200000] = .word (.gen 0x40700000) := by
  rw [aluFmul, roundOut_seed (by decide)]
  decide

theorem aluFdiv_example : aluFdiv 0x0E 0 seed [gen 0x3FC00000] [gen 0x40200000] =
    { words := [.gen 0x3F19999A], flags := flagNX } := by
  rw [aluFdiv, roundOut_seed (by decide)]
  decide

theorem aluFfma_example : aluFfma 0x0E 0 seed [gen 0x3FC00000] [gen 0x40200000] [gen 0x3F800000] = .word (.gen 0x40980000) := by
  rw [aluFfma, roundOut_seed (by decide)]
  decide

theorem aluFscale_example : aluFscale 0x0E 0 seed [gen 0x3FC00000] [gen 2] = .word (.gen 0x40C00000) := by
  rw [aluFscale, roundOut_seed (by decide)]
  decide

theorem aluFdot2_example :
    aluFdot2 0x10 0 seed [gen 0x40003C00] [gen 0x44004200] [gen 0x3F000000] = .word (.gen 0x41380000) := by
  rw [aluFdot2, roundOut_seed (by decide)]
  decide

theorem roundIntegral_seed {f : Fmt} {rm u : Nat} {v : FVal} (hrm : rm < 4) :
    roundIntegral f rm u v = roundIntegral f rm 0 v := by
  cases v <;> simp only [roundIntegral, roundMag_seed (u := u) hrm]

theorem aluFrnd_seed {code : Nat} {xm : BitVec 6} {a : List Word} (hrm : rmOf xm < 4) :
    aluFrnd code xm seed a = aluFrnd code xm 0 a := by
  have hne : rmOf xm ≠ 4 := by omega
  have hall := encodeAll_seed
    (enc := fun u x => encodeFloat (floatFmt code) 1 2 0 false false false (roundIntegral (floatFmt code) (rmOf xm) u x.v)) hne
    (fun _ _ => by rw [roundIntegral_seed hrm])
  simp only [aluFrnd, hall, if_neg hne]

theorem aluFrnd_example : aluFrnd 0x0E 0 seed [gen 0x40200000] = .word (.gen 0x40000000) := by
  rw [aluFrnd_seed seed (by decide)]
  decide

theorem aluFun1_example :
    aluFun1 funRcp 0x0E 0 seed [gen 0x40000000] = .word (.gen 0x3F000000) ∧
    aluFun1 funSqrt 0x0E 0 seed [gen 0x40800000] = .word (.gen 0x40000000) ∧
    aluFun1 funRsq 0x0E 0 seed [gen 0x40800000] = .word (.gen 0x3F000000) ∧
    aluFun1 funExp2 0x0E 0 seed [gen 0x40400000] = .word (.gen 0x41000000) ∧
    aluFun1 funLog2 0x0E 0 seed [gen 0x41000000] = .word (.gen 0x40400000) ∧
    aluFun1 funSin 0x0E 0 seed [gen 0] = .word (.gen 0) ∧
    aluFun1 funCos 0x0E 0 seed [gen 0] = .word (.gen 0x3F800000) ∧
    aluFun1 funTanh 0x0E 0 seed [gen 0] = .word (.gen 0) ∧
    aluFun1 funSigm 0x0E 0 seed [gen 0] = .word (.gen 0x3F000000) := by
  have hseed (g : FVal → Fun) (a : List Word) : aluFun1 g 0x0E 0 seed a = aluFun1 g 0x0E 0 0 a := roundOut_seed (by decide)
  simp only [hseed]
  decide +kernel

theorem aluMinMax_example :
    aluMinMax false 0x0E 0 [gen 0x3FC00000] [gen 0x40200000] = .word (.gen 0x3FC00000) ∧
    aluMinMax true 0x0E 0 [gen 0x3FC00000] [gen 0x40200000] = .word (.gen 0x40200000) := by
  decide

theorem aluFcmp_example (d : Nat) :
    aluFcmp d 2 false 0x0E false [gen 0x3FC00000] [gen 0x40200000] = { preds := [(d, true)] } := by
  rfl

theorem aluFclass_example : aluFclass 0x0E [gen 0xFF800000] = .word (.gen 1) := by decide

/-! ### fcopysign (R141) -/

section

variable (a b : W32)

theorem sound_signElem {S T : CInt} (hS : Sound S) (mode : Nat) : Sound (signElem 32 mode S T) := by
  have hpow : (2 : Int) ^ 31 % 15 = 8 := by decide
  unfold Sound at hS
  simp only [Sound, signElem, rho_emod]
  omega

/-- The sign of one word over the magnitude of another. -/
theorem toNat_copysign :
    (a &&& 0x7FFFFFFF ||| b &&& 0x80000000 : W32).toNat = a.toNat % 2 ^ 31 + (sign32 b).toNat * 2 ^ 31 := by
  have hmask : (b &&& 0x80000000 : W32).toNat = 2 ^ 31 * (sign32 b).toNat := by
    rw [show (0x80000000 : W32) = BitVec.twoPow 32 31 from rfl, BitVec.and_twoPow]
    change (if sign32 b = true then _ else _ : W32).toNat = _
    cases sign32 b <;> rfl
  have hlow : (a &&& 0x7FFFFFFF : W32).toNat = a.toNat % 2 ^ 31 := by
    rw [BitVec.toNat_and]
    exact Nat.and_two_pow_sub_one_eq_mod _ 31
  have hlt : a.toNat % 2 ^ 31 < 2 ^ 31 := Nat.mod_lt _ (by decide)
  rw [BitVec.toNat_or, hmask, hlow, Nat.or_comm, ← Nat.two_pow_add_eq_or_of_lt hlt]
  omega

theorem signElem_word : (signElem 32 0 (wordC (gen a)) (wordC (gen b))).int =
    ((a &&& 0x7FFFFFFF ||| b &&& 0x80000000 : W32).toNat : Int) := by
  have hsign (x : W32) : decide ((2 : Int) ^ (32 - 1) ≤ x.toNat) = sign32 x := by
    rw [sign32_eq, decide_eq_decide]
    exact Int.ofNat_le
  have hlt := a.isLt
  rw [toNat_copysign]
  have hint (x : W32) : (wordC (gen x)).int = x.toNat := rfl
  simp only [signElem, hint, hsign]
  have ha := sign32_eq a
  by_cases h : 2 ^ 31 ≤ a.toNat
  · rw [decide_eq_true h] at ha
    simp only [ha, Bool.toNat_true]
    push_cast
    omega
  · rw [decide_eq_false h] at ha
    simp only [ha, Bool.toNat_false]
    push_cast
    omega

theorem yields_fcopysign : Yields (aluFcopysign 0x0E 0 [gen a] [gen b]) (a &&& 0x7FFFFFFF ||| b &&& 0x80000000) := by
  refine ⟨_, rfl, ?_⟩
  have h := cut_is (sound_signElem (T := wordC (gen b)) (sound_wordC a) 0) 0 false
  rw [signElem_word, pow_zero, Int.ediv_one, BitVec.ofInt_natCast, BitVec.ofNat_toNat, BitVec.setWidth_eq] at h
  exact h

end

end

/-! ### Rows -/

section

variable {f : FullWord} {r : Row} {ty xm : Nat}

/-- A plain word in a row that admits its type, its XM and its fields. -/
theorem directWord_of (hf : Plain f ty xm) (hty : ty < 0x13 ∧ r.types.contains ty = true)
    {x : BitVec 6} (hx : r.xm = x) (hxm : BitVec.ofNat 6 xm &&& ~~~ x = 0)
    (hfields : FieldOk f.d r.d ∧ FieldOk f.a r.a ∧ FieldOk f.b r.b ∧ FieldOk f.c r.c)
    (hfurther : r.subs = [] ∧ r.regs = [] ∧ r.preds = []) : DirectWord r f where
  mode := hf.moded.omodeOf
  sel := hf.moded.oselOf
  guard := hf.2.2
  type := by rwa [hf.moded.tyOf]
  xm := by rwa [hf.moded.xmOf, hx]
  fields := fun i => by
    obtain ⟨hd, ha, hb, hc⟩ := hfields
    rcases i with _ | _ | _ | i
    · exact ha
    · exact hb
    · exact hc
    · exact hd
  further := hfurther

/-- A reserved rounding mode is not among those used here (R126). -/
theorem rmSubs_of (hf : Plain f ty xm) (hxm : xm < 16 ∧ xm % 8 < 5) : rmSubs f = [] := by
  have hx : (BitVec.ofNat 6 xm).toNat = xm := by
    rw [BitVec.toNat_ofNat]
    omega
  rw [rmSubs, hf.moded.xmOf, hx, if_neg (by omega)]

theorem rneSubs_of (hf : Plain f ty 0) : rneSubs f = [] := by
  rw [rneSubs, rmSubs_of hf (by decide), hf.moded.xmOf]
  rfl

theorem rounding_xm : ∀ xm < 16, BitVec.ofNat 6 xm &&& ~~~ 0xF = 0 := by decide

theorem fieldOk_f32 (hf : Plain f 0x0E xm) (x : Byte) : FieldOk x (.v (tyOf f)) := by
  rw [hf.moded.tyOf]
  rfl

theorem directWord_rowF2 (hf : Plain f 0x0E xm) (hxm : xm < 16 ∧ xm % 8 < 5) (hc : f.c = 0) : DirectWord (rowF2 f) f := by
  have hty := fieldOk_f32 hf
  exact directWord_of hf ⟨by decide, rfl⟩ rfl (rounding_xm xm hxm.1) ⟨hty f.d, hty f.a, hty f.b, hc⟩ ⟨rmSubs_of hf hxm, rfl, rfl⟩

theorem directWord_rowF1 (hf : Plain f 0x0E 0) (hb : f.b = 0) (hc : f.c = 0) : DirectWord (rowF1 f) f := by
  have hty := fieldOk_f32 hf
  exact directWord_of hf ⟨by decide, rfl⟩ (x := 0xF) rfl (by decide) ⟨hty f.d, hty f.a, hb, hc⟩
    ⟨rmSubs_of hf (by decide), rfl, rfl⟩

theorem directWord_rowFun (hf : Plain f 0x0E 0) (hb : f.b = 0) (hc : f.c = 0) : DirectWord (rowFun f) f := by
  have hty := fieldOk_f32 hf
  exact directWord_of hf ⟨by decide, rfl⟩ (x := 0xF) rfl (by decide) ⟨hty f.d, hty f.a, hb, hc⟩ ⟨rneSubs_of hf, rfl, rfl⟩

end

section

variable {i : Instr} {s : State} {g l cls : Nat} {t : Thread} {f : FullWord} {a b c v : W32} {fl : BitVec 6} {xm : Nat}

/-- The lane of a word whose four fields are in bound and whose operands hold sound words. -/
structure FloatLane (s : State) (g l : Nat) (t : Thread) (f : FullWord) (a b c : W32) : Prop where
  word : AtWord s g l t f.pred f.s
  calm : Calm s g
  bound : ∀ i, Within s g (fieldAt f i)
  a : Holds t f.a a
  b : Holds t f.b b
  c : Holds t f.c c

theorem FloatLane.sound (h : FloatLane s g l t f a b c) (r : Row) : SoundFields s g t r f := by
  refine fun i _ => ⟨h.bound i, fun hi => ?_⟩
  interval_cases i
  · exact (congrArg isPoison h.a).trans (isPoison_gen a)
  · exact (congrArg isPoison h.b).trans (isPoison_gen b)
  · exact (congrArg isPoison h.c).trans (isPoison_gen c)

/-- fadd, fsub, fmul and fdiv. -/
theorem exec_rowF2 (alu : Nat → BitVec 6 → W32 → List Word → List Word → AluOut) (h : FloatLane s g l t f a b c)
    (hop : r75Op i = some ⟨f, rowF2 f, cls, fun x => alu x.ty x.xm x.t.seed x.a x.b⟩) (hf : Plain f 0x0E xm)
    (hxm : xm < 16 ∧ xm % 8 < 5) (hc : f.c = 0) (hout : Gives (alu 0x0E (BitVec.ofNat 6 xm) t.seed [gen a] [gen b]) v fl) :
    exec i s = .next (did s g l f.s fun t => flagged fl (setV f.d v t)) := by
  refine exec_direct hop h.word h.calm (directWord_rowF2 hf hxm hc) (h.sound _) rfl ?_
  change Gives (alu (tyOf f) (xmOf f) t.seed [readV t f.a.toNat] [readV t f.b.toNat]) v fl
  rwa [hf.moded.tyOf, hf.moded.xmOf, h.a, h.b]

/-- A two-operand word that sets no sticky bit. -/
theorem exec_rowF2_word (alu : Nat → BitVec 6 → W32 → List Word → List Word → AluOut) (h : FloatLane s g l t f a b c)
    (hop : r75Op i = some ⟨f, rowF2 f, cls, fun x => alu x.ty x.xm x.t.seed x.a x.b⟩) (hf : Plain f 0x0E xm)
    (hxm : xm < 16 ∧ xm % 8 < 5) (hc : f.c = 0) (hout : Gives (alu 0x0E (BitVec.ofNat 6 xm) t.seed [gen a] [gen b]) v 0) :
    exec i s = .next (did s g l f.s (setV f.d v)) := by
  simpa only [flagged_zero] using exec_rowF2 alu h hop hf hxm hc hout

/-- Words of one operand. -/
theorem exec_unary {r : Row} (alu : Nat → BitVec 6 → W32 → List Word → AluOut) (h : FloatLane s g l t f a b c)
    (hop : r75Op i = some ⟨f, r, cls, fun x => alu x.ty x.xm x.t.seed x.a⟩) (hr : r = rowF1 f ∨ r = rowFun f)
    (hf : Plain f 0x0E 0) (hb : f.b = 0) (hc : f.c = 0) (hout : Yields (alu 0x0E 0 t.seed [gen a]) v) :
    exec i s = .next (did s g l f.s (setV f.d v)) := by
  have hword : DirectWord r f ∧ isV r.d = true ∧ fieldWords t r f 0 = [readV t f.a.toNat] := by
    rcases hr with rfl | rfl
    · exact ⟨directWord_rowF1 hf hb hc, rfl, rfl⟩
    · exact ⟨directWord_rowFun hf hb hc, rfl, rfl⟩
  obtain ⟨hdirect, hd, ha⟩ := hword
  have hgives : Gives (directOut t ⟨f, r, cls, fun x => alu x.ty x.xm x.t.seed x.a⟩) v 0 := by
    change Gives (alu (tyOf f) (xmOf f) t.seed (fieldWords t r f 0)) v 0
    rw [ha, hf.moded.tyOf, hf.moded.xmOf, h.a]
    exact hout
  have hexec := exec_direct hop h.word h.calm hdirect (h.sound _) hd hgives
  simpa only [flagged_zero] using hexec

/-! ### The chosen words -/

/-- A word with direct operands writes a word that its arithmetic yields without a sticky bit. -/
theorem exec_direct_word {op : R75Op} (hop : r75Op i = some op) (h : FloatLane s g l t op.f a b c)
    (hword : DirectWord op.row op.f) (hd : isV op.row.d = true) (hout : Yields (directOut t op) v) :
    exec i s = .next (did s g l op.f.s (setV op.f.d v)) := by
  simpa only [flagged_zero] using exec_direct hop h.word h.calm hword (h.sound _) hd hout.gives

theorem exec_fcopysign (h : FloatLane s g l t f a b c) (hf : Plain f 0x0E 0) (hc : f.c = 0) :
    exec (.fcopysign f) s = .next (did s g l f.s (setV f.d (a &&& 0x7FFFFFFF ||| b &&& 0x80000000))) := by
  have hty := fieldOk_f32 hf
  have hsubs : (if (xmOf f).toNat % 4 = 3 then [1] else []) = ([] : List Nat) := by
    rw [hf.moded.xmOf]
    rfl
  refine exec_direct_word (op := ⟨f, rowFcopysign f, _, _⟩) rfl h (directWord_of hf ⟨by decide, rfl⟩ (x := 3) rfl (by decide)
    ⟨hty f.d, hty f.a, hty f.b, hc⟩ ⟨hsubs, rfl, rfl⟩) rfl ?_
  change Yields (aluFcopysign (tyOf f) (xmOf f) [readV t f.a.toNat] [readV t f.b.toNat]) _
  rw [hf.moded.tyOf, hf.moded.xmOf, h.a, h.b]
  exact yields_fcopysign a b

theorem exec_ffma_example (h : FloatLane s g l t f 0x3FC00000 0x40200000 0x3F800000) (hf : Plain f 0x0E 0) :
    exec (.ffma f) s = .next (did s g l f.s (setV f.d 0x40980000)) := by
  have hty := fieldOk_f32 hf
  refine exec_direct_word (op := ⟨f, rowF3 f, _, _⟩) rfl h (directWord_of hf ⟨by decide, rfl⟩ (x := 0xF) rfl (by decide)
    ⟨hty f.d, hty f.a, hty f.b, hty f.c⟩ ⟨rmSubs_of hf (by decide), rfl, rfl⟩) rfl (yields_of_eq ?_)
  change aluFfma (tyOf f) (xmOf f) t.seed [readV t f.a.toNat] [readV t f.b.toNat] [readV t f.c.toNat] = _
  rw [hf.moded.tyOf, hf.moded.xmOf, h.a, h.b, h.c]
  exact aluFfma_example _

theorem exec_minMax_example (h : FloatLane s g l t f 0x3FC00000 0x40200000 c) (hf : Plain f 0x0E 0) (hc : f.c = 0) :
    exec (.fmin f) s = .next (did s g l f.s (setV f.d 0x3FC00000)) ∧
    exec (.fmax f) s = .next (did s g l f.s (setV f.d 0x40200000)) := by
  have hty := fieldOk_f32 hf
  have hword : DirectWord (rowDAB typesFA 8 f) f := directWord_of hf ⟨by decide, rfl⟩ (x := 8) rfl (by decide)
    ⟨hty f.d, hty f.a, hty f.b, hc⟩ ⟨rfl, rfl, rfl⟩
  obtain ⟨hmin, hmax⟩ := aluMinMax_example
  refine ⟨exec_direct_word (op := ⟨f, rowDAB typesFA 8 f, _, _⟩) rfl h hword rfl (yields_of_eq ?_),
    exec_direct_word (op := ⟨f, rowDAB typesFA 8 f, _, _⟩) rfl h hword rfl (yields_of_eq ?_)⟩
  · change aluMinMax false (tyOf f) (xmOf f) [readV t f.a.toNat] [readV t f.b.toNat] = _
    rw [hf.moded.tyOf, hf.moded.xmOf, h.a, h.b]
    exact hmin
  · change aluMinMax true (tyOf f) (xmOf f) [readV t f.a.toNat] [readV t f.b.toNat] = _
    rw [hf.moded.tyOf, hf.moded.xmOf, h.a, h.b]
    exact hmax

theorem exec_fscale_example (h : FloatLane s g l t f 0x3FC00000 2 c) (hf : Plain f 0x0E 0) (hc : f.c = 0) :
    exec (.fscale f) s = .next (did s g l f.s (setV f.d 0x40C00000)) := by
  have hty := fieldOk_f32 hf
  have hb : FieldOk f.b (rowFscale f).b := by
    simp only [rowFscale, hf.moded.tyOf]
    rfl
  refine exec_direct_word (op := ⟨f, rowFscale f, _, _⟩) rfl h (directWord_of hf ⟨by decide, rfl⟩ (x := 0xF) rfl (by decide)
    ⟨hty f.d, hty f.a, hb, hc⟩
    ⟨rmSubs_of hf (by decide), rfl, rfl⟩) rfl (yields_of_eq ?_)
  change aluFscale (tyOf f) (xmOf f) t.seed [readV t f.a.toNat] [readV t f.b.toNat] = _
  rw [hf.moded.tyOf, hf.moded.xmOf, h.a, h.b]
  exact aluFscale_example _

theorem exec_fdot2_example (h : FloatLane s g l t f 0x40003C00 0x44004200 0x3F000000) (hf : Plain f 0x10 0) :
    exec (.fdot2 f) s = .next (did s g l f.s (setV f.d 0x41380000)) := by
  have hty (x : Byte) : FieldOk x (.v (tyOf f)) := by
    rw [hf.moded.tyOf]
    rfl
  refine exec_direct_word (op := ⟨f, rowFdot2 f, _, _⟩) rfl h (directWord_of hf ⟨by decide, rfl⟩ (x := 0xF) rfl (by decide)
    ⟨rfl, hty f.a, hty f.b, rfl⟩ ⟨rmSubs_of hf (by decide), rfl, rfl⟩) rfl (yields_of_eq ?_)
  change aluFdot2 (tyOf f) (xmOf f) t.seed [readV t f.a.toNat] [readV t f.b.toNat] [readV t f.c.toNat] = _
  rw [hf.moded.tyOf, hf.moded.xmOf, h.a, h.b, h.c]
  exact aluFdot2_example _

theorem exec_fclass_example (h : FloatLane s g l t f 0xFF800000 b c) (hf : Plain f 0x0E 0) (hb : f.b = 0) (hc : f.c = 0) :
    exec (.fclass f) s = .next (did s g l f.s (setV f.d 1)) := by
  refine exec_direct_word (op := ⟨f, rowFclass f, _, _⟩) rfl h (directWord_of hf ⟨by decide, rfl⟩ (x := 0) rfl (by decide)
    ⟨rfl, fieldOk_f32 hf f.a, hb, hc⟩ ⟨rfl, rfl, rfl⟩) rfl (yields_of_eq ?_)
  change aluFclass (tyOf f) [readV t f.a.toNat] = _
  rw [hf.moded.tyOf, h.a]
  exact aluFclass_example

theorem exec_fcmp_example (h : FloatLane s g l t f 0x3FC00000 0x40200000 c) (hf : Plain f 0x0E 2) (hc : f.c = 0)
    (hd : f.d.toNat < 8) : exec (.fcmp f) s = .next (did s g l f.s (setP f.d.toNat true)) := by
  have hty := fieldOk_f32 hf
  have hword : DirectWord (rowFcmp f) f := directWord_of hf ⟨by decide, rfl⟩ (x := 0x1F) rfl (by decide)
    ⟨hd, hty f.a, hty f.b, hc⟩ ⟨rfl, rfl, rfl⟩
  refine exec_direct_pred (op := ⟨f, rowFcmp f, _, _⟩) rfl h.word h.calm hword (h.sound _) rfl ?_
  change aluFcmp (f.d.toNat % 8) ((xmOf f).toNat % 8) ((xmOf f).getLsbD 4) (tyOf f) (ftzOf (xmOf f)) [readV t f.a.toNat]
    [readV t f.b.toNat] = _
  rw [hf.moded.tyOf, hf.moded.xmOf, h.a, h.b, Nat.mod_eq_of_lt hd]
  exact aluFcmp_example _

end

end Sys2Proof.Machine

namespace Sys2Proof

open Machine in
/-- Settles O43: the chosen words by evaluation, fcopysign bit by bit, and every other clause by what the operation gives on the
values of its operands, which `exec_rowF2` writes. -/
theorem floatResults : Obligations.FloatResults := by
  unfold Obligations.FloatResults
  intro s g l t f a b c hw hcalm hd ha hb hc hA hB hC
  have h : FloatLane s g l t f a b c := ⟨hw, hcalm, fun i => by rcases i with _ | _ | _ | i <;> assumption, hA, hB, hC⟩
  refine ⟨exec_fcopysign h, ?_, ?_, ?_, ?_, ?_, ?_, ?_⟩
  · rintro hf rfl rfl
    refine ⟨fun hc0 => ⟨?_, ?_, ?_, (exec_minMax_example h hf hc0).1, (exec_minMax_example h hf hc0).2, ?_⟩, ?_⟩
    · exact exec_rowF2_word aluFadd h rfl hf (by decide) hc0 (yields_of_eq (aluFadd_example _)).gives
    · exact exec_rowF2_word aluFsub h rfl hf (by decide) hc0 (yields_of_eq (aluFsub_example _)).gives
    · exact exec_rowF2_word aluFmul h rfl hf (by decide) hc0 (yields_of_eq (aluFmul_example _)).gives
    · exact exec_rowF2 aluFdiv h rfl hf (by decide) hc0 ⟨_, aluFdiv_example _, is_gen _⟩
    · rintro rfl
      exact exec_ffma_example h hf
  · rintro hf rfl rfl hc0
    exact exec_fscale_example h hf hc0
  · rintro hf rfl rfl rfl
    exact exec_fdot2_example h hf
  · rintro hf rfl rfl hc0 hd8
    exact exec_fcmp_example h hf hc0 hd8
  · intro hf hb0 hc0
    obtain ⟨hrcp, hsqrt, hrsq, hexp2, hlog2, hsin, hcos, htanh, hsigm⟩ := aluFun1_example t.seed
    refine ⟨?_, ?_, ?_, ?_, ?_, ?_, ?_⟩ <;> rintro rfl
    · exact exec_fclass_example h hf hb0 hc0
    · exact exec_unary aluFrnd h rfl (.inl rfl) hf hb0 hc0 (yields_of_eq (aluFrnd_example _))
    · exact exec_unary (aluFun1 funRcp) h rfl (.inl rfl) hf hb0 hc0 (yields_of_eq hrcp)
    · exact ⟨exec_unary (aluFun1 funSqrt) h rfl (.inl rfl) hf hb0 hc0 (yields_of_eq hsqrt),
        exec_unary (aluFun1 funRsq) h rfl (.inr rfl) hf hb0 hc0 (yields_of_eq hrsq)⟩
    · exact exec_unary (aluFun1 funExp2) h rfl (.inr rfl) hf hb0 hc0 (yields_of_eq hexp2)
    · exact exec_unary (aluFun1 funLog2) h rfl (.inr rfl) hf hb0 hc0 (yields_of_eq hlog2)
    · exact ⟨exec_unary (aluFun1 funSin) h rfl (.inr rfl) hf hb0 hc0 (yields_of_eq hsin),
        exec_unary (aluFun1 funCos) h rfl (.inr rfl) hf hb0 hc0 (yields_of_eq hcos),
        exec_unary (aluFun1 funTanh) h rfl (.inr rfl) hf hb0 hc0 (yields_of_eq htanh),
        exec_unary (aluFun1 funSigm) h rfl (.inr rfl) hf hb0 hc0 (yields_of_eq hsigm)⟩
  · intro rm hrm hf hc0 gives invalid same
    have hadd {v fl} := exec_rowF2 (i := .fadd f) (v := v) (fl := fl) aluFadd h rfl hf (by omega) hc0
    have hsub {v fl} := exec_rowF2 (i := .fsub f) (v := v) (fl := fl) aluFsub h rfl hf (by omega) hc0
    have hmul {v fl} := exec_rowF2 (i := .fmul f) (v := v) (fl := fl) aluFmul h rfl hf (by omega) hc0
    have hdiv {v fl} := exec_rowF2 (i := .fdiv f) (v := v) (fl := fl) aluFdiv h rfl hf (by omega) hc0
    refine ⟨fun hn i hi => ?_, fun hna hnb => ⟨fun hia hib => ?_, fun hia hib => ?_, fun hia hib => ?_, fun hia heq => ?_,
      fun hz => ?_, fun hea heb hsum => ?_⟩⟩
    · have hnan := gives_of_nan (seed := t.seed) hrm hn
      simp only [List.mem_cons, List.not_mem_nil, or_false] at hi hnan
      rcases hi with rfl | rfl | rfl | rfl
      · exact hadd (hnan _ (by simp))
      · exact hsub (hnan _ (by simp))
      · exact hmul (hnan _ (by simp))
      · exact hdiv (hnan _ (by simp))
    · obtain ⟨h1, h2, h3, h4⟩ := gives_of_inf_finite (seed := t.seed) hrm hna hnb hia hib
      exact ⟨hadd h1, hsub h2, fun hz => hmul (h3 hz), fun hz => hmul (h4 hz)⟩
    · obtain ⟨h1, h2, h3, h4⟩ := gives_of_finite_inf (seed := t.seed) hrm hna hnb hia hib
      exact ⟨hadd h1, hsub h2, fun hz => hmul (h3 hz), fun hz => hmul (h4 hz)⟩
    · obtain ⟨h1, h2, h3, h4⟩ := gives_of_inf_inf (seed := t.seed) hrm hna hnb hia hib
      exact ⟨fun hs => ⟨hadd (h1 hs).1, hsub (h1 hs).2⟩, fun hs => ⟨hadd (h2 hs).1, hsub (h2 hs).2⟩, hmul h3, hdiv h4⟩
    · subst heq
      exact hsub (gives_of_equal_operands hrm hna hia)
    · obtain ⟨h1, h2⟩ := gives_of_zero_divisor (a := a) (seed := t.seed) hrm hna hz
      exact ⟨fun hza => hdiv (h1 hza), fun hza hia => hdiv (h2 hza hia)⟩
    · exact hmul (gives_of_overflow hrm hea heb hsum)
  · intro hf hc0 hea heb
    exact ⟨fun h1 h2 hsum => exec_rowF2 aluFmul h rfl hf (by decide) hc0 (gives_of_underflow h1 h2 hsum),
      fun h0 => exec_rowF2_word aluFmul h rfl hf (by decide) hc0 (gives_of_subnormal hea heb h0)⟩

end Sys2Proof

end

section

/-! PROOF. Conversions (O44): chosen values, the clamp of a word to a byte, and a code of a narrow format. -/

namespace Sys2Proof.Machine

/-! ### Chosen values (R146, R150) -/

section

variable {rm u : Nat} {xm : BitVec 6}

theorem encodeInt_seed {lo hi bias : Int} {v : FVal} (hrm : rm < 4) :
    encodeInt lo hi bias rm u v = encodeInt lo hi bias rm 0 v := by
  cases v <;> simp only [encodeInt, roundMag_seed (u := u) hrm]

theorem aluCvt_seed {dst src : Nat} (seed : W32) {a : List Word} (hrm : rmOf xm < 4) :
    aluCvt dst src xm seed a = aluCvt dst src xm 0 a := by
  have hne : rmOf xm ≠ 4 := by omega
  have hall := encodeAll_seed
    (enc := fun u x => encodeFloat (floatFmt dst) (rmOf xm) (xm >>> 4).toNat u (ftzOf xm) true false x.v) hne
    (fun _ _ => encodeFloat_seed hrm)
  simp only [aluCvt, hall, if_neg hne, encodeInt_seed (u := seedTop seed) hrm, encodeInt_seed (u := seedTop 0) hrm]

theorem aluCvtxDec_seed {f : Fmt} {code : Nat} (seed : W32) {a b : List Word} (hrm : rmOf xm < 4) :
    aluCvtxDec f code xm seed a b = aluCvtxDec f code xm 0 a b := by
  have hne : rmOf xm ≠ 4 := by omega
  have hall := encodeAll_seed
    (enc := fun u v => encodeFloat (floatFmt code) (rmOf xm) (xm >>> 4).toNat u false true false v.v) hne
    (fun _ _ => encodeFloat_seed hrm)
  simp only [aluCvtxDec, hall, if_neg hne]

end

theorem aluCvt_fromInt_example (seed : W32) : aluCvt 0x0E 0x04 0 seed [gen 0xFFFFFFFD] = .word (.gen 0xC0400000) := by
  rw [aluCvt_seed seed (by decide)]
  decide

theorem aluCvt_toInt_example (seed : W32) : aluCvt 0x04 0x0E 0 seed [gen 0xC0700000] = .word (.gen 0xFFFFFFFC) := by
  rw [aluCvt_seed seed (by decide)]
  decide

theorem runCvtx_example {f : FullWord} {t : Thread} (hty : tyOf f = 0x0E) (hxm : xmOf f = 8) :
    runCvtx ⟨f, [gen 0x3900], [gen 1], [gen 0x10070343], t⟩ = .word (.gen 0x3F900000) := by
  have hdec : runCvtx ⟨f, [gen 0x3900], [gen 1], [gen 0x10070343], t⟩ =
      aluCvtxDec (fmtOfRecord 0x10070343) (tyOf f) (xmOf f) t.seed [gen 0x3900] [gen 1] := by
    simp only [runCvtx, Ctx.xm, hxm]
    rfl
  rw [hdec, hty, hxm, aluCvtxDec_seed _ (by decide)]
  decide

/-! ### The clamp of a word to a byte (R147) -/

/-- A value in the range of a byte, cut from its source value under the sign. -/
theorem cut_byte_is {S : CInt} (hS : Sound S) (hlo : -128 ≤ S.int) (hhi : S.int ≤ 127) :
    (S.cut 0 8 true).Is (BitVec.ofInt 32 S.int) := by
  have hcut : S.cut 0 8 true = ⟨BitVec.ofInt 32 (S.int % 2 ^ 32), rho ((S.rho : Int) + if S.int < 0 then 1 else 0)⟩ := by
    have hq : S.int.fdiv (2 ^ 0) = S.int := by simp
    have hl : S.int.fmod (2 ^ 0) = 0 := by simp
    have hf : S.int.fmod (2 ^ 8) = S.int % 2 ^ 8 := Int.fmod_eq_emod_of_nonneg _ (by decide)
    have hh : S.int.fdiv (2 ^ 8) = S.int / 2 ^ 8 := Int.fdiv_eq_ediv_of_nonneg _ (by decide)
    have hrho0 : rho 0 = 0 := rfl
    have hrho1 : rho (-1) = 14 := rfl
    have hrho24 : rho (2 ^ (32 - 8) - 1) = 0 := by decide
    have hweight : weight 8 = 1 := rfl
    have hunweight : unweight 0 = 1 := rfl
    simp only [CInt.cut, hq, hl, hf, hh]
    rw [Cut.mk.injEq, rho_eq_iff]
    by_cases hneg : S.int < 0
    · have hbits : S.int % 2 ^ 8 = S.int + 256 ∧ S.int / 2 ^ 8 = -1 ∧ S.int % 2 ^ 32 = S.int + 2 ^ 32 := by omega
      obtain ⟨h1, h2, h3⟩ := hbits
      have htop : (2 : Int) ^ 8 ≤ 2 * (S.int + 256) := by omega
      simp only [h1, h2, h3, if_pos hneg, htop, decide_true, Bool.and_true, Nat.ofNat_pos, if_true, hrho1, hrho24,
        hrho0, hweight, hunweight]
      exact ⟨congrArg _ (by omega), by omega⟩
    · have hbits : S.int % 2 ^ 8 = S.int ∧ S.int / 2 ^ 8 = 0 ∧ S.int % 2 ^ 32 = S.int := by omega
      obtain ⟨h1, h2, h3⟩ := hbits
      have htop : ¬ (2 : Int) ^ 8 ≤ 2 * S.int := by omega
      simp only [h1, h2, h3, if_neg hneg, htop, decide_false, Bool.and_false, Bool.false_eq_true, if_false, hrho0,
        hweight, hunweight]
      exact ⟨congrArg _ (by omega), by omega⟩
  rw [hcut]
  refine ⟨ofInt_emod_word _, ?_⟩
  have hbits : ((BitVec.ofInt 32 S.int).toNat : Int) = S.int % 2 ^ 32 := by
    rw [BitVec.toNat_ofInt]
    exact Int.toNat_of_nonneg (Int.emod_nonneg _ (by decide))
  unfold Sound at hS
  rw [← rho_natCast, hbits, rho_eq_iff]
  split <;> omega

theorem place_byte (e : CInt) : (intTy 0x02).place 0 [e] = [e.cut 0 8 true] := rfl

/-- What cvti gives of a word: the nearest value of the byte. -/
theorem gives_cvti (a : W32) : Gives (aluCvti false (intTy 0x02) (intTy 0x04) [gen a])
    (if a.toInt < -128 then 0xFFFFFF80 else if 127 < a.toInt then 0x7F else a)
    (if a.toInt < -128 then flagSAT else if 127 < a.toInt then flagSAT else 0) := by
  have hint := signed_int a
  have hlo : (intTy 0x02).lo = -128 := by decide
  have hhi : (intTy 0x02).hi = 127 := by decide
  have hout : aluCvti false (intTy 0x02) (intTy 0x04) [gen a] = {
      words := [(satC ((wordC (gen a)).signed 32) (-128) 127).cut 0 8 true]
      flags := satFlag [(wordC (gen a)).signed 32] (-128) 127 } := by
    rw [aluCvti, elems_i32, if_neg (by decide), List.headD_cons, hlo, hhi, place_byte]
  have hflags : satFlag [(wordC (gen a)).signed 32] (-128) 127 =
      if a.toInt < -128 then flagSAT else if 127 < a.toInt then flagSAT else 0 := by
    simp only [satFlag, hint, List.all_cons, List.all_nil, Bool.and_true, Bool.and_eq_true, decide_eq_true_eq]
    grind
  refine ⟨_, by rw [hout, hflags], ?_⟩
  simp only [satC, hint]
  split_ifs with hlt hgt
  · exact ⟨by decide, by decide⟩
  · exact ⟨by decide, by decide⟩
  · have h := cut_byte_is (sound_signed (sound_wordC a)) (by omega) (by omega)
    rwa [hint, BitVec.ofInt_toInt] at h

/-! ### The words issued -/

section

variable {s : State} {g l : Nat} {t : Thread} {f : FullWord} {a : W32} {ty src : Nat}

/-- A word that names registers in D and A alone. -/
theorem soundFields_da {r : Row} (hb : isV r.b = false) (hc : isV r.c = false) (hd : Within s g f.d) (ha : Within s g f.a)
    (hA : Holds t f.a a) : SoundFields s g t r f := by
  intro i hi
  rcases i with _ | _ | _ | i
  · exact ⟨ha, fun _ => (congrArg isPoison hA).trans (isPoison_gen a)⟩
  · exact absurd (hb.symm.trans hi) (by decide)
  · exact absurd (hc.symm.trans hi) (by decide)
  · exact ⟨hd, by omega⟩

theorem srcOf_eq (hb : f.b.toNat = src) (hlt : src < 32) : srcOf f = src := by
  rw [srcOf, hb, Nat.mod_eq_of_lt hlt]

/-- cvt between two formats of 32 bits (R145). -/
theorem directWord_rowCvt (hf : Plain f ty 0) (hb : f.b.toNat = src) (hlt : src < 32) (hc : f.c = 0)
    (hty : ty = 0x04 ∨ ty = 0x0E) (hnarrow : wide src = false) (hpair : cvtPair ty src = true) : DirectWord (rowCvt f) f := by
  have htype : ty < 0x13 ∧ (rowCvt f).types.contains ty = true ∧ wide ty = false := by
    rcases hty with rfl | rfl <;> exact ⟨by decide, rfl, rfl⟩
  obtain ⟨hlt13, hmem, hwide⟩ := htype
  have hd : FieldOk f.d (.v (tyOf f)) := (congrArg wide hf.moded.tyOf).trans hwide
  have ha : FieldOk f.a (.v (srcOf f)) := (congrArg wide (srcOf_eq hb hlt)).trans hnarrow
  have hob : obSubs f = [] := by
    rw [obSubs, hf.moded.xmOf]
    rfl
  have hsubs : (rowCvt f).subs = [] := by
    simp only [rowCvt, rmSubs_of hf (by decide), hob, hf.moded.tyOf, srcOf_eq hb hlt, hpair, hb, if_neg (Nat.not_le.mpr hlt),
      if_true, List.append_nil]
  exact directWord_of hf ⟨hlt13, hmem⟩ (x := 0x3F) rfl (by decide) ⟨hd, ha, trivial, hc⟩ ⟨hsubs, rfl, rfl⟩

/-- What cvt writes where it sets no sticky bit. -/
theorem exec_cvt_word {v : W32} (hw : AtWord s g l t f.pred f.s) (hcalm : Calm s g) (hs : SoundFields s g t (rowCvt f) f)
    (hA : Holds t f.a a) (hf : Plain f ty 0) (hb : f.b.toNat = src) (hlt : src < 32) (hc : f.c = 0)
    (hty : ty = 0x04 ∨ ty = 0x0E) (hnarrow : wide src = false) (hpair : cvtPair ty src = true)
    (hout : aluCvt ty src 0 t.seed [gen a] = .word (.gen v)) : exec (.cvt f) s = .next (did s g l f.s (setV f.d v)) := by
  have hgives : Gives (directOut t ⟨f, rowCvt f, 3, fun x => aluCvt x.ty (srcOf x.f) x.xm x.t.seed x.a⟩) v 0 := by
    change Gives (aluCvt (tyOf f) (srcOf f) (xmOf f) t.seed [readV t f.a.toNat]) v 0
    rw [hf.moded.tyOf, srcOf_eq hb hlt, hf.moded.xmOf, hA]
    exact (yields_of_eq hout).gives
  simpa only [flagged_zero] using exec_direct rfl hw hcalm (directWord_rowCvt hf hb hlt hc hty hnarrow hpair) hs rfl hgives

/-- cvti of a word to a byte (R147). -/
theorem directWord_rowCvti (hf : Plain f 0x02 0) (hb : f.b = 0x04) (hc : f.c = 0) : DirectWord (rowCvti f) f := by
  have hsrc : srcOf f = 0x04 := srcOf_eq (congrArg BitVec.toNat hb) (by decide)
  have hd : FieldOk f.d (.v (tyOf f)) := congrArg wide hf.moded.tyOf
  have ha : FieldOk f.a (.v (srcOf f)) := congrArg wide hsrc
  have hsubs : (rowCvti f).subs = [] := by
    simp only [rowCvti, obSubs, hf.moded.xmOf, hf.moded.tyOf, hsrc, hb]
    decide
  exact directWord_of hf ⟨by decide, rfl⟩ (x := 0x31) rfl (by decide) ⟨hd, ha, trivial, hc⟩ ⟨hsubs, rfl, rfl⟩

/-- Every word is clamped to a byte. -/
theorem exec_cvti_byte (hw : AtWord s g l t f.pred f.s) (hcalm : Calm s g) (hs : SoundFields s g t (rowCvti f) f)
    (hA : Holds t f.a a) (hf : Plain f 0x02 0) (hb : f.b = 0x04) (hc : f.c = 0) :
    exec (.cvti f) s = .next (did s g l f.s (if a.toInt < -128 then fun t => flagged flagSAT (setV f.d 0xFFFFFF80 t)
      else if 127 < a.toInt then fun t => flagged flagSAT (setV f.d 0x7F t) else setV f.d a)) := by
  have hsrc : srcOf f = 0x04 := srcOf_eq (congrArg BitVec.toNat hb) (by decide)
  have hexec {v : W32} {fl : BitVec 6} (hout : Gives (aluCvti false (intTy 0x02) (intTy 0x04) [gen a]) v fl) :
      exec (.cvti f) s = .next (did s g l f.s fun t => flagged fl (setV f.d v t)) := by
    refine exec_direct (op := ⟨f, rowCvti f, _, _⟩) rfl hw hcalm (directWord_rowCvti hf hb hc) hs rfl ?_
    change Gives (aluCvti ((xmOf f).getLsbD 0) (intTy (tyOf f)) (intTy (srcOf f)) [readV t f.a.toNat]) v fl
    rwa [hf.moded.tyOf, hsrc, hf.moded.xmOf, hA]
  have hgives := gives_cvti a
  split_ifs at hgives ⊢ with hlo hhi
  · exact hexec hgives
  · exact hexec hgives
  · simpa only [flagged_zero] using hexec hgives

end

/-! ### cvtx with its record in a uniform register (R148, R150) -/

section

variable {s : State} {g l : Nat} {t : Thread} {f : FullWord} {W : Wg}

/-- The row of a decoding word. -/
theorem rowCvtx_eq (hf : Moded f 0x0E 5 2 8) : rowCvtx f = {
    d := .v 0x0E
    a := .v 0x00
    b := .v 0x08
    c := .v 0x00
    types := typesFT
    xm := 0x3F
    cbTy := 0x0E } := by
  have hdec : (BitVec.ofNat 6 8).getLsbD 3 = true := by decide
  simp only [rowCvtx, rmSubs, obSubs, hf.xmOf, hf.tyOf, hf.omodeOf, hf.oselOf, hdec]
  rfl

theorem r75Pre_cvtx (hf : Moded f 0x0E 5 2 8) (hc : f.c.toNat < 32) (hd : Within s g f.d) (ha : Within s g f.a)
    (hb : Within s g f.b) : r75Pre (rowCvtx f) f (taken s) g l = none := by
  have hrow := rowCvtx_eq hf
  have hregs : r75Regs (rowCvtx f) f = [f.d, f.a, f.b].map BitVec.toNat := by
    simp [r75Regs, hrow, Row.at_, fieldAt, isDirect, hf.omodeOf, hf.oselOf, nRegs, wide]
  have hsubs : r75Subs (rowCvtx f) f = [] := by
    have hpred := hf.2.2.2.2
    unfold r75Subs
    rw [if_neg hpred]
    simp [hrow, hf.tyOf, hf.omodeOf, hf.oselOf, hf.xmOf, hc, typesFT, modeAllowed, Row.at_, isV, fieldSubs, fieldAt,
      isDirect, codebookSubs, wide]
  have hbound : outOfBound (nreqOf s g) (r75Regs (rowCvtx f) f) = [] := by
    rw [hregs]
    refine outOfBound_within fun r hr => ?_
    simp only [List.mem_cons, List.not_mem_nil, or_false] at hr
    rcases hr with rfl | rfl | rfl <;> assumption
  simp [r75Pre, hsubs, subTrap, regTrap, nreqOf_taken, hbound, r75Check5, hf.omodeOf]

theorem exec_cvtx_example (hw : AtWord s g l t f.pred f.s) (hcalm : Calm s g) (hf : Moded f 0x0E 5 2 8) (hc : f.c.toNat < 32)
    (hd : Within s g f.d) (ha : Within s g f.a) (hb : Within s g f.b) (hA : Holds t f.a 0x3900) (hB : Holds t f.b 1)
    (hW : wgOf s g = some W) (hC : W.g.getD f.c.toNat .zero = gen 0x10070343) :
    exec (.cvtx f) s = .next (did s g l f.s (setV f.d 0x3F900000)) := by
  have hrow := rowCvtx_eq hf
  have hreadA : readOperand (rowCvtx f) f (taken s) g l t 0 = .words (taken s) [gen 0x3900] := by
    rw [← hA]
    simp [readOperand, hrow, Row.at_, fieldAt, isDirect, hf.oselOf, regsFrom, nRegs, wide]
  have hreadB : readOperand (rowCvtx f) f (taken s) g l t 1 = .words (taken s) [gen 1] := by
    rw [← hB]
    simp [readOperand, hrow, Row.at_, fieldAt, isDirect, hf.oselOf, regsFrom, nRegs, wide]
  have hreadC : readOperand (rowCvtx f) f (taken s) g l t 2 = .words (taken s) [gen 0x10070343] := by
    rw [← hC]
    simp [readOperand, hrow, Row.at_, fieldAt, isDirect, hf.omodeOf, hf.oselOf, nRegs, wide,
      show wgOf (taken s) g = some W from hW]
  have hds : destRegs (rowCvtx f) f (nreqOf s g) t = .ok [f.d.toNat] := by
    simp [destRegs, hrow, isDirect, hf.oselOf, nRegs, wide]
  have hpsn : operandsPoisoned (rowCvtx f) t ([gen 0x3900] ++ [gen 1] ++ [gen 0x10070343]) = false := by
    rw [hrow]
    rfl
  have hexec := exec_gives (i := .cvtx f) (op := ⟨f, rowCvtx f, 3, runCvtx⟩) rfl hw hcalm (r75Pre_cvtx hf hc hd ha hb)
    (by simp [hf.omodeOf]) hds hreadA hreadB hreadC hpsn (yields_of_eq (runCvtx_example hf.tyOf hf.xmOf)).gives
  simpa only [flagged_zero] using hexec

end

end Sys2Proof.Machine

namespace Sys2Proof

open Machine in
/-- Settles O44: the chosen words by evaluation, the clamp by the byte that `gives_cvti` cuts, and the rounding by the quotient
and the remainder of the magnitude (`roundMag_modes`). -/
theorem conversions : Obligations.Conversions := by
  unfold Obligations.Conversions
  intro s g l t f a b hw hcalm hd ha hA
  refine ⟨fun hc => ⟨?_, ?_, ?_, ?_⟩, ?_, fun rm u m neg e q hrm => ⟨roundMag_exact, roundMag_modes hrm⟩⟩
  · rintro hf hb rfl
    exact exec_cvt_word hw hcalm (soundFields_da rfl rfl hd ha hA) hA hf (congrArg BitVec.toNat hb) (by decide) hc (.inr rfl)
      rfl rfl (aluCvt_fromInt_example _)
  · rintro hf hb rfl
    exact exec_cvt_word hw hcalm (soundFields_da rfl rfl hd ha hA) hA hf (congrArg BitVec.toNat hb) (by decide) hc (.inl rfl)
      rfl rfl (aluCvt_toInt_example _)
  · rintro hf hb rfl
    have hbyte := exec_cvti_byte hw hcalm (soundFields_da rfl rfl hd ha hA) hA hf hb hc
    rwa [if_pos (by decide)] at hbyte
  · intro hf hb
    exact exec_cvti_byte hw hcalm (soundFields_da rfl rfl hd ha hA) hA hf hb hc
  · rintro W hf hc hW hC hb hB rfl rfl
    exact exec_cvtx_example hw hcalm hf hc hd ha hb hA hB hW hC

end Sys2Proof

end

section

/-! PROOF. Words that reach the local spaces (O15, O16, O17, O19): the address of a lane's access, what a load, a store and
their refusals do in a lane alone in its coach, and what a store to `.cs` leaves unchanged. -/

namespace Sys2Proof.Machine

/-! ### How the words are issued -/

section

variable (f : FullWord) (s : State)

theorem exec_ld : exec (.ld f) s =
    .next (issueLanes (infoTo f (loadDests true f) []) (memPre false false f) (loadBody false 0 f) s) := rfl

theorem exec_ldx : exec (.ldx f) s =
    .next (issueLanes (infoTo f (loadDests true f) []) (memPre false true f) (loadBody true 0 f) s) := rfl

theorem exec_lda : exec (.lda f) s =
    .next (issueLanes (infoTo f (loadDests true f) []) (memPre true false f) (loadBody false (scOf f) f) s) := rfl

theorem exec_st : exec (.st f) s =
    .next (issueLanes (infoTo f (loadDests false f) []) (memPre false false f) (storeBody 0 f) s) := rfl

theorem exec_stl : exec (.stl f) s =
    .next (issueLanes (infoTo f (loadDests false f) []) (memPre true false f) (storeBody (scOf f) f) s) := rfl

end

/-! ### Releases and acquires leave the lanes alone (R307) -/

section

variable {s : State} {g l core n : Nat}

/-- The groups, and the buffers of the store paths: nothing below the cores writes them. -/
def aboveHome (s : State) : AList Group × List WcBuf := (s.groups, s.wc)

theorem aboveHome_notifyWith {vi type op tag member status : Nat} {payload : List W32} :
    aboveHome (notifyWith s vi type op tag member status payload) = aboveHome s := by
  simp only [notifyWith]
  split
  · rfl
  · split_ifs <;> rfl

theorem aboveHome_report {kind src line mask : Nat} : aboveHome (report s kind src line mask) = aboveHome s := by
  simp only [report, notify]
  rw [aboveHome_notifyWith]
  split <;> rfl

theorem aboveHome_sealLine {line key : Nat} {ws : List Word} : aboveHome (sealLine s line key ws).2 = aboveHome s := by
  unfold sealLine
  split <;> rfl

theorem aboveHome_hbmPut {line : Nat} {ws : List Word} : aboveHome (hbmPut s line ws) = aboveHome s := rfl

theorem aboveHome_parityUpdate {line : Nat} {old new : List Word} : aboveHome (parityUpdate s line old new) = aboveHome s := rfl

theorem aboveHome_openLine : aboveHome (openLine s).2 = aboveHome s := rfl

theorem aboveHome_hbmRead {line key src : Nat} : aboveHome (hbmRead s line key src).2 = aboveHome s := by
  unfold hbmRead
  grind [aboveHome_openLine, aboveHome_report, aboveHome_hbmPut, aboveHome_sealLine, aboveHome_parityUpdate]

theorem aboveHome_hbmWrite {line key : Nat} {ps : AList Patch} : aboveHome (hbmWrite s line key ps) = aboveHome s := by
  unfold hbmWrite
  grind [aboveHome_hbmRead, aboveHome_sealLine, aboveHome_hbmPut, aboveHome_parityUpdate, aboveHome_report]

theorem aboveHome_l2Put {c : CLine} : aboveHome (l2Put s c) = aboveHome s := rfl

theorem aboveHome_l2Drop {line : Nat} : aboveHome (l2Drop s line) = aboveHome s := rfl

theorem aboveHome_l2Clean {line : Nat} : aboveHome (l2Clean s line) = aboveHome s := by
  unfold l2Clean
  grind [aboveHome_l2Put, aboveHome_hbmWrite]

theorem aboveHome_l2Fill {c : CLine} : aboveHome (l2Fill s c) = aboveHome s := by
  unfold l2Fill
  grind [aboveHome_l2Put, aboveHome_l2Drop, aboveHome_l2Clean]

theorem aboveHome_l2Read {line key prio : Nat} : aboveHome (l2Read s line key prio).2 = aboveHome s := by
  unfold l2Read
  grind [aboveHome_hbmRead, aboveHome_l2Fill]

theorem aboveHome_podTrip {pa : Nat} : aboveHome (podTrip s pa) = aboveHome s := by
  unfold podTrip
  split <;> rfl

theorem aboveHome_hostStore {a : Nat} {ws : List Word} : aboveHome (hostStore s a ws) = aboveHome s := rfl

theorem aboveHome_egressPatch {pa : Nat} {ps : AList Patch} : aboveHome (egressPatch s pa ps) = aboveHome s := by
  unfold egressPatch
  grind [aboveHome_report, aboveHome_hostStore]

theorem aboveHome_homeWrite {pa : Nat} {at_ : LineAttr} {ps : AList Patch} :
    aboveHome (homeWrite s pa at_ ps) = aboveHome s := by
  unfold homeWrite l2Out
  grind [aboveHome_hbmWrite, aboveHome_l2Read, aboveHome_l2Put, aboveHome_l2Drop, aboveHome_l2Clean, aboveHome_podTrip,
    aboveHome_egressPatch, aboveHome]

theorem aboveHome_dcUpdate {b : WcBuf} : aboveHome (dcUpdate s b) = aboveHome s := by
  simp only [dcUpdate]
  split
  · rfl
  · split_ifs <;> rfl

/-- A buffer that is sent leaves the store path, with every other of its line. -/
theorem aboveHome_wcSend (b : WcBuf) : aboveHome (wcSend s b) =
    (s.groups, s.wc.filter fun x => !(x.core == b.core && x.xs == b.xs && x.line == b.line)) := by
  simp only [wcSend]
  split
  · rfl
  · rw [aboveHome_homeWrite, aboveHome_dcUpdate]
    rfl

theorem groups_wcSend (b : WcBuf) : (wcSend s b).groups = s.groups := congrArg Prod.fst (aboveHome_wcSend b)

theorem wc_wcSend (b : WcBuf) : (wcSend s b).wc = s.wc.filter fun x => !(x.core == b.core && x.xs == b.xs && x.line == b.line) :=
  congrArg Prod.snd (aboveHome_wcSend b)

theorem groups_releaseAt : (releaseAt s core n).groups = s.groups := by
  have hfold (bs : List WcBuf) (s : State) : (bs.foldl wcSend s).groups = s.groups := by
    induction bs generalizing s with
    | nil => rfl
    | cons b bs ih => exact (ih _).trans (groups_wcSend b)
  unfold releaseAt
  split
  · exact hfold _ s
  · rfl

theorem getG_releaseAt : getG (releaseAt s core n) g = getG s g := by rw [getG, groups_releaseAt, getG]

theorem groups_acquireAt : (acquireAt s core n).groups = s.groups := by
  unfold acquireAt
  split <;> rfl

theorem getG_acquireAt : getG (acquireAt s core n) g = getG s g := by rw [getG, groups_acquireAt, getG]

theorem coreOf_modT {F : Thread → Thread} : coreOf (modT s g l F) g = coreOf s g := by
  rw [coreOf, getG_modT, if_pos rfl, coreOf]
  cases getG s g <;> rfl

end

/-! ### Addresses (R153, R156) -/

/-- A word of `.b32` in a local space whose base is a register of the lane. -/
structure LocalWordAt (f : FullWord) (sp : Nat) : Prop where
  local_ : sp < 3
  space : spaceOf f = sp
  ty : tyOf f = 0
  vec : vecOf f = 0
  ub : ubOf f = false

section

variable {s : State} {g l sp A : Nat} {t : Thread} {f : FullWord} {a x : W32} {w : Word}

theorem baseIn_register (hsp : sp ≠ 4) {r : Byte} (ha : Holds t r a) : baseIn s g t sp false r = (false, a.toNat) := by
  have hw : readV t r.toNat = gen a := ha
  have hz : isPoison .zero = false := rfl
  have h0 : Word.zero.val.toNat = 0 := rfl
  simp [baseIn, hsp, hw, isPoison_gen, gen_val, hz, h0]

theorem effAddr_word (hf : LocalWordAt f sp) (ha : Holds t f.a a) :
    effAddr false f s g t = (false, a.toNat + 4 * f.c.toInt) := by
  obtain ⟨h3, hsp, hty, hvec, hub⟩ := hf
  have hz : sizeOf_ 0 0 = 4 := rfl
  have h4 : sp ≠ 4 := by omega
  simp [effAddr, hsp, hty, hvec, hub, hz, baseIn_register h4 ha, mul_comm]

theorem effAddr_indexed (hf : LocalWordAt f sp) (ha : Holds t f.a a) (hb : Holds t f.b x) :
    effAddr true f s g t = (false, a.toNat + 4 * f.c.toInt + x.toNat * 2 ^ scOf f) := by
  obtain ⟨h3, hsp, hty, hvec, hub⟩ := hf
  have hz : sizeOf_ 0 0 = 4 := rfl
  have h4 : sp ≠ 4 := by omega
  have hw : readV t f.b.toNat = gen x := hb
  simp [effAddr, hsp, hty, hvec, hub, hz, baseIn_register h4 ha, hw, isPoison_gen, gen_val, mul_comm]

/-- The checks of R154 for a word of a local space. -/
theorem locate_local_checks {n : Need} {addr : Int} (hsp : sp < 3) :
    locate s g sp 4 n addr =
      (if addr < 0 ∨ (localSize s g sp : Int) ≤ addr then .error (trapAt causeProtection 0 (BitVec.ofInt 64 addr))
       else if addr % 4 ≠ 0 then .error (trapAt causeMisaligned 0 (BitVec.ofInt 64 addr))
       else if (localSize s g sp : Int) < addr + 4 then .error (trapAt causeProtection 0 (BitVec.ofInt 64 addr))
       else .ok ⟨sp, localAt s g sp addr.toNat, BitVec.ofInt 64 addr, noAttr, false⟩, s) := by
  have hin (size : Nat) : (addr < 0 ∨ size ≤ addr.toNat) ↔ (addr < 0 ∨ (size : Int) ≤ addr) := by omega
  have hend {size : Nat} (h : ¬(addr < 0 ∨ (size : Int) ≤ addr)) : size < addr.toNat + 4 ↔ (size : Int) < addr + 4 := by omega
  have h3 : sp = 0 ∨ sp = 1 ∨ sp = 2 := by omega
  rcases h3 with rfl | rfl | rfl
  · simp +contextual [locate, localSize, localAt, hin, hend]
  · simp +contextual [locate, localSize, localAt, hin, hend]
  · cases hg : gangOf s g with
    | none =>
      have hout : addr < 0 ∨ 0 ≤ addr := by omega
      simp [locate, localSize, hg, hout]
    | some k => simp +contextual [locate, localSize, localAt, hg, hin, hend]

/-! ### Loads (R156, R158) -/

/-- A local space takes no cache hint (R155). -/
theorem hint_of_memPre {sync ix : Bool} (hsp : spaceOf f < 3) (hp : memPre sync ix f s g l = none) : chOf f = 0 := by
  have hsubs : memSubs sync ix f = [] := eq_nil_of_subTrap (Option.or_eq_none_iff.mp hp).1
  by_contra hch
  have h3 : spaceOf f ≠ 3 ∧ spaceOf f ≠ 4 := by omega
  cases sync <;> simp [memSubs, zeroSub, hch, h3] at hsubs

/-- The own part of a load of one word: the word is on its way, and the acquire of lda follows. -/
theorem loadBody_word {ix : Bool} {acq : Nat} (hf : LocalWordAt f sp) (hch : chOf f = 0) (ht : getT s g l = some t) (hc : Calm s g)
    (hal : A % 4 = 0) (hin : A + 4 ≤ localSize s g sp) (hw : localWord s g t sp A = w) (hm : mismatch w = false)
    (haddr : effAddr ix f s g t = (false, (A : Int))) :
    loadBody ix acq f s g l = .done (acquireAt (modT s g l (late s [(f.d.toNat, w)] [])) (coreOf s g) acq) := by
  simp only [loadBody, ht, haddr, hf.space, hf.ty, hf.vec, hch, memLoad_word ht hc hf.local_ hal hin hw hm, coreOf_modT]
  rfl

/-- A load of one word, with the acquire that follows, in a lane alone in its coach. -/
theorem issue_load {ix sync : Bool} {acq : Nat} (hatw : AtWord s g l t f.pred f.s) (hc : Calm s g) (hf : LocalWordAt f sp)
    (hal : A % 4 = 0) (hin : A + 4 ≤ localSize s g sp) (hw : localWord s g t sp A = w) (hm : mismatch w = false)
    (hp : memPre sync ix f s g l = none) (haddr : effAddr ix f s g t = (false, (A : Int))) :
    issueLanes (infoTo f (loadDests true f) []) (memPre sync ix f) (loadBody ix acq f) s =
      past (acquireAt (modT (taken s) g l (late s [(f.d.toNat, w)] [])) (coreOf s g) acq) g l f.s := by
  refine done_of (atWord_ends rfl hatw) hp rfl rfl
    (loadBody_word (s := taken s) hf (hint_of_memPre (hf.space ▸ hf.local_) hp) hatw.1.2.1 hc hal hin hw hm haddr) ?_
  exact (retry_of_getG getG_acquireAt).trans ((retry_modT (F := late s _ _) fun _ => rfl).trans (retry_taken hatw.1))

/-! ### Stores (R157, R158) -/

theorem storePatch_local {core : Nat} {tv : W64} {at_ : LineAttr} {b evf : Bool} {q : Nat} (hsp : sp < 3) :
    storePatch s g l core ⟨sp, q, tv, at_, b⟩ 0 (wholePatch w) evf = localPut s g l sp q w := by
  have h3 : sp = 0 ∨ sp = 1 ∨ sp = 2 := by omega
  rcases h3 with rfl | rfl | rfl <;> rfl

/-- The own part of a store of one word: the release of stl, then the word at its place. -/
theorem storeBody_word {rel : Nat} (hf : LocalWordAt f sp) (ht : getT s g l = some t) (hal : A % 4 = 0)
    (hin : A + 4 ≤ localSize s g sp) (hw : readV t f.d.toNat = w) (hm : mismatch w = false)
    (haddr : effAddr false f s g t = (false, (A : Int))) :
    storeBody rel f s g l = .done (localPut (releaseAt s (coreOf s g) rel) g l sp (localAt s g sp A) w) := by
  have hsize : sizeOf_ 0 0 = 4 := rfl
  have hparts (off : Nat) : storeParts 0 off [w] = [wholePatch w] := rfl
  have hregs : (List.range (moved 0 0)).map (fun i => readV t (f.d.toNat + i)) = [w] := by rw [← hw]; rfl
  simp only [storeBody, ht, haddr, hf.space, hf.ty, hf.vec, hregs, memStore, hsize, Bool.false_eq_true, if_false,
    locate_local hf.local_ hal hin, List.any_cons, hm, List.any_nil, Bool.or_false, Bool.false_and, hparts, storeParts',
    List.foldl_cons, List.foldl_nil, storePatch_local hf.local_]

/-- A store of one word, after the release, in a lane alone in its coach. -/
theorem issue_store {sync : Bool} {rel : Nat} (hatw : AtWord s g l t f.pred f.s) (hf : LocalWordAt f sp)
    (ha : Holds t f.a a) (hA : (A : Int) = a.toNat + 4 * f.c.toInt) (hal : A % 4 = 0) (hin : A + 4 ≤ localSize s g sp)
    (hw : readV t f.d.toNat = w) (hm : mismatch w = false) (hp : memPre sync false f s g l = none) :
    issueLanes (infoTo f (loadDests false f) []) (memPre sync false f) (storeBody rel f) s =
      past (localPut (releaseAt (taken s) (coreOf s g) rel) g l sp (localAt s g sp A) w) g l f.s := by
  have haddr : effAddr false f (taken s) g t = (false, (A : Int)) := by rw [effAddr_word hf ha, hA]
  refine done_of (atWord_ends rfl hatw) hp rfl rfl (storeBody_word (s := taken s) hf hatw.1.2.1 hal hin hw hm haddr) ?_
  exact (retry_localPut _ _ _).trans ((retry_of_getG getG_releaseAt).trans (retry_taken hatw.1))

/-! ### Refused accesses (R153, R154) -/

/-- What a load and a store of one word do at a place that is refused. -/
theorem issue_refused {addr : Int} {y : Trap} (hatw : AtWord s g l t f.pred f.s) (hf : LocalWordAt f sp) (ha : Holds t f.a a)
    (haddr : addr = a.toNat + 4 * f.c.toInt) (hp : memPre false false f s g l = none)
    (hloc : ∀ n, locate (taken s) g sp 4 n addr = (.error y, taken s)) :
    exec (.ld f) s = .next (trapped s g l t.pc y (ending f.s (dead [f.d.toNat]))) ∧
      exec (.st f) s = .next (trapped s g l t.pc y (ending f.s .none)) := by
  have ht : getT (taken s) g l = some t := hatw.1.2.1
  have hea : effAddr false f (taken s) g t = (false, addr) := by rw [effAddr_word hf ha, haddr]
  have hz : sizeOf_ 0 0 = 4 := rfl
  have hdests : loadDests true f = [f.d.toNat] := by rw [loadDests, hf.ty, hf.vec]; rfl
  have hload : loadBody false 0 f (taken s) g l = .trap (taken s) y (dead [f.d.toNat]) := by
    simp only [loadBody, ht, hea, memLoad, hf.space, hf.ty, hf.vec, hz, hloc, Bool.false_eq_true, if_false]
    rfl
  have hstore : storeBody 0 f (taken s) g l = .trap (taken s) y .none := by
    simp only [storeBody, ht, hea, memStore, hf.space, hf.ty, hf.vec, hz, hloc, Bool.false_eq_true, if_false]
  rw [exec_ld, exec_st, trap_of (atWord_ends rfl hatw) hp rfl hload, trap_of (atWord_ends rfl hatw) hp rfl hstore,
    hdests, infoTo_ends, infoTo_ends]
  constructor <;> simp [infoTo, loadDests, fillIgn, zeroed, dead, ending, Ign.none]

end

end Sys2Proof.Machine

namespace Sys2Proof

open Machine in
/-- Settles O15: the three words differ in the address and in the acquire that follows the load. -/
theorem localLoads : Obligations.LocalLoads := by
  unfold Obligations.LocalLoads
  intro s g l sp A t f a x w hatw hc h3 hsp hty hvec hub ha hal hin hw hm
  have hf : LocalWordAt f sp := ⟨h3, hsp, hty, hvec, hub⟩
  refine ⟨fun hp hA => ?_, fun hp hb hA => ?_, fun hp hA => ?_⟩
  · rw [exec_ld, issue_load hatw hc hf hal hin hw hm hp (by rw [effAddr_word hf ha, hA])]
    rfl
  · rw [exec_ldx, issue_load hatw hc hf hal hin hw hm hp (by rw [effAddr_indexed hf ha hb, hA])]
    rfl
  · rw [exec_lda, issue_load hatw hc hf hal hin hw hm hp (by rw [effAddr_word hf ha, hA])]

open Machine in
/-- Settles O16: the two words differ in the release before the store. -/
theorem localStores : Obligations.LocalStores := by
  unfold Obligations.LocalStores
  intro s g l sp A t f a w hatw h3 hsp hty hvec hub ha hA hal hin hw hm
  have hf : LocalWordAt f sp := ⟨h3, hsp, hty, hvec, hub⟩
  refine ⟨fun hp => ?_, fun hp => ?_⟩
  · rw [exec_st, issue_store hatw hf ha hA hal hin hw hm hp]
    rfl
  · rw [exec_stl, issue_store hatw hf ha hA hal hin hw hm hp]

open Machine in
/-- Settles O17: the state after the store is known whole (`issue_store`), and differs in one word and one lane. -/
theorem scratchStoreFrame : Obligations.ScratchStoreFrame := by
  unfold Obligations.ScratchStoreFrame
  intro s g l A t f a w hatw hsp hty hvec hub ha hA hal hin hw hm hp hwf
  have hf : LocalWordAt f 1 := ⟨by decide, hsp, hty, hvec, hub⟩
  have ht : getT s g l = some t := hatw.1.2.1
  have hcs : Memory.wf s.cs = true := by simp_all [Memory.allWf, mems]
  let s1 : State := { taken s with cs := writeWord s.cs (csAddr s g + A) w }
  refine ⟨past s1 g l f.s, ?_, readWord_writeWord_same hcs _ _, fun x hx => ⟨?_, ?_⟩, rfl, fun h hh => ?_, fun G H hG hH => ?_,
    fun k hk => ?_, advance { s := f.s, ender := false, pred := 0 } t, ?_, rfl, rfl⟩
  · rw [exec_st, issue_store hatw hf ha hA hal hin hw hm hp]
    rfl
  · exact (readByte_writeWord hcs _ x w).trans (if_neg (by omega))
  · exact readWord_writeWord_other hcs hx.symm w
  · exact (getG_modT h).trans (if_neg hh)
  · have hg : getG (past s1 g l f.s) g = (getG s g).map _ := (getG_modT g).trans (if_pos rfl)
    rw [hH, hG] at hg
    obtain rfl := Option.some.inj hg
    rfl
  · exact (getT_modT ..).trans (if_neg fun h => hk h.2)
  · rw [past, getT_modT, if_pos ⟨rfl, rfl⟩, show getT s1 g l = some t from ht]
    rfl

open Machine in
/-- Settles O19: the checks of R154 in their order (`locate_local_checks`). -/
theorem addressTraps : Obligations.AddressTraps := by
  unfold Obligations.AddressTraps
  intro s g l sp t f a addr hatw h3 hsp hty hvec hub ha haddr hp stops
  have hf : LocalWordAt f sp := ⟨h3, hsp, hty, hvec, hub⟩
  have hsize : localSize (taken s) g sp = localSize s g sp := rfl
  have hstops {cause : Nat} (hloc : ∀ n, locate (taken s) g sp 4 n addr =
      (.error (trapAt cause 0 (BitVec.ofInt 64 addr)), taken s)) : stops cause := issue_refused hatw hf ha haddr hp hloc
  refine ⟨fun hout => hstops fun n => ?_, fun h0 hin hmis => hstops fun n => ?_, fun h0 hal hend => hstops fun n => ?_⟩
  · rw [locate_local_checks h3, hsize, if_pos hout]
  · rw [locate_local_checks h3, hsize, if_neg (by omega), if_pos hmis]
  · rw [locate_local_checks h3, hsize]
    by_cases hout : (localSize s g sp : Int) ≤ addr
    · rw [if_pos (.inr hout)]
    · rw [if_neg (by omega), if_neg (by omega), if_pos hend]

end Sys2Proof

end

section

/-! PROOF. Words in `.gm` and `.xs` once their place is found (O18), and the fences (O24): what a release and an acquire do to
the store path and to the core's cache. -/

namespace Sys2Proof.Machine

/-! ### Loads and stores once placed (R156, R157, R306) -/

section

variable {s s1 s2 : State} {g l : Nat} {t : Thread} {f : FullWord} {p : Loc} {addr : Int} {w : Word}

theorem coreOf_of_getG (h : getG s1 g = getG s g) : coreOf s1 g = coreOf s g := by rw [coreOf, h, coreOf]

theorem cycle_of_fixed (h : fixed s1 = fixed s) : s1.cycle = s.cycle := congrArg Fixed.cycle h

/-- A load of one word takes the word that its place holds, and it is on its way. -/
theorem loadBody_placed (ht : getT s g l = some t) (hty : tyOf f = 0) (hvec : vecOf f = 0)
    (haddr : effAddr false f s g t = (false, addr))
    (hloc : locate s g (spaceOf f) 4 ⟨true, false, false, isUser s g l⟩ addr = (.ok p, s1)) (hG1 : getG s1 g = getG s g)
    (hload : loadWord s1 g l (coreOf s g) (chOf f) p 0 = (w, s2)) (hm : mismatch w = false) (hc : Calm s2 g) :
    loadBody false 0 f s g l = .done (modT s2 g l (late s [(f.d.toNat, w)] [])) := by
  have hsize : sizeOf_ 0 0 = 4 := rfl
  have hmoved : moved 0 0 = 1 := rfl
  have hbytes : ¬ elemBytes 0 < 4 := by decide
  have huser : ((getG s g).map fun G => !isSuper G l).getD true = isUser s g l := rfl
  have hcycle : s2.cycle = s.cycle :=
    (cycle_of_fixed (fixed_of_snd hload fixed_loadWord)).trans (cycle_of_fixed (fixed_of_snd hloc fixed_locate))
  simp only [loadBody, ht, haddr, memLoad, hty, hvec, hsize, hmoved, huser, hloc, Bool.false_eq_true, if_false, if_neg hbytes,
    loadWords, coreOf_of_getG hG1, Nat.mul_zero, hload, List.nil_append]
  have hland := landWords_one (l := l) (cls := 4) (d := f.d.toNat)
    (tv := fun k => some (BitVec.ofInt 64 (addr - addr % 4 + 4 * (k : Int)))) hc hm
  rw [hcycle] at hland
  exact congrArg (fun r => match r with
    | .done s => LaneRes.done (acquireAt s (coreOf s g) 0)
    | x => x) hland

/-- A store of one word hands the word to its place. -/
theorem storeBody_placed (ht : getT s g l = some t) (hty : tyOf f = 0) (hvec : vecOf f = 0)
    (haddr : effAddr false f s g t = (false, addr))
    (hloc : locate s g (spaceOf f) 4 ⟨false, true, false, isUser s g l⟩ addr = (.ok p, s1)) (hG1 : getG s1 g = getG s g)
    (hw : readV t f.d.toNat = w) (hm : mismatch w = false) (hpt : (p.pt && isPoison w) = false) :
    storeBody 0 f s g l = .done (storePatch s1 g l (coreOf s g) p 0 (wholePatch w) (chOf f == 2)) := by
  have hsize : sizeOf_ 0 0 = 4 := rfl
  have hparts (off : Nat) : storeParts 0 off [w] = [wholePatch w] := rfl
  have hregs : (List.range (moved 0 0)).map (fun i => readV t (f.d.toNat + i)) = [w] := by rw [← hw]; rfl
  have huser : ((getG s g).map fun G => !isSuper G l).getD true = isUser s g l := rfl
  have hrel (core : Nat) : releaseAt s1 core 0 = s1 := rfl
  simp only [storeBody, ht, haddr, memStore, hty, hvec, hsize, hregs, huser, hloc, Bool.false_eq_true, if_false, List.any_cons,
    hm, List.any_nil, Bool.or_false, hpt, coreOf_of_getG hG1, hparts, storeParts', List.foldl_cons, List.foldl_nil, hrel]

end

/-! ### Acquires and releases (R307, R322, R323) -/

section

variable {s : State} {core n : Nat}

theorem releaseAt_low (h : n ≤ 1) : releaseAt s core n = s := if_neg (by omega)

theorem acquireAt_low (h : n ≤ 1) : acquireAt s core n = s := if_neg (by omega)

theorem releaseAt_high (h : 1 < n) : releaseAt s core n = flushCore s core := if_pos h

theorem acquireAt_high (h : 1 < n) : acquireAt s core n = dcDropAll s core := if_pos h

/-- What a core finds in its cache once every line of a core is dropped. -/
theorem dcFind_dcDropAll (k line : Nat) : dcFind (dcDropAll s core) k line = if k = core then none else dcFind s k line := by
  simp only [dcFind, dcDropAll, List.find?_filter]
  split
  next h =>
    subst h
    exact List.find?_eq_none.mpr fun c _ => by
      by_cases hc : c.core = k <;> simp [hc]
  next h =>
    congr 1
    funext c
    by_cases hc : c.core = k <;> by_cases hl : c.line = line <;> simp [hc, hl, h]

/-- Two buffers of one line of a core. -/
def WcBuf.sameLine (x b : WcBuf) : Bool := x.core == b.core && x.xs == b.xs && x.line == b.line

theorem wc_foldl_wcSend (bs : List WcBuf) (s : State) :
    (bs.foldl wcSend s).wc = s.wc.filter fun x => bs.all fun b => !x.sameLine b := by
  induction bs generalizing s with
  | nil => simp
  | cons b bs ih =>
    rw [List.foldl_cons, ih, wc_wcSend, List.filter_filter]
    simp only [List.all_cons, WcBuf.sameLine, Bool.and_comm]

/-- A release above `.core` empties the core's store path and leaves those of the other cores. -/
theorem wc_flushCore : (flushCore s core).wc = s.wc.filter fun x => x.core != core := by
  rw [flushCore, wc_foldl_wcSend]
  refine List.filter_congr fun x hx => ?_
  by_cases hc : x.core = core
  · have hself : x ∈ s.wc.filter fun b => b.core == core := by simp [hx, hc]
    have hall : ((s.wc.filter fun b => b.core == core).all fun b => !x.sameLine b) = false :=
      List.all_eq_false.mpr ⟨x, hself, by simp [WcBuf.sameLine]⟩
    simp [hall, hc]
  · have hall : ((s.wc.filter fun b => b.core == core).all fun b => !x.sameLine b) = true :=
      List.all_eq_true.mpr fun b hb => by
        obtain rfl : b.core = core := by simpa using (List.mem_filter.mp hb).2
        simp [WcBuf.sameLine, hc]
    simp [hall, hc]

theorem flushCore_of_none (h : ∀ b ∈ s.wc, b.core ≠ core) : flushCore s core = s := by
  have hmine : (s.wc.filter fun b => b.core == core) = [] := List.filter_eq_nil_iff.mpr fun b hb => by simp [h b hb]
  rw [flushCore, hmine]
  rfl

/-- The oldest buffer of a core leaves alone, where it is the only one of its line. -/
theorem wc_wcSend_only {b : WcBuf} (hfirst : s.wc.find? (fun x => x.core == core) = some b)
    (honly : s.wc.filter (fun x => x.core == core && x.xs == b.xs && x.line == b.line) = [b]) :
    (wcSend s b).wc = s.wc.filter (· != b) := by
  have hb : b.core = core := by simpa using List.find?_some hfirst
  rw [wc_wcSend]
  refine List.filter_congr fun x hx => ?_
  have hx' : (x.core == b.core && x.xs == b.xs && x.line == b.line) = (x == b) := by
    rw [Bool.eq_iff_iff, beq_iff_eq]
    refine ⟨fun h => ?_, fun h => by simp [h]⟩
    have hmem : x ∈ s.wc.filter fun x => x.core == core && x.xs == b.xs && x.line == b.line :=
      List.mem_filter.mpr ⟨hx, by rw [← hb]; exact h⟩
    rw [honly] at hmem
    exact List.mem_singleton.mp hmem
  rw [hx']
  rfl

/-- The sends of a core from its oldest buffer on are that buffer's send and the sends that are left. -/
theorem flushCore_first {b : WcBuf} (hfirst : s.wc.find? (fun x => x.core == core) = some b)
    (honly : s.wc.filter (fun x => x.core == core && x.xs == b.xs && x.line == b.line) = [b]) :
    flushCore s core = flushCore (wcSend s b) core := by
  have hb : b.core = core := by simpa using List.find?_some hfirst
  have hcount : (s.wc.filter fun x => x.core == core).count b = 1 := by
    have hone := congrArg (List.count b) honly
    rw [List.count_filter (by simp [hb])] at hone
    rw [List.count_filter (by simp [hb]), hone]
    simp
  have hhead : (s.wc.filter fun x => x.core == core).head? = some b := by rw [List.head?_filter, hfirst]
  cases hl : s.wc.filter fun x => x.core == core with
  | nil => simp [hl] at hhead
  | cons c bs =>
    rw [hl] at hhead hcount
    obtain rfl : c = b := Option.some.inj hhead
    have hnot : c ∉ bs := List.count_eq_zero.mp (by simpa using hcount)
    have hrest : ((wcSend s c).wc.filter fun x => x.core == core) = bs := by
      rw [wc_wcSend_only hfirst honly, List.filter_comm, hl, List.filter_cons_of_neg (by simp)]
      exact List.filter_eq_self.mpr fun x hx => bne_iff_ne.mpr fun h => hnot (h ▸ hx)
    rw [flushCore, flushCore, hrest, hl, List.foldl_cons]

/-- The step that sends a buffer sends the only one of its line. -/
theorem exec_storePathFlush_only {b : WcBuf}
    (honly : s.wc.filter (fun x => x.core == core && x.xs == b.xs && x.line == b.line) = [b]) :
    exec (.storePathFlush core b.xs b.line) s = .next (wcSend s b) := by
  have hfind : wcFind s core b.xs b.line = some b := by rw [wcFind, ← List.head?_filter, honly]; rfl
  rw [show exec (.storePathFlush core b.xs b.line) s = .next (flushLine s core b.xs b.line) from rfl, flushLine, hfind]

/-! ### fence (R183) -/

theorem exec_fence (f : FullWord) (s : State) : exec (.fence f) s =
    .next (issueLanes (infoOf f) (fun _ _ _ => subTrap (fenceSubs f)) (fenceBody f) s) := rfl

/-- The own part of a fence under each modifier that its encoding admits. -/
theorem fenceBody_modes {f : FullWord} {g l : Nat} (hsub : subTrap (fenceSubs f) = none) :
    fenceBody f s g l = .done (match vecOf f with
      | 0 => acquireAt (releaseAt s (coreOf s g) (spaceOf f)) (coreOf s g) (spaceOf f)
      | 1 => acquireAt s (coreOf s g) (spaceOf f)
      | _ => releaseAt s (coreOf s g) (spaceOf f)) := by
  have h3 : vecOf f ≠ 3 := fun h => by simpa [fenceSubs, h] using eq_nil_of_subTrap hsub
  have h4 : vecOf f < 4 := Nat.mod_lt _ (by decide)
  have hv : vecOf f = 0 ∨ vecOf f = 1 ∨ vecOf f = 2 := by omega
  rcases hv with hv | hv | hv <;> simp [fenceBody, hv]

end

end Sys2Proof.Machine

namespace Sys2Proof

open Machine in
/-- Settles O18: a load and a store of one word at the place that the search has found. -/
theorem sharedAccesses : Obligations.SharedAccesses := by
  unfold Obligations.SharedAccesses
  intro s s1 g l t f p addr hatw _ hty hvec hp haddr hG1
  have ht : getT (taken s) g l = some t := hatw.1.2.1
  refine ⟨fun s2 w hloc hload hm hc hG2 => ?_, fun w hloc hw hm hpt hG => ?_⟩
  · rw [exec_ld, done_of (atWord_ends rfl hatw) hp rfl rfl
      (loadBody_placed ht hty hvec haddr hloc hG1 hload hm (calm_of_getG hG2 hc))
      ((retry_modT (F := late s _ _) fun _ => rfl).trans ((retry_of_getG hG2).trans (retry_taken hatw.1)))]
    rfl
  · rw [exec_st, done_of (atWord_ends rfl hatw) hp rfl rfl (storeBody_placed ht hty hvec haddr hloc hG1 hw hm hpt)
      ((retry_of_getG hG).trans (retry_taken hatw.1))]
    rfl

open Machine in
/-- Settles O24: the two parts of a fence in the lane, and their effects above `.core`, where `flushCore` and `dcDropAll` act. -/
theorem fences : Obligations.Fences := by
  unfold Obligations.Fences
  intro s core n
  refine ⟨fun g l t f hatw hsub hG => ?_, fun hn => ⟨releaseAt_low hn, acquireAt_low hn⟩, fun hn => ?_⟩
  · rw [exec_fence]
    refine congrArg _ (done_of (atWord_ends rfl hatw) hsub rfl rfl (fenceBody_modes hsub)
      ((retry_of_getG ?_).trans (retry_taken hatw.1)))
    split
    · exact getG_acquireAt.trans hG
    · exact getG_acquireAt
    · exact hG
  · rw [acquireAt_high hn]
    refine ⟨fun line => (dcFind_dcDropAll core line).trans (if_pos rfl), fun k line hk => (dcFind_dcDropAll k line).trans (if_neg hk),
      rfl, ?_, groups_releaseAt, fun hnone => ?_, fun b hfirst honly => ?_⟩
    · rw [releaseAt_high hn, wc_flushCore]
    · rw [releaseAt_high hn, flushCore_of_none hnone]
    · exact ⟨_, exec_storePathFlush_only honly, wc_wcSend_only hfirst honly, by
        rw [releaseAt_high hn, releaseAt_high hn, flushCore_first hfirst honly]⟩

end Sys2Proof

end

section

/-! PROOF. Atomics on words of `.cs` and `.ks` (O20): the encodings that O20 names pass their checks, the new word is the one
of R160, and the word at its home changes in place. -/

namespace Sys2Proof.Machine

/-! ### What an atomic stores (R160) -/

section

variable (m b : W32)

/-- Sums and differences of words are cut alike with and without a sign. -/
theorem aluAdd_n32 : aluAdd (intTy 0x08) [gen m] [gen b] = aluAdd (intTy 0x04) [gen m] [gen b] := by
  have hcut (sx : Bool) := cut_word ((wordC (gen m)).add (wordC (gen b))) 0 sx
  exact congrArg AluOut.word ((hcut false).trans (hcut true).symm)

theorem aluSub_n32 : aluSub (intTy 0x08) [gen m] [gen b] = aluSub (intTy 0x04) [gen m] [gen b] := by
  have hcut (sx : Bool) := cut_word ((wordC (gen m)).sub (wordC (gen b))) 0 sx
  exact congrArg AluOut.word ((hcut false).trans (hcut true).symm)

/-- A choice between two results that both sides make alike. -/
theorem yields_ite {P Q : Prop} [Decidable P] [Decidable Q] {o o' : AluOut} {v v' : W32} (h : P ↔ Q) (ho : Yields o v)
    (ho' : Yields o' v') : Yields (if P then o else o') (if Q then v else v') := by
  by_cases hP : P
  · rwa [if_pos hP, if_pos (h.mp hP)]
  · rwa [if_neg hP, if_neg (mt h.mpr hP)]

/-- The types that O20 gives an operation: unsigned for sums and comparisons, else bits. -/
def atomTy (aop : Nat) : Nat := if aop < 3 ∨ 6 < aop then 0x08 else 0

theorem atomTy_sound : ∀ aop < 9, (aopTypes aop).contains (atomTy aop) = true ∧ nRegs (atomTy aop) = 1 := by decide

theorem atomNew_yields (aop : Nat) (h : aop < 9) : Yields (atomNew aop (atomTy aop) [gen m] [gen b]) (atomValue aop m b) := by
  have hinc := yields_add m 1
  have hdec := yields_sub m 1
  have hzero : m.toNat = 0 ↔ m = 0 := BitVec.toNat_inj (y := 0)
  rw [← aluAdd_n32] at hinc
  rw [← aluSub_n32] at hdec
  match aop, h with
  | 0, _ =>
    have hadd := yields_add m b
    rwa [← aluAdd_n32] at hadd
  | 1, _ => exact yields_min_n32 m b
  | 2, _ => exact yields_max_n32 m b
  | 3, _ => exact yields_and m b
  | 4, _ => exact yields_or m b
  | 5, _ => exact yields_xor m b
  | 6, _ => exact yields_mov b
  | 7, _ => exact yields_ite Iff.rfl (yields_mov 0) hinc
  | 8, _ => exact yields_ite (or_congr_left hzero) (yields_mov b) hdec
  | n + 9, h => omega

end

theorem settleAll_yields {o : AluOut} {v : W32} (h : Yields o v) : settleAll false o.words = some [gen v] := by
  obtain ⟨c, rfl, hc⟩ := h
  exact settleAll_one hc

/-! ### The word at its home -/

section

variable {s : State} {g l sp A q core : Nat} {t : Thread} {w : Word} {tv : W64} {at_ : LineAttr} {pt : Bool}

/-- A word is written at the aligned place that holds its byte. -/
theorem writeWord_congr {m : Mem} {a b : Nat} (h : a / 4 = b / 4) : writeWord m a w = writeWord m b w := by
  simp only [writeWord, h]

theorem homeWord_local (hsp : sp = 1 ∨ sp = 2) :
    homeWord s core ⟨sp, localAt s g sp A, tv, at_, pt⟩ = (localWord s g t sp A, s) := by
  rcases hsp with rfl | rfl <;> rfl

theorem homePut_local (hsp : sp = 1 ∨ sp = 2) :
    homePut s core ⟨sp, q, tv, at_, pt⟩ [(q / 4 % 16, wholePatch w)] = localPut s g l sp q w := by
  have hq : (q - q % 64 + 4 * (q / 4 % 16)) / 4 = q / 4 := by omega
  rcases hsp with rfl | rfl <;>
  · simp only [homePut, localPut, List.foldl_cons, List.foldl_nil, writeWord_congr hq]
    rfl

end

/-! ### An atomic in a lane (R162, R163) -/

/-- The fields of an atomic on one word of a local space, without an order. -/
structure AtomFields (f : FullWord) (ty sp aop : Nat) : Prop where
  ty : tyOf f = ty
  space : spaceOf f = sp
  aop : aopOf f = aop
  ord : ordOf f = 0
  low : f.mod.toNat % 4 = 0

theorem wide_of_nRegs {ty : Nat} (h : nRegs ty = 1) : wide ty = false := by
  by_contra hw
  simp [nRegs, hw] at h

theorem atomFields_of_mod {f : FullWord} {ty sp aop : Nat} (hsp : sp = 1 ∨ sp = 2) (haop : aop < 16)
    (h : f.mod.toNat = ty * 2 ^ 11 + sp * 2 ^ 8 + aop * 2 ^ 4) : AtomFields f ty sp aop := by
  refine ⟨?_, ?_, ?_, ?_, ?_⟩ <;> simp only [tyOf, spaceOf, aopOf, ordOf, h] <;> omega

section

variable {s : State} {g l sp aop A : Nat} {t : Thread} {f : FullWord} {a b m v : W32}

/-- What an atomic leaves: the old word on its way unless it is a red, and the new word where the comparison holds. -/
def atomDone (isRed hit : Bool) (s : State) (g l sp A : Nat) (d : Byte) (m v : W32) : State :=
  let s1 := if isRed then s else modT s g l (late s [(d.toNat, gen m)] [])
  let s2 := if hit then localPut s1 g l sp (localAt s g sp A) (gen v) else s1
  if isRed then modT s2 g l fun t => { t with reds := t.reds + 1 } else s2

theorem retry_atomDone {isRed hit : Bool} {d : Byte} :
    (getT (atomDone isRed hit s g l sp A d m v) g l).bind (·.retry) = (getT s g l).bind (·.retry) := by
  have hlate := retry_modT (s := s) (g := g) (l := l) (F := late s [(d.toNat, gen m)] []) fun _ => rfl
  cases isRed <;> cases hit
  · exact hlate
  · exact (retry_localPut _ _ _).trans hlate
  · exact retry_modT (F := fun t => { t with reds := t.reds + 1 }) fun _ => rfl
  · exact (retry_modT (F := fun t => { t with reds := t.reds + 1 }) fun _ => rfl).trans (retry_localPut _ _ _)

/-- The own part of an atomic on one aligned word of `.cs` or `.ks`: `new` is the arithmetic of its new word. -/
theorem atomBody_word {cas isRed : Bool} {ty : Nat} (hf : AtomFields f ty sp aop) (hty : nRegs ty = 1) (hsp : sp = 1 ∨ sp = 2)
    (ht : getT s g l = some t) (hc : Calm s g) (ha : Holds t f.a a) (hb : Holds t f.b b) (hA : A = a.toNat)
    (hal : A % 4 = 0) (hin : A + 4 ≤ localSize s g sp) (hw : localWord s g t sp A = gen m)
    (hpsn : (cas && isPoison (readV t f.c.toNat)) = false)
    (hnew : Yields (if cas then aluCopy [readV t f.c.toNat] else atomNew aop ty [gen m] [gen b]) v) :
    atomBody cas isRed f s g l = .done (atomDone isRed (!cas || [m] == [b]) s g l sp A f.d m v) := by
  have hread (r : Byte) : (List.range 1).map (fun i => readV t (r.toNat + i)) = [readV t r.toNat] := rfl
  have hrb : readV t f.b.toNat = gen b := hb
  have h4 : sp ≠ 4 := by omega
  have h4' : (sp == 4) = false := by simpa using h4
  have hlt : sp < 3 := by omega
  have hbase : baseIn s g t sp false f.a = (false, A) := by rw [baseIn_register h4 ha, hA]
  have hdests : (List.range 1).map (f.d.toNat + ·) = [f.d.toNat] := rfl
  have hhome : homeWords s (coreOf s g) ⟨sp, localAt s g sp A, BitVec.ofInt 64 A, noAttr, false⟩ 1 = ([gen m], s) := by
    simp only [homeWords, homeWord_local (t := t) hsp, hw, if_true]
  have hland := landWords_one (l := l) (cls := 4) (d := f.d.toNat)
    (tv := fun k => some (BitVec.ofNat 64 A + BitVec.ofNat 64 (4 * k))) hc (mismatch_gen m)
  have hset := settleAll_yields hnew
  have hwide := wide_of_nRegs hty
  have hput (s' : State) (ws : List Word) (k : Nat) : homePut s' k ⟨sp, localAt s g sp A, BitVec.ofInt 64 A, noAttr, false⟩
      ((List.range 1).map fun i => (localAt s g sp A / 4 % 16 + i, wholePatch (ws.getD i .zero))) =
      localPut s' g l sp (localAt s g sp A) (ws.getD 0 .zero) := homePut_local hsp
  simp only [atomBody, ht, hf.ty, hf.space, hf.aop, hf.ord, hty, hbase, Nat.mul_one, locate_local hlt hal hin, hhome,
    hread, hrb, List.any_cons, List.any_nil, Bool.or_false, isPoison_gen, hpsn, List.map_cons, List.map_nil, gen_val, h4',
    Bool.false_and, Bool.and_false, Bool.false_eq_true, if_false, hset, hwide, hdests, Nat.zero_div, Nat.zero_mod, zero_ne_one]
  cases isRed <;> cases hhit : (!cas || [m] == [b]) <;> simp only [if_true, if_false, Bool.false_eq_true]
  · rw [hland]
    rfl
  · rw [hland]
    exact congrArg LaneRes.done (hput _ _ _)
  · rfl
  · rw [hput]
    rfl

/-! ### Checks 1 to 5 -/

theorem predSubs_of_ne (h : f.pred ≠ 0xF) : predSubs f = [] := if_neg h

theorem atomSubs_nil {cas isRed : Bool} {ty : Nat} (hf : AtomFields f ty sp aop) (hty : nRegs ty = 1) (hsp : sp = 1 ∨ sp = 2)
    (hpred : f.pred ≠ 0xF)
    (hop : if cas then ty = 0 ∧ aop < 8 else aop < 9 ∧ (aopTypes aop).contains ty ∧ f.c.toNat < 8)
    (hred : isRed = true → aop < 6 ∧ f.d = 0) (hscope : 1 ≤ atomScope cas f ∧ atomScope cas f ≤ 5) :
    atomSubs cas isRed f = [] := by
  have hwide := wide_of_nRegs hty
  obtain ⟨hsp0, hsp5, hsp4⟩ : ¬ sp = 0 ∧ ¬ 5 ≤ sp ∧ ¬ sp = 4 := by omega
  obtain ⟨hscope0, hscope5⟩ : ¬ atomScope cas f = 0 ∧ ¬ 5 < atomScope cas f := by omega
  have hsc : scopeSubs (atomScope cas f) = [] := by simp [scopeSubs, hscope0, hscope5]
  have hd : isRed = true → f.d = 0 := fun h => (hred h).2
  cases cas
  · obtain ⟨haop, htys, hc⟩ := hop
    have h9 : ¬ 9 ≤ aop := by omega
    have h6 : ¬(isRed = true ∧ 6 ≤ aop ∧ aop < 9) := fun h => by have := (hred h.1).1; omega
    simpa [atomSubs, hf.ty, hf.space, hf.aop, hf.ord, hf.low, predSubs_of_ne hpred, zeroSub, baseSubs, hsp4, hsc, hwide, h9, hsp0,
      hsp5, hc, List.contains_iff_mem.mp htys, h6] using hd
  · obtain ⟨rfl, haop⟩ := hop
    simpa [atomSubs, hf.ty, hf.space, hf.aop, hf.ord, hf.low, predSubs_of_ne hpred, zeroSub, baseSubs, hsp4, hsc, hwide, haop,
      hsp0, hsp5] using hd

theorem atomPre_none (cas isRed : Bool) {ty : Nat} (hf : AtomFields f ty sp aop) (hty : nRegs ty = 1) (hsp : sp = 1 ∨ sp = 2)
    (hpred : f.pred ≠ 0xF)
    (hop : if cas then ty = 0 ∧ aop < 8 else aop < 9 ∧ (aopTypes aop).contains ty ∧ f.c.toNat < 8)
    (hred : isRed = true → aop < 6 ∧ f.d = 0) (hscope : 1 ≤ atomScope cas f ∧ atomScope cas f ≤ 5)
    (hregs : ∀ r ∈ (if isRed then [] else [f.d]) ++ [f.a, f.b] ++ (if cas then [f.c] else []), Within s g r) :
    atomPre cas isRed f s g l = none := by
  have hsp4 : ¬ sp = 4 := by omega
  have hnames : atomRegs cas isRed f =
      ((if isRed then [] else [f.d]) ++ [f.a, f.b] ++ (if cas then [f.c] else [])).map BitVec.toNat := by
    cases cas <;> cases isRed <;> simp [atomRegs, hf.ty, hf.space, hty, baseRegs, hsp4]
  have hbound : outOfBound (nreqOf s g) (atomRegs cas isRed f) = [] := by
    rw [hnames]
    exact outOfBound_within hregs
  simp [atomPre, atomSubs_nil hf hty hsp hpred hop hred hscope, subTrap, regTrap, hbound]

/-! ### The words -/

theorem exec_atom (f : FullWord) (s : State) : exec (.atom f) s = issueAtom false false f s := rfl

theorem exec_red (f : FullWord) (s : State) : exec (.red f) s = issueAtom false true f s := rfl

theorem exec_acas (f : FullWord) (s : State) : exec (.acas f) s = issueAtom true false f s := rfl

/-- An atomic whose own part completes in a lane alone in its coach. -/
theorem issueAtom_done {cas isRed hit : Bool} (hatw : AtWord s g l t f.pred f.s) (hp : atomPre cas isRed f s g l = none)
    (hb : atomBody cas isRed f (taken s) g l = .done (atomDone isRed hit (taken s) g l sp A f.d m v)) :
    issueAtom cas isRed f s = .next (past (atomDone isRed hit (taken s) g l sp A f.d m v) g l f.s) :=
  congrArg Host.Outcome.next (done_of (atWord_ends rfl hatw) hp rfl rfl hb (retry_atomDone.trans (retry_taken hatw.1)))

end

end Sys2Proof.Machine

namespace Sys2Proof

open Machine in
/-- Settles O20: the three words issue through `atomBody`; acas alone compares. -/
theorem atomics : Obligations.Atomics := by
  unfold Obligations.Atomics
  intro s g l sp aop A sc t f a b c m hatw hcalm hpred hsp hsc1 hsc5 hwa hwb ha hb hA hal hin hw
  have ht : getT (taken s) g l = some t := hatw.1.2.1
  have hscope (h : f.c.toNat = sc) : 1 ≤ atomScope false f ∧ atomScope false f ≤ 5 := by
    simp only [atomScope, Bool.false_eq_true, if_false]
    omega
  refine ⟨fun h9 hmod hc hwd => ?_, fun h6 hmod hc hd => ?_, fun hmod hwc hwd hc => ?_⟩
  · have hf : AtomFields f (atomTy aop) sp aop := atomFields_of_mod hsp (by omega) hmod
    obtain ⟨htys, hn⟩ := atomTy_sound aop h9
    rw [exec_atom, issueAtom_done hatw (atomPre_none false false hf hn hsp hpred ⟨h9, htys, by omega⟩ nofun (hscope hc)
      (by simp [hwa, hwb, hwd]))
      (atomBody_word (s := taken s) hf hn hsp ht hcalm ha hb hA hal hin hw rfl (atomNew_yields m b aop h9))]
    rfl
  · have hty : atomTy aop = if aop < 3 then 0x08 else 0 := by
      unfold atomTy
      congr 1
      exact propext (or_iff_left (by omega))
    have hf : AtomFields f (atomTy aop) sp aop := atomFields_of_mod hsp (by omega) (by rw [hty, hmod])
    obtain ⟨htys, hn⟩ := atomTy_sound aop (by omega)
    have hpre := atomPre_none (s := s) (g := g) (l := l) false true hf hn hsp hpred ⟨by omega, htys, by omega⟩
      (fun _ => ⟨h6, hd⟩) (hscope hc) (by simp [hwa, hwb])
    rw [exec_red, issueAtom_done hatw hpre
      (atomBody_word (s := taken s) hf hn hsp ht hcalm ha hb hA hal hin hw rfl (atomNew_yields m b aop (by omega)))]
    rfl
  · have hf : AtomFields f 0 sp sc := atomFields_of_mod hsp (by omega) (by rw [hmod]; omega)
    have hrc : readV t f.c.toNat = gen c := hc
    have hpsn : (true && isPoison (readV t f.c.toNat)) = false := by rw [hrc, isPoison_gen]; rfl
    have hnew : Yields (if true then aluCopy [readV t f.c.toNat] else atomNew sc 0 [gen m] [gen b]) c := by
      rw [hrc]
      exact yields_mov c
    have hcas : 1 ≤ atomScope true f ∧ atomScope true f ≤ 5 := by
      simp only [atomScope, if_true, hf.aop]
      omega
    rw [exec_acas, issueAtom_done hatw (atomPre_none true false hf rfl hsp hpred ⟨rfl, by omega⟩ nofun hcas
      (by simp [hwa, hwb, hwc, hwd]))
      (atomBody_word (s := taken s) hf rfl hsp ht hcalm ha hb hA hal hin hw hpsn hnew)]
    by_cases hmb : m = b
    · rw [if_pos hmb, hmb, show ([b] == [b]) = true from beq_self_eq_true _]
      rfl
    · rw [if_neg hmb, show ([m] == [b]) = false by simpa using hmb]
      rfl

end Sys2Proof

end

section

/-! PROOF. Sync objects (O25): the state word under acquires and releases, and sacq, stry and srel in a lane that has found
its object. -/

namespace Sys2Proof.Machine

/-! ### The state word (R184, R186) -/

section

variable {v : W32}

theorem reservedMask : ∀ i < 32, (0x7F000000 : W32).getLsbD i = decide (24 ≤ i ∧ i < 31) ∧
    (0x80FFFFFF : W32).getLsbD i = !(0x7F000000 : W32).getLsbD i := by decide

/-- The mask of the state word leaves one whose reserved bits are clear. -/
theorem and_stateMask (h : v &&& 0x7F000000 = 0) : v &&& 0x80FFFFFF = v := by
  refine BitVec.eq_of_getLsbD_eq fun i hi => ?_
  have hbit := congrArg (·.getLsbD i) h
  simp only [BitVec.getLsbD_and] at hbit
  rw [BitVec.getLsbD_and, (reservedMask i hi).2]
  cases hv : v.getLsbD i <;> simp_all

/-- Without EXCL such a word is SHARED and VERSION. -/
theorem lt_of_reserved (h : v &&& 0x7F000000 = 0) (h31 : v.getLsbD 31 = false) : v.toNat < 2 ^ 24 := by
  refine Nat.lt_pow_two_of_testBit _ fun i hi => ?_
  have hbit : (v &&& 0x7F000000).getLsbD i = false := by rw [h, BitVec.ofNat_eq_ofNat, BitVec.getLsbD_zero]
  rcases Nat.lt_trichotomy i 31 with hlt | rfl | hgt
  · have hmask : (0x7F000000 : W32).getLsbD i = true := by simpa [hlt, hi] using (reservedMask i (by omega)).1
    rwa [BitVec.getLsbD_and, hmask, Bool.and_true] at hbit
  · exact h31
  · exact BitVec.getLsbD_of_ge v i (by omega)

theorem reserved_of_lt (h : v.toNat < 2 ^ 24) : v &&& 0x7F000000 = 0 := by
  refine BitVec.eq_of_getLsbD_eq fun i hi => ?_
  rw [BitVec.getLsbD_and, (reservedMask i hi).1]
  by_cases h24 : 24 ≤ i
  · have hv : v.getLsbD i = false := Nat.testBit_lt_two_pow (Nat.lt_of_lt_of_le h (Nat.pow_le_pow_right (by decide) h24))
    simp [hv]
  · simp [h24]

theorem excl_of_lt (h : v.toNat < 2 ^ 24) : v.getLsbD 31 = false :=
  Nat.testBit_lt_two_pow (Nat.lt_of_lt_of_le h (by decide))

/-- Under EXCL nothing is granted. -/
theorem syncGrant_excl (h : v &&& 0x7F000000 = 0) (h31 : v.getLsbD 31 = true) (excl : Bool) : syncGrant excl v = none := by
  simp only [syncGrant, and_stateMask h, h31, if_true]

/-- A shared acquire counts one up while SHARED is not full. -/
theorem syncGrant_shared (h : v.toNat < 255 * 2 ^ 16) : syncGrant false v = some (v + 0x10000) := by
  have h24 : v.toNat < 2 ^ 24 := by omega
  have hsh : v.toNat / 2 ^ 16 % 256 < 255 := by omega
  simp only [syncGrant, and_stateMask (reserved_of_lt h24), excl_of_lt h24, Bool.false_eq_true, if_false, if_pos hsh]

/-- An exclusive acquire needs SHARED clear. -/
theorem syncGrant_exclusive (h : v.toNat < 2 ^ 24) :
    syncGrant true v = if v.toNat / 2 ^ 16 = 0 then some (v ||| 0x80000000) else none := by
  have hsh : v.toNat / 2 ^ 16 % 256 = v.toNat / 2 ^ 16 := by omega
  simp only [syncGrant, and_stateMask (reserved_of_lt h), excl_of_lt h, Bool.false_eq_true, if_false, if_true, hsh]

/-- A release after a shared acquire counts SHARED down again, and VERSION up. -/
theorem syncRelease_shared (h : v.toNat < 255 * 2 ^ 16) :
    syncRelease (v + 0x10000) = (v &&& 0xFFFF0000) ||| ((v + 1) &&& 0xFFFF) := by
  have hadd : (v + 0x10000).toNat = v.toNat + 2 ^ 16 := by
    rw [BitVec.toNat_add, show (0x10000 : W32).toNat = 2 ^ 16 from rfl, Nat.mod_eq_of_lt (by omega)]
  have h24 : (v + 0x10000).toNat < 2 ^ 24 := by omega
  have hsh : 0 < (v + 0x10000).toNat / 2 ^ 16 % 256 := by omega
  simp only [syncRelease, and_stateMask (reserved_of_lt h24), excl_of_lt h24, Bool.false_eq_true, if_false, if_pos hsh,
    BitVec.add_sub_cancel]

/-- A release after an exclusive acquire clears EXCL, and counts VERSION up. -/
theorem syncRelease_exclusive (h : v.toNat < 2 ^ 16) : syncRelease (v ||| 0x80000000) = (v + 1) &&& 0xFFFF := by
  have h24 : v.toNat < 2 ^ 24 := by omega
  have hmask {m : W32} (hm : ∀ i < 16, m.getLsbD i = false) : v &&& m = 0 := by
    refine BitVec.eq_of_getLsbD_eq fun i _ => ?_
    rw [BitVec.getLsbD_and]
    by_cases hi : i < 16
    · simp [hm i hi]
    · have hv : v.getLsbD i = false :=
        Nat.testBit_lt_two_pow (Nat.lt_of_lt_of_le h (Nat.pow_le_pow_right (by decide) (by omega)))
      simp [hv]
  have hlow : v &&& 0x7FFFFFFF = v := by
    have hall : v &&& (0x7FFFFFFF ||| 0x80000000) = v := by
      rw [show (0x7FFFFFFF ||| 0x80000000 : W32) = BitVec.allOnes 32 by decide, BitVec.and_allOnes]
    rw [BitVec.and_or_distrib_left, hmask (m := 0x80000000) (by decide)] at hall
    exact BitVec.or_zero.symm.trans hall
  have hres : (v ||| 0x80000000) &&& 0x7F000000 = 0 := by
    rw [BitVec.and_or_distrib_right, reserved_of_lt h24]
    decide
  have hset : (v ||| 0x80000000).getLsbD 31 = true := by simp
  have hclear : (v ||| 0x80000000) &&& 0x7FFFFFFF = v := by
    rw [BitVec.and_or_distrib_right, hlow, show (0x80000000 &&& 0x7FFFFFFF : W32) = 0 by decide]
    exact BitVec.or_zero
  simp only [syncRelease, and_stateMask hres, hset, if_true, hclear, hmask (m := 0xFFFF0000) (by decide)]
  exact BitVec.zero_or

end

/-! ### The words (R186, R187) -/

section

theorem exec_sacq (f : FullWord) (s : State) : exec (.sacq f) s =
    .next (issueLanes (infoOf f) (syncPre 0 f) (sacqBody false f) s) := rfl

theorem exec_stry (f : FullWord) (s : State) : exec (.stry f) s =
    .next (issueLanes (infoTo f [] [f.d.toNat % 8]) (syncPre 2 f) (sacqBody true f) s) := rfl

theorem exec_srel (f : FullWord) (s : State) : exec (.srel f) s =
    .next (issueLanes (infoOf f) (syncPre 1 f) (srelBody f) s) := rfl

variable {s s1 s2 : State} {g l : Nat} {t : Thread} {f : FullWord} {p : Loc} {w : Word}

/-- The flag of stry; sacq has none. -/
def tryFlag (try_ : Bool) (s : State) (g l : Nat) (f : FullWord) (b : Bool) : State :=
  if try_ then modT s g l (setP f.d.toNat b) else s

theorem retry_tryFlag {try_ b : Bool} :
    (getT (tryFlag try_ s g l f b) g l).bind (·.retry) = (getT s g l).bind (·.retry) := by
  cases try_
  · rfl
  · exact retry_modT fun t => (sameSources_setP t _ _).retry

theorem retry_dropWait : (getT (dropWait s g l) g l).bind (·.retry) = (getT s g l).bind (·.retry) :=
  retry_modT (F := fun t => { t with wait := .none }) fun _ => rfl

/-- What acquires an object: the observe form reads it, the others write the word that its state lets through. -/
theorem sacqBody_granted {try_ : Bool} {s3 : State} (ht : getT s g l = some t) (hplace : syncPlace false f s g l t = (.ok p, s1))
    (hword : homeWord s1 (coreOf s1 g) p = (w, s2))
    (h : (vecOf f = 0 ∧ s3 = s2) ∨ ∃ v, vecOf f ≠ 0 ∧ isFirst s2 (p.space == 3) (p.at_ / 64) g l = true ∧
      syncGrant (vecOf f == 2) w.val = some v ∧ s3 = putState s2 (coreOf s1 g) p v) :
    sacqBody try_ f s g l = .done (tryFlag try_ (acquireAt (dropWait s3 g l) (coreOf s1 g) (spaceOf f)) g l f true) := by
  rcases h with ⟨hv, rfl⟩ | ⟨v, hv, hfirst, hgrant, rfl⟩
  · simp only [sacqBody, ht, hplace, hword, hv, if_true]
    rfl
  · simp only [sacqBody, ht, hplace, hword, if_neg hv, hfirst, hgrant, if_true]
    rfl

/-- What an object that does not let the lane through does: stry writes false, sacq waits behind the others. -/
theorem sacqBody_refused {try_ : Bool} (ht : getT s g l = some t) (hplace : syncPlace false f s g l t = (.ok p, s1))
    (hword : homeWord s1 (coreOf s1 g) p = (w, s2)) (hv : vecOf f ≠ 0)
    (h : isFirst s2 (p.space == 3) (p.at_ / 64) g l = false ∨ syncGrant (vecOf f == 2) w.val = none) :
    sacqBody try_ f s g l = if try_ then .done (tryFlag true s2 g l f false) else
      .hold (syncWait s2 g l ⟨p.space == 3, p.at_ / 64, g, l, vecOf f == 2, spaceOf f, p.attr.cl, p.attr.key, false⟩) := by
  have hnew : (if isFirst s2 (p.space == 3) (p.at_ / 64) g l = true then syncGrant (vecOf f == 2) w.val else none) = none := by
    rcases h with h | h
    · simp [h]
    · simp [h]
  simp only [sacqBody, ht, hplace, hword, if_neg hv, hnew]
  cases try_ <;> rfl

/-- A lane that waits at no object begins to wait behind the others. -/
theorem syncWait_new {x : SyncWait} (h : ∀ y ∈ s.syncWaits, (y.grp, y.lane) ≠ (g, l)) :
    syncWait s g l x = modT { s with syncWaits := s.syncWaits ++ [x] } g l fun t => { t with wait := .sacq } := by
  have hnot : ∀ y ∈ s.syncWaits, SyncWait.is g l y = false := fun y hy => by
    have hne := h y hy
    simp only [SyncWait.is, Bool.and_eq_false_iff, beq_eq_false_iff_ne]
    by_contra hc
    exact hne (by simp_all)
  have hnone : (waiters s x.xs x.line).any (SyncWait.is g l) = false :=
    List.any_eq_false.mpr fun y hy => by simp [hnot y (List.mem_filter.mp hy).1]
  have hall : s.syncWaits.filter (fun y => !y.is g l) = s.syncWaits :=
    List.filter_eq_self.mpr fun y hy => by simp [hnot y hy]
  simp only [syncWait, hnone, hall, Bool.false_eq_true, if_false]

/-- The release of an object: the version counted up at its home, and the record of the unit. -/
theorem srelBody_done (ht : getT s g l = some t) (hplace : syncPlace true f s g l t = (.ok p, s1))
    (hword : homeWord (releaseAt s1 (coreOf s1 g) (spaceOf f)) (coreOf s1 g) p = (w, s2)) :
    srelBody f s g l = .done (putRec_ (putState s2 (coreOf s1 g) p (syncRelease w.val)) (coreOf s1 g) (spaceOf f)
      (p.space == 3) (p.at_ / 64)) := by
  simp only [srelBody, ht, hplace, hword]

/-- sacq and stry of an object that they acquire. -/
theorem exec_acquire {s3 : State} (hatw : AtWord s g l t f.pred f.s) (hplace : syncPlace false f (taken s) g l t = (.ok p, s1))
    (hword : homeWord s1 (coreOf s1 g) p = (w, s2)) (hG : getG s3 g = getG s g)
    (h : (vecOf f = 0 ∧ s3 = s2) ∨ ∃ v, vecOf f ≠ 0 ∧ isFirst s2 (p.space == 3) (p.at_ / 64) g l = true ∧
      syncGrant (vecOf f == 2) w.val = some v ∧ s3 = putState s2 (coreOf s1 g) p v) :
    let s4 := acquireAt (dropWait s3 g l) (coreOf s1 g) (spaceOf f)
    (syncPre 0 f s g l = none → exec (.sacq f) s = .next (past s4 g l f.s)) ∧
      (syncPre 2 f s g l = none → exec (.stry f) s = .next (past (modT s4 g l (setP f.d.toNat true)) g l f.s)) := by
  intro s4
  have hretry : (getT s4 g l).bind (·.retry) = none :=
    (retry_of_getG getG_acquireAt).trans (retry_dropWait.trans ((retry_of_getG hG).trans (retry_taken hatw.1)))
  have hbody (try_ : Bool) := sacqBody_granted (s := taken s) (try_ := try_) hatw.1.2.1 hplace hword h
  refine ⟨fun hp => ?_, fun hp => ?_⟩
  · rw [exec_sacq]
    exact congrArg _ (done_of (atWord_ends rfl hatw) hp rfl rfl (hbody false) hretry)
  · rw [exec_stry]
    exact congrArg _ (done_of (atWord_ends rfl hatw) hp rfl rfl (hbody true)
      ((retry_tryFlag (try_ := true)).trans hretry))

end

end Sys2Proof.Machine

namespace Sys2Proof

open Machine in
/-- Settles O25: an acquire that is let through, one that is not, a release, and the state word. -/
theorem syncObjects : Obligations.SyncObjects := by
  unfold Obligations.SyncObjects
  intro s s1 s2 g l t f p w hatw hG xs line
  have ht : getT (taken s) g l = some t := hatw.1.2.1
  have hr2 : (getT s2 g l).bind (·.retry) = none := (retry_of_getG hG).trans (retry_taken hatw.1)
  refine ⟨fun v hplace hword hv hfirst hgrant hGp => ?_, fun hplace hword hv => ?_, fun hplace hword hv hno => ⟨fun hp => ?_,
    fun hp hnew => ?_⟩, fun hp hplace hword hGp => ?_,
    fun v hres => ⟨fun h31 => ?_, fun h31 hsh => ?_, fun h31 => ?_, fun hsh => ?_⟩⟩
  · exact exec_acquire hatw hplace hword hGp (.inr ⟨v, hv, hfirst, hgrant, rfl⟩)
  · exact exec_acquire hatw hplace hword hG (.inl ⟨hv, rfl⟩)
  · rw [exec_stry]
    exact congrArg _ (done_of (atWord_ends rfl hatw) hp rfl rfl (sacqBody_refused (try_ := true) ht hplace hword hv hno)
      ((retry_tryFlag (try_ := true)).trans hr2))
  · rw [exec_sacq, hold_of (atWord_ends rfl hatw) hp rfl (sacqBody_refused (try_ := false) ht hplace hword hv hno),
      syncWait_new hnew]
  · rw [exec_srel]
    exact congrArg _ (done_of (atWord_ends rfl hatw) hp rfl rfl (srelBody_done ht hplace hword)
      ((retry_of_getG hGp).trans (retry_taken hatw.1)))
  · exact ⟨syncGrant_excl hres h31 false, syncGrant_excl hres h31 true⟩
  · exact ⟨syncGrant_shared (by omega), syncRelease_shared (by omega)⟩
  · rw [syncGrant_exclusive (lt_of_reserved hres h31)]
    by_cases h : v.toNat / 2 ^ 16 = 0
    · rw [if_pos h, h]
      rfl
    · rw [if_neg h, beq_false_of_ne h]
      rfl
  · have hlt : v.toNat < 2 ^ 16 := by omega
    exact ⟨by rw [syncGrant_exclusive (by omega), if_pos hsh], syncRelease_exclusive hlt⟩

end Sys2Proof

end

section

/-! PROOF. Codebook words of one entry (O28): the range, the place of an image entry in `.cs`, and the write that reaches the
bank. -/

namespace Sys2Proof.Machine

section

variable {s : State} {g l A first : Nat} {t : Thread} {f : FullWord} {G : Group} {a r : W32}

theorem exec_cbld (f : FullWord) (s : State) : exec (.cbld f) s =
    .next (issueGroups (infoOf f) (cbMemPre f) (cbMemBody true f) s) := rfl

theorem exec_cbst (f : FullWord) (s : State) : exec (.cbst f) s =
    .next (issueGroups (infoOf f) (cbMemPre f) (cbMemBody false f) s) := rfl

theorem exec_cbw (f : FullWord) (s : State) : exec (.cbw f) s =
    .next (joinWrites s.uid (issueLanes (infoOf f) (cbwPre f) (cbwBody f) s)) := rfl

theorem exec_cbinv (f : FullWord) (s : State) : exec (.cbinv f) s =
    .next (issueGroups (infoOf f) (cbinvPre f) (cbinvBody f) s) := rfl

theorem exec_cbfence (f : FullWord) (s : State) : exec (.cbfence f) s =
    .next (issueLanes (infoOf f) (fun _ _ _ => subTrap (cbfenceSubs f)) cbfenceBody s) := rfl

/-- A range of one entry (R189). -/
theorem cbRange_one (h : first < 256) (hr : r.toNat % 2 ^ 17 = first + 256) : cbRange r = (first, 1) := by
  have hfirst : r.toNat % 256 = first := by omega
  have hcount : r.toNat / 2 ^ 8 % 512 = 1 := by omega
  have hmin : min 1 (256 - first) = 1 := by omega
  simp only [cbRange, hfirst, hcount, hmin]

/-- The checks of R154 for `z` bytes that lie aligned in a workgroup's part of the core scratchpad. -/
theorem locate_scratch {z : Nat} {n : Need} (hal : A % z = 0) (hin : A + z ≤ scratchOf s g) (hz : 0 < z) :
    locate s g 1 z n (A : Int) = (.ok ⟨1, csAddr s g + A, BitVec.ofInt 64 A, noAttr, false⟩, s) := by
  have hout : ¬((A : Int) < 0 ∨ scratchOf s g ≤ A) := by omega
  have hal' : ((A : Int) % z = 0) := by exact_mod_cast hal
  simp [locate, hal', show ¬scratchOf s g ≤ A by omega, show ¬scratchOf s g < A + z by omega]

/-- The place of one image entry in the core scratchpad. -/
theorem cbPlaces_scratch {n : Need} (hal : A % 8 = 0) (hin : A + 8 ≤ scratchOf s g) :
    cbPlaces s g l 1 n A 1 = (.ok [⟨1, csAddr s g + A, BitVec.ofInt 64 A, noAttr, false⟩], s) := by
  simp only [cbPlaces, Nat.mul_zero, Nat.add_zero, locate_scratch hal hin (by decide), List.nil_append]

/-- cbld of one entry: the write of the two image words is on its way. -/
theorem cbMemBody_load (ht : getT s g l = some t) (hG : getG s g = some G) (ha : Holds t f.a a) (hr : Holds t f.b r)
    (hrange : cbRange r = (first, 1)) (hsp : spaceOf f = 1) (hal : a.toNat % 8 = 0) (hin : a.toNat + 8 ≤ scratchOf s g) :
    cbMemBody true f s g [l] = .done (bankWrite s G.core (f.d.toNat % 16) g
      [(first, entryOf (readWord s.cs (csAddr s g + a.toNat)) (readWord s.cs (csAddr s g + a.toNat + 4)))]) := by
  have hw : readV t f.b.toNat = gen r := hr
  simp only [cbMemBody, List.headD_cons, ht, hG, hsp, baseIn_register (sp := 1) (by decide) ha, hw, isPoison_gen, gen_val, hrange,
    cbPlaces_scratch hal hin, Bool.or_self, Bool.false_eq_true, if_false, if_true]
  rfl

/-- cbst of one entry whose image is consistent: its two words are stored. -/
theorem cbMemBody_store (ht : getT s g l = some t) (hG : getG s g = some G) (ha : Holds t f.a a) (hr : Holds t f.b r)
    (hrange : cbRange r = (first, 1)) (hsp : spaceOf f = 1) (hal : a.toNat % 8 = 0) (hin : a.toNat + 8 ≤ scratchOf s g)
    (hm : (imageOf (bankEntry s G.core (f.d.toNat % 16) first)).any mismatch = false) :
    cbMemBody false f s g [l] = .done { s with
      cs := (writeWord (writeWord s.cs (csAddr s g + a.toNat)
          ((imageOf (bankEntry s G.core (f.d.toNat % 16) first)).getD 0 .zero))
        (csAddr s g + a.toNat + 4) ((imageOf (bankEntry s G.core (f.d.toNat % 16) first)).getD 1 .zero)) } := by
  have hw : readV t f.b.toNat = gen r := hr
  simp only [cbMemBody, List.headD_cons, ht, hG, hsp, baseIn_register (sp := 1) (by decide) ha, hw, isPoison_gen, gen_val, hrange,
    cbPlaces_scratch hal hin, List.range_one, List.map_cons, List.map_nil, Nat.add_zero, List.any_cons, List.any_nil, hm,
    List.zip_cons_cons, List.zip_nil_right, Bool.or_self, Bool.false_and, Bool.false_eq_true, if_false]
  rfl

theorem cbwBody_word (ht : getT s g l = some t) (hG : getG s g = some G) (ha : Holds t f.a a) (hr : Holds t f.b r) :
    cbwBody f s g l = .done (bankWrite s G.core (f.d.toNat % 16) g [(a.toNat % 256, halves r)]) := by
  have hwa : readV t f.a.toNat = gen a := ha
  have hwr : readV t f.b.toNat = gen r := hr
  simp [cbwBody, ht, coreOf, hG, hwa, hwr, isPoison_gen, mismatch_gen, gen_val]

theorem cbinvBody_one (ht : getT s g l = some t) (hG : getG s g = some G) (hr : Holds t f.b r)
    (hrange : cbRange r = (first, 1)) :
    cbinvBody f s g [l] = .done (bankWrite s G.core (f.d.toNat % 16) g
      [(first, ⟨(bankEntry s G.core (f.d.toNat % 16) first).val, 0xF, 0xF⟩)]) := by
  have hw : readV t f.b.toNat = gen r := hr
  simp [cbinvBody, ht, coreOf, hG, hw, isPoison_gen, gen_val, hrange]

/-- A write alone in its step stays as it is. -/
theorem joinWrites_one {n : Nat} {old : List BankWrite} {w : BankWrite} (hs : s.bankWrites = old ++ [w])
    (hold : ∀ x ∈ old, x.stamp < n) (hw : n ≤ w.stamp) (hg : w.grps = [g]) : joinWrites n s = s := by
  have hnew : s.bankWrites.filter (fun x => decide (n ≤ x.stamp)) = [w] := by
    rw [hs, List.filter_append, List.filter_eq_nil_iff.mpr fun x hx => by simpa using hold x hx]
    simp [hw]
  have hkept : s.bankWrites.filter (fun x => decide (x.stamp < n)) = old := by
    rw [hs, List.filter_append, List.filter_eq_self.mpr fun x hx => by simpa using hold x hx]
    simp [hw]
  have hsame : ({ w with grps := w.grps, ents := w.ents ++ [] } : BankWrite) = w := by rw [List.append_nil]
  simp only [joinWrites, hnew, hkept, List.flatMap_nil, List.append_nil, hg,
    show ([g] : List Nat).eraseDups = [g] from rfl]
  rw [← hg, ← hs]

theorem retry_bankWrite {core bank : Nat} {ents : AList CbEntry} :
    (getT (bankWrite s core bank g ents) g l).bind (·.retry) = (getT s g l).bind (·.retry) := rfl

end

end Sys2Proof.Machine

namespace Sys2Proof

open Machine in
/-- Settles O28: each word by what its body does to the lane's bank, and the completion by its definition. -/
theorem codebooks : Obligations.Codebooks := by
  unfold Obligations.Codebooks
  intro s g l A first t G f a r hatw hG ha hr bank
  have ht : getT (taken s) g l = some t := hatw.1.2.1
  have hretry : (getT (taken s) g l).bind (·.retry) = none := retry_taken hatw.1
  refine ⟨fun hfirst hrange hsp hA hal hin hp => ?_, fun hp hold => ?_, fun hfirst hrange hp => ?_, fun hp hnone => ?_,
    fun core b w hw hfree => ?_⟩
  · subst hA
    refine ⟨?_, fun hm => ?_⟩
    · rw [exec_cbld]
      exact congrArg _ (groupDone_of (atWord_ends rfl hatw) hp rfl rfl
        (cbMemBody_load (s := taken s) ht hG ha hr (cbRange_one hfirst hrange) hsp hal hin) hretry)
    · rw [exec_cbst]
      exact congrArg _ (groupDone_of (atWord_ends rfl hatw) hp rfl rfl
        (cbMemBody_store (s := taken s) ht hG ha hr (cbRange_one hfirst hrange) hsp hal hin hm) hretry)
  · rw [exec_cbw, done_of (atWord_ends rfl hatw) hp rfl rfl (cbwBody_word (s := taken s) ht hG ha hr) hretry]
    exact congrArg _ (joinWrites_one (g := g) rfl hold (Nat.le_refl _) rfl)
  · rw [exec_cbinv]
    exact congrArg _ (groupDone_of (atWord_ends rfl hatw) hp rfl rfl
      (cbinvBody_one (s := taken s) ht hG hr (cbRange_one hfirst hrange)) hretry)
  · rw [exec_cbfence]
    exact congrArg _ (done_of (atWord_ends rfl hatw) hp rfl rfl (if_neg (by simpa [taken, bankPending] using hnone)) hretry)
  · show execBankWriteComplete core b s = _
    simp only [execBankWriteComplete, hw, hfree, Bool.false_eq_true, if_false]

end Sys2Proof

end

section

/-! PROOF. tfree of a tile that a copy left filling (O21): besides the tile it ends the stopped copy's resumption, which the
statement leaves as it was. -/

namespace Sys2Proof.Machine

/-- What tfree does to a tile that is ready, empty, or left filling by a copy that stopped: the tile is empty, and the copies
that stopped at it can no longer be resumed (R181). -/
theorem exec_tfree {s : State} {g l : Nat} {t : Thread} {G : Group} {f : FullWord} {u : Tile}
    (hatw : AtWord s g l t f.pred f.s) (hG : getG s g = some G) (hp : tfreePre f s g l = none)
    (hu : tileOf s G.core (f.a.toNat % 64) = some u) (hst : u.st = .ready ∨ u.st = .empty ∨ (u.st = .filling ∧ u.stopped.isSome)) :
    exec (.tfree f) s =
      .next (past (endResume (setTile (taken s) { u with st := .empty, stopped := none }) u) g l f.s) := by
  have hcore : coreOf (taken s) g = G.core := by rw [coreOf, getG_taken, hG]; rfl
  have hu' : tileOf (taken s) G.core (f.a.toNat % 64) = some u := hu
  have hfree : (u.st == .ready || u.st == .empty || (u.st == .filling && u.stopped.isSome)) = true := by
    rcases hst with h | h | ⟨h, h'⟩
    · simp [h]
    · simp [h]
    · simp [h, h']
  have hbody : tfreeBody f (taken s) g [l] =
      .done (endResume (setTile (taken s) { u with st := .empty, stopped := none }) u) := by
    simp only [tfreeBody, hcore, hu', hfree, if_true]
  have hretry : (getT (taken s) g l).bind (·.retry) = none := retry_taken hatw.1
  show Host.Outcome.next (issueGroups (infoOf f) (tfreePre f) (tfreeBody f) s) = _
  exact congrArg _ (groupDone_of (atWord_ends rfl hatw) hp rfl rfl hbody hretry)

/-- Tile 3 of the boot group's workgroup, left filling by a `cpy` that stopped, its MOD with MV set. -/
def stoppedTile : Tile := ⟨0, 3, 0, false, 64, 128, false, .filling, some (.cpy, 0x1000, 0)⟩

/-- The boot group at its word, with the stopped copy of that tile on record. -/
def stoppedState : State :=
  { bootState State.reset 0 with tiles := [stoppedTile], copyStops := [⟨0, .cpy, 0x1000, 0, 0x83, 0⟩] }

/-- tfree of tile 3. -/
def freeWord : FullWord := ⟨true, 7, 0, 3, 0, 0, 0⟩

/-- The lane of the boot group. -/
def bootThread : Thread := (getT stoppedState 0 0).getD (Thread.initial 0 0 0)

theorem atWord_stoppedState : AtWord stoppedState 0 0 bootThread freeWord.pred freeWord.s := by
  decide +kernel

theorem tfreePre_stoppedState : tfreePre freeWord stoppedState 0 0 = none := by decide +kernel

end Sys2Proof.Machine

namespace Sys2Proof

open Machine in
/-- Refutes O21: tfree of a tile left filling by a copy that stopped also deletes the record by which that copy would be
resumed (`endResume`, R181), so the state is not the old one with an empty tile. -/
theorem not_tileResults : ¬ Obligations.TileResults := by
  unfold Obligations.TileResults
  intro h
  obtain ⟨-, -, hfree⟩ := h stoppedState 0 0 bootThread (bootGroup 0) freeWord 0 0 atWord_stoppedState rfl
  have hst : stoppedTile.st = .ready ∨ stoppedTile.st = .empty ∨ (stoppedTile.st = .filling ∧ stoppedTile.stopped.isSome) :=
    .inr (.inr ⟨rfl, rfl⟩)
  have hstates := (exec_tfree atWord_stoppedState rfl tfreePre_stoppedState rfl hst).symm.trans
    (hfree stoppedTile tfreePre_stoppedState rfl hst)
  have hrecords : [] = stoppedState.copyStops := congrArg State.copyStops (Host.Outcome.next.inj hstates)
  exact absurd hrecords (by simp [stoppedState])

end Sys2Proof

end

section

/-! PROOF. How copies begin (O22, O23): the descriptor's address, the first cart of a copy, and the prefetch of `cpre`. -/

namespace Sys2Proof.Machine

section

variable {s : State} {g l A : Nat} {t : Thread} {f : FullWord} {G : Group} {k : CopyKind} {ls : List Nat}

/-- A descriptor that lies aligned in the group's scratchpad (R164). -/
theorem descAddr_scratch {r : Byte} (ht : getT s g l = some t) (ha : Holds t r (BitVec.ofNat 32 A)) (hA : A < 2 ^ 32)
    (hal : A % 64 = 0) (hin : A + 64 ≤ scratchOf s g) : descAddr s g l r = .ok A := by
  have hw : readV t r.toNat = gen (BitVec.ofNat 32 A) := ha
  have hn : (BitVec.ofNat 32 A).toNat = A := BitVec.toNat_ofNat .. |>.trans (Nat.mod_eq_of_lt hA)
  simp [descAddr, ht, hw, isPoison_gen, gen_val, hn, hal, show ¬scratchOf s g ≤ A by omega,
    show ¬scratchOf s g < A + 64 by omega,
    -BitVec.toNat_ofNat]

/-! ### Pending status (R169) -/

/-- What a result that is on its way leaves of a lane: its PC and its open effect. -/
def standing (s : State) (g l : Nat) : Option (W64 × Option (Nat × Event)) := (getT s g l).map fun t => (t.pc, t.retry)

theorem standing_of_groups {s' : State} (h : s'.groups = s.groups) : standing s' g l = standing s g l := by
  rw [standing, getT, getG, h, standing, getT, getG]

/-- The copies, the tiles and the lanes' standing survive a status that is on its way. -/
theorem pendStatus_leaves (s : State) (id : Nat) (second : Bool) (d : Byte) (ls : List Nat) :
    (pendStatus s g id second d ls).copies = s.copies ∧ (pendStatus s g id second d ls).tiles = s.tiles ∧
      standing (pendStatus s g id second d ls) g l = standing s g l := by
  unfold pendStatus
  split
  · exact ⟨rfl, rfl, rfl⟩
  · induction ls generalizing s with
    | nil => exact ⟨rfl, rfl, rfl⟩
    | cons j ls ih =>
      obtain ⟨hcopies, htiles, hstand⟩ :=
        ih (modT s g j fun t => pending (.copy id second) [(d.toNat, .zero), (d.toNat + 1, .zero)] [] [] s.cycle t)
      refine ⟨hcopies, htiles, hstand.trans ?_⟩
      rw [standing, standing, getT_modT]
      split
      case isTrue h =>
        rw [h.2]
        cases getT s g j <;> rfl
      case isFalse h => rfl

/-! ### The first cart of a copy (R174, R318) -/

/-- The copy that a group's first cart makes, before it is known whether every group of the workgroup has arrived. -/
def newCopy (k : CopyKind) (f : FullWord) (s : State) (G : Group) (g : Nat) (ls : List Nat) (a : Nat) : Copy :=
  let m := G.m.getD (copyMreg f.mod) (.zero, .zero)
  { id := s.uid, kind := k, core := G.core, wg := G.wg, part := partOf s g, sup := isSuper G (ls.headD 0),
    forming := collective k,
    carts := [{ grp := g, idx := G.idx, desc := readWords s.cs (csAddr s g + a) 16, lanes := laneMask ls,
                rows := if k == .gath || k == .scat then indexRows s g f.c ls else [],
                d := f.d.toNat, e := f.c.toNat, mreg := if copyMV f.mod then some (copyMreg f.mod) else none,
                skip := if copyMV f.mod then m.2.val ++ m.1.val else 0,
                seed := ((getT s g (ls.headD 0)).map (·.seed)).getD 0, sup := isSuper G (ls.headD 0) }],
    bar := f.b, tile := f.c, mod := f.mod, srcDone := false, result := none }

/-- A copy stops forming once every group of its workgroup has arrived. -/
def closeForming (s : State) (id : Nat) : State :=
  match s.copies.find? fun c => c.id == id with
  | some c => if c.forming && allArrived s c then modCopy s id fun c => { c with forming := false } else s
  | none => s

/-- The status registers of a copy begin to wait. -/
def pendBoth (k : CopyKind) (f : FullWord) (s : State) (g id : Nat) (ls : List Nat) : State :=
  let s := pendStatus s g id false f.d ls
  if k == .cpys then pendStatus s g id true f.c ls else s

theorem tileIssue_eq (s : State) (g : Nat) (k : CopyKind) (f : FullWord) :
    tileIssue s g k f = { s with tiles := (tileIssue s g k f).tiles } := by
  unfold tileIssue
  split
  · split <;> rfl
  · rfl

/-- A group with no copy to join makes one. -/
theorem addCart_new {a : Nat} (hG : getG s g = some G) (hform : formingOf s g k = none) :
    addCart k f s g ls a = closeForming (pendBoth k f
      { s with tiles := (tileIssue s g k f).tiles, uid := s.uid + 1, copies := s.copies ++ [newCopy k f s G g ls a] }
      g s.uid (if k == .tdrain then ls else liveLanes G)) s.uid := by
  obtain ⟨ts, htiles⟩ : ∃ ts, tileIssue s g k f = { s with tiles := ts } := ⟨_, tileIssue_eq s g k f⟩
  simp only [addCart, hG, hform, htiles]
  rfl

/-- The tile that a copy names is replaced by itself in its new state (R318). -/
theorem tileIssue_tiles (hG : getG s g = some G) : (tileIssue s g k f).tiles =
    if namesTile k f then s.tiles.map fun u => if u.core = G.core ∧ u.num = f.c.toNat % 64
      then { (tileOf s G.core (f.c.toNat % 64)).getD u with
        st := if k = .tdrain then TileSt.draining else .filling, stopped := none }
      else u else s.tiles := by
  have hcore : coreOf s g = G.core := by rw [coreOf, hG]; rfl
  unfold tileIssue
  split
  · rw [hcore]
    cases h : tileOf s G.core (f.c.toNat % 64) with
    | none =>
      refine ((List.map_congr_left fun u hu => if_neg fun hc => ?_).trans (List.map_id _)).symm
      exact absurd (List.find?_eq_none.mp h u hu) (by simp [hc])
    | some x =>
      obtain ⟨hxcore, hxnum⟩ : x.core = G.core ∧ x.num = f.c.toNat % 64 := by simpa using List.find?_some h
      exact List.map_congr_left fun u _ => by simp [hxcore, hxnum]
  · rfl

theorem pendBoth_leaves (s : State) (id : Nat) (ls : List Nat) :
    (pendBoth k f s g id ls).copies = s.copies ∧ (pendBoth k f s g id ls).tiles = s.tiles ∧
      standing (pendBoth k f s g id ls) g l = standing s g l := by
  obtain ⟨hcopies, htiles, hstand⟩ := pendStatus_leaves (g := g) (l := l) s id false f.d ls
  unfold pendBoth
  split
  · obtain ⟨hcopies', htiles', hstand'⟩ :=
      pendStatus_leaves (g := g) (l := l) (pendStatus s g id false f.d ls) id true f.c ls
    exact ⟨hcopies'.trans hcopies, htiles'.trans htiles, hstand'.trans hstand⟩
  · exact ⟨hcopies, htiles, hstand⟩

/-- Of a new copy nothing but its forming mark changes, and of the older ones nothing. -/
theorem closeForming_leaves {old : List Copy} {c : Copy} (hs : s.copies = old ++ [c]) (hold : ∀ x ∈ old, x.id < c.id) :
    (∃ b, (closeForming s c.id).copies = old ++ [{ c with forming := b }]) ∧
      (closeForming s c.id).tiles = s.tiles ∧ (closeForming s c.id).groups = s.groups := by
  have hnone : ∀ x ∈ old, (x.id == c.id) = false := fun x hx => beq_false_of_ne (Nat.ne_of_lt (hold x hx))
  have hfind : s.copies.find? (fun x => x.id == c.id) = some c := by
    rw [hs, List.find?_append, List.find?_eq_none.mpr fun x hx => by simp [hnone x hx]]
    simp
  have hmod (F : Copy → Copy) : (modCopy s c.id F).copies = old ++ [F c] := by
    have hkeep : old.map (fun x => if x.id == c.id then F x else x) = old :=
      (List.map_congr_left fun x hx => by simp [hnone x hx]).trans (List.map_id _)
    simp only [modCopy, hs, List.map_append, hkeep, List.map_cons, List.map_nil, beq_self_eq_true, if_true]
  have hclose : closeForming s c.id =
      if c.forming && allArrived s c then modCopy s c.id fun c => { c with forming := false } else s := by
    rw [closeForming, hfind]
  rw [hclose]
  split
  · exact ⟨⟨false, hmod _⟩, rfl, rfl⟩
  · exact ⟨⟨c.forming, hs⟩, rfl, rfl⟩

/-- What the first cart of a copy changes among the copies and the tiles, and what it leaves of a lane. -/
theorem addCart_leaves {a : Nat} (hG : getG s g = some G) (hform : formingOf s g k = none)
    (hid : ∀ c ∈ s.copies, c.id < s.uid) :
    (∃ b, (addCart k f s g ls a).copies = s.copies ++ [{ newCopy k f s G g ls a with forming := b }]) ∧
      (addCart k f s g ls a).tiles = (tileIssue s g k f).tiles ∧
      standing (addCart k f s g ls a) g l = standing s g l := by
  rw [addCart_new hG hform]
  obtain ⟨hcopies, htiles, hstand⟩ := pendBoth_leaves (k := k) (f := f) (g := g) (l := l)
    { s with tiles := (tileIssue s g k f).tiles, uid := s.uid + 1, copies := s.copies ++ [newCopy k f s G g ls a] }
    s.uid (if k == .tdrain then ls else liveLanes G)
  obtain ⟨hnew, hclosed, hgroups⟩ := closeForming_leaves hcopies hid
  exact ⟨hnew, hclosed.trans htiles, (standing_of_groups hgroups).trans hstand⟩

/-- A copy word of a group that has no copy to join, does not wait, and may name its barrier (R164, R192). -/
theorem copyBody_new (ht : getT s g l = some t) (ha : Holds t f.a (BitVec.ofNat 32 A)) (hA : A < 2 ^ 32)
    (hal : A % 64 = 0) (hin : A + 64 ≤ scratchOf s g)
    (hbar : f.b.getLsbD 7 = true → (groupBar s g (barLvl f.b) (barNum f.b)).isSome) (hm : badMreg k f s g = false)
    (hform : formingOf s g k = none) (hfree : copyBlocked k f s g = false) :
    copyBody k f s g [l] = .done (addCart k f s g [l] A) := by
  have hno : ¬(f.b.getLsbD 7 && (groupBar s g (barLvl f.b) (barNum f.b)).isNone) = true := by
    intro h
    obtain ⟨h7, hnone⟩ := Bool.and_eq_true_iff.mp h
    have hsome := hbar h7
    rw [Option.isNone_iff_eq_none.mp hnone] at hsome
    exact absurd hsome (by decide)
  simp only [copyBody, List.headD_cons, descAddr_scratch ht ha hA hal hin, if_neg hno, hform, hfree, hm, ite_self,
    Bool.false_eq_true, if_false]

theorem pc_past {last : Bool} : (getT (past s g l last) g l).map (·.pc) = (standing s g l).map fun x => x.1 + 8 := by
  rw [past, getT_modT, if_pos ⟨rfl, rfl⟩, standing]
  cases getT s g l <;> rfl

theorem retry_of_standing : (getT s g l).bind (·.retry) = (standing s g l).bind (·.2) := by
  rw [standing]
  cases getT s g l <;> rfl

theorem standing_lone (hw : Lone s g l t) : standing s g l = some (t.pc, none) := by
  obtain ⟨-, ht, hr, -⟩ := hw
  rw [standing, ht, ← hr]
  rfl

/-! ### The prefetch (R179) -/

/-- An acquire changes the cached lines alone. -/
theorem acquireAt_eq (s : State) (core n : Nat) : acquireAt s core n = { s with dcache := (acquireAt s core n).dcache } := by
  unfold acquireAt
  split <;> rfl

/-- What `cpre` does for its group: its acquire, then the prefetch of a descriptor without an error. -/
theorem cpreBody_scratch (ht : getT s g l = some t) (hG : getG s g = some G) (ha : Holds t f.a (BitVec.ofNat 32 A))
    (hA : A < 2 ^ 32) (hal : A % 64 = 0) (hin : A + 64 ≤ scratchOf s g) (hfree : inFlight s G.core < 64) :
    let d := descOf (readWords s.cs (csAddr s g + A) 16)
    let c : Copy := ⟨0, .cpy, G.core, G.wg, partOf s g, isSuper G l, false, [], 0, 0, 0, false, none⟩
    let s1 := if copyAcq f.mod then acquireAt s G.core (copyScope f.mod) else s
    cpreBody f s g [l] = .done (if descError .cpy 0 false none d then s1 else prefetch c d s1) := by
  intro d c s1
  simp only [cpreBody, hG, List.headD_cons, descAddr_scratch ht ha hA hal hin, if_neg (Nat.not_le.mpr hfree)]
  by_cases hacq : copyAcq f.mod = true
  · have hs1 : s1 = acquireAt s G.core (copyScope f.mod) := if_pos hacq
    rw [if_pos hacq, hs1, acquireAt_eq]
    rfl
  · have hs1 : s1 = s := if_neg hacq
    rw [if_neg hacq, hs1]

end

end Sys2Proof.Machine

namespace Sys2Proof

open Machine in
/-- Settles O22: the six words differ in the kind alone (`issueCopy`), and the group's first cart makes the copy. -/
theorem copyStarts : Obligations.CopyStarts := by
  unfold Obligations.CopyStarts
  intro s g l A t G k f i hatw hG hi hp ha hA hal hin hbar hm hform hfree hid
  have hexec : exec i s = .next (issueGroups (copyInfo k f) (copyPre k f) (copyBody k f) s) := by
    rcases hi with ⟨rfl, rfl⟩ | ⟨rfl, rfl⟩ | ⟨rfl, rfl⟩ | ⟨rfl, rfl⟩ | ⟨rfl, rfl⟩ | ⟨rfl, rfl⟩ <;> rfl
  obtain ⟨⟨b, hcopies⟩, htiles, hstand⟩ :=
    addCart_leaves (s := taken s) (g := g) (l := l) (k := k) (f := f) (ls := [l]) (a := A) hG hform hid
  have hlane : standing (addCart k f (taken s) g [l] A) g l = some (t.pc, none) := hstand.trans (standing_lone (s := s) hatw.1)
  have hretry : (getT (addCart k f (taken s) g [l] A) g l).bind (·.retry) = none := by rw [retry_of_standing, hlane]; rfl
  refine ⟨past (addCart k f (taken s) g [l] A) g l f.s, _, ?_, hcopies, rfl, rfl, rfl, rfl, rfl, rfl, rfl, rfl, rfl, ?_, ?_⟩
  · rw [hexec]
    exact congrArg _ (groupDone_of (i := copyInfo k f) (atWord_ends rfl hatw) hp rfl rfl
      (copyBody_new (s := taken s) hatw.1.2.1 ha hA hal hin hbar hm hform hfree) hretry)
  · exact htiles.trans (tileIssue_tiles (s := taken s) hG)
  · rw [pc_past, hlane]
    rfl

open Machine in
/-- Settles O23: the group's part of the word (`cpreBody_scratch`), by whether the descriptor is in error. -/
theorem copyPrefetch : Obligations.CopyPrefetch := by
  unfold Obligations.CopyPrefetch
  intro s g l A t G f hatw hG hp ha hA hal hin hfree d c s1
  have hbody : cpreBody f (taken s) g [l] = .done (if descError .cpy 0 false none d then s1 else prefetch c d s1) :=
    cpreBody_scratch (s := taken s) hatw.1.2.1 hG ha hA hal hin hfree
  have hG1 : getG s1 g = getG (taken s) g := by
    by_cases hacq : copyAcq f.mod = true
    · exact (congrArg (getG · g) (if_pos hacq)).trans getG_acquireAt
    · exact congrArg (getG · g) (if_neg hacq)
  refine ⟨fun herr => ?_, fun herr hkept => ?_⟩
  · rw [herr, if_pos rfl] at hbody
    exact congrArg Host.Outcome.next (groupDone_of (i := infoOf f) (atWord_ends rfl hatw) hp rfl rfl hbody
      ((retry_of_getG hG1).trans (retry_taken hatw.1)))
  · rw [herr, if_neg Bool.false_ne_true] at hbody
    exact congrArg Host.Outcome.next (groupDone_of (i := infoOf f) (atWord_ends rfl hatw) hp rfl rfl hbody
      ((retry_of_getG (hkept.trans hG.symm)).trans (retry_taken hatw.1)))

end Sys2Proof

end

section

/-! PROOF. Copies within the core scratchpad (O51), the words: where a word of a copy lies, what reading and writing an
element of 32 bits at a word's address does, and what the gathered writes leave in memory. -/

namespace Sys2Proof.Machine

/-! ### Words written one after another -/

section

variable {m : Mem}

/-- Words written to their addresses in order. -/
def putAll (m : Mem) (ws : List (Nat × Word)) : Mem := ws.foldl (fun m x => writeWord m x.1 x.2) m

theorem putAll_append (ws : List (Nat × Word)) (a : Nat) (w : Word) : putAll m (ws ++ [(a, w)]) = writeWord (putAll m ws) a w := by
  rw [putAll, List.foldl_append]
  rfl

theorem putAll_wf (h : Memory.wf m = true) (ws : List (Nat × Word)) : Memory.wf (putAll m ws) = true :=
  foldl_wf _ (fun _ _ hm => writeWord_wf hm _ _) ws h

/-- A word that none of the writes meets keeps its value. -/
theorem readWord_putAll_other (h : Memory.wf m = true) {ws : List (Nat × Word)} {a : Nat} (hne : ∀ x ∈ ws, a / 4 ≠ x.1 / 4) :
    readWord (putAll m ws) a = readWord m a := by
  induction ws generalizing m with
  | nil => rfl
  | cons x ws ih =>
    have hx : x.1 / 4 ≠ a / 4 := (hne x List.mem_cons_self).symm
    exact (ih (writeWord_wf h _ _) fun y hy => hne y (List.mem_cons_of_mem _ hy)).trans (readWord_writeWord_other h hx _)

/-- Of writes to different words each is read back. -/
theorem readWord_putAll_mem (h : Memory.wf m = true) {ws : List (Nat × Word)} (hd : ws.Pairwise fun x y => x.1 / 4 ≠ y.1 / 4)
    {x : Nat × Word} (hx : x ∈ ws) : readWord (putAll m ws) x.1 = x.2 := by
  induction ws generalizing m with
  | nil => exact absurd hx List.not_mem_nil
  | cons y ws ih =>
    obtain ⟨hy, hd'⟩ := List.pairwise_cons.mp hd
    rcases List.mem_cons.mp hx with rfl | hx'
    · exact (readWord_putAll_other (writeWord_wf h _ _) hy).trans (readWord_writeWord_same h _ _)
    · exact ih (writeWord_wf h _ _) hd' hx'

end

/-! ### Places and elements -/

section

/-- Word k of a workgroup's `.cs` as a place of a copy. -/
def scratchLoc (c : Copy) (W : Wg) (k : Int) : Loc := ⟨1, copyAt c W (4 * k), 0, noAttr, false⟩

/-- A whole word read as an element. -/
def wordElem (k : Int) (v : Word) : Elem := ⟨v.val.toNat, isPoison v, mismatch v, 0, [(k, v)]⟩

/-- The word that an element of 32 bits becomes at a whole destination word: itself where it is a source word as it stood,
else its bits with their own residue, or poison. -/
def elemWord (e : Elem) : Word :=
  match if e.at_ == 0 && e.words.length == 1 then e.words[0]? else none with
  | some (_, w) => w
  | none => if e.psn then ⟨BitVec.ofNat 32 e.bits, 0xF⟩ else gen (BitVec.ofNat 32 e.bits)

theorem elemWord_wordElem (k : Int) (v : Word) : elemWord (wordElem k v) = v := rfl

theorem elemWord_zero : elemWord .zero = gen 0 := rfl

theorem elemWord_bits (v : W32) : elemWord ⟨v.toNat, false, false, 0, []⟩ = gen v :=
  congrArg gen ((BitVec.ofNat_toNat ..).trans (BitVec.setWidth_eq v))

/-- The patch of a whole destination word. -/
def wordPatch (c : Copy) (W : Wg) (k : Int) (e : Elem) : CPatch :=
  ⟨scratchLoc c W k, 0xFFFFFFFF, BitVec.ofNat 32 e.bits, if e.psn then 0xFFFFFFFF else 0,
    if e.at_ == 0 && e.words.length == 1 then e.words[0]? else none⟩

theorem wordPatch_onto (c : Copy) (W : Wg) (k : Int) (e : Elem) (old : Word) : (wordPatch c W k e).onto old = elemWord e := by
  have hfull : (0xFFFFFFFF : W32) ≠ 0 := by decide
  unfold wordPatch elemWord CPatch.onto
  rw [if_pos rfl]
  generalize (if e.at_ == 0 && e.words.length == 1 then e.words[0]? else none) = org
  cases org with
  | some x => rfl
  | none => cases e.psn <;> rfl

variable {s : State} {c : Copy} {W : Wg} {K : Grid} {w : Work} {k : Int} {e : Elem}

/-- A word of the workgroup's `.cs` as a copy reaches it. -/
theorem copyLoc_scratch (hW : aget s.wgs c.wg = some W) (hK : aget s.grids W.grid = some K) (hin : InScratch K (4 * k))
    (rd wr : Bool) : copyLoc s c 1 rd wr k = (.ok (scratchLoc c W k), s) := by
  obtain ⟨h0, hend⟩ := hin
  have hok : ¬(4 * k < 0 ∨ K.kd.scratch < (4 * k).toNat + 4) := by omega
  simp only [copyLoc, hW, Option.bind_some, hK, Option.map_some, Option.getD_some, if_neg hok, scratchLoc, copyAt]

theorem wordSpan_word (k : Int) : wordSpan (32 * k) 32 = 1 := by
  simp only [wordSpan]
  omega

/-- An element of 32 bits at a word's address is that word. -/
theorem readElem_scratch (hW : aget w.s.wgs c.wg = some W) (hK : aget w.s.grids W.grid = some K) (hin : InScratch K (4 * k))
    (side base : Nat) (wr : Bool) :
    readElem c 1 side base wr (32 * k) 32 w = (wordElem k (readWord w.s.cs (copyAt c W (4 * k))), w) := by
  have hdiv : 32 * k / 32 = k := by omega
  have hmod : (32 * k % 32).toNat = 0 := by omega
  have hbits (v : Word) : (v.val.toNat + 2 ^ 32 * 0) / 2 ^ 0 % 2 ^ 32 = v.val.toNat := by
    rw [Nat.mul_zero, Nat.add_zero, Nat.pow_zero, Nat.div_one, Nat.mod_eq_of_lt v.val.isLt]
  simp only [readElem, wordSpan_word, readSide, hdiv, hmod, copyLoc_scratch hW hK hin, scratchLoc, homeWord, List.foldr_cons,
    List.foldr_nil, hbits, List.any_cons, List.any_nil, Bool.or_false, wordElem]
  rfl

/-- An element of 32 bits written at a word's address waits as a patch of the whole word. -/
theorem writeElem_scratch (hW : aget w.s.wgs c.wg = some W) (hK : aget w.s.grids W.grid = some K) (hin : InScratch K (4 * k))
    (hstop : w.stop = none) (hnew : aget w.out k.toNat = none) (base ix : Nat) :
    writeElem c 1 base (32 * k) 32 ix e w = { w with out := aset w.out k.toNat (wordPatch c W k e) } := by
  have hdiv : 32 * k / 32 = k := by omega
  have hmod : (32 * k % 32).toNat = 0 := by omega
  have hlocs : writeLocs c 1 base k 1 w = ([scratchLoc c W k], w) := by
    simp only [writeLocs, copyLoc_scratch hW hK hin]
    rfl
  have hfull (x : W32) : x &&& 4294967295#32 = x := BitVec.and_allOnes
  simp only [writeElem, hdiv, hmod, wordSpan_word, hlocs, hstop, Option.isSome_none, Bool.false_eq_true, if_false]
  simp [scratchLoc, hnew, CPatch.over, wordPatch, hfull]

/-! ### The gathered writes -/

/-- Whole words of the workgroup's `.cs` as the gathered writes of a cart. -/
def patches (c : Copy) (W : Wg) (ws : List (Int × Elem)) : AList CPatch :=
  ws.map fun x => (x.1.toNat, wordPatch c W x.1 x.2)

/-- The words that those writes bring. -/
def words (c : Copy) (W : Wg) (ws : List (Int × Elem)) : List (Nat × Word) :=
  ws.map fun x => (copyAt c W (4 * x.1), elemWord x.2)

/-- One gathered write sent to its home. -/
def sendPatch (core : Nat) (s : State) (x : Nat × CPatch) : State :=
  let (old, s) := homeWord s core x.2.loc
  homePut s core x.2.loc [(x.2.loc.at_ / 4 % 16, wholePatch (x.2.onto old))]

theorem flush_eq (w : Work) (core : Nat) : w.flush core = { w with out := [], s := w.out.foldl (sendPatch core) w.s } := rfl

/-- A whole word is put at its home in the core scratchpad. -/
theorem sendPatch_word (core : Nat) (s : State) (c : Copy) (W : Wg) (k : Int) (e : Elem) :
    sendPatch core s (k.toNat, wordPatch c W k e) = { s with cs := writeWord s.cs (copyAt c W (4 * k)) (elemWord e) } := by
  have hat : (copyAt c W (4 * k) - copyAt c W (4 * k) % 64 + 4 * (copyAt c W (4 * k) / 4 % 16)) / 4 = copyAt c W (4 * k) / 4 := by
    omega
  rw [← wordPatch_onto c W k e (readWord s.cs (copyAt c W (4 * k)))]
  exact congrArg (fun m => { s with cs := m }) (writeWord_congr (m := s.cs) hat)

/-- The gathered writes are sent: each word at its place, and nothing else. -/
theorem flush_patches {ws : List (Int × Elem)} (hout : w.out = patches c W ws) (core : Nat) :
    w.flush core = { w with out := [], s := { w.s with cs := putAll w.s.cs (words c W ws) } } := by
  have hfold (ws : List (Int × Elem)) (s : State) :
      (patches c W ws).foldl (sendPatch core) s = { s with cs := putAll s.cs (words c W ws) } := by
    induction ws generalizing s with
    | nil => rfl
    | cons x ws ih =>
      rw [patches, List.map_cons, List.foldl_cons, sendPatch_word]
      exact ih _
  rw [flush_eq, hout, hfold]

/-- A further word behind the gathered ones. -/
theorem aset_patches {ws : List (Int × Elem)} (h : ∀ x ∈ ws, x.1.toNat < k.toNat) :
    aget (patches c W ws) k.toNat = none ∧
      aset (patches c W ws) k.toNat (wordPatch c W k e) = patches c W (ws ++ [(k, e)]) := by
  induction ws with
  | nil => exact ⟨rfl, rfl⟩
  | cons x ws ih =>
    obtain ⟨hget, hset⟩ := ih fun y hy => h y (List.mem_cons_of_mem _ hy)
    have hx : x.1.toNat < k.toNat := h x List.mem_cons_self
    have hne : x.1.toNat ≠ k.toNat := by omega
    have hle : ¬k.toNat < x.1.toNat := by omega
    refine ⟨?_, ?_⟩
    · exact (if_neg hne).trans hget
    · exact (if_neg hne).trans ((if_neg hle).trans (congrArg _ hset))

end

end Sys2Proof.Machine

end

section

/-! PROOF. Copies within the core scratchpad (O51), what moves: a row of words, a converted word, and a row that a lane names;
and what a copy of one cart comes to. -/

namespace Sys2Proof.Machine

/-! ### What a sound descriptor fixes (R167) -/

section

variable {kind : CopyKind} {mod : W16} {d : Desc}

theorem aligned_of_descError (h : descError kind mod false none d = false) (hes : elemWidth d.sf d.nfmt = 32)
    (hed : elemWidth d.df d.nfmt = 32) : d.src % 4 = 0 ∧ d.dst % 4 = 0 := by
  simp only [descError, hes, hed, Bool.or_eq_false_iff] at h
  simp_all

/-- A lane's row is a row of the whole window, from its first element (R175, R176). -/
theorem window_of_descError (hkind : kind = .gath ∨ kind = .scat) (h : descError kind mod false none d = false) :
    d.ox = 0 ∧ d.oy = 0 := by
  simp only [descError, Bool.or_eq_false_iff] at h
  rcases hkind with rfl | rfl <;> simp_all

/-- Between formats of fixed codes there are no block scales and no format record. -/
theorem plain_of_descError (h : descError .cpyc mod false none d = false) (hsf : d.sf ≠ 0x12) (hdf : d.df ≠ 0x12) :
    d.sl = 0 ∧ d.nfmt = 0 := by
  simp only [descError, Bool.or_eq_false_iff] at h
  simp_all

end

/-! ### A sound copy of words within `.cs` -/

/-- A copy of elements of 32 bits from word S of a workgroup's `.cs` to word D of it, in one row. -/
structure WordCopy (s : State) (c : Copy) (d : Desc) (W : Wg) (K : Grid) (S D : Nat) : Prop where
  wg : aget s.wgs c.wg = some W
  grid : aget s.grids W.grid = some K
  src : d.src = 4 * S
  dst : d.dst = 4 * D
  ssp : d.ssp = 1
  dsp : d.dsp = 1
  es : elemWidth d.sf d.nfmt = 32
  ed : elemWidth d.df d.nfmt = 32
  wy : d.wy = 1

section

variable {s : State} {c : Copy} {W : Wg} {K : Grid} {d : Desc} {w : Work} {S D : Nat}

/-- A fold that appends one result a step. -/
theorem foldl_range_map {α β : Type} {f : List α × β → Nat → List α × β} {g : Nat → α} {b : β} {n : Nat}
    (h : ∀ xs, ∀ j < n, f (xs, b) j = (xs ++ [g j], b)) : (List.range n).foldl f ([], b) = ((List.range n).map g, b) := by
  induction n with
  | zero => rfl
  | succ n ih =>
    rw [List.range_succ, List.foldl_append, ih fun xs j hj => h xs j (by omega), List.map_append]
    exact h _ n (Nat.lt_succ_self n)

/-- Word of the source at which column x of the window's first row lies. -/
def srcWord (d : Desc) (S : Nat) (x : Int) : Int := S + (d.oy * d.sp + x)

/-- Column x of the window's first row lies in the source (R168). -/
abbrev InSource (d : Desc) (x : Int) : Prop := 0 ≤ x ∧ x < d.sx ∧ 0 ≤ d.oy ∧ d.oy < d.sy

/-- What a copy reads for column x: the word of the source, or nothing outside it. -/
def rowElem (c : Copy) (W : Wg) (m : Mem) (d : Desc) (S : Nat) (x : Int) : Option Elem :=
  if InSource d x then some (wordElem (srcWord d S x) (readWord m (copyAt c W (4 * srcWord d S x)))) else none

/-- A row of words read. -/
theorem readRow_scratch (h : WordCopy w.s c d W K S D) (hstop : w.stop = none)
    (hin : ∀ j < d.wx, InSource d (d.ox + j) → InScratch K (4 * srcWord d S (d.ox + j))) :
    readRow c d d.src 0 w = ((List.range d.wx).map fun j : Nat => rowElem c W w.s.cs d S (d.ox + j), w) := by
  refine foldl_range_map fun xs j hj => ?_
  have hy : d.oy + (0 : Nat) = d.oy := by omega
  have hbit : 8 * (d.src : Int) + (d.oy * d.sp + (d.ox + j)) * (32 : Nat) = 32 * srcWord d S (d.ox + j) := by
    rw [h.src, srcWord]
    omega
  simp only [hstop, Option.isSome_none, Bool.false_eq_true, if_false, hy, h.es, h.ssp, hbit]
  by_cases hs : InSource d (d.ox + j)
  · simp only [if_pos hs, rowElem, readElem_scratch h.wg h.grid (hin j hj hs), hstop, Option.isSome_none, Bool.false_eq_true,
      if_false]
  · simp only [if_neg hs, rowElem]

/-- One element written at the next column of the window's first row. -/
def writeStep (c : Copy) (d : Desc) (acc : Work × Nat) (x : Elem) : Work × Nat :=
  if acc.1.stop.isSome then acc
  else (writeElem c d.dsp d.dst (8 * d.dst + (((0 : Nat) : Int) * d.dp + acc.2) * (elemWidth d.df d.nfmt : Nat))
    (elemWidth d.df d.nfmt) (0 * d.wx + acc.2) x acc.1, acc.2 + 1)

theorem writeStep_scratch (h : WordCopy s c d W K S D) (hstop : w.stop = none) (j : Nat) (x : Elem) :
    writeStep c d (w, j) x = (writeElem c 1 d.dst (32 * (D + j)) 32 (0 * d.wx + j) x w, j + 1) := by
  have hbit : 8 * (d.dst : Int) + (((0 : Nat) : Int) * d.dp + j) * (32 : Nat) = 32 * (D + j) := by
    rw [h.dst]
    omega
  simp only [writeStep, hstop, Option.isSome_none, Bool.false_eq_true, if_false, h.ed, h.dsp, hbit]

/-- A row of words written waits in the order of its columns. -/
theorem writeRow_scratch {n : Nat} {g : Nat → Elem} (h : WordCopy w.s c d W K S D) (hstop : w.stop = none)
    (hout : w.out = []) (hin : ∀ j < n, InScratch K (4 * (D + j))) :
    ((List.range n).map g).foldl (writeStep c d) (w, 0) =
      ({ w with out := patches c W ((List.range n).map fun j : Nat => (D + j, g j)) }, n) := by
  induction n with
  | zero =>
    rw [show patches c W ((List.range 0).map fun j : Nat => ((D + j : Int), g j)) = w.out from hout.symm]
    rfl
  | succ n ih =>
    obtain ⟨hget, hset⟩ := aset_patches (c := c) (W := W) (k := (D + n : Int)) (e := g n)
      (ws := (List.range n).map fun j : Nat => ((D + j : Int), g j)) fun x hx => by
        obtain ⟨j, hj, rfl⟩ := List.mem_map.mp hx
        have := List.mem_range.mp hj
        show (D + j : Int).toNat < (D + n : Int).toNat
        omega
    replace ih := ih fun j hj => hin j (by omega)
    rw [List.range_succ, List.map_append, List.foldl_append, List.map_append]
    refine Eq.trans ?_ (congrArg (fun o => (({ w with out := o } : Work), n + 1)) hset)
    generalize patches c W ((List.range n).map fun j : Nat => ((D + j : Int), g j)) = p at ih hget
    rw [ih]
    refine (writeStep_scratch (w := { w with out := p }) h hstop n (g n)).trans ?_
    rw [writeElem_scratch (w := { w with out := p }) h.wg h.grid (hin n (Nat.lt_succ_self n)) hstop hget]

/-- The elements that a row without scales writes. -/
def rowOf (c : Copy) (d : Desc) (row : List (Option Elem)) (w : Work) : List Elem × Work :=
  if c.kind == .cpyc then convRun c d none (0 * d.wx) row w else (row.map fun x => x.getD .zero, w)

/-- The first row of a window without scales: read, converted where the copy converts, written. -/
theorem moveRow_first {row : List (Option Elem)} {w1 w2 : Work} {xs : List Elem} {n : Nat} (hkind : c.kind = .cpyc → d.sl = 0)
    (hstop : w.stop = none) (hread : readRow c d d.src 0 w = (row, w)) (hconv : rowOf c d row w = (xs, w1))
    (hstop1 : w1.stop = none) (hwrite : xs.foldl (writeStep c d) (w1, 0) = (w2, n)) (hstop2 : w2.stop = none) :
    moveRow c d d.src d.dst 0 w 0 = w2 := by
  have hw : ({ w with stop := none } : Work) = w := by rw [← hstop]
  have hw2 : ({ w2 with stop := none } : Work) = w2 := by rw [← hstop2]
  have hfold : xs.foldl (fun (acc : Work × Nat) x => if acc.1.stop.isSome then acc
      else (writeElem c d.dsp d.dst (8 * d.dst + (((0 : Nat) : Int) * d.dp + acc.2) * (elemWidth d.df d.nfmt : Nat))
        (elemWidth d.df d.nfmt) (0 * d.wx + acc.2) x acc.1, acc.2 + 1)) (w1, 0) = (w2, n) := hwrite
  by_cases hc : (c.kind == .cpyc) = true
  · have hL : blockLen d.sl = 0 := by rw [hkind (by simpa using hc)]; rfl
    rw [rowOf, if_pos hc] at hconv
    simp only [moveRow, hstop, Option.isSome_none, Bool.false_eq_true, if_false, Nat.zero_testBit, hread, hw, hc, hL, hconv,
      if_true, hfold, hstop2, List.foldl_nil, hw2]
  · rw [rowOf, if_neg hc] at hconv
    obtain ⟨hxs, rfl⟩ := Prod.mk.inj hconv
    simp only [moveRow, hstop, Option.isSome_none, Bool.false_eq_true, if_false, Nat.zero_testBit, hread, hw, hc, hxs,
      hfold, hstop2, List.foldl_nil, hw2]

end

/-! ### The window of a copy (R168, R172, R174) -/

section

variable {s : State} {c : Copy} {W : Wg} {K : Grid} {d : Desc} {w : Work} {S D : Nat} {k : Cart}

/-- A window of one row that no earlier copy has moved. -/
theorem moveWindow_row (hkind : c.kind = .cpy ∨ c.kind = .cpyc) (hrs : copyRS c.mod = false) (hwy : d.wy = 1) {w' : Work}
    (hrow : moveRow c d d.src d.dst 0 w 0 = w') (hstop : w'.stop = none) : (moveWindow c none k d w).1 = w'.flush c.core := by
  have htdrain : (c.kind == .tdrain) = false := by rcases hkind with h | h <;> rw [h] <;> rfl
  have hskip : (skipOf c k).toNat = 0 := by simp [skipOf, hrs]
  simp [moveWindow, htdrain, hskip, hwy, moveRows, hrow, hstop, List.range_one]

/-- A row of cpy: every column takes the source word as it stands, or zero outside the source. -/
theorem moveRow_cpy (h : WordCopy w.s c d W K S D) (hkind : c.kind = .cpy) (hstop : w.stop = none) (hout : w.out = [])
    (hsrc : ∀ j < d.wx, InSource d (d.ox + j) → InScratch K (4 * srcWord d S (d.ox + j)))
    (hdst : ∀ j < d.wx, InScratch K (4 * (D + j))) :
    moveRow c d d.src d.dst 0 w 0 = { w with out := patches c W ((List.range d.wx).map fun j : Nat =>
      (D + j, (rowElem c W w.s.cs d S (d.ox + j)).getD .zero)) } := by
  refine moveRow_first (fun h => absurd (hkind.symm.trans h) (by decide)) hstop (readRow_scratch h hstop hsrc) ?_ hstop
    (writeRow_scratch (g := fun j => (rowElem c W w.s.cs d S (d.ox + j)).getD .zero) h hstop hout hdst) hstop
  rw [rowOf, hkind, List.map_map]
  rfl

/-! ### A converted word (R62, R64) -/

/-- Rounding to nearest into an integer does not use the seed. -/
theorem elemEnc_i32_rne (fmt : W32) (u : Nat) (v : FVal) : elemEnc 0x04 fmt 0 0 u v = elemEnc 0x04 fmt 0 0 0 v := by
  have hint (lo hi : Int) : encodeInt lo hi 0 0 u v = encodeInt lo hi 0 0 0 v := by
    cases v <;> simp only [encodeInt, roundMag_rne u]
  simp only [elemEnc, if_neg (show ¬4 = 0x12 by decide), if_neg (show ¬0x0C ≤ 4 by decide), hint]

/-- A float that rounds to an integer, to a negative one, one above every integer, and a NaN. -/
theorem elemEnc_i32_examples : ∀ x ∈ ([(0x3FC00000, 2, 0), (0xC0200000, 0xFFFFFFFE, 0), (0x4F800000, 0x7FFFFFFF, 1),
    (0x7FC00000, 0, 1)] : List (W32 × W32 × Nat)),
    elemEnc 0x04 0 0 0 0 (elemVal 0x0E 0 x.1.toNat) = (x.2.1.toNat, x.2.2 == 1) ∧ (if x.2.2 == 1 then 1 else 0) = x.2.2 := by
  decide +kernel

/-- A word converted from one fixed format to another, and the offending one noted. -/
theorem rowOf_word {v : W32} {n : Int} {code : Nat} {off : Bool} (hkind : c.kind = .cpyc) (hsf : d.sf = 0x0E) (hrm : d.rm = 0)
    (hpch : copyPch c.mod = false) (hoff : w.off = none)
    (henc : elemEnc d.df d.nfmt 0 0 (seedTop w.seed) (elemVal d.sf d.nfmt v.toNat) = (code, off)) :
    rowOf c d [some (wordElem n (gen v))] w =
      ([⟨code, false, false, 0, []⟩], { w with off := if off then some (0 * d.wx) else none }) := by
  have huntyped : untyped d.sf = false := by rw [hsf]; rfl
  have hstep : seedAdvance 0 w.seed = w.seed := rfl
  rw [rowOf, if_pos (by simp [hkind])]
  simp only [convRun, convElem, wordElem, mismatch_gen, isPoison_gen, gen_val, huntyped, hpch, hrm, hstep, henc, Bool.or_self,
    Bool.false_eq_true, if_false, Bool.not_false, Bool.and_true, hoff, firstOf, Option.none_or]
  cases off <;> rfl


/-- A window of one column, converted. -/
theorem moveRow_cpyc {v : W32} {code : Nat} {off : Bool} (h : WordCopy w.s c d W K S D) (hkind : c.kind = .cpyc)
    (hwx : d.wx = 1) (hin : InSource d 0) (hox : d.ox = 0) (hoy : d.oy = 0) (hsl : d.sl = 0) (hsf : d.sf = 0x0E) (hrm : d.rm = 0)
    (hpch : copyPch c.mod = false) (hstop : w.stop = none) (hout : w.out = []) (hoff : w.off = none)
    (hsrc : InScratch K (4 * S)) (hdst : InScratch K (4 * D)) (hold : readWord w.s.cs (copyAt c W (4 * S)) = gen v)
    (henc : elemEnc d.df d.nfmt 0 0 (seedTop w.seed) (elemVal d.sf d.nfmt v.toNat) = (code, off)) :
    moveRow c d d.src d.dst 0 w 0 = { w with
      out := patches c W [((D : Int), ⟨code, false, false, 0, []⟩)], off := if off then some (0 * d.wx) else none } := by
  have hcol (j : Nat) (hj : j < d.wx) : d.ox + j = 0 := by omega
  have hword : srcWord d S 0 = S := by rw [srcWord, hoy]; omega
  have hread : readRow c d d.src 0 w = ([some (wordElem S (gen v))], w) := by
    rw [readRow_scratch h hstop fun j hj _ => by rw [hcol j hj, hword]; exact hsrc, hwx]
    simp only [List.range_one, List.map_cons, List.map_nil, hcol 0 (by omega), rowElem, if_pos hin, hword, hold]
  have hwrite := writeRow_scratch (n := 1) (g := fun _ => ⟨code, false, false, 0, []⟩)
    (w := { w with off := if off then some (0 * d.wx) else none }) h hstop hout fun j hj => by
      rw [show (D + j : Int) = D by omega]
      exact hdst
  refine (moveRow_first (fun _ => hsl) hstop hread (rowOf_word hkind hsf hrm hpch hoff henc) hstop hwrite hstop).trans ?_
  rw [List.range_one, List.map_singleton, Nat.cast_zero, Int.add_zero]

end

end Sys2Proof.Machine

end

section

/-! PROOF. Copies within the core scratchpad (O51), rows that lanes name: one active lane of a gath or a scat. -/

namespace Sys2Proof.Machine

section

variable {s : State} {c : Copy} {W : Wg} {K : Grid} {d : Desc} {w w1 : Work} {S D l p : Nat} {k : Cart} {u : Word} {e : Elem}

/-- The first word of row r of a side whose rows lie `pitch` words apart. -/
def rowWord (base : Nat) (pitch : Int) (r : Nat) : Int := base + r * pitch

/-! ### Reading (R175, R176) -/

/-- A poisoned row index moves nothing. -/
theorem readRows_poisoned (hrows : k.rows = [(l, u)]) (hrs : copyRS c.mod = false) (hstop : w.stop = none) (hpsn : w.psn = none)
    (hu : isPoison u = true) : readRows c d k w = ([], [], { w with psn := some (l * d.wx) }) := by
  simp [readRows, hrows, hstop, skipOf, hrs, hu, hpsn, firstOf]

/-- A lane of a scat whose row lies behind the last one has nothing to write. -/
theorem readRows_beyond (hrows : k.rows = [(l, u)]) (hrs : copyRS c.mod = false) (hstop : w.stop = none)
    (hu : isPoison u = false) (hkind : c.kind = .scat) (hn : d.sy ≤ u.val.toNat) : readRows c d k w = ([], [l], w) := by
  simp [readRows, hrows, hstop, skipOf, hrs, hu, hkind, hn]

/-- A lane of a gath whose row lies behind the last one takes zero. -/
theorem readRows_zero (hrows : k.rows = [(l, u)]) (hrs : copyRS c.mod = false) (hstop : w.stop = none)
    (hu : isPoison u = false) (hkind : c.kind = .gath) (hn : d.sy ≤ u.val.toNat) (hwx : d.wx = 1) :
    readRows c d k w = ([⟨[l], l, [.zero]⟩], [], w) := by
  simp [readRows, hrows, hstop, skipOf, hrs, hu, hkind, hn, hwx]

/-- The row of a lane is read: for gath the one that it names, for scat its own. -/
theorem readRows_word (h : WordCopy w.s c d W K S D) (hrows : k.rows = [(l, u)]) (hrs : copyRS c.mod = false)
    (hstop : w.stop = none) (hu : isPoison u = false) (hn : u.val.toNat < d.sy) (hwx : d.wx = 1) {r q : Nat}
    (hkind : (c.kind = .gath ∧ r = u.val.toNat ∧ q = l) ∨ (c.kind = .scat ∧ r = l ∧ q = u.val.toNat))
    (hin : InScratch K (4 * rowWord S d.sp r)) :
    readRows c d k w =
      ([⟨[l], q, [wordElem (rowWord S d.sp r) (readWord w.s.cs (copyAt c W (4 * rowWord S d.sp r)))]⟩], [], w) := by
  have hbit : 8 * (d.src : Int) + ((r : Int) * d.sp + (0 : Nat)) * (32 : Nat) = 32 * rowWord S d.sp r := by
    rw [h.src, rowWord]
    omega
  have hread := readElem_scratch (c := c) (w := w) h.wg h.grid hin 0 d.src false
  have hlt : decide (d.sy ≤ u.val.toNat) = false := by simpa using hn
  have hrow : (if c.kind == .gath then u.val.toNat else l) = r ∧ (if c.kind == .gath then l else u.val.toNat) = q := by
    rcases hkind with ⟨hkind, rfl, rfl⟩ | ⟨hkind, rfl, rfl⟩ <;> simp [hkind]
  obtain ⟨hr, hq⟩ := hrow
  simp only [readRows, hrows, List.foldl_cons, List.foldl_nil, List.range_one, hwx, skipOf, hrs, hu, hlt, hr, hq, h.es,
    h.ssp, hbit, hread, Bool.and_false, Bool.false_eq_true, if_false, hstop]
  simp [hstop]

/-! ### Writing (R176, R177) -/

/-- A row alone at its place is not combined with another. -/
theorem mergeRows_one (hwx : d.wx = 1) (sop : Nat) : mergeRows d sop [⟨[l], p, [e]⟩] = [⟨[l], p, [e]⟩] := by
  have hcomb : combineElems sop d.sf d.nfmt [e] = e := by
    unfold combineElems
    split <;> rfl
  simp [mergeRows, hwx, hcomb, List.eraseDups, List.eraseDupsBy, List.eraseDupsBy.loop]

/-- A row stored as it is. -/
theorem applyRow_store (h : WordCopy w.s c d W K S D) (hstop : w.stop = none) (hpsn : w.psn = none) (hout : w.out = [])
    (hin : InScratch K (4 * rowWord D d.dp p)) :
    applyRow c d 0 ([], w) ⟨[l], p, [e]⟩ = ([l], { w with out := patches c W [(rowWord D d.dp p, e)] }) := by
  have hbit : 8 * (d.dst : Int) + ((p : Int) * d.dp + (0 : Nat)) * (32 : Nat) = 32 * rowWord D d.dp p := by
    rw [h.dst, rowWord]
    omega
  obtain ⟨sw, out, mis, psn, off, die, stop, seed⟩ := w
  obtain rfl : out = [] := hout
  obtain rfl : psn = none := hpsn
  obtain rfl : stop = none := hstop
  simp only [applyRow, List.foldl_cons, List.foldl_nil, List.headD_cons, h.es, h.dsp, hbit, Option.isSome_none,
    Bool.false_eq_true, if_false, if_true]
  rw [writeElem_scratch (c := c) (e := e) h.wg h.grid hin rfl rfl]
  rfl

/-- A row added to the words in place. -/
theorem applyRow_add (h : WordCopy w.s c d W K S D) (hstop : w.stop = none) (hpsn : w.psn = none) (hout : w.out = [])
    (hin : InScratch K (4 * rowWord D d.dp p)) (hsf : d.sf = 0x04) {old v : Word} {n : Int}
    (hold : readWord w.s.cs (copyAt c W (4 * rowWord D d.dp p)) = old) (hpo : isPoison old = false) (hpv : isPoison v = false) :
    applyRow c d 1 ([], w) ⟨[l], p, [wordElem n v]⟩ = ([l], { w with s := { w.s with
      cs := putAll w.s.cs (words c W [(rowWord D d.dp p, ⟨(old.val + v.val).toNat, false, false, 0, []⟩)]) } }) := by
  have hbit : 8 * (d.dst : Int) + ((p : Int) * d.dp + (0 : Nat)) * (32 : Nat) = 32 * rowWord D d.dp p := by
    rw [h.dst, rowWord]
    omega
  have hcomb : combineElem 1 d.sf d.nfmt (wordElem (rowWord D d.dp p) old) (wordElem n v) =
      ⟨(old.val + v.val).toNat, false, false, 0, []⟩ := by
    rw [hsf]
    simp [combineElem, combine, wordElem, hpo, hpv, elemWidth, BitVec.toNat_add]
  obtain ⟨sw, out, mis, psn, off, die, stop, seed⟩ := w
  obtain rfl : out = [] := hout
  obtain rfl : psn = none := hpsn
  obtain rfl : stop = none := hstop
  simp only [applyRow, List.foldl_cons, List.foldl_nil, List.headD_cons, h.es, h.dsp, hbit, Option.isSome_none,
    Bool.false_eq_true, if_false, one_ne_zero]
  rw [readElem_scratch (c := c) h.wg h.grid hin]
  simp only [hold, hcomb]
  rw [writeElem_scratch (c := c) h.wg h.grid hin rfl rfl]
  let sum : List (Int × Elem) := [(rowWord D d.dp p, ⟨(old.val + v.val).toNat, false, false, 0, []⟩)]
  have hsent := flush_patches (w := ⟨sw, patches c W sum, mis, none, off, die, none, seed⟩) rfl c.core
  rw [← hsent]
  rfl


/-! ### A cart of one lane -/

/-- A lane that names no row to move. -/
theorem moveLanes_none {done : List Nat} (hread : readRows c d k w = ([], done, w1)) (hstop : w1.stop = none)
    (hout : w1.out = []) : (moveLanes c k d w).1 = w1 := by
  have hmerge (sop : Nat) : mergeRows d sop [] = [] := rfl
  obtain ⟨s1, out, mis, psn, off, die, stop, seed⟩ := w1
  obtain rfl : out = [] := hout
  obtain rfl : stop = none := hstop
  simp only [moveLanes, hread, hmerge, ite_self, List.foldl_nil]
  rfl

/-- A lane's row of one element is applied once it is read. -/
theorem moveLanes_one {ok : List Nat} {w2 : Work} {sop : Nat} (hsop : (if c.kind == .scat then copySop c.mod else 0) = sop)
    (hread : readRows c d k w = ([⟨[l], p, [e]⟩], [], w)) (hwx : d.wx = 1) (hstop : w.stop = none)
    (happly : applyRow c d sop ([], w) ⟨[l], p, [e]⟩ = (ok, w2)) (hstop2 : w2.stop = none) :
    (moveLanes c k d w).1 = w2.flush c.core := by
  have hw : ({ w with stop := none } : Work) = w := by rw [← hstop]
  have hw2 : ({ w2 with stop := none } : Work) = w2 := by rw [← hstop2]
  simp only [moveLanes, hread, hsop, mergeRows_one hwx, ite_self, hw, List.foldl_cons, List.foldl_nil, happly, hstop, hstop2,
    Option.isSome_none, Bool.false_eq_true, hw2]

end

end Sys2Proof.Machine

end

section

/-! PROOF. Copies within the core scratchpad (O51), what a copy of one cart comes to, and the steps in which copies end. -/

namespace Sys2Proof.Machine

section

variable {s s1 : State} {c : Copy} {W : Wg} {K : Grid} {d : Desc} {k : Cart} {r : CopyResult} {ws : List (Int × Elem)}

/-! ### A copy of one cart (R169, R173) -/

/-- A cart at its start. -/
def startWork (s : State) (k : Cart) : Work := ⟨s, [], none, none, none, none, none, k.seed⟩

/-- What the data movement of a cart without a tile comes to. -/
def cartWork (s : State) (c : Copy) (k : Cart) : Work :=
  (if c.kind == .gath || c.kind == .scat then moveLanes { c with sup := k.sup } k (descOf k.desc) (startWork s k)
   else moveWindow { c with sup := k.sup } none k (descOf k.desc) (startWork s k)).1

/-- The only cart of a copy is the one that moves. -/
theorem carts_one (hcarts : c.carts = [k]) (hdesc : k.desc ≠ []) :
    (c.carts.filter fun k => !k.desc.isEmpty).foldr insertCart [] = [k] := by
  have hsome : (!k.desc.isEmpty) = true := by simpa using hdesc
  simp only [hcarts, List.filter_cons, hsome, if_true, List.filter_nil, List.foldr_cons, List.foldr_nil, insertCart]

/-- A cart whose descriptor is in error moves nothing (R167). -/
theorem runCopy_descError (hcarts : c.carts = [k]) (hdesc : k.desc ≠ []) (hacq : copyAcq c.mod = false)
    (herr : descError c.kind c.mod (c.tile.getLsbD 7 && c.kind != .cpys && c.kind != .gath && c.kind != .scat) (copyTile s c)
      (descOf k.desc) = true) :
    (runCopy s c).1 = s ∧ (runCopy s c).2.st = 2 ∧ (runCopy s c).2.stopped = false := by
  simp only [runCopy, hacq, Bool.false_eq_true, if_false, carts_one hcarts hdesc, List.map_cons, List.map_nil, List.filter_cons,
    List.filter_nil, herr, if_true, List.isEmpty_cons, Bool.not_false]
  exact ⟨trivial, rfl, trivial⟩

/-- A sound cart alone in its copy: the state that its movement leaves, and the first of its conditions. -/
theorem runCopy_cart (hs : ScratchCopy s c k W K) : (runCopy s c).1 = (cartWork s c k).s ∧
    (runCopy s c).2.st = (chooseCond (condsOf k.idx (cartWork s c k))).1 ∧
    (runCopy s c).2.stopped = (decide ((runCopy s c).2.st = 3) || decide ((runCopy s c).2.st = 4)) := by
  obtain ⟨hcarts, hdesc, htile, hacq, hrs, hW, hK, herr, -⟩ := hs
  have hnone : copyTile s c = none := by rw [copyTile, htile]; rfl
  simp only [runCopy, hacq, Bool.false_eq_true, if_false, carts_one hcarts hdesc, List.map_cons, List.map_nil, List.filter_cons,
    List.filter_nil, hnone, htile, Bool.false_and, herr, List.isEmpty_nil, Bool.not_true, List.foldl_cons, List.foldl_nil,
    List.nil_append, cartWork, startWork, and_self]

/-- The descriptor of a sound copy of words within `.cs`, in words. -/
theorem wordCopy_of (hs : ScratchCopy s c k W K) :
    ∃ S D, WordCopy s { c with sup := k.sup } (descOf k.desc) W K S D := by
  obtain ⟨-, -, -, -, -, hW, hK, herr, hssp, hdsp, hes, hed, hwy, -⟩ := hs
  obtain ⟨hsrc, hdst⟩ := aligned_of_descError herr hes hed
  exact ⟨(descOf k.desc).src / 4, (descOf k.desc).dst / 4, hW, hK, by omega, by omega, hssp, hdsp, hes, hed, hwy⟩

/-- A copy that puts words into `.cs` and changes nothing else, with its status. -/
def Moves (s : State) (c : Copy) (W : Wg) (st : Nat) (ws : List (Int × Elem)) : Prop :=
  (runCopy s c).1 = { s with cs := putAll s.cs (words c W ws) } ∧ (runCopy s c).2.st = st ∧ (runCopy s c).2.stopped = false

/-- What the words that a cart puts without a failure come to, by whether an element was refused or offending. -/
theorem moves_of_work {psn off : Option Nat} (hs : ScratchCopy s c k W K) (hw : cartWork s c k =
      { startWork s k with s := { s with cs := putAll s.cs (words c W ws) }, psn := psn, off := off }) :
    Moves s c W (if psn.isSome then 5 else if off.isSome then 1 else 0) ws := by
  obtain ⟨hstate, hst, hstop⟩ := runCopy_cart hs
  have hcode : (runCopy s c).2.st = if psn.isSome then 5 else if off.isSome then 1 else 0 := by
    rw [hst, hw]
    cases psn <;> cases off <;> rfl
  refine ⟨by rw [hstate, hw], hcode, ?_⟩
  rw [hstop, hcode]
  cases psn <;> cases off <;> rfl

/-! ### The words moved -/

theorem copyAt_div {x : Int} (c : Copy) (W : Wg) (h : 0 ≤ x) :
    copyAt c W (4 * x) / 4 = (c.core * 2 ^ 18 + W.csBase) / 4 + x.toNat := by
  rw [copyAt]
  omega

/-- After the copy, word n of the workgroup's `.cs`. -/
abbrev HoldsAt (s : State) (c : Copy) (W : Wg) (n : Int) (v : Word) : Prop := readWord (runCopy s c).1.cs (copyAt c W n) = v

/-- The copy changes no word but some of the workgroup's `.cs`, and nothing else. -/
abbrev LeavesOthers (s : State) (c : Copy) (W : Wg) (ns : List Int) : Prop :=
  { (runCopy s c).1 with cs := s.cs } = s ∧
    ∀ a, (∀ n ∈ ns, a / 4 ≠ copyAt c W n / 4) → readWord (runCopy s c).1.cs a = readWord s.cs a

/-- A word that the copy puts is read back. -/
theorem Moves.holds {st : Nat} (h : Moves s c W st ws) (hwf : Memory.wf s.cs = true) (hpos : ∀ x ∈ ws, 0 ≤ x.1)
    (hd : ws.Pairwise fun x y => x.1 ≠ y.1) {x : Int × Elem} (hx : x ∈ ws) :
    HoldsAt s c W (4 * x.1) (elemWord x.2) := by
  obtain ⟨hstate, -⟩ := h
  rw [HoldsAt, hstate]
  refine readWord_putAll_mem hwf ?_ (List.mem_map_of_mem (f := fun x : Int × Elem => (copyAt c W (4 * x.1), elemWord x.2)) hx)
  refine List.pairwise_map.mpr (hd.imp_of_mem fun {x y} hx hy hne => ?_)
  have hx0 := hpos x hx
  have hy0 := hpos y hy
  show copyAt c W (4 * x.1) / 4 ≠ copyAt c W (4 * y.1) / 4
  rw [copyAt_div c W hx0, copyAt_div c W hy0]
  omega

/-- No other word changes, and nothing else. -/
theorem Moves.others {st : Nat} (h : Moves s c W st ws) (hwf : Memory.wf s.cs = true) {ns : List Int}
    (hns : ∀ x ∈ ws, 4 * x.1 ∈ ns) : LeavesOthers s c W ns := by
  obtain ⟨hstate, -⟩ := h
  rw [LeavesOthers, hstate]
  refine ⟨rfl, fun a ha => readWord_putAll_other hwf fun x hx => ?_⟩
  obtain ⟨y, hy, rfl⟩ := List.mem_map.mp hx
  exact ha _ (hns y hy)

/-- A single word that a copy puts. -/
theorem Moves.one {st : Nat} {x n : Int} {e : Elem} {v : Word} (h : Moves s c W st [(x, e)]) (hwf : Memory.wf s.cs = true)
    (hin : InScratch K n) (hn : 4 * x = n) (hv : elemWord e = v) :
    (runCopy s c).2.st = st ∧ (runCopy s c).2.stopped = false ∧ LeavesOthers s c W [n] ∧ HoldsAt s c W n v := by
  obtain ⟨h0, -⟩ := hin
  obtain ⟨-, hst, hstop⟩ := id h
  subst hn
  have hword := h.holds hwf (fun y hy => by rw [List.mem_singleton.mp hy]; omega) (List.pairwise_singleton ..)
    (List.mem_singleton.mpr rfl)
  exact ⟨hst, hstop, h.others hwf fun y hy => List.mem_singleton.mpr (by rw [List.mem_singleton.mp hy]), hword.trans hv⟩

/-! ### The kinds of copies -/

theorem bytes_srcWord {S : Nat} (h : d.src = 4 * S) (x : Int) : 4 * srcWord d S x = d.src + 4 * (d.oy * d.sp + x) := by
  rw [h, srcWord]
  omega

theorem bytes_rowWord {S n : Nat} (h : n = 4 * S) (p : Int) (r : Nat) : 4 * rowWord S p r = n + 4 * (r * p) := by
  rw [h, rowWord]
  omega

/-- The first row of a window that is moved without a failure. -/
theorem moves_window {off : Option Nat} (hs : ScratchCopy s c k W K) (hkind : c.kind = .cpy ∨ c.kind = .cpyc)
    (hrow : moveRow { c with sup := k.sup } (descOf k.desc) (descOf k.desc).src (descOf k.desc).dst 0 (startWork s k) 0 =
      { startWork s k with out := patches c W ws, off := off }) :
    Moves s c W (if off.isSome then 1 else 0) ws := by
  obtain ⟨-, -, -, -, hrs, -, -, -, -, -, -, -, hwy, -⟩ := id hs
  have hlanes : (c.kind == .gath || c.kind == .scat) = false := by rcases hkind with h | h <;> rw [h] <;> rfl
  refine moves_of_work (psn := none) hs ?_
  rw [cartWork, hlanes, if_neg Bool.false_ne_true]
  exact (moveWindow_row (c := { c with sup := k.sup }) hkind hrs hwy hrow rfl).trans (flush_patches (W := W) (c := c) rfl _)

/-- cpy of a row (R168, R172). -/
theorem moves_cpy {S D : Nat} (hs : ScratchCopy s c k W K) (hkind : c.kind = .cpy)
    (hd : WordCopy s { c with sup := k.sup } (descOf k.desc) W K S D)
    (hsrc : ∀ j < (descOf k.desc).wx, InSource (descOf k.desc) ((descOf k.desc).ox + j) →
      InScratch K (4 * srcWord (descOf k.desc) S ((descOf k.desc).ox + j)))
    (hdst : ∀ j < (descOf k.desc).wx, InScratch K (4 * (D + j))) :
    Moves s c W 0 ((List.range (descOf k.desc).wx).map fun j : Nat =>
      (D + j, (rowElem c W s.cs (descOf k.desc) S ((descOf k.desc).ox + j)).getD .zero)) :=
  moves_window (off := none) hs (.inl hkind) (moveRow_cpy (w := startWork s k) hd hkind rfl rfl hsrc hdst)

/-- cpyc of a word between two formats of 32 bits (R64, R174). -/
theorem moves_cpyc {S D code : Nat} {off : Bool} {v : W32} (hs : ScratchCopy s c k W K) (hkind : c.kind = .cpyc)
    (hd : WordCopy s { c with sup := k.sup } (descOf k.desc) W K S D) (hwx : (descOf k.desc).wx = 1)
    (hin : InSource (descOf k.desc) 0) (hox : (descOf k.desc).ox = 0) (hoy : (descOf k.desc).oy = 0)
    (hsf : (descOf k.desc).sf = 0x0E) (hdf : (descOf k.desc).df = 0x04) (hrm : (descOf k.desc).rm = 0)
    (hpch : copyPch c.mod = false) (hsrc : InScratch K (4 * S)) (hdst : InScratch K (4 * D))
    (hold : readWord s.cs (copyAt c W (4 * S)) = gen v)
    (henc : elemEnc 0x04 0 0 0 0 (elemVal 0x0E 0 v.toNat) = (code, off)) :
    Moves s c W (if off then 1 else 0) [((D : Int), ⟨code, false, false, 0, []⟩)] := by
  obtain ⟨-, -, -, -, -, -, -, herr, -⟩ := id hs
  rw [hkind] at herr
  obtain ⟨hsl, hnfmt⟩ := plain_of_descError herr (by rw [hsf]; decide) (by rw [hdf]; decide)
  have henc' : elemEnc (descOf k.desc).df (descOf k.desc).nfmt 0 0 (seedTop k.seed)
      (elemVal (descOf k.desc).sf (descOf k.desc).nfmt v.toNat) = (code, off) := by
    rw [hdf, hsf, hnfmt, elemEnc_i32_rne]
    exact henc
  have hmoves := moves_window hs (.inr hkind) (moveRow_cpyc (w := startWork s k) hd hkind hwx hin hox hoy hsl hsf hrm hpch
    rfl rfl rfl hsrc hdst hold henc')
  cases off <;> exact hmoves

/-- A lane whose row index is poisoned, and one of a scat whose row lies behind the last, move nothing (R175, R176). -/
theorem moves_nothing {l : Nat} {u : Word} (hs : ScratchCopy s c k W K) (hkind : c.kind = .gath ∨ c.kind = .scat)
    (hrows : k.rows = [(l, u)]) :
    (isPoison u = true → Moves s c W 5 []) ∧
      (isPoison u = false → c.kind = .scat → (descOf k.desc).sy ≤ u.val.toNat → Moves s c W 0 []) := by
  obtain ⟨-, -, -, -, hrs, -⟩ := id hs
  have hlanes : (c.kind == .gath || c.kind == .scat) = true := by rcases hkind with h | h <;> rw [h] <;> rfl
  refine ⟨fun hu => ?_, fun hu hscat hn => ?_⟩
  · refine moves_of_work (psn := some (l * (descOf k.desc).wx)) (off := none) hs ?_
    rw [cartWork, hlanes, if_pos rfl]
    exact moveLanes_none (readRows_poisoned (c := { c with sup := k.sup }) (w := startWork s k) hrows hrs rfl rfl hu) rfl rfl
  · refine moves_of_work (psn := none) (off := none) hs ?_
    rw [cartWork, hlanes, if_pos rfl]
    exact moveLanes_none (readRows_beyond (c := { c with sup := k.sup }) (w := startWork s k) hrows hrs rfl hu hscat hn) rfl rfl

/-- A lane's word that is read and then put as it is, or added to the word in place. -/
theorem moves_lane {l p S D : Nat} {e e' : Elem} (hs : ScratchCopy s c k W K) (hkind : c.kind = .gath ∨ c.kind = .scat)
    (hd : WordCopy s { c with sup := k.sup } (descOf k.desc) W K S D) (hwx : (descOf k.desc).wx = 1)
    (hread : readRows { c with sup := k.sup } (descOf k.desc) k (startWork s k) = ([⟨[l], p, [e]⟩], [], startWork s k))
    (hin : InScratch K (4 * rowWord D (descOf k.desc).dp p))
    (hput : (e' = e ∧ (if c.kind == .scat then copySop c.mod else 0) = 0) ∨
      ∃ n old v, e = wordElem n v ∧ e' = ⟨(old.val + v.val).toNat, false, false, 0, []⟩ ∧ (descOf k.desc).sf = 0x04 ∧
        (if c.kind == .scat then copySop c.mod else 0) = 1 ∧
        readWord s.cs (copyAt c W (4 * rowWord D (descOf k.desc).dp p)) = old ∧ isPoison old = false ∧ isPoison v = false) :
    Moves s c W 0 [(rowWord D (descOf k.desc).dp p, e')] := by
  have hlanes : (c.kind == .gath || c.kind == .scat) = true := by rcases hkind with h | h <;> rw [h] <;> rfl
  refine moves_of_work (psn := none) (off := none) hs ?_
  rw [cartWork, hlanes, if_pos rfl]
  rcases hput with ⟨rfl, hsop⟩ | ⟨n, old, v, rfl, rfl, hsf, hsop, hold, hpo, hpv⟩
  · exact (moveLanes_one (c := { c with sup := k.sup }) hsop hread hwx rfl
      (applyRow_store (w := startWork s k) hd rfl rfl rfl hin) rfl).trans (flush_patches (W := W) (c := c) rfl _)
  · exact (moveLanes_one (c := { c with sup := k.sup }) hsop hread hwx rfl
      (applyRow_add (w := startWork s k) hd rfl rfl rfl hin hsf hold hpo hpv) rfl)


/-! ### What the copies do, in bytes -/

theorem wf_of_scratchCopy (hs : ScratchCopy s c k W K) : Memory.wf s.cs = true := by
  obtain ⟨-, -, -, -, -, -, -, -, -, -, -, -, -, hmem⟩ := hs
  simp_all [Memory.allWf, mems]

theorem runCopy_cpy (hs : ScratchCopy s c k W K) (hdesc : descOf k.desc = d) (hkind : c.kind = .cpy)
    (hin : ∀ j < d.wx, InScratch K (d.dst + 4 * j) ∧
      (InSource d (d.ox + j) → InScratch K (d.src + 4 * (d.oy * d.sp + (d.ox + j))))) :
    (runCopy s c).2.st = 0 ∧ (runCopy s c).2.stopped = false ∧
      LeavesOthers s c W ((List.range d.wx).map fun j : Nat => (d.dst + 4 * j : Int)) ∧
      ∀ j < d.wx, (InSource d (d.ox + j) →
          HoldsAt s c W (d.dst + 4 * j) (readWord s.cs (copyAt c W (d.src + 4 * (d.oy * d.sp + (d.ox + j)))))) ∧
        (¬InSource d (d.ox + j) → HoldsAt s c W (d.dst + 4 * j) (gen 0)) := by
  subst hdesc
  obtain ⟨S, D, hd⟩ := wordCopy_of hs
  have hcs := wf_of_scratchCopy hs
  have hdst (j : Nat) : 4 * ((D : Int) + j) = (descOf k.desc).dst + 4 * j := by
    rw [hd.dst]
    omega
  have hm := moves_cpy hs hkind hd (fun j hj hi => by rw [bytes_srcWord hd.src]; exact (hin j hj).2 hi)
    fun j hj => by rw [hdst]; exact (hin j hj).1
  obtain ⟨-, hst, hstop⟩ := id hm
  refine ⟨hst, hstop, hm.others hcs fun x hx => ?_, fun j hj => ?_⟩
  · obtain ⟨j, hj, rfl⟩ := List.mem_map.mp hx
    rw [hdst]
    exact List.mem_map_of_mem (f := fun j : Nat => ((descOf k.desc).dst + 4 * j : Int)) hj
  · have hword := hm.holds hcs
      (fun x hx => by
        obtain ⟨i, -, rfl⟩ := List.mem_map.mp hx
        show 0 ≤ (D + i : Int)
        omega)
      (List.pairwise_map.mpr (List.pairwise_lt_range.imp fun {i j} hij => by
        show (D + i : Int) ≠ D + j
        omega))
      (List.mem_map_of_mem (List.mem_range.mpr hj))
    rw [hdst] at hword
    refine ⟨fun hi => ?_, fun hi => ?_⟩
    · rw [rowElem, if_pos hi, bytes_srcWord hd.src] at hword
      exact hword
    · rw [rowElem, if_neg hi] at hword
      exact hword

theorem runCopy_cpyc {v : W32} {code : W32} {off : Bool} (hs : ScratchCopy s c k W K) (hdesc : descOf k.desc = d)
    (hkind : c.kind = .cpyc) (hwx : d.wx = 1) (hox : d.ox = 0) (hoy : d.oy = 0) (hsx : 1 ≤ d.sx) (hsy : 1 ≤ d.sy)
    (hsf : d.sf = 0x0E) (hdf : d.df = 0x04) (hrm : d.rm = 0) (hpch : copyPch c.mod = false) (hsrc : InScratch K d.src)
    (hdst : InScratch K d.dst) (hold : readWord s.cs (copyAt c W d.src) = gen v)
    (henc : elemEnc 0x04 0 0 0 0 (elemVal 0x0E 0 v.toNat) = (code.toNat, off)) :
    (runCopy s c).2.st = (if off then 1 else 0) ∧ (runCopy s c).2.stopped = false ∧ LeavesOthers s c W [(d.dst : Int)] ∧
      HoldsAt s c W d.dst (gen code) := by
  subst hdesc
  obtain ⟨S, D, hd⟩ := wordCopy_of hs
  have hS : ((descOf k.desc).src : Int) = 4 * S := by rw [hd.src]; omega
  have hD : ((descOf k.desc).dst : Int) = 4 * D := by rw [hd.dst]; omega
  rw [hS] at hsrc hold
  have hm := moves_cpyc hs hkind hd hwx ⟨by omega, by omega, by omega, by omega⟩ hox hoy hsf hdf hrm hpch hsrc (hD ▸ hdst) hold
    henc
  exact hm.one (wf_of_scratchCopy hs) hdst hD.symm (elemWord_bits code)

theorem runCopy_gath {l : Nat} {u : Word} (hs : ScratchCopy s c k W K) (hdesc : descOf k.desc = d)
    (hrows : k.rows = [(l, u)]) (hwx : d.wx = 1) (hu : isPoison u = false) (hkind : c.kind = .gath)
    (hdst : InScratch K (d.dst + 4 * (l * d.dp)))
    (hsrc : u.val.toNat < d.sy → InScratch K (d.src + 4 * (u.val.toNat * d.sp))) :
    (runCopy s c).2.st = 0 ∧ (runCopy s c).2.stopped = false ∧ LeavesOthers s c W [d.dst + 4 * (l * d.dp)] ∧
      HoldsAt s c W (d.dst + 4 * (l * d.dp))
        (if u.val.toNat < d.sy then readWord s.cs (copyAt c W (d.src + 4 * (u.val.toNat * d.sp))) else gen 0) := by
  subst hdesc
  obtain ⟨S, D, hd⟩ := wordCopy_of hs
  obtain ⟨-, -, -, -, hrs, -⟩ := id hs
  have hput : (if c.kind == .scat then copySop c.mod else 0) = 0 := by rw [hkind]; rfl
  rw [← bytes_rowWord hd.dst] at hdst
  by_cases hn : u.val.toNat < (descOf k.desc).sy
  · have hin := hsrc hn
    rw [← bytes_rowWord hd.src] at hin
    have hm := moves_lane hs (.inl hkind) hd hwx (readRows_word (w := startWork s k) hd hrows hrs rfl hu hn hwx
      (.inl ⟨hkind, rfl, rfl⟩) hin) hdst (.inl ⟨rfl, hput⟩)
    rw [if_pos hn, ← bytes_rowWord hd.dst, ← bytes_rowWord hd.src]
    exact hm.one (wf_of_scratchCopy hs) hdst rfl rfl
  · have hm := moves_lane hs (.inl hkind) hd hwx (readRows_zero (c := { c with sup := k.sup }) (w := startWork s k)
      hrows hrs rfl hu hkind (Nat.not_lt.mp hn) hwx) hdst (.inl ⟨rfl, hput⟩)
    rw [if_neg hn, ← bytes_rowWord hd.dst]
    exact hm.one (wf_of_scratchCopy hs) hdst rfl rfl

theorem runCopy_scat {l : Nat} {u : Word} (hs : ScratchCopy s c k W K) (hdesc : descOf k.desc = d)
    (hrows : k.rows = [(l, u)]) (hwx : d.wx = 1) (hu : isPoison u = false) (hkind : c.kind = .scat) (hn : u.val.toNat < d.sy)
    (hsrc : InScratch K (d.src + 4 * (l * d.sp))) (hdst : InScratch K (d.dst + 4 * (u.val.toNat * d.dp))) {old v w : Word}
    (hv : readWord s.cs (copyAt c W (d.src + 4 * (l * d.sp))) = v)
    (hold : readWord s.cs (copyAt c W (d.dst + 4 * (u.val.toNat * d.dp))) = old)
    (hw : (copySop c.mod = 0 ∧ w = v) ∨ (copySop c.mod = 1 ∧ d.sf = 0x04 ∧ isPoison old = false ∧ isPoison v = false ∧
      w = gen (old.val + v.val))) :
    (runCopy s c).2.st = 0 ∧ (runCopy s c).2.stopped = false ∧ LeavesOthers s c W [d.dst + 4 * (u.val.toNat * d.dp)] ∧
      HoldsAt s c W (d.dst + 4 * (u.val.toNat * d.dp)) w := by
  subst hdesc
  obtain ⟨S, D, hd⟩ := wordCopy_of hs
  obtain ⟨-, -, -, -, hrs, -⟩ := id hs
  have hsop : (if c.kind == .scat then copySop c.mod else 0) = copySop c.mod := by rw [hkind]; rfl
  rw [← bytes_rowWord hd.dst] at hdst hold
  rw [← bytes_rowWord hd.src] at hsrc hv
  have hread := readRows_word (w := startWork s k) hd hrows hrs rfl hu hn hwx (.inr ⟨hkind, rfl, rfl⟩) hsrc
  subst hv
  rw [← bytes_rowWord hd.dst]
  rcases hw with ⟨h0, rfl⟩ | ⟨h1, hsf, hpo, hpv, rfl⟩
  · have hm := moves_lane hs (.inr hkind) hd hwx hread hdst (.inl ⟨rfl, hsop.trans h0⟩)
    exact hm.one (wf_of_scratchCopy hs) hdst rfl rfl
  · have hm := moves_lane hs (.inr hkind) hd hwx hread hdst
      (.inr ⟨_, old, _, rfl, rfl, hsf, hsop.trans h1, hold, hpo, hpv⟩)
    exact hm.one (wf_of_scratchCopy hs) hdst rfl (elemWord_bits _)

/-- A copy that puts no word leaves everything. -/
theorem Moves.nothing {st : Nat} (hs : ScratchCopy s c k W K) (h : Moves s c W st []) :
    (runCopy s c).2.st = st ∧ (runCopy s c).2.stopped = false ∧ LeavesOthers s c W [] := by
  obtain ⟨-, hst, hstop⟩ := id h
  exact ⟨hst, hstop, h.others (wf_of_scratchCopy hs) fun x hx => absurd hx List.not_mem_nil⟩

end

/-! ### The end of a copy (R169, R170, R173, R178) -/

section

variable {s s1 : State} {c : Copy} {r : CopyResult} {id : Nat}

/-- A copy ends as its data movement came out, and stays under the step for the other outcome. -/
theorem endCopy_run (hfind : findCopy s id = some c) (hready : copyReady s c = true) (hkind : c.kind ≠ .cpys)
    (hrun : runCopy s c = (s1, r)) (stop : Bool) : endCopy stop id s = if r.stopped == stop then finishCopy s1 c r else s := by
  have hk : (c.kind == .cpys) = false := beq_false_of_ne hkind
  simp only [endCopy, hfind, hready, hk, hrun, Bool.not_true, Bool.false_eq_true, if_false]

/-- cpys ends as its movement came out when its sources had been read. -/
theorem endCopy_cpys (hfind : findCopy s id = some c) (hready : copyReady s c = true) (hkind : c.kind = .cpys)
    (hdone : c.srcDone = true) (hres : c.result = some r) (stop : Bool) :
    endCopy stop id s = if r.stopped == stop then finishCopy s c r else s := by
  have hk : (c.kind == .cpys) = true := by rw [hkind]; rfl
  simp only [endCopy, hfind, hready, hk, hdone, hres, Bool.not_true, Bool.true_and, Bool.false_eq_true, if_false, if_true]

/-- The two steps that may end a copy. -/
theorem exec_ends {s' : State} (h : ∀ stop, endCopy stop id s = if r.stopped == stop then s' else s) :
    exec (.copyCompletion id) s = .next (if r.stopped then s else s') ∧
      exec (.copyStop id) s = .next (if r.stopped then s' else s) := by
  show Host.Outcome.next (endCopy false id s) = _ ∧ Host.Outcome.next (endCopy true id s) = _
  rw [h, h]
  cases r.stopped <;> exact ⟨rfl, rfl⟩

theorem copies_landStatus (second : Bool) (w0 w1 : Word) : (landStatus s c second w0 w1).copies = s.copies := by
  unfold landStatus
  induction c.carts generalizing s with
  | nil => rfl
  | cons k ks ih => exact ih.trans rfl

theorem findCopy_modCopy {F : Copy → Copy} (hF : ∀ x, (F x).id = x.id) :
    findCopy (modCopy s id F) id = (findCopy s id).map F := by
  have hid (x : Copy) : ((if x.id == id then F x else x).id == id) = (x.id == id) := by split <;> simp [hF]
  rw [findCopy, modCopy, List.find?_map, findCopy]
  rw [show ((fun c : Copy => c.id == id) ∘ fun x => if x.id == id then F x else x) = fun c => c.id == id from funext hid]
  cases hx : s.copies.find? fun c => c.id == id with
  | none => rfl
  | some x => exact congrArg some (if_pos (List.find?_some hx))

/-- cpys reports its sources first, and holds what its movement came to. -/
theorem exec_sourceReadDone (hfind : findCopy s id = some c) (hready : copyReady s c = true) (hkind : c.kind = .cpys)
    (hdone : c.srcDone = false) (hrun : runCopy s c = (s1, r)) : ∃ s', exec (.cpysSourceReadDone id) s = .next s' ∧
      (findCopy s' id).map (fun x => (x.srcDone, x.result)) = (findCopy s1 id).map fun _ => (true, some r) := by
  have hk : (c.kind == .cpys && copyReady s c && !c.srcDone) = true := by rw [hkind, hready, hdone]; rfl
  refine ⟨_, congrArg Host.Outcome.next (by simp only [hfind, hk, if_true, hrun]; rfl), ?_⟩
  rw [findCopy_modCopy (F := fun c => { c with srcDone := true, result := some r }) fun _ => rfl, findCopy,
    copies_landStatus, ← findCopy, Option.map_map]
  rfl

end

end Sys2Proof.Machine

namespace Sys2Proof

open Machine in
/-- Settles O51: the steps that end a copy by what its movement came to, and each kind of movement by the words that it puts
(`Moves`). -/
theorem copyEvents : Obligations.CopyEvents := by
  unfold Obligations.CopyEvents
  intro s s1 id c r hfind hready
  refine ⟨fun hkind hrun => exec_ends (endCopy_run hfind hready hkind hrun),
    fun hkind hdone hrun => exec_sourceReadDone hfind hready hkind hdone hrun,
    fun hkind hdone hres => exec_ends (endCopy_cpys hfind hready hkind hdone hres),
    fun k hcarts hdesc hacq herr => runCopy_descError hcarts hdesc hacq herr, fun _ => ⟨rfl, fun h => ?_⟩,
    fun k W K hs hrun => ?_⟩
  · rw [statusWords, if_pos h]
    rfl
  · obtain ⟨rfl, rfl⟩ : (runCopy s c).1 = s1 ∧ (runCopy s c).2 = r := by rw [hrun]; exact ⟨rfl, rfl⟩
    refine ⟨?_, ?_, ?_⟩
    · intro hkind src dst inside hin
      exact runCopy_cpy hs rfl hkind hin
    · intro hkind hwx hox hoy hsx hsy hsf hdf hrm hpch hsrc hdst x hx hold
      obtain ⟨henc, hcode⟩ := elemEnc_i32_examples x hx
      obtain ⟨hst, hstop, hothers, hword⟩ :=
        runCopy_cpyc hs rfl hkind hwx hox hoy hsx hsy hsf hdf hrm hpch hsrc hdst hold henc
      exact ⟨hst.trans hcode, hstop, hword, hothers⟩
    · intro l u hrows hl hwx src dst n
      refine ⟨fun hu hkind => ((moves_nothing hs hkind hrows).1 hu).nothing hs, fun hu hkind hdst hsrc => ?_,
        fun hu hkind hn => ((moves_nothing hs (.inr hkind) hrows).2 hu hkind hn).nothing hs,
        fun hu hkind hn hsrc hdst => ⟨fun hsop => ?_, fun hsop hsf hpv hpo => ?_⟩⟩
      · exact runCopy_gath hs rfl hrows hwx hu hkind hdst hsrc
      · exact runCopy_scat hs rfl hrows hwx hu hkind hn hsrc hdst rfl rfl (.inl ⟨hsop, rfl⟩)
      · exact runCopy_scat hs rfl hrows hwx hu hkind hn hsrc hdst rfl rfl (.inr ⟨hsop, hsf, hpo, hpv, rfl⟩)

end Sys2Proof

end
